-- ==== Sys2Proof/Word.lean ====
section
/-! DEFINITION. The word types and the plainest list map of the model (R1 to R10, R24). -/
namespace Sys2Proof

/-- One byte of memory. -/
abbrev Byte := BitVec 8
/-- A 32-bit register word. -/
abbrev Word := BitVec 32
/-- A 64-bit operand, held in an even-odd pair (R27). -/
abbrev DWord := BitVec 64
/-- A byte address in the 54-bit virtual space (R12). -/
abbrev Pc := BitVec 54
/-- The modifier field MOD[8:0]; LIT is carried by the operands (R11). -/
abbrev Mod := BitVec 9
/-- A finite map as plain data: pairs of key and value, keys strictly rising. -/
abbrev FMap (β : Type) := List (Nat × β)
/-- A finite set of numbers as plain data, strictly rising. -/
abbrev NSet := List Nat
/-- A vector clock: thread number to epoch (R302). -/
abbrev Clock := FMap Nat

end Sys2Proof
end

