-- ==== Sys2Proof/Syntax.lean ====
section
/-! DEFINITION. The syntax of the machine: operands, modifier values, and the one inductive `Instr`, with one
constructor per row of the opcode table: the word forms of R41 (spec/01), the clause header (R33), and the events
that the spec gives the device and the parties outside it (spec/95). -/
namespace Sys2Proof

/-- The type codes of R20, in code order. -/
inductive Ty | none | s8 | s16 | s32 | s64 | n8 | n16 | n32 | n64 | f16 | bf16 | f32 | f64 | s4 | e2m1 | e8m0
  deriving DecidableEq, Repr, Inhabited

/-- The 6-bit format codes of R21 that are not reserved: a type, or a binary8 format (S, E, P). -/
inductive Fmt | ty (t : Ty) | b8 (signed ext : Bool) (p : BitVec 3)
  deriving DecidableEq, Repr, Inhabited

/-- Rounding modes (R22). -/
inductive Rnd | rne | rtz | rup | rdn | rs
  deriving DecidableEq, Repr, Inhabited

/-- Cache policies (R19, R160). -/
inductive Pol | l1 | l2 | sys | str
  deriving DecidableEq, Repr, Inhabited

/-- Scopes (R19, R299). -/
inductive Scope | sq | gp | dev | sys
  deriving DecidableEq, Repr, Inhabited

/-- Modes of a lane (R239). -/
inductive Mode | u | s | h
  deriving DecidableEq, Repr, Inhabited

/-- Operations of VOTE (R114). -/
inductive VoteOp | any | all | uni
  deriving DecidableEq, Repr, Inhabited

/-- Modes of SHFL (R116). -/
inductive ShflMode | idx | up | down | xor
  deriving DecidableEq, Repr, Inhabited

/-- Operations of LRED and LSCAN (R116). -/
inductive RedOp | add | min | max | and | or | xor
  deriving DecidableEq, Repr, Inhabited

/-- Operations of ATOM and RED (R167). -/
inductive AtomOp | add | min | max | and | or | xor | exch | inc | dec
  deriving DecidableEq, Repr, Inhabited

/-- Kinds of FENCE (R166). -/
inductive FenceKind | ar | acq | rel
  deriving DecidableEq, Repr, Inhabited

/-- Counters TLREAD reads (R174). -/
inductive TlCtr | done | issued | fail
  deriving DecidableEq, Repr, Inhabited

/-- An operand: a descriptor of R24, or the literal of R32 standing in FB. -/
inductive Opnd
  | v (idx : BitVec 6) (neg abs hi : Bool)
  | w (idx : BitVec 10) (neg abs hi : Bool)
  | q (idx : BitVec 3) (inv : Bool)
  | m (idx : BitVec 4)
  | imm (x : BitVec 13)
  | sys (n : BitVec 10)
  | k (idx : BitVec 4)
  | h (idx : BitVec 3)
  | none
  | lit (x : Word)
  deriving DecidableEq, Repr, Inhabited

/-- The guard GRD and the hint byte HNT of a word (R11, R13, R15). -/
structure Hd where
  grd : BitVec 4
  hnt : BitVec 8
  deriving DecidableEq, Repr, Inhabited

/-- SETA or SETB of a clause header (R33). -/
structure FlagSel where
  valid : Bool
  flag  : BitVec 4
  deriving DecidableEq, Repr, Inhabited

/-- Where an error stands: the array code and index of R323. -/
structure ErrAt where
  array : BitVec 8
  index : BitVec 52
  deriving DecidableEq, Repr, Inhabited

/-- What an access meets in the arrays or on a link when it is performed: nothing, a corrected error, an
uncorrectable one (R319), one that is fatal to the cluster (R321), or a refusal by the host, a peer or a link
(R315, R443). -/
inductive MemErr | none | corrected (e : ErrAt) | poison (e : ErrAt) | fatal (e : ErrAt) | refused
  deriving DecidableEq, Repr, Inhabited

/-- Which part a refresh or scrub, or a port error, concerns (R323). -/
inductive ScrubSrc | dram (ctl : Nat) | l2 (slice : Nat) | port
  deriving DecidableEq, Repr, Inhabited

/-- A device register a REGISTER_WRITE names: a 4-byte offset in the power and thermal block (R436), ASTBASE, ASTN
(R440), or a mailbox argument or payload word (R444). -/
inductive HostReg | block (off : Nat) | astBase | astN | arg (n : Nat) | payload (off : Nat)
  deriving DecidableEq, Repr, Inhabited

/-- Where a host access goes (R438): device memory, BAR0 or BAR2, at an offset. -/
inductive HostAddr | hdm (addr : Nat) | bar0 (off : Nat) | bar2 (off : Nat)
  deriving DecidableEq, Repr, Inhabited

/-- What a peer asks of this device (R288, R443). -/
inductive PeerOp
  | read (n : Nat)
  | write (bytes : List Byte)
  | atom (op : AtomOp) (ty : Ty) (x : DWord)
  | cas (ty : Ty) (cmp new : DWord)
  /-- one term of RBEXP or RBADD, and RBRES, on a set of this device (R227, R410) -/
  | rbexp (ty : Ty) (x : DWord)
  | rbadd (ty : Ty) (x : DWord)
  | rbres (ty : Ty)
  deriving DecidableEq, Repr, Inhabited

/-- An access arriving on a peer link: port, the requester's VMID and ASID, its mode (true in S or H), the address
and the operation (R443). -/
structure PeerReq where
  port : Nat
  vmid : BitVec 12
  asid : BitVec 16
  priv : Bool
  va   : DWord
  op   : PeerOp
  deriving DecidableEq, Repr, Inhabited

/-- The instructions: one constructor per row of the opcode table.  A word form carries its head (guard and hints),
its modifier values and its operands in the order FD, FA, FB, FC; an event carries what it names. -/
inductive Instr
  /-- a lane executes a clause header (R33, R36) -/
  | clauseEntry (len : BitVec 4) (waitFor : BitVec 12) (seta setb : FlagSel) (cls : BitVec 2) (yp : Bool)
  /-- BRA label (R96) -/
  | bra (h : Hd) (disp : Opnd)
  /-- BRX va (R96) -/
  | brx (h : Hd) (va : Opnd)
  /-- CALL vd, label (R96) -/
  | call (h : Hd) (d disp : Opnd)
  /-- CALLX vd, va (R96) -/
  | callx (h : Hd) (d va : Opnd)
  /-- RET va (R96) -/
  | ret (h : Hd) (va : Opnd)
  /-- EXIT (R97) -/
  | exit (h : Hd)
  /-- NOP (R98) -/
  | nop (h : Hd)
  /-- YIELD (R98) -/
  | yield (h : Hd)
  /-- MEET mA, label (R99) -/
  | meet (h : Hd) (a disp : Opnd)
  /-- BRK code (R102) -/
  | brk (h : Hd) (code : Opnd)
  /-- WAITV.tN.type.pol qD, va, expect (R103-R105) -/
  | waitv (h : Hd) (t : Ty) (pol : Pol) (tmo : BitVec 3) (d va e : Opnd)
  /-- GJOIN vD, count, key (R107) -/
  | gjoin (h : Hd) (d cnt key : Opnd)
  /-- GLEAVE (R108) -/
  | gleave (h : Hd)
  /-- GBAR b (R109) -/
  | gbar (h : Hd) (b : Opnd)
  /-- GARV b (R109) -/
  | garv (h : Hd) (b : Opnd)
  /-- GWAIT b (R109) -/
  | gwait (h : Hd) (b : Opnd)
  /-- TKWAIT t (R112) -/
  | tkwait (h : Hd) (tk : Opnd)
  /-- TKPASS t (R112) -/
  | tkpass (h : Hd) (tk : Opnd)
  /-- MJOIN mA (R115) -/
  | mjoin (h : Hd) (a : Opnd)
  /-- MLEAVE mA (R115) -/
  | mleave (h : Hd) (a : Opnd)
  /-- MWAIT mA (R115) -/
  | mwait (h : Hd) (a : Opnd)
  /-- MGET vD, mA, part (R115) -/
  | mget (h : Hd) (d a part : Opnd)
  /-- MSET mD, part, value (R115) -/
  | mset (h : Hd) (d part x : Opnd)
  /-- VOTE.op qD, qA, mC (R115) -/
  | vote (h : Hd) (op : VoteOp) (d a mc : Opnd)
  /-- BALLOT mD or vD (R115) -/
  | ballot (h : Hd) (d a part mc : Opnd)
  /-- SHFL.mode.type vD, vA, b, mC (R117) -/
  | shfl (h : Hd) (md : ShflMode) (t : Ty) (d a b mc : Opnd)
  /-- LRED.op.type vD, vA, mC (R119) -/
  | lred (h : Hd) (op : RedOp) (t : Ty) (sat : Bool) (d a mc : Opnd)
  /-- LSCAN.op[.exc].type vD, vA, mC (R119) -/
  | lscan (h : Hd) (op : RedOp) (exc : Bool) (t : Ty) (sat : Bool) (d a mc : Opnd)
  /-- LBCAST.type vD, vA, s, mC (R120) -/
  | lbcast (h : Hd) (t : Ty) (d a ls mc : Opnd)
  /-- LMATCH.type vD, vA, mC (R120) -/
  | lmatch (h : Hd) (t : Ty) (d a mc : Opnd)
  /-- IADD.t vD, a, b (R129) -/
  | iadd (h : Hd) (t : Ty) (sat : Bool) (d a b : Opnd)
  /-- ISUB.t vD, a, b (R129) -/
  | isub (h : Hd) (t : Ty) (sat : Bool) (d a b : Opnd)
  /-- IADD3.t vD, a, b, c (R129) -/
  | iadd3 (h : Hd) (t : Ty) (sat : Bool) (d a b c : Opnd)
  /-- IMUL.t vD, a, b (R129) -/
  | imul (h : Hd) (t : Ty) (sat : Bool) (d a b : Opnd)
  /-- IMULH.t vD, a, b (R129) -/
  | imulh (h : Hd) (t : Ty) (d a b : Opnd)
  /-- IMAD[.acc].t vD, a, b, c (R129) -/
  | imad (h : Hd) (t : Ty) (sat : Bool) (acc : Bool) (d a b c : Opnd)
  /-- IMADW[.acc].t vD, a, b, c (R129) -/
  | imadw (h : Hd) (t : Ty) (sat : Bool) (acc : Bool) (d a b c : Opnd)
  /-- IDIV.t vD, a, b (R130) -/
  | idiv (h : Hd) (t : Ty) (sat : Bool) (d a b : Opnd)
  /-- IREM.t vD, a, b (R130) -/
  | irem (h : Hd) (t : Ty) (d a b : Opnd)
  /-- IMIN.t vD, a, b (R129) -/
  | imin (h : Hd) (t : Ty) (d a b : Opnd)
  /-- IMAX.t vD, a, b (R129) -/
  | imax (h : Hd) (t : Ty) (d a b : Opnd)
  /-- IABS.t vD, a (R129) -/
  | iabs (h : Hd) (t : Ty) (sat : Bool) (d a : Opnd)
  /-- INEG.t vD, a (R129) -/
  | ineg (h : Hd) (t : Ty) (sat : Bool) (d a : Opnd)
  /-- ICMP.cc.t dst, a, b (R131) -/
  | icmp (h : Hd) (cc : BitVec 3) (t : Ty) (d a b : Opnd)
  /-- ISEL.t vD, a, b, qC (R131) -/
  | isel (h : Hd) (t : Ty) (d a b c : Opnd)
  /-- IADD64.t vD, a, b (R129) -/
  | iadd64 (h : Hd) (t : Ty) (sat : Bool) (d a b : Opnd)
  /-- ISUB64.t vD, a, b (R129) -/
  | isub64 (h : Hd) (t : Ty) (sat : Bool) (d a b : Opnd)
  /-- IMUL64[.hi].t vD, a, b (R129) -/
  | imul64 (h : Hd) (t : Ty) (hi : Bool) (d a b : Opnd)
  /-- AND.t vD, a, b (R133) -/
  | and (h : Hd) (t : Ty) (d a b : Opnd)
  /-- OR.t vD, a, b (R133) -/
  | or (h : Hd) (t : Ty) (d a b : Opnd)
  /-- XOR.t vD, a, b (R133) -/
  | xor (h : Hd) (t : Ty) (d a b : Opnd)
  /-- NOT.t vD, a (R133) -/
  | not (h : Hd) (t : Ty) (d a : Opnd)
  /-- BLUT.t vD, a, b, lut (R133) -/
  | blut (h : Hd) (t : Ty) (d a b lut : Opnd)
  /-- SHL.t vD, a, s (R134) -/
  | shl (h : Hd) (t : Ty) (d a sh : Opnd)
  /-- SHR.t vD, a, s (R134) -/
  | shr (h : Hd) (t : Ty) (d a sh : Opnd)
  /-- SRA.t vD, a, s (R134) -/
  | sra (h : Hd) (t : Ty) (d a sh : Opnd)
  /-- ROT[.r].t vD, a, s (R134) -/
  | rot (h : Hd) (t : Ty) (right : Bool) (d a sh : Opnd)
  /-- SHCAT.l and SHCAT.r vD, lo, hi, s (R134) -/
  | shcat (h : Hd) (left : Bool) (d lo hi sh : Opnd)
  /-- CLZ.t vD, a (R135) -/
  | clz (h : Hd) (t : Ty) (d a : Opnd)
  /-- CTZ.t vD, a (R135) -/
  | ctz (h : Hd) (t : Ty) (d a : Opnd)
  /-- POPC.t vD, a (R135) -/
  | popc (h : Hd) (t : Ty) (d a : Opnd)
  /-- BREV.t vD, a (R135) -/
  | brev (h : Hd) (t : Ty) (d a : Opnd)
  /-- BFX.t vD, a, pos, len (R136) -/
  | bfx (h : Hd) (t : Ty) (d a pos len : Opnd)
  /-- BFI vD, ins, pos, len (R136) -/
  | bfi (h : Hd) (d ins pos len : Opnd)
  /-- BINT.2 and BINT.3 (R137) -/
  | bint (h : Hd) (t : Ty) (three : Bool) (d a b c : Opnd)
  /-- BDIN.2 and BDIN.3 (R137) -/
  | bdin (h : Hd) (t : Ty) (three : Bool) (d a k : Opnd)
  /-- LEA vD, a, b, s (R138) -/
  | lea (h : Hd) (d a b sc : Opnd)
  /-- LEA64.t vD, a, b, s (R138) -/
  | lea64 (h : Hd) (t : Ty) (d a b sc : Opnd)
  /-- BSEL vD, a, b, sel (R138) -/
  | bsel (h : Hd) (d a b sel : Opnd)
  /-- QLOP qD, qA, qB, lut (R133) -/
  | qlop (h : Hd) (d a b lut : Opnd)
  /-- FADD.t vD, a, b (R141) -/
  | fadd (h : Hd) (t : Ty) (rnd : Rnd) (sat : Bool) (d a b : Opnd)
  /-- FSUB.t vD, a, b (R141) -/
  | fsub (h : Hd) (t : Ty) (rnd : Rnd) (sat : Bool) (d a b : Opnd)
  /-- FMUL.t vD, a, b (R141) -/
  | fmul (h : Hd) (t : Ty) (rnd : Rnd) (sat : Bool) (d a b : Opnd)
  /-- FFMA[.acc].t vD, a, b, c (R141) -/
  | ffma (h : Hd) (t : Ty) (rnd : Rnd) (sat : Bool) (acc : Bool) (d a b c : Opnd)
  /-- FMIN.t vD, a, b (R142) -/
  | fmin (h : Hd) (t : Ty) (d a b : Opnd)
  /-- FMAX.t vD, a, b (R142) -/
  | fmax (h : Hd) (t : Ty) (d a b : Opnd)
  /-- FCMP.cc.t dst, a, b (R143) -/
  | fcmp (h : Hd) (cc : BitVec 3) (t : Ty) (d a b : Opnd)
  /-- FCLASS.t vD, a (R144) -/
  | fclass (h : Hd) (t : Ty) (d a : Opnd)
  /-- FRND[.x].t vD, a (R145) -/
  | frnd (h : Hd) (t : Ty) (rnd : Rnd) (ex : Bool) (d a : Opnd)
  /-- HADD2.t vD, a, b (R141) -/
  | hadd2 (h : Hd) (t : Ty) (rnd : Rnd) (sat : Bool) (d a b : Opnd)
  /-- HMUL2.t vD, a, b (R141) -/
  | hmul2 (h : Hd) (t : Ty) (rnd : Rnd) (sat : Bool) (d a b : Opnd)
  /-- HFMA2[.acc].t vD, a, b, c (R141) -/
  | hfma2 (h : Hd) (t : Ty) (rnd : Rnd) (sat : Bool) (acc : Bool) (d a b c : Opnd)
  /-- FDOT2[.acc].t vD, a, b, c (R141) -/
  | fdot2 (h : Hd) (t : Ty) (rnd : Rnd) (sat : Bool) (acc : Bool) (d a b c : Opnd)
  /-- DADD.f64 vD, a, b (R146) -/
  | dadd (h : Hd) (rnd : Rnd) (sat : Bool) (d a b : Opnd)
  /-- DMUL.f64 vD, a, b (R146) -/
  | dmul (h : Hd) (rnd : Rnd) (sat : Bool) (d a b : Opnd)
  /-- DFMA[.acc].f64 vD, a, b, c (R146) -/
  | dfma (h : Hd) (rnd : Rnd) (sat : Bool) (acc : Bool) (d a b c : Opnd)
  /-- DMIN.f64 vD, a, b (R142) -/
  | dmin (h : Hd) (d a b : Opnd)
  /-- DMAX.f64 vD, a, b (R142) -/
  | dmax (h : Hd) (d a b : Opnd)
  /-- DCMP.cc.f64 dst, a, b (R143) -/
  | dcmp (h : Hd) (cc : BitVec 3) (d a b : Opnd)
  /-- FRCP.t vD, a (R147) -/
  | frcp (h : Hd) (t : Ty) (rnd : Rnd) (sat : Bool) (d a : Opnd)
  /-- FRSQ.t vD, a (R147) -/
  | frsq (h : Hd) (t : Ty) (rnd : Rnd) (sat : Bool) (d a : Opnd)
  /-- FSQRT.t vD, a (R147) -/
  | fsqrt (h : Hd) (t : Ty) (rnd : Rnd) (sat : Bool) (d a : Opnd)
  /-- FDIV.t vD, a, b (R147) -/
  | fdiv (h : Hd) (t : Ty) (rnd : Rnd) (sat : Bool) (d a b : Opnd)
  /-- FEX2.f32 vD, a (R147) -/
  | fex2 (h : Hd) (sat : Bool) (d a : Opnd)
  /-- FLG2.f32 vD, a (R147) -/
  | flg2 (h : Hd) (sat : Bool) (d a : Opnd)
  /-- FSIN.f32 vD, a (R147) -/
  | fsin (h : Hd) (d a : Opnd)
  /-- FCOS.f32 vD, a (R147) -/
  | fcos (h : Hd) (d a : Opnd)
  /-- CVT.target.source[.rnd][.sat] vD, src (R149) -/
  | cvt (h : Hd) (src : Ty) (tgt : Ty) (sat : Bool) (d x rc : Opnd)
  /-- QSCALE.fmt vD, x, n, mC (R151) -/
  | qscale (h : Hd) (fmt : Fmt) (rnd : Rnd) (d x n mc : Opnd)
  /-- QCVT.fmt vD, x, scale (R152) -/
  | qcvt (h : Hd) (fmt : Fmt) (rnd : Rnd) (d x sc : Opnd)
  /-- QCVT.EF.fmt vD, x, scale (R152) -/
  | qcvtEf (h : Hd) (fmt : Fmt) (rnd : Rnd) (d x sc : Opnd)
  /-- QPACK[.sc].fmt vD, code, sel (R153) -/
  | qpack (h : Hd) (fmt : Fmt) (sc : Bool) (d code sel : Opnd)
  /-- QUNPK.fmt vD, word, sel, scale (R153) -/
  | qunpk (h : Hd) (fmt : Fmt) (d x sel sc : Opnd)
  /-- QSPLIT.f32 vD, x, c, d (R154) -/
  | qsplit (h : Hd) (d x c dd : Opnd)
  /-- MOV.type vD, src (R122) -/
  | mov (h : Hd) (t : Ty) (d x : Opnd)
  /-- MOVW.type wD, src (R123) -/
  | movw (h : Hd) (t : Ty) (d x : Opnd)
  /-- MOVQ qD, src and MOVQ vD, qA (R124) -/
  | movq (h : Hd) (d x : Opnd)
  /-- MOVQ.all vD and MOVQ.all _, src (R124) -/
  | movqAll (h : Hd) (d x : Opnd)
  /-- SRD.type vD, SYSREG (R125) -/
  | srd (h : Hd) (wide : Bool) (d sr : Opnd)
  /-- SWR to MOOR or TMOOR (R99) -/
  | moorWrite (h : Hd) (wide : Bool) (tm : Bool) (x : Opnd)
  /-- SWR to REGO (R247) -/
  | regoWrite (h : Hd) (wide : Bool) (x : Opnd)
  /-- SWR to PRIVL (R281) -/
  | privlWrite (h : Hd) (wide : Bool) (x : Opnd)
  /-- SWR.type SYSREG, src (R125) -/
  | swr (h : Hd) (wide : Bool) (d x : Opnd)
  /-- LD.t.pol vD, va, off (R159) -/
  | ld (h : Hd) (t : Ty) (x4 : Bool) (pol : Pol) (d va off : Opnd)
  /-- ST.t.pol vS, va, off (R159) -/
  | st (h : Hd) (t : Ty) (x4 : Bool) (pol : Pol) (d va off : Opnd)
  /-- LDP.t (private or scratchpad offset) (R162) -/
  | ldp (h : Hd) (t : Ty) (x4 : Bool) (d a off : Opnd)
  /-- STP.t (private or scratchpad offset) (R162) -/
  | stp (h : Hd) (t : Ty) (x4 : Bool) (d a off : Opnd)
  /-- LDS.t (private or scratchpad offset) (R163) -/
  | lds (h : Hd) (t : Ty) (x4 : Bool) (d a off : Opnd)
  /-- STS.t (private or scratchpad offset) (R163) -/
  | sts (h : Hd) (t : Ty) (x4 : Bool) (d a off : Opnd)
  /-- STSA.t vS, a, off (R163) -/
  | stsa (h : Hd) (t : Ty) (d a off : Opnd)
  /-- LDW.t.pol wD, va, off (R161) -/
  | ldw (h : Hd) (t : Ty) (pol : Pol) (d va off : Opnd)
  /-- PREF.pol va, off (R164) -/
  | pref (h : Hd) (pol : Pol) (va off : Opnd)
  /-- CCTL.wb va, off (R165) -/
  | cctlWb (h : Hd) (va off : Opnd)
  /-- CCTL.inv va, off (R165) -/
  | cctlInv (h : Hd) (va off : Opnd)
  /-- CCTL.iinv.scope va, off (R165) -/
  | cctlIinv (h : Hd) (scope : Scope) (va off : Opnd)
  /-- CCTL.wball (R165) -/
  | cctlWball (h : Hd)
  /-- ATOM.op.t.pol.scope[.ar] vD, va, b (R168) -/
  | atom (h : Hd) (op : AtomOp) (t : Ty) (pol : Pol) (scope : Scope) (ar : Bool) (d va b : Opnd)
  /-- CAS.t.pol.scope[.ar] vD, va, cmp, new (R168) -/
  | cas (h : Hd) (t : Ty) (pol : Pol) (scope : Scope) (ar : Bool) (d va cmp new : Opnd)
  /-- RED.op.t.pol.scope[.rel] va, b (R168) -/
  | red (h : Hd) (op : AtomOp) (t : Ty) (pol : Pol) (scope : Scope) (rel : Bool) (va b : Opnd)
  /-- FENCE.kind.scope (R170) -/
  | fence (h : Hd) (kind : FenceKind) (scope : Scope)
  /-- LDACQ.t.pol.scope vD, va, off (R170) -/
  | ldacq (h : Hd) (t : Ty) (pol : Pol) (scope : Scope) (d va off : Opnd)
  /-- STREL.t.pol.scope vS, va, off (R170) -/
  | strel (h : Hd) (t : Ty) (pol : Pol) (scope : Scope) (d va off : Opnd)
  /-- CPY vD, desc, tl (R176-R180) -/
  | cpy (h : Hd) (d desc tl : Opnd)
  /-- TLSIG.scope vD, tl (R175) -/
  | tlsig (h : Hd) (scope : Scope) (d tl : Opnd)
  /-- TLWAIT.scope qD, tl, n (R175) -/
  | tlwait (h : Hd) (scope : Scope) (d tl n : Opnd)
  /-- TLREAD.ctr vD, tl (R175) -/
  | tlread (h : Hd) (ctr : TlCtr) (d tl : Opnd)
  /-- WPWAIT qD, tl, cmd, bytes (R175) -/
  | wpwait (h : Hd) (d tl cmd nb : Opnd)
  /-- FORK vD, set, entries (R186) -/
  | fork (h : Hd) (d set ent : Opnd)
  /-- RDV qD, fork (R186) -/
  | rdv (h : Hd) (d fk : Opnd)
  /-- SHAPE vD, va (R183) -/
  | shape (h : Hd) (d va : Opnd)
  /-- SHDROP h (R183) -/
  | shdrop (h : Hd) (hd : Opnd)
  /-- XTBL vD, va (R184) -/
  | xtbl (h : Hd) (d va : Opnd)
  /-- XFORM vD, desc, tl (R185) -/
  | xform (h : Hd) (d desc tl : Opnd)
  /-- ENQ qD, queue, va (R187) -/
  | enq (h : Hd) (d qn va : Opnd)
  /-- DEQ.tN wD, queue (R188) -/
  | deq (h : Hd) (tmo : BitVec 3) (d qn : Opnd)
  /-- BERTH vD, va (R195) -/
  | berth (h : Hd) (d va : Opnd)
  /-- UNBERTH h (R196) -/
  | unberth (h : Hd) (hd : Opnd)
  /-- MMA[.tlN] wC, wA, wB (R200) -/
  | mma (h : Hd) (tlv : Bool) (tl : BitVec 4) (c a b : Opnd)
  /-- MMAD[.tlN] wD, wA, wB, wC (R200) -/
  | mmad (h : Hd) (tlv : Bool) (tl : BitVec 4) (dd a b c : Opnd)
  /-- MZERO[.tlN].aM wC (R202) -/
  | mzero (h : Hd) (tlv : Bool) (tl : BitVec 4) (arr : Bool) (c : Opnd)
  /-- LMM[.tlN] wC, wP (R203) -/
  | lmm (h : Hd) (tlv : Bool) (tl : BitVec 4) (c p : Opnd)
  /-- SMP vD, hdr, crd (R210) -/
  | smp (h : Hd) (d hdr crd : Opnd)
  /-- SMPL vD, hdr, crd (R210) -/
  | smpl (h : Hd) (d hdr crd lod : Opnd)
  /-- SMPG vD, hdr, crd (R210) -/
  | smpg (h : Hd) (d hdr crd ch : Opnd)
  /-- SMPS vD, hdr, crd (R210) -/
  | smps (h : Hd) (d hdr crd seed : Opnd)
  /-- SMPN vD, hdr, crd (R212) -/
  | smpn (h : Hd) (d hdr crd : Opnd)
  /-- HDRINV hdr (R214) -/
  | hdrinv (h : Hd) (hdr : Opnd)
  /-- WCPIN qD, hdr (R215) -/
  | wcpin (h : Hd) (d hdr : Opnd)
  /-- WCUNP hdr (R215) -/
  | wcunp (h : Hd) (hdr : Opnd)
  /-- RNDSEQ[.ln] vD, key, ctr (R217) -/
  | rndseq (h : Hd) (ln : Bool) (d key ctr : Opnd)
  /-- RAYBOX vD, ray, node (R219) -/
  | raybox (h : Hd) (d ray node : Opnd)
  /-- RAYTRI[.cull] vD, ray, tri (R220) -/
  | raytri (h : Hd) (cull : Bool) (d ray tri : Opnd)
  /-- QYSEND vS, port (R222) -/
  | qysend (h : Hd) (x port : Opnd)
  /-- QYRECV vD, port (R222) -/
  | qyrecv (h : Hd) (d port : Opnd)
  /-- QYFREE vD, port (R223) -/
  | qyfree (h : Hd) (d port : Opnd)
  /-- RBEXP.t.pol.scope va, x (R228) -/
  | rbexp (h : Hd) (t : Ty) (pol : Pol) (scope : Scope) (va x : Opnd)
  /-- RBADD.t.pol.scope va, x (R228) -/
  | rbadd (h : Hd) (t : Ty) (pol : Pol) (scope : Scope) (va x : Opnd)
  /-- RBRES.t.pol.scope vD, va (R229) -/
  | rbres (h : Hd) (t : Ty) (pol : Pol) (scope : Scope) (d va : Opnd)
  /-- SYSC [code] (R237) -/
  | sysc (h : Hd) (code : Opnd)
  /-- SRET (R238) -/
  | sret (h : Hd)
  /-- HCALL [code] (R237) -/
  | hcall (h : Hd) (code : Opnd)
  /-- HRET (R238) -/
  | hret (h : Hd)
  /-- CTXNEW vD, ctx, rec (R242) -/
  | ctxnew (h : Hd) (d ctx rec : Opnd)
  /-- CTXFREE vD, ctx (R243) -/
  | ctxfree (h : Hd) (d ctx : Opnd)
  /-- CTXPIN.on vD, ctx (R243) -/
  | ctxpinOn (h : Hd) (d ctx : Opnd)
  /-- CTXPIN.off vD, ctx (R243) -/
  | ctxpinOff (h : Hd) (d ctx : Opnd)
  /-- SQACT vD, ctx (R243) -/
  | sqact (h : Hd) (d ctx : Opnd)
  /-- SQPARK[.wb] vD, ctx (R243) -/
  | sqpark (h : Hd) (wb : Bool) (d ctx : Opnd)
  /-- XACQ (R245) -/
  | xacq (h : Hd)
  /-- XREL (R246) -/
  | xrel (h : Hd)
  /-- REGN (R247) -/
  | regn (h : Hd)
  /-- TLBINV.va va, id (R248) -/
  | tlbinvVa (h : Hd) (va idn : Opnd)
  /-- TLBINV.asid id (R248) -/
  | tlbinvAsid (h : Hd) (idn : Opnd)
  /-- TLBINV.vm id (R248) -/
  | tlbinvVm (h : Hd) (idn : Opnd)
  /-- TLBINV.all (R248) -/
  | tlbinvAll (h : Hd)
  /-- ORDCTL op 0 (R249) -/
  | ordctlRec (h : Hd) (d va : Opnd)
  /-- ORDCTL op 1 (R249) -/
  | ordctlPlay (h : Hd) (d va : Opnd)
  /-- ORDCTL op 2 (R249) -/
  | ordctlOff (h : Hd) (d va : Opnd)
  /-- ORDCTL op 3 (R249) -/
  | ordctlChk (h : Hd) (d va : Opnd)
  /-- STEPB vD, ctx, n (R250) -/
  | stepb (h : Hd) (d ctx n : Opnd)
  /-- a written watched line wakes the waiting lane (R105) -/
  | waitvLineWriteWake (sq : Nat) (lane : Nat)
  /-- the TMO limit of a waiting lane expires (R105) -/
  | waitvTimeout (sq : Nat) (lane : Nat)
  /-- the data of a load or returning atomic arrives (R39) -/
  | loadDataReturn (acc : Nat) (err : MemErr)
  /-- a store or atomic without return is performed (R160) -/
  | storePerformed (acc : Nat) (err : MemErr)
  /-- a slice applies one atomic step (R308) -/
  | atomicStepAtSlice (acc : Nat) (err : MemErr)
  /-- a table walk ends (R297) -/
  | tableWalkComplete (walk : Nat) (err : MemErr)
  /-- a chunk of a destination is written (R179) -/
  | cpyChunkWritten (cmd : Nat) (err : MemErr)
  /-- a halted command retries its walk (R365) -/
  | haltedCommandRetry (cmd : Nat)
  /-- a halted command of a draining group fails (R365) -/
  | haltedCommandTimeout (cmd : Nat)
  /-- a transducer command completes (R371) -/
  | transducerCommandComplete (cmd : Nat) (err : MemErr)
  /-- an admitted item is delivered to a waiting DEQ (R387) -/
  | deqItemDelivery (cluster : Nat) (queue : Nat)
  /-- the TMO limit of a DEQ expires (R188) -/
  | deqTimeout (sq : Nat)
  /-- a berth with no holder and no command ends (R355) -/
  | berthEnd (cluster : Nat) (slot : Nat)
  /-- an array takes its next command (R356) -/
  | matrixCommandStart (cluster : Nat) (arr : Nat)
  /-- the sums of one K-block are added (R356) -/
  | matrixKblockComplete (cluster : Nat) (arr : Nat) (err : MemErr)
  /-- an LMM pass ends (R347) -/
  | lmmPassComplete (core : Nat) (err : MemErr)
  /-- an LMM has waited 256 cluster cycles (R346) -/
  | lmmWaitExpiry (core : Nat)
  /-- every sampler has acted on an HDRINV (R214) -/
  | hdrinvComplete (hid : Nat)
  /-- a header read arrives (R334) -/
  | samplerHeaderReadComplete (core : Nat) (hdr : Nat) (err : MemErr)
  /-- a texel or latent line arrives (R336) -/
  | texelFillComplete (core : Nat) (hdr : Nat) (line : Nat) (err : MemErr)
  /-- the last line of a weight fill arrives (R337) -/
  | weightFillComplete (core : Nat) (fill : Nat) (err : MemErr)
  /-- a quad writes its results (R332) -/
  | samplerQuadComplete (req : Nat)
  /-- a gated step is performed in its turn (R401) -/
  | gatedStepRelease (acc : Nat)
  /-- a waiting squad takes its extended block (R245) -/
  | extensionBlockGrant (core : Nat)
  /-- a register row fill completes (R263) -/
  | registerFillComplete (sq : Nat) (row : Nat) (err : MemErr)
  /-- the register file evicts a row (R262) -/
  | registerRowEviction (sq : Nat) (row : Nat)
  /-- a fill outstanding for more than 1,024 cycles (R266) -/
  | fillParkTimeout (sq : Nat)
  /-- an eligible squad is loaded into a free slot (R267) -/
  | squadActivation (core : Nat)
  /-- an eligible squad has been Out for 2^20 ns (R267) -/
  | activationWaitTimeout (sq : Nat)
  /-- an awaited event occurs (R266) -/
  | parkedSquadWake (sq : Nat)
  /-- a parked squad is deactivated (R268) -/
  | squadDeactivation (core : Nat)
  /-- the write-back of a squad completes (R266) -/
  | deactivationComplete (sq : Nat)
  /-- four core cycles pass and bundles are formed (R269) -/
  | bundleFormation (core : Nat)
  /-- the core clock starts (R273) -/
  | coreClockStart (core : Nat)
  /-- a store fails when performed (R315) -/
  | impreciseStoreFault (acc : Nat)
  /-- a waiting group receives its allocation (R291) -/
  | groupScratchpadGrant (gid : Nat)
  /-- the last outstanding work of a draining group ends (R363) -/
  | groupDrainComplete (gid : Nat)
  /-- the host writes an item to an aperture (R381) -/
  | apertureWrite (entry : Nat) (queue : Nat) (whole : Bool) (bytes : List Byte)
  /-- the launch unit places the next group (R383) -/
  | groupPlacement (cluster : Nat)
  /-- a kernel load completes (R385) -/
  | kernelLoadComplete (cluster : Nat)
  /-- a 2 us control interval starts (R386) -/
  | admissionInterval (cluster : Nat)
  /-- a queue engine balances with its neighbours (R388) -/
  | queueBalancing (cluster : Nat)
  /-- the quantum of an item runs out (R391) -/
  | quantumExpiry (item : Nat) (cluster : Nat)
  /-- the collector has every acknowledgement (R392) -/
  | preemptionCollected (item : Nat)
  /-- a rail reports its current, and whether its converter works (R431, R432) -/
  | railSample (rail : Nat) (valid : Bool) (milliamps : Nat)
  /-- firmware refits the estimate weights (R432) -/
  | weightRefit (ws : List (BitVec 16))
  /-- the sensors are read (R435) -/
  | sensorSample (temps : List (Option Int))
  /-- withheld cycles end and the thermal floor falls (R435) -/
  | thermalRelease (cluster : Nat)
  /-- a gate of an upper core is requested (R420) -/
  | gateReq (cluster : Nat)
  /-- an upper core has been idle for 1 us (R436) -/
  | idleGateTimer (cluster : Nat)
  /-- the squads of a gating core are written back (R428) -/
  | gateWritebackComplete (cluster : Nat)
  /-- the last quay entry is spilled (R428) -/
  | spillComplete (cluster : Nat)
  /-- the spilled entries are refilled (R421) -/
  | refillComplete (cluster : Nat)
  /-- a write of an estimate weight (R432) -/
  | wgtWrite (set : Bool) (j : Nat) (val : BitVec 16)
  /-- a write to another device register (R436) -/
  | registerWrite (reg : HostReg) (val : BitVec 64)
  /-- copy a ring into PAYLOAD (R444) -/
  | mailboxReadRing (c : Nat)
  /-- clear FROZEN (R444) -/
  | mailboxClearFrozen (c : Nat)
  /-- add the mailbox cause (R444) -/
  | mailboxPreempt (entry : Nat) (queue : Nat) (seq : BitVec 32)
  /-- end the mailbox cause (R444) -/
  | mailboxResume (entry : Nat) (queue : Nat) (seq : BitVec 32)
  /-- kill an item (R444) -/
  | mailboxKill (entry : Nat) (queue : Nat) (seq : BitVec 32)
  /-- reset a cluster (R444) -/
  | mailboxClusterReset (c : Nat)
  /-- reset the device (R444) -/
  | mailboxDeviceReset
  /-- attestation report (R446) -/
  | mailboxAttestation
  /-- the device reset sequence (R447) -/
  | deviceReset
  /-- module power is lost (R322) -/
  | powerLoss
  /-- a host read of device memory (R439), or of registers -/
  | hostRead (addr : HostAddr) (n : Nat)
  /-- a host write (R439) -/
  | hostWrite (addr : HostAddr) (bytes : List Byte)
  /-- an access arriving from a peer (R443) -/
  | peerAccess (req : PeerReq)
  /-- a refresh or scrub, or a port, finds an error (R323) -/
  | refreshOrScrub (src : ScrubSrc) (addr : Nat) (err : MemErr)
  /-- a peer link gains or loses training (R443) -/
  | peerLinkTraining (port : Nat) (up : Bool)
  deriving DecidableEq, Repr, Inhabited

end Sys2Proof
end

