-- ==== Sys2Proof/Machine/Forms.lean ====
section
/-! DEFINITION. Word forms: the fields of a word (R11), the codes of modifier values (R18 to R22), and what a slot accepts
(R24 to R32). -/
namespace Sys2Proof

/-- The word forms of R41 under their own names. -/
inductive Form
  | bra | brx | call | callx | ret | exit | nop | yield | meet
  | brk | waitv | gjoin | gleave | gbar | garv | gwait | tkwait | tkpass
  | mjoin | mleave | mwait | mget | mset | vote | ballot | shfl | lred
  | lscan | lbcast | lmatch | iadd | isub | iadd3 | imul | imulh | imad
  | imadw | idiv | irem | imin | imax | iabs | ineg | icmp | isel
  | iadd64 | isub64 | imul64 | and | or | xor | not | blut | shl
  | shr | sra | rot | shcat | clz | ctz | popc | brev | bfx
  | bfi | bint | bdin | lea | lea64 | bsel | qlop | fadd | fsub
  | fmul | ffma | fmin | fmax | fcmp | fclass | frnd | hadd2 | hmul2
  | hfma2 | fdot2 | dadd | dmul | dfma | dmin | dmax | dcmp | frcp
  | frsq | fsqrt | fdiv | fex2 | flg2 | fsin | fcos | cvt | qscale
  | qcvt | qcvtEf | qpack | qunpk | qsplit | mov | movw | movq | srd
  | swr | ld | st | ldp | stp | lds | sts | stsa | ldw
  | pref | cctl | atom | cas | red | fence | ldacq | strel | cpy
  | tlsig | tlwait | tlread | wpwait | fork | rdv | shape | shdrop | xtbl
  | xform | enq | deq | berth | unberth | mma | mmad | mzero | lmm
  | smp | smpl | smpg | smps | smpn | hdrinv | wcpin | wcunp | rndseq
  | raybox | raytri | qysend | qyrecv | qyfree | rbexp | rbadd | rbres | sysc
  | sret | hcall | hret | ctxnew | ctxfree | ctxpin | sqact | sqpark | xacq
  | xrel | regn | tlbinv | ordctl | stepb
  deriving DecidableEq, Repr, Inhabited

/-- The fields of a word once its descriptors are read: LIT is set exactly when FB holds `.lit` (R11, R32). -/
structure Raw where
  form : Form
  h    : Hd
  mod  : Mod
  fd   : Opnd
  fa   : Opnd
  fb   : Opnd
  fc   : Opnd
  deriving DecidableEq, Repr, Inhabited

/-- Where a form admits the literal: nowhere, anywhere, only with it, with OPX = 1, with OPX = 0, or by CCTL's op. -/
inductive LitRule | no | yes | req | acc | bint | cctl
  deriving DecidableEq, Repr, Inhabited

/-- What a slot accepts: kinds of R24 by name, the operand width, source modifiers, the immediate range, the
multiple an index must be of, how many registers it names, and whether it is read or written. -/
structure Slot where
  v : Bool := false
  w : Bool := false
  q : Bool := false
  m : Bool := false
  imm : Bool := false
  sys : Bool := false
  kh : Bool := false
  none : Bool := false
  dst : Bool := false
  reads : Bool := true
  wid : Nat := 32
  mods : Bool := false
  hi : Bool := false
  lo : Int := -4096
  up : Int := 4095
  align : Nat := 1
  span : Nat := 1
  deriving DecidableEq, Repr, Inhabited

/-- A form's modifier check, literal rule and slots. -/
structure Spec where
  modOk : Bool
  lit   : LitRule
  fd    : Slot
  fa    : Slot
  fb    : Slot
  fc    : Slot
  deriving DecidableEq, Repr, Inhabited

/-! ### Codes -/

/-- The code of a type (R20). -/
def Ty.code : Ty → BitVec 4
  | .none => 0 | .s8 => 1 | .s16 => 2 | .s32 => 3 | .s64 => 4 | .n8 => 5 | .n16 => 6 | .n32 => 7
  | .n64 => 8 | .f16 => 9 | .bf16 => 10 | .f32 => 11 | .f64 => 12 | .s4 => 13 | .e2m1 => 14 | .e8m0 => 15

/-- The type of a code (R20). -/
def Ty.ofCode (c : BitVec 4) : Ty :=
  match c.toNat with
  | 0 => .none | 1 => .s8 | 2 => .s16 | 3 => .s32 | 4 => .s64 | 5 => .n8 | 6 => .n16 | 7 => .n32
  | 8 => .n64 | 9 => .f16 | 10 => .bf16 | 11 => .f32 | 12 => .f64 | 13 => .s4 | 14 => .e2m1 | _ => .e8m0

/-- Operand width in bits (R20, R48). -/
def Ty.wid : Ty → Nat
  | .s8 | .n8 | .e8m0 => 8
  | .s16 | .n16 | .f16 | .bf16 => 16
  | .s64 | .n64 | .f64 => 64
  | .s4 | .e2m1 => 4
  | .none | .s32 | .n32 | .f32 => 32

/-- Signed integer types. -/
def Ty.signed : Ty → Bool
  | .s8 | .s16 | .s32 | .s64 | .s4 => true
  | _ => false

/-- Floating-point types that carry a sign bit. -/
def Ty.isFloat : Ty → Bool
  | .f16 | .bf16 | .f32 | .f64 => true
  | _ => false

/-- Integer types of CVT, IADD and the rest. -/
def Ty.isInt : Ty → Bool
  | .s8 | .s16 | .s32 | .s64 | .n8 | .n16 | .n32 | .n64 => true
  | _ => false

/-- The integer types called N in R128. -/
def Ty.N : List Ty := [.s8, .s16, .s32, .n8, .n16, .n32]

/-- The access types 0x0 to 0xC of R156. -/
def Ty.mem : List Ty := [.none, .s8, .s16, .s32, .s64, .n8, .n16, .n32, .n64, .f16, .bf16, .f32, .f64]

/-- Bytes of an access (R156). -/
def Ty.bytes (t : Ty) : Nat := t.wid / 8

/-- The code of a format (R21). -/
def Fmt.code : Fmt → BitVec 6
  | .ty t => 0#2 ++ t.code
  | .b8 s e p => 1#1 ++ BitVec.ofBool s ++ BitVec.ofBool e ++ p

/-- The format of a code; a reserved code gives the untyped code, which no form accepts (R21). -/
def Fmt.ofCode (c : BitVec 6) : Fmt :=
  if c.getLsbD 5 then .b8 (c.getLsbD 4) (c.getLsbD 3) (c.extractLsb' 0 3)
  else if c.getLsbD 4 then .ty .none else .ty (Ty.ofCode (c.extractLsb' 0 4))

/-- The element formats of R150. -/
def Fmt.qOk : Fmt → Bool
  | .ty .e2m1 | .ty .s4 | .ty .s8 => true
  | .ty _ => false
  | .b8 _ _ p => p != 0#3

/-- Element width k of R150. -/
def Fmt.wid : Fmt → Nat
  | .ty t => t.wid
  | .b8 _ _ _ => 8

/-- The largest element selector of QPACK and QUNPK (R150). -/
def Fmt.selMax (f : Fmt) : Int := if f.wid = 4 then 7 else 3

/-- The code of a rounding mode (R22). -/
def Rnd.code : Rnd → BitVec 3
  | .rne => 0 | .rtz => 1 | .rup => 2 | .rdn => 3 | .rs => 4

/-- The rounding mode of a code; the reserved codes are refused before it is read (R22). -/
def Rnd.ofCode (c : BitVec 3) : Rnd :=
  match c.toNat with
  | 0 => .rne | 1 => .rtz | 2 => .rup | 3 => .rdn | _ => .rs

/-- The code of a policy (R19). -/
def Pol.code : Pol → BitVec 2
  | .l1 => 0 | .l2 => 1 | .sys => 2 | .str => 3

/-- The policy of a code (R19). -/
def Pol.ofCode (c : BitVec 2) : Pol :=
  match c.toNat with
  | 0 => .l1 | 1 => .l2 | 2 => .sys | _ => .str

/-- The code of a scope (R19). -/
def Scope.code : Scope → BitVec 2
  | .sq => 0 | .gp => 1 | .dev => 2 | .sys => 3

/-- The scope of a code (R19). -/
def Scope.ofCode (c : BitVec 2) : Scope :=
  match c.toNat with
  | 0 => .sq | 1 => .gp | 2 => .dev | _ => .sys

/-- The code of a mode (R239). -/
def Mode.code : Mode → BitVec 2
  | .u => 0 | .s => 1 | .h => 2

/-- VOTE's op field (R114). -/
def VoteOp.code : VoteOp → BitVec 2
  | .any => 0 | .all => 1 | .uni => 2

/-- VOTE's op of a field (R114). -/
def VoteOp.ofCode (c : BitVec 2) : VoteOp :=
  match c.toNat with
  | 0 => .any | 1 => .all | _ => .uni

/-- SHFL's mode field (R116). -/
def ShflMode.code : ShflMode → BitVec 2
  | .idx => 0 | .up => 1 | .down => 2 | .xor => 3

/-- SHFL's mode of a field (R116). -/
def ShflMode.ofCode (c : BitVec 2) : ShflMode :=
  match c.toNat with
  | 0 => .idx | 1 => .up | 2 => .down | _ => .xor

/-- LRED's and LSCAN's op field (R116). -/
def RedOp.code : RedOp → BitVec 3
  | .add => 0 | .min => 1 | .max => 2 | .and => 3 | .or => 4 | .xor => 5

/-- LRED's and LSCAN's op of a field (R116). -/
def RedOp.ofCode (c : BitVec 3) : RedOp :=
  match c.toNat with
  | 0 => .add | 1 => .min | 2 => .max | 3 => .and | 4 => .or | _ => .xor

/-- The types an op of LRED or LSCAN accepts (R116). -/
def RedOp.types : RedOp → List Ty
  | .add | .min | .max => [.s32, .n32, .s64, .n64, .f16, .bf16, .f32, .f64]
  | .and | .or | .xor => [.n32, .n64]

/-- The FC immediate of an atomic operation (R167). -/
def AtomOp.imm : AtomOp → BitVec 13
  | .add => 0 | .min => 1 | .max => 2 | .and => 3 | .or => 4 | .xor => 5 | .exch => 6 | .inc => 7 | .dec => 8

/-- The atomic operation of an FC immediate (R167). -/
def AtomOp.ofImm (c : BitVec 13) : AtomOp :=
  match c.toNat with
  | 0 => .add | 1 => .min | 2 => .max | 3 => .and | 4 => .or | 5 => .xor | 6 => .exch | 7 => .inc | _ => .dec

/-- The types an atomic operation accepts (R167). -/
def AtomOp.types : AtomOp → List Ty
  | .add | .min | .max => [.s32, .n32, .s64, .n64, .f32, .f64]
  | .and | .or | .xor | .exch => [.none, .n64]
  | .inc | .dec => [.n32]

/-- FENCE's KIND (R166). -/
def FenceKind.code : FenceKind → BitVec 4
  | .ar => 0 | .acq => 1 | .rel => 2

/-- The kind of a KIND field (R166). -/
def FenceKind.ofCode (c : BitVec 4) : FenceKind :=
  match c.toNat with
  | 0 => .ar | 1 => .acq | _ => .rel

/-- TLREAD's counter field (R174). -/
def TlCtr.code : TlCtr → BitVec 2
  | .done => 0 | .issued => 1 | .fail => 2

/-- TLREAD's counter of a field (R174). -/
def TlCtr.ofCode (c : BitVec 2) : TlCtr :=
  match c.toNat with
  | 0 => .done | 1 => .issued | _ => .fail

/-! ### Modifier fields -/

/-- n bits of MOD from bit lo. -/
def Mod.bits (m : Mod) (lo n : Nat) : BitVec n := m.extractLsb' lo n
/-- One bit of MOD. -/
def Mod.bit (m : Mod) (i : Nat) : Bool := m.getLsbD i
/-- TYPE, MOD[3:0]. -/
def Mod.ty (m : Mod) : Ty := Ty.ofCode (m.bits 0 4)
/-- CVT's target type, MOD[7:4] (R148). -/
def Mod.ty2 (m : Mod) : Ty := Ty.ofCode (m.bits 4 4)
/-- RND, MOD[6:4] (R18). -/
def Mod.rnd (m : Mod) : Rnd := Rnd.ofCode (m.bits 4 3)
/-- The rounding mode of the narrow forms, MOD[8:6] (R150). -/
def Mod.rnd6 (m : Mod) : Rnd := Rnd.ofCode (m.bits 6 3)
/-- SAT, MOD[7] (R18). -/
def Mod.satB (m : Mod) : Bool := m.bit 7
/-- OPX, MOD[8] (R18, R19). -/
def Mod.opxB (m : Mod) : Bool := m.bit 8
/-- POL, MOD[5:4] (R19). -/
def Mod.pol (m : Mod) : Pol := Pol.ofCode (m.bits 4 2)
/-- SCOPE, MOD[7:6] (R19). -/
def Mod.scope (m : Mod) : Scope := Scope.ofCode (m.bits 6 2)
/-- The 6-bit format code, MOD[5:0] (R150). -/
def Mod.fmt (m : Mod) : Fmt := Fmt.ofCode (m.bits 0 6)
/-- VOTE's op. -/
def Mod.voteOp (m : Mod) : VoteOp := VoteOp.ofCode (m.bits 0 2)
/-- SHFL's mode. -/
def Mod.shflMode (m : Mod) : ShflMode := ShflMode.ofCode (m.bits 4 2)
/-- LRED's and LSCAN's op. -/
def Mod.redOp (m : Mod) : RedOp := RedOp.ofCode (m.bits 4 3)
/-- FENCE's kind. -/
def Mod.fenceKind (m : Mod) : FenceKind := FenceKind.ofCode (m.bits 0 4)
/-- TLREAD's counter. -/
def Mod.tlCtr (m : Mod) : TlCtr := TlCtr.ofCode (m.bits 0 2)
/-- SRD and SWR move a pair (type 0x8) rather than a word (R121). -/
def Mod.wideB (m : Mod) : Bool := m.bit 3

/-- Place a field at bit lo of MOD. -/
def modAt (lo : Nat) {n : Nat} (x : BitVec n) : Mod := x.setWidth 9 <<< lo
/-- Place one bit of MOD. -/
def modB (i : Nat) (b : Bool) : Mod := modAt i (BitVec.ofBool b)
/-- Place TYPE. -/
def modT (t : Ty) : Mod := modAt 0 t.code
/-- Place RND. -/
def modRnd (r : Rnd) : Mod := modAt 4 r.code
/-- Place SAT. -/
def modSat (b : Bool) : Mod := modB 7 b
/-- Place OPX. -/
def modOpx (b : Bool) : Mod := modB 8 b
/-- Place POL. -/
def modPol (p : Pol) : Mod := modAt 4 p.code
/-- Place SCOPE. -/
def modScope (s : Scope) : Mod := modAt 6 s.code
/-- Place a format code. -/
def modFmt (f : Fmt) : Mod := modAt 0 f.code
/-- Place the type code 0x8 of a pair move. -/
def modWide (b : Bool) : Mod := modB 3 b

/-! ### Modifier checks (R20 to R23) -/

/-- No modifier bit. -/
def Mod.zero (m : Mod) : Bool := m == 0#9
/-- The arithmetic layout: the types accepted, the largest RND, and whether SAT and OPX have a meaning (R18). -/
def Mod.arith (m : Mod) (tys : List Ty) (rndMax : Nat) (sat opx : Bool) : Bool :=
  tys.contains m.ty && (m.bits 4 3).toNat ≤ rndMax && (sat || !m.satB) && (opx || !m.opxB)
/-- TYPE alone. -/
def Mod.tyOnly (m : Mod) (tys : List Ty) : Bool := tys.contains m.ty && m.bits 4 5 == 0#5
/-- WAITV (R104). -/
def Mod.waitv (m : Mod) : Bool :=
  [Ty.none, .s32, .n32, .s64, .n64].contains m.ty && (m.pol == .l2 || m.pol == .sys)
/-- VOTE (R114). -/
def Mod.vote (m : Mod) : Bool := (m.bits 0 2).toNat ≤ 2 && m.bits 2 7 == 0#7
/-- SHFL (R116). -/
def Mod.shfl (m : Mod) : Bool := [Ty.none, .n64].contains m.ty && m.bits 6 3 == 0#3
/-- LRED (R116): SAT only with .add on an integer type. -/
def Mod.redOk (m : Mod) : Bool :=
  (m.bits 4 3).toNat ≤ 5 && m.redOp.types.contains m.ty && (!m.satB || (m.redOp == .add && m.ty.isInt))
/-- LRED (R116). -/
def Mod.lred (m : Mod) : Bool := m.redOk && !m.opxB
/-- LSCAN (R116). -/
def Mod.lscan (m : Mod) : Bool := m.redOk
/-- The types CVT converts (R148). -/
def Ty.cvtOk (t : Ty) : Bool := t.isInt || t.isFloat || t == .e8m0
/-- CVT (R148). -/
def Mod.cvt (m : Mod) : Bool := m.ty.cvtOk && m.ty2.cvtOk
/-- The element format of a narrow form (R150). -/
def Mod.qfmt (m : Mod) : Bool := (m.bit 5 || !m.bit 4) && m.fmt.qOk
/-- MOD[8:6] holds a rounding mode (R150). -/
def Mod.rnd6Ok (m : Mod) : Bool := (m.bits 6 3).toNat ≤ 4
/-- TYPE of a load or store, with OPX only on TYPE 0x0 (R156). -/
def Mod.memx4 (m : Mod) : Bool := Ty.mem.contains m.ty && (!m.opxB || m.ty == .none)
/-- TYPE among a list and OPX clear. -/
def Mod.memT (m : Mod) (tys : List Ty) : Bool := tys.contains m.ty && !m.opxB
/-- SCOPE zero. -/
def Mod.scope0 (m : Mod) : Bool := m.scope == .sq
/-- POL zero. -/
def Mod.pol0 (m : Mod) : Bool := m.pol == .l1
/-- POL .l2 or .sys, and .sys where SCOPE is .sys (R166, R227). -/
def Mod.polScope (m : Mod) : Bool := (m.pol == .l2 || m.pol == .sys) && (m.scope != .sys || m.pol == .sys)
/-- CAS, LDACQ and STREL (R166). -/
def Mod.memSync (m : Mod) (tys : List Ty) (opx : Bool) : Bool :=
  tys.contains m.ty && m.polScope && (opx || !m.opxB)
/-- ATOM and RED: the type must be one the operation in FC accepts (R166, R167). -/
def Mod.atom (m : Mod) (fc : Opnd) : Bool :=
  (match fc with
   | .imm x => if x.toNat ≤ 8 then (AtomOp.ofImm x).types.contains m.ty
               else [Ty.none, .s32, .s64, .n32, .n64, .f32, .f64].contains m.ty
   | _ => [Ty.none, .s32, .s64, .n32, .n64, .f32, .f64].contains m.ty) && m.polScope
/-- FENCE (R166). -/
def Mod.fence (m : Mod) : Bool := (m.bits 0 4).toNat ≤ 2 && m.pol0 && !m.opxB
/-- TLSIG and TLWAIT (R174). -/
def Mod.tlScope (m : Mod) : Bool :=
  m.bits 0 6 == 0#6 && !m.opxB && (m.scope == .gp || m.scope == .dev)
/-- TLREAD (R174). -/
def Mod.tlread (m : Mod) : Bool := (m.bits 0 2).toNat ≤ 2 && m.bits 2 7 == 0#7
/-- DEQ (R174). -/
def Mod.deq (m : Mod) : Bool := m.bits 0 6 == 0#6
/-- Matrix commands (R197). -/
def Mod.matrix (m : Mod) (arr : Bool) : Bool := m.bits 6 3 == 0#3 && (arr || !m.bit 5)
/-- Binned forms (R227). -/
def Mod.binned (m : Mod) : Bool :=
  [Ty.f32, .f64].contains m.ty && m.polScope && m.scope != .sq && !m.opxB
/-- Only MOD[0]. -/
def Mod.bit0Only (m : Mod) : Bool := m.bits 1 8 == 0#8
/-- Only MOD[1:0]. -/
def Mod.low2 (m : Mod) : Bool := m.bits 2 7 == 0#7
/-- CCTL (R165). -/
def Mod.cctl (m : Mod) : Bool :=
  (m.bits 0 4).toNat ≤ 3 && m.pol0 && !m.opxB && (m.scope0 || (m.bits 0 4 == 2#4 && m.scope != .sys))

/-! ### Slots (R24 to R30) -/

/-- A slot the form does not use. -/
def Slot.no : Slot := { none := true, reads := false }
/-- Registers of an operand: a pair at 64 bits (R27). -/
def Slot.w2 (wid : Nat) (s : Slot) : Slot :=
  if wid = 64 then { s with wid := 64, align := 2, span := 2 } else { s with wid := wid }
/-- A v destination. -/
def Slot.vDst (wid : Nat) : Slot := Slot.w2 wid { v := true, dst := true, reads := false }
/-- The v destination of an integer form, which takes no HI (R127). -/
def Slot.vDstI (wid : Nat) : Slot := Slot.vDst wid
/-- A v destination that takes HI at 16 bits (R139, R122). -/
def Slot.fDst (wid : Nat) : Slot := { Slot.vDst wid with hi := wid == 16 }
/-- The slot is also read. -/
def Slot.readIf (s : Slot) (b : Bool) : Slot := { s with reads := s.reads || b }
/-- A source of kinds v, w and immediate. -/
def Slot.src (wid : Nat) (mods : Bool) : Slot :=
  Slot.w2 wid { v := true, w := true, imm := true, mods := mods, hi := wid == 16 }
/-- A floating-point source: v or w (R30). -/
def Slot.fsrc (wid : Nat) : Slot := { Slot.src wid true with imm := false }
/-- A v or w source. -/
def Slot.vw (wid : Nat) : Slot := { Slot.src wid false with imm := false }
/-- A v source. -/
def Slot.v' (wid : Nat) : Slot := { Slot.vw wid with w := false }
/-- A w register. -/
def Slot.wOnly : Slot := { w := true }
/-- A pair that holds an address. -/
def Slot.vwPair : Slot := Slot.vw 64
/-- A pair whose NEG and ABS are admitted (IMADW's addend). -/
def Slot.vwPairN : Slot := Slot.fsrc 64
/-- A w pair. -/
def Slot.wPair : Slot := { Slot.vwPair with v := false }
/-- A v or w register or an immediate. -/
def Slot.vwImm : Slot := Slot.src 32 false
/-- A w register or an immediate. -/
def Slot.wImm : Slot := { Slot.src 32 false with v := false }
/-- A w register, an immediate or nothing. -/
def Slot.wImmNone : Slot := { Slot.wImm with none := true }
/-- A w register or an immediate in a range. -/
def Slot.wImmR (lo up : Int) : Slot := { Slot.wImm with lo := lo, up := up }
/-- An immediate in a range. -/
def Slot.imm' (lo up : Int) : Slot := { imm := true, lo := lo, up := up }
/-- An immediate or nothing. -/
def Slot.immNone : Slot := { imm := true, none := true }
/-- Any immediate. -/
def Slot.immAny : Slot := { imm := true }
/-- A call code, 0 to 4,095, or nothing (R231). -/
def Slot.code : Slot := { imm := true, none := true, lo := 0 }
/-- A mask register. -/
def Slot.mask : Slot := { m := true }
/-- A mask register or nothing. -/
def Slot.maskNone : Slot := { m := true, none := true }
/-- A mask destination. -/
def Slot.maskDst : Slot := { m := true, dst := true, reads := false }
/-- BALLOT's destination. -/
def Slot.maskOrV : Slot := { m := true, v := true, dst := true, reads := false }
/-- BALLOT's part: named with a v destination, absent with a mask (R114). -/
def Slot.ballotPart (fd : Opnd) : Slot :=
  match fd with
  | .m _ => Slot.no
  | _ => Slot.imm' 0 3
/-- A predicate destination. -/
def Slot.qDst : Slot := { q := true, dst := true, reads := false }
/-- A predicate destination or nothing. -/
def Slot.qNoneDst : Slot := { Slot.qDst with none := true }
/-- A predicate source. -/
def Slot.qSrc : Slot := { q := true }
/-- A predicate or v destination (R128, R140). -/
def Slot.qv : Slot := { q := true, v := true, dst := true, reads := false }
/-- A v destination or nothing. -/
def Slot.vNoneDst (wid : Nat) : Slot := { Slot.vDst wid with none := true }
/-- The addend slot: absent when b. -/
def Slot.accOr (b : Bool) (s : Slot) : Slot := if b then Slot.no else s
/-- An address offset: immediate or register (R155); the literal is admitted by LIT. -/
def Slot.off : Slot := Slot.src 32 false
/-- The register or registers a load writes (R156). -/
def Slot.ldDst (m : Mod) : Slot :=
  if m.opxB then { v := true, dst := true, reads := false, align := 4, span := 4 }
  else { Slot.vDst m.ty.wid with hi := m.ty == .f16 || m.ty == .bf16 }
/-- The register or registers a store reads (R156). -/
def Slot.stData (m : Mod) : Slot :=
  if m.opxB then { v := true, w := true, align := 4, span := 4 }
  else Slot.vw m.ty.wid
/-- The destination of an atomic. -/
def Slot.atomDst (wid : Nat) : Slot := Slot.vNoneDst wid
/-- The operand of an atomic: floating types take no immediate (R167). -/
def Slot.atomB (t : Ty) : Slot := { Slot.src t.wid false with imm := !t.isFloat }
/-- Eight registers from a multiple of 8 (R174). -/
def Slot.block8 : Slot := { v := true, w := true, align := 8, span := 8 }
/-- Eight w registers from a multiple of 8. -/
def Slot.wBlock8 : Slot := { w := true, align := 8, span := 8 }
/-- LMM's parameter block, four w registers (R203). -/
def Slot.wBlock4 : Slot := { w := true, align := 4, span := 4 }
/-- DEQ's destination, sixteen w registers (R174). -/
def Slot.wBlock16Dst : Slot := { w := true, dst := true, reads := false, align := 16, span := 16 }
/-- n v registers read from a multiple of n or of k. -/
def Slot.vBlock (align span : Nat) : Slot := { v := true, align := align, span := span }
/-- n v registers written. -/
def Slot.vBlockDst (n : Nat) : Slot := { v := true, dst := true, reads := false, align := n, span := n }
/-- CVT's destination (R149). -/
def Slot.cvtDst (t : Ty) : Slot := if t.isFloat then Slot.fDst t.wid else Slot.vDst t.wid
/-- CVT's source (R148). -/
def Slot.cvtSrc (t : Ty) : Slot := { Slot.src t.wid true with imm := t.isInt }
/-- CVT's rounding mode (R148). -/
def Slot.cvtRnd : Slot := { imm := true, none := true, lo := 0, up := 4 }
/-- MOV's destination (R121). -/
def Slot.vkhDst (wid : Nat) : Slot := { Slot.fDst wid with kh := true }
/-- MOV's source; a floating type takes no immediate (R121, R30). -/
def Slot.movSrc (t : Ty) : Slot := { Slot.src t.wid false with kh := true, imm := !t.isFloat }
/-- A w destination. -/
def Slot.wDst (wid : Nat) : Slot := { Slot.vDst wid with v := false, w := true }
/-- MOVQ's destination (R124). -/
def Slot.movqD (all : Bool) : Slot :=
  if all then { v := true, none := true, dst := true, reads := false } else { Slot.qDst with v := true }
/-- MOVQ's source, by its destination (R124). -/
def Slot.movqA (all : Bool) (fd : Opnd) : Slot :=
  match all, fd with
  | true, .none => { v := true, w := true, imm := true }
  | true, _ => { none := true, reads := false }
  | false, .q _ _ => { q := true, v := true, w := true, imm := true }
  | false, _ => { q := true }
/-- A system register read (R121). -/
def Slot.sysSrc : Slot := { sys := true }
/-- A system register written (R121). -/
def Slot.sysDst : Slot := { sys := true, dst := true, reads := false }
/-- CCTL's address (R165). -/
def Slot.cctlA (m : Mod) : Slot := if m.bits 0 4 == 3#4 then Slot.no else Slot.vwPair
/-- CCTL's offset (R165). -/
def Slot.cctlB (m : Mod) : Slot := if m.bits 0 4 == 3#4 then Slot.no else Slot.off
/-- TLBINV's address (R248). -/
def Slot.tlbA (m : Mod) : Slot := if m.bits 0 2 == 0#2 then Slot.vwPair else Slot.no
/-- TLBINV's id (R248). -/
def Slot.tlbB (m : Mod) : Slot := if m.bits 0 2 == 3#2 then Slot.no else Slot.src 32 false
/-- STEPB's count (R231). -/
def Slot.stepN : Slot := { Slot.src 32 false with lo := 1 }
/-- QUNPK's scale (R150). -/
def Slot.srcNone : Slot := { Slot.src 32 false with none := true }

end Sys2Proof
end

