-- ==== Sys2Proof/Machine/FormTable.lean ====
section
/-! DEFINITION. The table of word forms (R41, R43) with the slots and modifier checks of each (spec/04 to spec/08), and the fields
each instruction stands for in its word. -/
namespace Sys2Proof

/-- One entry per form of R41: the opcode. -/
def Form.opc : Form → BitVec 10
  | .bra => 0x000#10
  | .brx => 0x001#10
  | .call => 0x002#10
  | .callx => 0x003#10
  | .ret => 0x004#10
  | .exit => 0x005#10
  | .nop => 0x006#10
  | .yield => 0x007#10
  | .meet => 0x008#10
  | .brk => 0x009#10
  | .waitv => 0x00A#10
  | .gjoin => 0x040#10
  | .gleave => 0x041#10
  | .gbar => 0x042#10
  | .garv => 0x043#10
  | .gwait => 0x044#10
  | .tkwait => 0x045#10
  | .tkpass => 0x046#10
  | .mjoin => 0x047#10
  | .mleave => 0x048#10
  | .mwait => 0x049#10
  | .mget => 0x04A#10
  | .mset => 0x04B#10
  | .vote => 0x04C#10
  | .ballot => 0x04D#10
  | .shfl => 0x04E#10
  | .lred => 0x04F#10
  | .lscan => 0x050#10
  | .lbcast => 0x051#10
  | .lmatch => 0x052#10
  | .iadd => 0x080#10
  | .isub => 0x081#10
  | .iadd3 => 0x082#10
  | .imul => 0x083#10
  | .imulh => 0x084#10
  | .imad => 0x085#10
  | .imadw => 0x086#10
  | .idiv => 0x087#10
  | .irem => 0x088#10
  | .imin => 0x089#10
  | .imax => 0x08A#10
  | .iabs => 0x08B#10
  | .ineg => 0x08C#10
  | .icmp => 0x08D#10
  | .isel => 0x08E#10
  | .iadd64 => 0x08F#10
  | .isub64 => 0x090#10
  | .imul64 => 0x091#10
  | .and => 0x0C0#10
  | .or => 0x0C1#10
  | .xor => 0x0C2#10
  | .not => 0x0C3#10
  | .blut => 0x0C4#10
  | .shl => 0x0C5#10
  | .shr => 0x0C6#10
  | .sra => 0x0C7#10
  | .rot => 0x0C8#10
  | .shcat => 0x0C9#10
  | .clz => 0x0CA#10
  | .ctz => 0x0CB#10
  | .popc => 0x0CC#10
  | .brev => 0x0CD#10
  | .bfx => 0x0CE#10
  | .bfi => 0x0CF#10
  | .bint => 0x0D0#10
  | .bdin => 0x0D1#10
  | .lea => 0x0D2#10
  | .lea64 => 0x0D3#10
  | .bsel => 0x0D4#10
  | .qlop => 0x0D5#10
  | .fadd => 0x100#10
  | .fsub => 0x101#10
  | .fmul => 0x102#10
  | .ffma => 0x103#10
  | .fmin => 0x104#10
  | .fmax => 0x105#10
  | .fcmp => 0x106#10
  | .fclass => 0x107#10
  | .frnd => 0x108#10
  | .hadd2 => 0x109#10
  | .hmul2 => 0x10B#10
  | .hfma2 => 0x10A#10
  | .fdot2 => 0x10C#10
  | .dadd => 0x140#10
  | .dmul => 0x141#10
  | .dfma => 0x142#10
  | .dmin => 0x143#10
  | .dmax => 0x144#10
  | .dcmp => 0x145#10
  | .frcp => 0x146#10
  | .frsq => 0x147#10
  | .fsqrt => 0x148#10
  | .fdiv => 0x149#10
  | .fex2 => 0x14A#10
  | .flg2 => 0x14B#10
  | .fsin => 0x14C#10
  | .fcos => 0x14D#10
  | .cvt => 0x180#10
  | .qscale => 0x181#10
  | .qcvt => 0x182#10
  | .qcvtEf => 0x183#10
  | .qpack => 0x184#10
  | .qunpk => 0x185#10
  | .qsplit => 0x186#10
  | .mov => 0x1C0#10
  | .movw => 0x1C1#10
  | .movq => 0x1C2#10
  | .srd => 0x1C3#10
  | .swr => 0x1C4#10
  | .ld => 0x200#10
  | .st => 0x201#10
  | .ldp => 0x202#10
  | .stp => 0x203#10
  | .lds => 0x204#10
  | .sts => 0x205#10
  | .stsa => 0x206#10
  | .ldw => 0x207#10
  | .pref => 0x208#10
  | .cctl => 0x209#10
  | .atom => 0x240#10
  | .cas => 0x241#10
  | .red => 0x242#10
  | .fence => 0x243#10
  | .ldacq => 0x244#10
  | .strel => 0x245#10
  | .cpy => 0x280#10
  | .tlsig => 0x281#10
  | .tlwait => 0x282#10
  | .tlread => 0x283#10
  | .wpwait => 0x284#10
  | .fork => 0x285#10
  | .rdv => 0x286#10
  | .shape => 0x287#10
  | .shdrop => 0x288#10
  | .xtbl => 0x289#10
  | .xform => 0x28A#10
  | .enq => 0x28B#10
  | .deq => 0x28C#10
  | .berth => 0x2C0#10
  | .unberth => 0x2C1#10
  | .mma => 0x2C2#10
  | .mmad => 0x2C3#10
  | .mzero => 0x2C4#10
  | .lmm => 0x2C5#10
  | .smp => 0x300#10
  | .smpl => 0x301#10
  | .smpg => 0x302#10
  | .smps => 0x303#10
  | .smpn => 0x304#10
  | .hdrinv => 0x305#10
  | .wcpin => 0x306#10
  | .wcunp => 0x307#10
  | .rndseq => 0x308#10
  | .raybox => 0x309#10
  | .raytri => 0x30A#10
  | .qysend => 0x340#10
  | .qyrecv => 0x341#10
  | .qyfree => 0x342#10
  | .rbexp => 0x343#10
  | .rbadd => 0x344#10
  | .rbres => 0x345#10
  | .sysc => 0x380#10
  | .sret => 0x381#10
  | .hcall => 0x382#10
  | .hret => 0x383#10
  | .ctxnew => 0x384#10
  | .ctxfree => 0x385#10
  | .ctxpin => 0x386#10
  | .sqact => 0x387#10
  | .sqpark => 0x388#10
  | .xacq => 0x389#10
  | .xrel => 0x38A#10
  | .regn => 0x38B#10
  | .tlbinv => 0x38C#10
  | .ordctl => 0x38D#10
  | .stepb => 0x38E#10

/-- The forms of opcode class 0x0, in position order (R41). -/
def Form.class0 : List Form :=
  [.bra, .brx, .call, .callx, .ret, .exit, .nop, .yield, .meet, .brk,
   .waitv]

/-- The forms of opcode class 0x1, in position order (R41). -/
def Form.class1 : List Form :=
  [.gjoin, .gleave, .gbar, .garv, .gwait, .tkwait, .tkpass, .mjoin, .mleave, .mwait,
   .mget, .mset, .vote, .ballot, .shfl, .lred, .lscan, .lbcast, .lmatch]

/-- The forms of opcode class 0x2, in position order (R41). -/
def Form.class2 : List Form :=
  [.iadd, .isub, .iadd3, .imul, .imulh, .imad, .imadw, .idiv, .irem, .imin,
   .imax, .iabs, .ineg, .icmp, .isel, .iadd64, .isub64, .imul64]

/-- The forms of opcode class 0x3, in position order (R41). -/
def Form.class3 : List Form :=
  [.and, .or, .xor, .not, .blut, .shl, .shr, .sra, .rot, .shcat,
   .clz, .ctz, .popc, .brev, .bfx, .bfi, .bint, .bdin, .lea, .lea64,
   .bsel, .qlop]

/-- The forms of opcode class 0x4, in position order (R41). -/
def Form.class4 : List Form :=
  [.fadd, .fsub, .fmul, .ffma, .fmin, .fmax, .fcmp, .fclass, .frnd, .hadd2,
   .hmul2, .hfma2, .fdot2]

/-- The forms of opcode class 0x5, in position order (R41). -/
def Form.class5 : List Form :=
  [.dadd, .dmul, .dfma, .dmin, .dmax, .dcmp, .frcp, .frsq, .fsqrt, .fdiv,
   .fex2, .flg2, .fsin, .fcos]

/-- The forms of opcode class 0x6, in position order (R41). -/
def Form.class6 : List Form :=
  [.cvt, .qscale, .qcvt, .qcvtEf, .qpack, .qunpk, .qsplit]

/-- The forms of opcode class 0x7, in position order (R41). -/
def Form.class7 : List Form :=
  [.mov, .movw, .movq, .srd, .swr]

/-- The forms of opcode class 0x8, in position order (R41). -/
def Form.class8 : List Form :=
  [.ld, .st, .ldp, .stp, .lds, .sts, .stsa, .ldw, .pref, .cctl]

/-- The forms of opcode class 0x9, in position order (R41). -/
def Form.class9 : List Form :=
  [.atom, .cas, .red, .fence, .ldacq, .strel]

/-- The forms of opcode class 0xA, in position order (R41). -/
def Form.classA : List Form :=
  [.cpy, .tlsig, .tlwait, .tlread, .wpwait, .fork, .rdv, .shape, .shdrop, .xtbl,
   .xform, .enq, .deq]

/-- The forms of opcode class 0xB, in position order (R41). -/
def Form.classB : List Form :=
  [.berth, .unberth, .mma, .mmad, .mzero, .lmm]

/-- The forms of opcode class 0xC, in position order (R41). -/
def Form.classC : List Form :=
  [.smp, .smpl, .smpg, .smps, .smpn, .hdrinv, .wcpin, .wcunp, .rndseq, .raybox,
   .raytri]

/-- The forms of opcode class 0xD, in position order (R41). -/
def Form.classD : List Form :=
  [.qysend, .qyrecv, .qyfree, .rbexp, .rbadd, .rbres]

/-- The forms of opcode class 0xE, in position order (R41). -/
def Form.classE : List Form :=
  [.sysc, .sret, .hcall, .hret, .ctxnew, .ctxfree, .ctxpin, .sqact, .sqpark, .xacq,
   .xrel, .regn, .tlbinv, .ordctl, .stepb]

/-- Every form, in opcode order (R41). -/
def Form.all : List Form :=
  List.flatten [class0, class1, class2, class3, class4, class5, class6, class7, class8, class9, classA, classB, classC, classD, classE]

/-- The form with a given opcode; none where R41 assigns none. -/
def formOfOpc (o : BitVec 10) : Option Form := Form.all.find? fun f => f.opc == o

/-- What each form accepts: its modifier check, its literal rule and its four slots. -/
def Form.spec (f : Form) (r : Raw) : Spec :=
  let m := r.mod
  match f with
  | .bra => ⟨m.zero, .req, .no, .no, .no, .no⟩  -- R95
  | .brx => ⟨m.zero, .no, .no, .vwPair, .no, .no⟩  -- R95
  | .call => ⟨m.zero, .req, .vDst 64, .no, .no, .no⟩  -- R95
  | .callx => ⟨m.zero, .no, .vDst 64, .vwPair, .no, .no⟩  -- R95
  | .ret => ⟨m.zero, .no, .no, .vwPair, .no, .no⟩  -- R95
  | .exit => ⟨m.zero, .no, .no, .no, .no, .no⟩  -- R95
  | .nop => ⟨m.zero, .no, .no, .no, .no, .no⟩  -- R95
  | .yield => ⟨m.zero, .no, .no, .no, .no, .no⟩  -- R95
  | .meet => ⟨m.zero, .req, .no, .mask, .no, .no⟩  -- R95
  | .brk => ⟨m.zero, .no, .no, .immNone, .no, .no⟩  -- R95
  | .waitv => ⟨m.waitv, .yes, .qDst, .vwPair, .src m.ty.wid false, .no⟩  -- R104
  | .gjoin => ⟨m.zero, .yes, .vNoneDst 32, .wImm, .wImm, .no⟩  -- R107
  | .gleave => ⟨m.zero, .no, .no, .no, .no, .no⟩  -- R107
  | .gbar => ⟨m.zero, .no, .no, .imm' 0 15, .no, .no⟩  -- R109
  | .garv => ⟨m.zero, .no, .no, .imm' 0 15, .no, .no⟩  -- R109
  | .gwait => ⟨m.zero, .no, .no, .imm' 0 15, .no, .no⟩  -- R109
  | .tkwait => ⟨m.zero, .no, .no, .imm' 0 3, .no, .no⟩  -- R112
  | .tkpass => ⟨m.zero, .no, .no, .imm' 0 3, .no, .no⟩  -- R112
  | .mjoin => ⟨m.zero, .no, .no, .mask, .no, .no⟩  -- R114
  | .mleave => ⟨m.zero, .no, .no, .mask, .no, .no⟩  -- R114
  | .mwait => ⟨m.zero, .no, .no, .mask, .no, .no⟩  -- R114
  | .mget => ⟨m.zero, .no, .vDst 32, .mask, .imm' 0 3, .no⟩  -- R114
  | .mset => ⟨m.zero, .yes, .maskDst, .imm' 0 3, .src 32 false, .no⟩  -- R114
  | .vote => ⟨m.vote, .no, .qDst, .qSrc, .no, .maskNone⟩  -- R114
  | .ballot => ⟨m.zero, .no, .maskOrV, .qSrc, .ballotPart r.fd, .maskNone⟩  -- R114
  | .shfl => ⟨m.shfl, .yes, .vDst m.ty.wid, .vw m.ty.wid, .src 32 false, .maskNone⟩  -- R116
  | .lred => ⟨m.lred, .no, .fDst m.ty.wid, .v' m.ty.wid, .no, .maskNone⟩  -- R116
  | .lscan => ⟨m.lscan, .no, .fDst m.ty.wid, .v' m.ty.wid, .no, .maskNone⟩  -- R116
  | .lbcast => ⟨m.tyOnly [.none, .n64], .yes, .vDst m.ty.wid, .v' m.ty.wid, .wImmNone, .maskNone⟩  -- R116
  | .lmatch => ⟨m.tyOnly [.none, .n64], .no, .vDst m.ty.wid, .v' m.ty.wid, .no, .maskNone⟩  -- R116
  | .iadd => ⟨m.arith Ty.N 0 true false, .yes, .vDstI m.ty.wid, .src m.ty.wid true, .src m.ty.wid true, .no⟩  -- R128
  | .isub => ⟨m.arith Ty.N 0 true false, .yes, .vDstI m.ty.wid, .src m.ty.wid true, .src m.ty.wid true, .no⟩  -- R128
  | .iadd3 => ⟨m.arith Ty.N 0 true false, .no, .vDstI m.ty.wid, .src m.ty.wid true, .src m.ty.wid true, .src m.ty.wid true⟩  -- R128
  | .imul => ⟨m.arith Ty.N 0 true false, .yes, .vDstI m.ty.wid, .src m.ty.wid true, .src m.ty.wid true, .no⟩  -- R128
  | .imulh => ⟨m.arith [.s32, .n32] 0 false false, .yes, .vDstI m.ty.wid, .src m.ty.wid true, .src m.ty.wid true, .no⟩  -- R128
  | .imad => ⟨m.arith Ty.N 0 true true, .acc, (Slot.vDstI m.ty.wid).readIf m.opxB, .src m.ty.wid true, .src m.ty.wid true, .accOr m.opxB (Slot.src m.ty.wid true)⟩  -- R128
  | .imadw => ⟨m.arith [.s32, .n32] 0 true true, .acc, (Slot.vDst 64).readIf m.opxB, .src 32 true, .src 32 true, .accOr m.opxB Slot.vwPairN⟩  -- R128
  | .idiv => ⟨m.arith Ty.N 0 true false, .yes, .vDstI m.ty.wid, .src m.ty.wid true, .src m.ty.wid true, .no⟩  -- R128
  | .irem => ⟨m.arith Ty.N 0 false false, .yes, .vDstI m.ty.wid, .src m.ty.wid true, .src m.ty.wid true, .no⟩  -- R128
  | .imin => ⟨m.arith Ty.N 0 false false, .yes, .vDstI m.ty.wid, .src m.ty.wid true, .src m.ty.wid true, .no⟩  -- R128
  | .imax => ⟨m.arith Ty.N 0 false false, .yes, .vDstI m.ty.wid, .src m.ty.wid true, .src m.ty.wid true, .no⟩  -- R128
  | .iabs => ⟨m.arith Ty.N 0 true false, .no, .vDstI m.ty.wid, .src m.ty.wid true, .no, .no⟩  -- R128
  | .ineg => ⟨m.arith Ty.N 0 true false, .no, .vDstI m.ty.wid, .src m.ty.wid true, .no, .no⟩  -- R128
  | .icmp => ⟨m.arith (Ty.N ++ [.s64, .n64]) 5 false false, .yes, .qv, .src m.ty.wid true, .src m.ty.wid true, .no⟩  -- R128
  | .isel => ⟨m.arith [.none, .n64] 0 false false, .no, .vDst m.ty.wid, .src m.ty.wid false, .src m.ty.wid false, .qSrc⟩  -- R128
  | .iadd64 => ⟨m.arith [.s64, .n64] 0 true false, .yes, .vDst 64, .src 64 true, .src 64 true, .no⟩  -- R128
  | .isub64 => ⟨m.arith [.s64, .n64] 0 true false, .yes, .vDst 64, .src 64 true, .src 64 true, .no⟩  -- R128
  | .imul64 => ⟨m.arith [.s64, .n64] 0 false true, .yes, .vDst 64, .src 64 true, .src 64 true, .no⟩  -- R128
  | .and => ⟨m.arith [.none, .n64] 0 false false, .yes, .vDst m.ty.wid, .src m.ty.wid false, .src m.ty.wid false, .no⟩  -- R132
  | .or => ⟨m.arith [.none, .n64] 0 false false, .yes, .vDst m.ty.wid, .src m.ty.wid false, .src m.ty.wid false, .no⟩  -- R132
  | .xor => ⟨m.arith [.none, .n64] 0 false false, .yes, .vDst m.ty.wid, .src m.ty.wid false, .src m.ty.wid false, .no⟩  -- R132
  | .not => ⟨m.arith [.none, .n64] 0 false false, .no, .vDst m.ty.wid, .src m.ty.wid false, .no, .no⟩  -- R132
  | .blut => ⟨m.arith [.none, .n64] 0 false false, .no, (Slot.vDst m.ty.wid).readIf true, .src m.ty.wid false, .src m.ty.wid false, .imm' 0 255⟩  -- R132
  | .shl => ⟨m.arith [.none, .n64] 0 false false, .yes, .vDst m.ty.wid, .src m.ty.wid false, .src 32 false, .no⟩  -- R132
  | .shr => ⟨m.arith [.none, .n64] 0 false false, .yes, .vDst m.ty.wid, .src m.ty.wid false, .src 32 false, .no⟩  -- R132
  | .sra => ⟨m.arith [.none, .n64] 0 false false, .yes, .vDst m.ty.wid, .src m.ty.wid false, .src 32 false, .no⟩  -- R132
  | .rot => ⟨m.arith [.none, .n64] 0 false true, .yes, .vDst m.ty.wid, .src m.ty.wid false, .src 32 false, .no⟩  -- R132
  | .shcat => ⟨m.arith [.none] 0 false true, .no, .vDst 32, .src 32 false, .src 32 false, .src 32 false⟩  -- R132
  | .clz => ⟨m.arith [.none, .n64] 0 false false, .no, .vDst 32, .src m.ty.wid false, .no, .no⟩  -- R132
  | .ctz => ⟨m.arith [.none, .n64] 0 false false, .no, .vDst 32, .src m.ty.wid false, .no, .no⟩  -- R132
  | .popc => ⟨m.arith [.none, .n64] 0 false false, .no, .vDst 32, .src m.ty.wid false, .no, .no⟩  -- R132
  | .brev => ⟨m.arith [.none, .n64] 0 false false, .no, .vDst m.ty.wid, .src m.ty.wid false, .no, .no⟩  -- R132
  | .bfx => ⟨m.arith [.s32, .n32] 0 false false, .no, .vDst 32, .src 32 false, .src 32 false, .src 32 false⟩  -- R132
  | .bfi => ⟨m.arith [.none] 0 false false, .no, (Slot.vDst 32).readIf true, .src 32 false, .src 32 false, .src 32 false⟩  -- R132
  | .bint => ⟨m.arith [.none, .n64] 0 false true, .bint, .vDst m.ty.wid, .src m.ty.wid false, .src m.ty.wid false, .accOr (!m.opxB) (Slot.src m.ty.wid false)⟩  -- R132
  | .bdin => ⟨m.arith [.none, .n64] 0 false true, .no, .vDst 32, .src m.ty.wid false, .imm' 0 (if m.opxB then 2 else 1), .no⟩  -- R132
  | .lea => ⟨m.arith [.none] 0 false false, .no, .vDst 32, .src 32 false, .src 32 false, .imm' 0 31⟩  -- R132
  | .lea64 => ⟨m.arith [.s32, .n32] 0 false false, .no, .vDst 64, .vwPair, .src 32 false, .imm' 0 31⟩  -- R132
  | .bsel => ⟨m.arith [.none] 0 false false, .no, .vDst 32, .src 32 false, .src 32 false, .src 32 false⟩  -- R132
  | .qlop => ⟨m.arith [.none] 0 false false, .no, Slot.qDst.readIf true, .qSrc, .qSrc, .imm' 0 255⟩  -- R132
  | .fadd => ⟨m.arith [.f16, .bf16, .f32] 4 true false, .yes, .fDst m.ty.wid, .fsrc m.ty.wid, .fsrc m.ty.wid, .no⟩  -- R140
  | .fsub => ⟨m.arith [.f16, .bf16, .f32] 4 true false, .yes, .fDst m.ty.wid, .fsrc m.ty.wid, .fsrc m.ty.wid, .no⟩  -- R140
  | .fmul => ⟨m.arith [.f16, .bf16, .f32] 4 true false, .yes, .fDst m.ty.wid, .fsrc m.ty.wid, .fsrc m.ty.wid, .no⟩  -- R140
  | .ffma => ⟨m.arith [.f16, .bf16, .f32] 4 true true, .acc, (Slot.fDst m.ty.wid).readIf m.opxB, .fsrc m.ty.wid, .fsrc m.ty.wid, .accOr m.opxB (Slot.fsrc m.ty.wid)⟩  -- R140
  | .fmin => ⟨m.arith [.f16, .bf16, .f32] 0 false false, .yes, .fDst m.ty.wid, .fsrc m.ty.wid, .fsrc m.ty.wid, .no⟩  -- R140
  | .fmax => ⟨m.arith [.f16, .bf16, .f32] 0 false false, .yes, .fDst m.ty.wid, .fsrc m.ty.wid, .fsrc m.ty.wid, .no⟩  -- R140
  | .fcmp => ⟨m.arith [.f16, .bf16, .f32] 7 false false, .yes, .qv, .fsrc m.ty.wid, .fsrc m.ty.wid, .no⟩  -- R140
  | .fclass => ⟨m.arith [.f16, .bf16, .f32, .f64] 0 false false, .no, .vDst 32, .fsrc m.ty.wid, .no, .no⟩  -- R140
  | .frnd => ⟨m.arith [.f16, .bf16, .f32] 3 false true, .no, .fDst m.ty.wid, .fsrc m.ty.wid, .no, .no⟩  -- R140
  | .hadd2 => ⟨m.arith [.f16, .bf16] 4 true false, .yes, .vDst 32, .fsrc 32, .fsrc 32, .no⟩  -- R140
  | .hmul2 => ⟨m.arith [.f16, .bf16] 4 true false, .yes, .vDst 32, .fsrc 32, .fsrc 32, .no⟩  -- R140
  | .hfma2 => ⟨m.arith [.f16, .bf16] 4 true true, .acc, (Slot.vDst 32).readIf m.opxB, .fsrc 32, .fsrc 32, .accOr m.opxB (Slot.fsrc 32)⟩  -- R140
  | .fdot2 => ⟨m.arith [.f16, .bf16] 4 true true, .acc, (Slot.vDst 32).readIf m.opxB, .fsrc 32, .fsrc 32, .accOr m.opxB (Slot.fsrc 32)⟩  -- R140
  | .dadd => ⟨m.arith [.f64] 3 true false, .yes, .vDst 64, .fsrc 64, .fsrc 64, .no⟩  -- R146
  | .dmul => ⟨m.arith [.f64] 3 true false, .yes, .vDst 64, .fsrc 64, .fsrc 64, .no⟩  -- R146
  | .dfma => ⟨m.arith [.f64] 3 true true, .acc, (Slot.vDst 64).readIf m.opxB, .fsrc 64, .fsrc 64, .accOr m.opxB (Slot.fsrc 64)⟩  -- R146
  | .dmin => ⟨m.arith [.f64] 0 false false, .yes, .vDst 64, .fsrc 64, .fsrc 64, .no⟩  -- R146
  | .dmax => ⟨m.arith [.f64] 0 false false, .yes, .vDst 64, .fsrc 64, .fsrc 64, .no⟩  -- R146
  | .dcmp => ⟨m.arith [.f64] 7 false false, .yes, .qv, .fsrc 64, .fsrc 64, .no⟩  -- R146
  | .frcp => ⟨m.arith [.f32, .f64] 3 true false, .no, .vDst m.ty.wid, .fsrc m.ty.wid, .no, .no⟩  -- R146
  | .frsq => ⟨m.arith [.f32, .f64] 3 true false, .no, .vDst m.ty.wid, .fsrc m.ty.wid, .no, .no⟩  -- R146
  | .fsqrt => ⟨m.arith [.f32, .f64] 3 true false, .no, .vDst m.ty.wid, .fsrc m.ty.wid, .no, .no⟩  -- R146
  | .fdiv => ⟨m.arith [.f32, .f64] 3 true false, .yes, .vDst m.ty.wid, .fsrc m.ty.wid, .fsrc m.ty.wid, .no⟩  -- R146
  | .fex2 => ⟨m.arith [.f32] 0 true false, .no, .vDst 32, .fsrc 32, .no, .no⟩  -- R146
  | .flg2 => ⟨m.arith [.f32] 0 true false, .no, .vDst 32, .fsrc 32, .no, .no⟩  -- R146
  | .fsin => ⟨m.arith [.f32] 0 false false, .no, .vDst 32, .fsrc 32, .no, .no⟩  -- R146
  | .fcos => ⟨m.arith [.f32] 0 false false, .no, .vDst 32, .fsrc 32, .no, .no⟩  -- R146
  | .cvt => ⟨m.cvt, .yes, .cvtDst m.ty2, .no, .cvtSrc m.ty, .cvtRnd⟩  -- R148
  | .qscale => ⟨m.qfmt && m.rnd6Ok, .no, .vDst 32, .fsrc 32, .imm' 1 64, .maskNone⟩  -- R150
  | .qcvt => ⟨m.qfmt && m.rnd6Ok, .yes, .vDst 32, .fsrc 32, .src 32 false, .no⟩  -- R150
  | .qcvtEf => ⟨m.qfmt && m.rnd6Ok, .yes, (Slot.vDst 32).readIf true, .fsrc 32, .src 32 false, .no⟩  -- R150
  | .qpack => ⟨m.qfmt && !m.bit 6 && !m.bit 7, .no, (Slot.vDst 32).readIf true, .src 32 false, .imm' 0 (m.fmt.selMax), .no⟩  -- R150
  | .qunpk => ⟨m.qfmt && !m.bit 6 && !m.bit 7 && !m.bit 8, .no, .vDst 32, .src 32 false, .imm' 0 (m.fmt.selMax), .srcNone⟩  -- R150
  | .qsplit => ⟨(m == 0x00B#9), .no, .vDst 32, .fsrc 32, .src 32 false, .src 32 false⟩  -- R150
  | .mov => ⟨m.arith [.none, .s16, .n16, .f16, .bf16, .s64, .n64] 0 false false, .yes, .vkhDst m.ty.wid, .no, .movSrc m.ty, .no⟩  -- R121
  | .movw => ⟨m.arith [.none, .s64, .n64] 0 false false, .yes, .wDst m.ty.wid, .no, .src m.ty.wid false, .no⟩  -- R121
  | .movq => ⟨m.arith [.none] 0 false true, .no, .movqD m.opxB, .movqA m.opxB r.fd, .no, .no⟩  -- R121
  | .srd => ⟨m.arith [.none, .n64] 0 false false, .no, .vDst m.ty.wid, .sysSrc, .no, .no⟩  -- R121
  | .swr => ⟨m.arith [.none, .n64] 0 false false, .yes, .sysDst, .no, .src m.ty.wid false, .no⟩  -- R121
  | .ld => ⟨m.memx4 && m.scope0, .yes, .ldDst m, .vwPair, .off, .no⟩  -- R158
  | .st => ⟨m.memx4 && m.scope0, .yes, .stData m, .vwPair, .off, .no⟩  -- R158
  | .ldp => ⟨m.memx4 && m.scope0 && m.pol0, .yes, .ldDst m, .vwImm, .off, .no⟩  -- R158
  | .stp => ⟨m.memx4 && m.scope0 && m.pol0, .yes, .stData m, .vwImm, .off, .no⟩  -- R158
  | .lds => ⟨m.memx4 && m.scope0 && m.pol0, .yes, .ldDst m, .vwImm, .off, .no⟩  -- R158
  | .sts => ⟨m.memx4 && m.scope0 && m.pol0, .yes, .stData m, .vwImm, .off, .no⟩  -- R158
  | .stsa => ⟨m.memT [.s32, .n32, .f32] && m.scope0 && m.pol0, .yes, .stData m, .vwImm, .off, .no⟩  -- R158
  | .ldw => ⟨m.memT [.none, .s32, .s64, .n32, .n64, .f32, .f64] && m.scope0, .yes, .wDst m.ty.wid, .vwPair, .off, .no⟩  -- R158
  | .pref => ⟨m.memT [.none] && m.scope0 && !(m.pol == .str), .yes, .no, .vwPair, .off, .no⟩  -- R158
  | .cctl => ⟨m.cctl, .cctl, .no, .cctlA m, .cctlB m, .no⟩  -- R158
  | .atom => ⟨m.atom r.fc, .no, .atomDst m.ty.wid, .vwPair, .atomB m.ty, .imm' 0 8⟩  -- R166
  | .cas => ⟨m.memSync [.none, .s32, .s64, .n32, .n64] true, .no, .atomDst m.ty.wid, .vwPair, .src m.ty.wid false, .src m.ty.wid false⟩  -- R166
  | .red => ⟨m.atom r.fc, .no, .no, .vwPair, .atomB m.ty, .imm' 0 5⟩  -- R166
  | .fence => ⟨m.fence, .no, .no, .no, .no, .no⟩  -- R166
  | .ldacq => ⟨m.memSync Ty.mem false, .yes, .ldDst m, .vwPair, .off, .no⟩  -- R166
  | .strel => ⟨m.memSync Ty.mem false, .yes, .stData m, .vwPair, .off, .no⟩  -- R166
  | .cpy => ⟨m.zero, .no, .vNoneDst 64, .block8, .imm' 0 15, .no⟩  -- R174
  | .tlsig => ⟨m.tlScope, .no, .vNoneDst 64, .imm' 0 15, .no, .no⟩  -- R174
  | .tlwait => ⟨m.tlScope, .yes, .qNoneDst, .imm' 0 15, .src 64 false, .no⟩  -- R174
  | .tlread => ⟨m.tlread, .no, .vDst 64, .imm' 0 15, .no, .no⟩  -- R174
  | .wpwait => ⟨m.zero, .no, .qNoneDst, .imm' 0 15, .vwPair, .src 32 false⟩  -- R174
  | .fork => ⟨m.zero, .no, .vDst 64, .imm' 1 15, .wBlock8, .no⟩  -- R174
  | .rdv => ⟨m.zero, .no, .qNoneDst, .vwPair, .no, .no⟩  -- R174
  | .shape => ⟨m.zero, .no, .vDst 64, .vwPair, .no, .no⟩  -- R174
  | .shdrop => ⟨m.zero, .no, .no, .vw 32, .no, .no⟩  -- R174
  | .xtbl => ⟨m.zero, .no, .vDst 64, .vwPair, .no, .no⟩  -- R174
  | .xform => ⟨m.zero, .no, .vNoneDst 64, .block8, .imm' 0 15, .no⟩  -- R174
  | .enq => ⟨m.zero, .no, .qNoneDst, .wImmR 0 255, .vwPair, .no⟩  -- R174
  | .deq => ⟨m.deq, .no, .wBlock16Dst, .wImmR 0 255, .no, .no⟩  -- R174
  | .berth => ⟨m.zero, .no, .vDst 64, .vwPair, .no, .no⟩  -- R194
  | .unberth => ⟨m.zero, .no, .no, .vw 32, .no, .no⟩  -- R194
  | .mma => ⟨m.matrix false, .no, .wOnly, .wOnly, .wOnly, .no⟩  -- R197
  | .mmad => ⟨m.matrix false, .no, .wOnly, .wOnly, .wOnly, .wOnly⟩  -- R197
  | .mzero => ⟨m.matrix true, .no, .wOnly, .no, .no, .no⟩  -- R197
  | .lmm => ⟨m.matrix false, .no, .wOnly, .wBlock4, .no, .no⟩  -- R197
  | .smp => ⟨m.zero, .no, .vBlockDst 4, .wPair, .vBlock 4 3, .no⟩  -- R204
  | .smpl => ⟨m.zero, .no, .vBlockDst 4, .wPair, .vBlock 4 3, .vw 32⟩  -- R204
  | .smpg => ⟨m.zero, .no, .vBlockDst 4, .wPair, .vBlock 4 3, .imm' 0 3⟩  -- R204
  | .smps => ⟨m.zero, .no, .vBlockDst 4, .wPair, .vBlock 4 3, .vBlock 4 3⟩  -- R204
  | .smpn => ⟨m.zero, .no, .vBlockDst 4, .wPair, .vBlock 4 2, .no⟩  -- R204
  | .hdrinv => ⟨m.zero, .no, .no, .vwPair, .no, .no⟩  -- R204
  | .wcpin => ⟨m.zero, .no, .qNoneDst, .vwPair, .no, .no⟩  -- R204
  | .wcunp => ⟨m.zero, .no, .no, .vwPair, .no, .no⟩  -- R204
  | .rndseq => ⟨m.bit0Only, .no, .vDst 32, .src 32 false, .vwPair, .no⟩  -- R217
  | .raybox => ⟨m.zero, .no, .vDst 64, .vBlock 8 8, .vwPair, .no⟩  -- R218
  | .raytri => ⟨m.bit0Only, .no, .vBlockDst 4, .vBlock 8 8, .vwPair, .no⟩  -- R218
  | .qysend => ⟨m.zero, .no, .no, .v' 32, .immAny, .no⟩  -- R221
  | .qyrecv => ⟨m.zero, .no, .vDst 32, .immAny, .no, .no⟩  -- R221
  | .qyfree => ⟨m.zero, .no, .vDst 32, .immAny, .no, .no⟩  -- R221
  | .rbexp => ⟨m.binned, .no, .no, .vwPair, .vw m.ty.wid, .no⟩  -- R227
  | .rbadd => ⟨m.binned, .no, .no, .vwPair, .vw m.ty.wid, .no⟩  -- R227
  | .rbres => ⟨m.binned, .no, .vDst m.ty.wid, .vwPair, .no, .no⟩  -- R227
  | .sysc => ⟨m.zero, .no, .no, .code, .no, .no⟩  -- R231
  | .sret => ⟨m.zero, .no, .no, .no, .no, .no⟩  -- R231
  | .hcall => ⟨m.zero, .no, .no, .code, .no, .no⟩  -- R231
  | .hret => ⟨m.zero, .no, .no, .no, .no, .no⟩  -- R231
  | .ctxnew => ⟨m.zero, .no, .vDst 32, .vwPair, .vwPair, .no⟩  -- R231
  | .ctxfree => ⟨m.zero, .no, .vDst 32, .vwPair, .no, .no⟩  -- R231
  | .ctxpin => ⟨m.bit0Only, .no, .vDst 32, .vwPair, .no, .no⟩  -- R231
  | .sqact => ⟨m.zero, .no, .vDst 32, .vwPair, .no, .no⟩  -- R231
  | .sqpark => ⟨m.bit0Only, .no, .vDst 32, .vwPair, .no, .no⟩  -- R231
  | .xacq => ⟨m.zero, .no, .no, .no, .no, .no⟩  -- R231
  | .xrel => ⟨m.zero, .no, .no, .no, .no, .no⟩  -- R231
  | .regn => ⟨m.zero, .no, .no, .no, .no, .no⟩  -- R231
  | .tlbinv => ⟨m.low2, .no, .no, .tlbA m, .tlbB m, .no⟩  -- R231
  | .ordctl => ⟨m.low2, .no, .vDst 32, .vwPair, .no, .no⟩  -- R231
  | .stepb => ⟨m.zero, .no, .vDst 32, .vwPair, .stepN, .no⟩  -- R231

/-- The fields of the word an instruction stands for; none for a clause header and for an event. -/
def Instr.raw : Instr → Option Raw
  | .bra h disp => some ⟨.bra, h, 0#9, .none, .none, disp, .none⟩
  | .brx h va => some ⟨.brx, h, 0#9, .none, va, .none, .none⟩
  | .call h d disp => some ⟨.call, h, 0#9, d, .none, disp, .none⟩
  | .callx h d va => some ⟨.callx, h, 0#9, d, va, .none, .none⟩
  | .ret h va => some ⟨.ret, h, 0#9, .none, va, .none, .none⟩
  | .exit h => some ⟨.exit, h, 0#9, .none, .none, .none, .none⟩
  | .nop h => some ⟨.nop, h, 0#9, .none, .none, .none, .none⟩
  | .yield h => some ⟨.yield, h, 0#9, .none, .none, .none, .none⟩
  | .meet h a disp => some ⟨.meet, h, 0#9, .none, a, disp, .none⟩
  | .brk h code => some ⟨.brk, h, 0#9, .none, code, .none, .none⟩
  | .waitv h t pol tmo d va e => some ⟨.waitv, h, modT t ||| modPol pol ||| modAt 6 tmo, d, va, e, .none⟩
  | .gjoin h d cnt key => some ⟨.gjoin, h, 0#9, d, cnt, key, .none⟩
  | .gleave h => some ⟨.gleave, h, 0#9, .none, .none, .none, .none⟩
  | .gbar h b => some ⟨.gbar, h, 0#9, .none, b, .none, .none⟩
  | .garv h b => some ⟨.garv, h, 0#9, .none, b, .none, .none⟩
  | .gwait h b => some ⟨.gwait, h, 0#9, .none, b, .none, .none⟩
  | .tkwait h tk => some ⟨.tkwait, h, 0#9, .none, tk, .none, .none⟩
  | .tkpass h tk => some ⟨.tkpass, h, 0#9, .none, tk, .none, .none⟩
  | .mjoin h a => some ⟨.mjoin, h, 0#9, .none, a, .none, .none⟩
  | .mleave h a => some ⟨.mleave, h, 0#9, .none, a, .none, .none⟩
  | .mwait h a => some ⟨.mwait, h, 0#9, .none, a, .none, .none⟩
  | .mget h d a part => some ⟨.mget, h, 0#9, d, a, part, .none⟩
  | .mset h d part x => some ⟨.mset, h, 0#9, d, part, x, .none⟩
  | .vote h op d a mc => some ⟨.vote, h, modAt 0 op.code, d, a, .none, mc⟩
  | .ballot h d a part mc => some ⟨.ballot, h, 0#9, d, a, part, mc⟩
  | .shfl h md t d a b mc => some ⟨.shfl, h, modT t ||| modAt 4 md.code, d, a, b, mc⟩
  | .lred h op t sat d a mc => some ⟨.lred, h, modT t ||| modAt 4 op.code ||| modSat sat, d, a, .none, mc⟩
  | .lscan h op exc t sat d a mc => some ⟨.lscan, h, modT t ||| modAt 4 op.code ||| modSat sat ||| modOpx exc, d, a, .none, mc⟩
  | .lbcast h t d a ls mc => some ⟨.lbcast, h, modT t, d, a, ls, mc⟩
  | .lmatch h t d a mc => some ⟨.lmatch, h, modT t, d, a, .none, mc⟩
  | .iadd h t sat d a b => some ⟨.iadd, h, modT t ||| modSat sat, d, a, b, .none⟩
  | .isub h t sat d a b => some ⟨.isub, h, modT t ||| modSat sat, d, a, b, .none⟩
  | .iadd3 h t sat d a b c => some ⟨.iadd3, h, modT t ||| modSat sat, d, a, b, c⟩
  | .imul h t sat d a b => some ⟨.imul, h, modT t ||| modSat sat, d, a, b, .none⟩
  | .imulh h t d a b => some ⟨.imulh, h, modT t, d, a, b, .none⟩
  | .imad h t sat acc d a b c => some ⟨.imad, h, modT t ||| modSat sat ||| modOpx acc, d, a, b, c⟩
  | .imadw h t sat acc d a b c => some ⟨.imadw, h, modT t ||| modSat sat ||| modOpx acc, d, a, b, c⟩
  | .idiv h t sat d a b => some ⟨.idiv, h, modT t ||| modSat sat, d, a, b, .none⟩
  | .irem h t d a b => some ⟨.irem, h, modT t, d, a, b, .none⟩
  | .imin h t d a b => some ⟨.imin, h, modT t, d, a, b, .none⟩
  | .imax h t d a b => some ⟨.imax, h, modT t, d, a, b, .none⟩
  | .iabs h t sat d a => some ⟨.iabs, h, modT t ||| modSat sat, d, a, .none, .none⟩
  | .ineg h t sat d a => some ⟨.ineg, h, modT t ||| modSat sat, d, a, .none, .none⟩
  | .icmp h cc t d a b => some ⟨.icmp, h, modT t ||| modAt 4 cc, d, a, b, .none⟩
  | .isel h t d a b c => some ⟨.isel, h, modT t, d, a, b, c⟩
  | .iadd64 h t sat d a b => some ⟨.iadd64, h, modT t ||| modSat sat, d, a, b, .none⟩
  | .isub64 h t sat d a b => some ⟨.isub64, h, modT t ||| modSat sat, d, a, b, .none⟩
  | .imul64 h t hi d a b => some ⟨.imul64, h, modT t ||| modOpx hi, d, a, b, .none⟩
  | .and h t d a b => some ⟨.and, h, modT t, d, a, b, .none⟩
  | .or h t d a b => some ⟨.or, h, modT t, d, a, b, .none⟩
  | .xor h t d a b => some ⟨.xor, h, modT t, d, a, b, .none⟩
  | .not h t d a => some ⟨.not, h, modT t, d, a, .none, .none⟩
  | .blut h t d a b lut => some ⟨.blut, h, modT t, d, a, b, lut⟩
  | .shl h t d a sh => some ⟨.shl, h, modT t, d, a, sh, .none⟩
  | .shr h t d a sh => some ⟨.shr, h, modT t, d, a, sh, .none⟩
  | .sra h t d a sh => some ⟨.sra, h, modT t, d, a, sh, .none⟩
  | .rot h t right d a sh => some ⟨.rot, h, modT t ||| modOpx right, d, a, sh, .none⟩
  | .shcat h left d lo hi sh => some ⟨.shcat, h, modOpx left, d, lo, hi, sh⟩
  | .clz h t d a => some ⟨.clz, h, modT t, d, a, .none, .none⟩
  | .ctz h t d a => some ⟨.ctz, h, modT t, d, a, .none, .none⟩
  | .popc h t d a => some ⟨.popc, h, modT t, d, a, .none, .none⟩
  | .brev h t d a => some ⟨.brev, h, modT t, d, a, .none, .none⟩
  | .bfx h t d a pos len => some ⟨.bfx, h, modT t, d, a, pos, len⟩
  | .bfi h d ins pos len => some ⟨.bfi, h, 0#9, d, ins, pos, len⟩
  | .bint h t three d a b c => some ⟨.bint, h, modT t ||| modOpx three, d, a, b, c⟩
  | .bdin h t three d a k => some ⟨.bdin, h, modT t ||| modOpx three, d, a, k, .none⟩
  | .lea h d a b sc => some ⟨.lea, h, 0#9, d, a, b, sc⟩
  | .lea64 h t d a b sc => some ⟨.lea64, h, modT t, d, a, b, sc⟩
  | .bsel h d a b sel => some ⟨.bsel, h, 0#9, d, a, b, sel⟩
  | .qlop h d a b lut => some ⟨.qlop, h, 0#9, d, a, b, lut⟩
  | .fadd h t rnd sat d a b => some ⟨.fadd, h, modT t ||| modRnd rnd ||| modSat sat, d, a, b, .none⟩
  | .fsub h t rnd sat d a b => some ⟨.fsub, h, modT t ||| modRnd rnd ||| modSat sat, d, a, b, .none⟩
  | .fmul h t rnd sat d a b => some ⟨.fmul, h, modT t ||| modRnd rnd ||| modSat sat, d, a, b, .none⟩
  | .ffma h t rnd sat acc d a b c => some ⟨.ffma, h, modT t ||| modRnd rnd ||| modSat sat ||| modOpx acc, d, a, b, c⟩
  | .fmin h t d a b => some ⟨.fmin, h, modT t, d, a, b, .none⟩
  | .fmax h t d a b => some ⟨.fmax, h, modT t, d, a, b, .none⟩
  | .fcmp h cc t d a b => some ⟨.fcmp, h, modT t ||| modAt 4 cc, d, a, b, .none⟩
  | .fclass h t d a => some ⟨.fclass, h, modT t, d, a, .none, .none⟩
  | .frnd h t rnd ex d a => some ⟨.frnd, h, modT t ||| modRnd rnd ||| modOpx ex, d, a, .none, .none⟩
  | .hadd2 h t rnd sat d a b => some ⟨.hadd2, h, modT t ||| modRnd rnd ||| modSat sat, d, a, b, .none⟩
  | .hmul2 h t rnd sat d a b => some ⟨.hmul2, h, modT t ||| modRnd rnd ||| modSat sat, d, a, b, .none⟩
  | .hfma2 h t rnd sat acc d a b c => some ⟨.hfma2, h, modT t ||| modRnd rnd ||| modSat sat ||| modOpx acc, d, a, b, c⟩
  | .fdot2 h t rnd sat acc d a b c => some ⟨.fdot2, h, modT t ||| modRnd rnd ||| modSat sat ||| modOpx acc, d, a, b, c⟩
  | .dadd h rnd sat d a b => some ⟨.dadd, h, modT .f64 ||| modRnd rnd ||| modSat sat, d, a, b, .none⟩
  | .dmul h rnd sat d a b => some ⟨.dmul, h, modT .f64 ||| modRnd rnd ||| modSat sat, d, a, b, .none⟩
  | .dfma h rnd sat acc d a b c => some ⟨.dfma, h, modT .f64 ||| modRnd rnd ||| modSat sat ||| modOpx acc, d, a, b, c⟩
  | .dmin h d a b => some ⟨.dmin, h, modT .f64, d, a, b, .none⟩
  | .dmax h d a b => some ⟨.dmax, h, modT .f64, d, a, b, .none⟩
  | .dcmp h cc d a b => some ⟨.dcmp, h, modT .f64 ||| modAt 4 cc, d, a, b, .none⟩
  | .frcp h t rnd sat d a => some ⟨.frcp, h, modT t ||| modRnd rnd ||| modSat sat, d, a, .none, .none⟩
  | .frsq h t rnd sat d a => some ⟨.frsq, h, modT t ||| modRnd rnd ||| modSat sat, d, a, .none, .none⟩
  | .fsqrt h t rnd sat d a => some ⟨.fsqrt, h, modT t ||| modRnd rnd ||| modSat sat, d, a, .none, .none⟩
  | .fdiv h t rnd sat d a b => some ⟨.fdiv, h, modT t ||| modRnd rnd ||| modSat sat, d, a, b, .none⟩
  | .fex2 h sat d a => some ⟨.fex2, h, modT .f32 ||| modSat sat, d, a, .none, .none⟩
  | .flg2 h sat d a => some ⟨.flg2, h, modT .f32 ||| modSat sat, d, a, .none, .none⟩
  | .fsin h d a => some ⟨.fsin, h, modT .f32, d, a, .none, .none⟩
  | .fcos h d a => some ⟨.fcos, h, modT .f32, d, a, .none, .none⟩
  | .cvt h src tgt sat d x rc => some ⟨.cvt, h, modT src ||| modAt 4 tgt.code ||| modOpx sat, d, .none, x, rc⟩
  | .qscale h fmt rnd d x n mc => some ⟨.qscale, h, modFmt fmt ||| modAt 6 rnd.code, d, x, n, mc⟩
  | .qcvt h fmt rnd d x sc => some ⟨.qcvt, h, modFmt fmt ||| modAt 6 rnd.code, d, x, sc, .none⟩
  | .qcvtEf h fmt rnd d x sc => some ⟨.qcvtEf, h, modFmt fmt ||| modAt 6 rnd.code, d, x, sc, .none⟩
  | .qpack h fmt sc d code sel => some ⟨.qpack, h, modFmt fmt ||| modOpx sc, d, code, sel, .none⟩
  | .qunpk h fmt d x sel sc => some ⟨.qunpk, h, modFmt fmt, d, x, sel, sc⟩
  | .qsplit h d x c dd => some ⟨.qsplit, h, 0x00B#9, d, x, c, dd⟩
  | .mov h t d x => some ⟨.mov, h, modT t, d, .none, x, .none⟩
  | .movw h t d x => some ⟨.movw, h, modT t, d, .none, x, .none⟩
  | .movq h d x => some ⟨.movq, h, 0#9, d, x, .none, .none⟩
  | .movqAll h d x => some ⟨.movq, h, modOpx true, d, x, .none, .none⟩
  | .srd h wide d sr => some ⟨.srd, h, modWide wide, d, sr, .none, .none⟩
  | .moorWrite h wide tm x => some ⟨.swr, h, modWide wide, (.sys (if tm then 6#10 else 1#10)), .none, x, .none⟩
  | .regoWrite h wide x => some ⟨.swr, h, modWide wide, (.sys 0x010#10), .none, x, .none⟩
  | .privlWrite h wide x => some ⟨.swr, h, modWide wide, (.sys 0x026#10), .none, x, .none⟩
  | .swr h wide d x => some ⟨.swr, h, modWide wide, d, .none, x, .none⟩
  | .ld h t x4 pol d va off => some ⟨.ld, h, modT t ||| modOpx x4 ||| modPol pol, d, va, off, .none⟩
  | .st h t x4 pol d va off => some ⟨.st, h, modT t ||| modOpx x4 ||| modPol pol, d, va, off, .none⟩
  | .ldp h t x4 d a off => some ⟨.ldp, h, modT t ||| modOpx x4, d, a, off, .none⟩
  | .stp h t x4 d a off => some ⟨.stp, h, modT t ||| modOpx x4, d, a, off, .none⟩
  | .lds h t x4 d a off => some ⟨.lds, h, modT t ||| modOpx x4, d, a, off, .none⟩
  | .sts h t x4 d a off => some ⟨.sts, h, modT t ||| modOpx x4, d, a, off, .none⟩
  | .stsa h t d a off => some ⟨.stsa, h, modT t, d, a, off, .none⟩
  | .ldw h t pol d va off => some ⟨.ldw, h, modT t ||| modPol pol, d, va, off, .none⟩
  | .pref h pol va off => some ⟨.pref, h, modPol pol, .none, va, off, .none⟩
  | .cctlWb h va off => some ⟨.cctl, h, 0#9, .none, va, off, .none⟩
  | .cctlInv h va off => some ⟨.cctl, h, modAt 0 (1#4), .none, va, off, .none⟩
  | .cctlIinv h scope va off => some ⟨.cctl, h, modAt 0 (2#4) ||| modScope scope, .none, va, off, .none⟩
  | .cctlWball h => some ⟨.cctl, h, modAt 0 (3#4), .none, .none, .none, .none⟩
  | .atom h op t pol scope ar d va b => some ⟨.atom, h, modT t ||| modPol pol ||| modScope scope ||| modOpx ar, d, va, b, (.imm op.imm)⟩
  | .cas h t pol scope ar d va cmp new => some ⟨.cas, h, modT t ||| modPol pol ||| modScope scope ||| modOpx ar, d, va, cmp, new⟩
  | .red h op t pol scope rel va b => some ⟨.red, h, modT t ||| modPol pol ||| modScope scope ||| modOpx rel, .none, va, b, (.imm op.imm)⟩
  | .fence h kind scope => some ⟨.fence, h, modAt 0 kind.code ||| modScope scope, .none, .none, .none, .none⟩
  | .ldacq h t pol scope d va off => some ⟨.ldacq, h, modT t ||| modPol pol ||| modScope scope, d, va, off, .none⟩
  | .strel h t pol scope d va off => some ⟨.strel, h, modT t ||| modPol pol ||| modScope scope, d, va, off, .none⟩
  | .cpy h d desc tl => some ⟨.cpy, h, 0#9, d, desc, tl, .none⟩
  | .tlsig h scope d tl => some ⟨.tlsig, h, modScope scope, d, tl, .none, .none⟩
  | .tlwait h scope d tl n => some ⟨.tlwait, h, modScope scope, d, tl, n, .none⟩
  | .tlread h ctr d tl => some ⟨.tlread, h, modAt 0 ctr.code, d, tl, .none, .none⟩
  | .wpwait h d tl cmd nb => some ⟨.wpwait, h, 0#9, d, tl, cmd, nb⟩
  | .fork h d set ent => some ⟨.fork, h, 0#9, d, set, ent, .none⟩
  | .rdv h d fk => some ⟨.rdv, h, 0#9, d, fk, .none, .none⟩
  | .shape h d va => some ⟨.shape, h, 0#9, d, va, .none, .none⟩
  | .shdrop h hd => some ⟨.shdrop, h, 0#9, .none, hd, .none, .none⟩
  | .xtbl h d va => some ⟨.xtbl, h, 0#9, d, va, .none, .none⟩
  | .xform h d desc tl => some ⟨.xform, h, 0#9, d, desc, tl, .none⟩
  | .enq h d qn va => some ⟨.enq, h, 0#9, d, qn, va, .none⟩
  | .deq h tmo d qn => some ⟨.deq, h, modAt 6 tmo, d, qn, .none, .none⟩
  | .berth h d va => some ⟨.berth, h, 0#9, d, va, .none, .none⟩
  | .unberth h hd => some ⟨.unberth, h, 0#9, .none, hd, .none, .none⟩
  | .mma h tlv tl c a b => some ⟨.mma, h, modAt 0 tl ||| modB 4 tlv, c, a, b, .none⟩
  | .mmad h tlv tl dd a b c => some ⟨.mmad, h, modAt 0 tl ||| modB 4 tlv, dd, a, b, c⟩
  | .mzero h tlv tl arr c => some ⟨.mzero, h, modAt 0 tl ||| modB 4 tlv ||| modB 5 arr, c, .none, .none, .none⟩
  | .lmm h tlv tl c p => some ⟨.lmm, h, modAt 0 tl ||| modB 4 tlv, c, p, .none, .none⟩
  | .smp h d hdr crd => some ⟨.smp, h, 0#9, d, hdr, crd, .none⟩
  | .smpl h d hdr crd lod => some ⟨.smpl, h, 0#9, d, hdr, crd, lod⟩
  | .smpg h d hdr crd ch => some ⟨.smpg, h, 0#9, d, hdr, crd, ch⟩
  | .smps h d hdr crd seed => some ⟨.smps, h, 0#9, d, hdr, crd, seed⟩
  | .smpn h d hdr crd => some ⟨.smpn, h, 0#9, d, hdr, crd, .none⟩
  | .hdrinv h hdr => some ⟨.hdrinv, h, 0#9, .none, hdr, .none, .none⟩
  | .wcpin h d hdr => some ⟨.wcpin, h, 0#9, d, hdr, .none, .none⟩
  | .wcunp h hdr => some ⟨.wcunp, h, 0#9, .none, hdr, .none, .none⟩
  | .rndseq h ln d key ctr => some ⟨.rndseq, h, modB 0 ln, d, key, ctr, .none⟩
  | .raybox h d ray node => some ⟨.raybox, h, 0#9, d, ray, node, .none⟩
  | .raytri h cull d ray tri => some ⟨.raytri, h, modB 0 cull, d, ray, tri, .none⟩
  | .qysend h x port => some ⟨.qysend, h, 0#9, .none, x, port, .none⟩
  | .qyrecv h d port => some ⟨.qyrecv, h, 0#9, d, port, .none, .none⟩
  | .qyfree h d port => some ⟨.qyfree, h, 0#9, d, port, .none, .none⟩
  | .rbexp h t pol scope va x => some ⟨.rbexp, h, modT t ||| modPol pol ||| modScope scope, .none, va, x, .none⟩
  | .rbadd h t pol scope va x => some ⟨.rbadd, h, modT t ||| modPol pol ||| modScope scope, .none, va, x, .none⟩
  | .rbres h t pol scope d va => some ⟨.rbres, h, modT t ||| modPol pol ||| modScope scope, d, va, .none, .none⟩
  | .sysc h code => some ⟨.sysc, h, 0#9, .none, code, .none, .none⟩
  | .sret h => some ⟨.sret, h, 0#9, .none, .none, .none, .none⟩
  | .hcall h code => some ⟨.hcall, h, 0#9, .none, code, .none, .none⟩
  | .hret h => some ⟨.hret, h, 0#9, .none, .none, .none, .none⟩
  | .ctxnew h d ctx rec => some ⟨.ctxnew, h, 0#9, d, ctx, rec, .none⟩
  | .ctxfree h d ctx => some ⟨.ctxfree, h, 0#9, d, ctx, .none, .none⟩
  | .ctxpinOn h d ctx => some ⟨.ctxpin, h, modB 0 true, d, ctx, .none, .none⟩
  | .ctxpinOff h d ctx => some ⟨.ctxpin, h, 0#9, d, ctx, .none, .none⟩
  | .sqact h d ctx => some ⟨.sqact, h, 0#9, d, ctx, .none, .none⟩
  | .sqpark h wb d ctx => some ⟨.sqpark, h, modB 0 wb, d, ctx, .none, .none⟩
  | .xacq h => some ⟨.xacq, h, 0#9, .none, .none, .none, .none⟩
  | .xrel h => some ⟨.xrel, h, 0#9, .none, .none, .none, .none⟩
  | .regn h => some ⟨.regn, h, 0#9, .none, .none, .none, .none⟩
  | .tlbinvVa h va idn => some ⟨.tlbinv, h, 0#9, .none, va, idn, .none⟩
  | .tlbinvAsid h idn => some ⟨.tlbinv, h, modAt 0 (1#2), .none, .none, idn, .none⟩
  | .tlbinvVm h idn => some ⟨.tlbinv, h, modAt 0 (2#2), .none, .none, idn, .none⟩
  | .tlbinvAll h => some ⟨.tlbinv, h, modAt 0 (3#2), .none, .none, .none, .none⟩
  | .ordctlRec h d va => some ⟨.ordctl, h, 0#9, d, va, .none, .none⟩
  | .ordctlPlay h d va => some ⟨.ordctl, h, modAt 0 (1#2), d, va, .none, .none⟩
  | .ordctlOff h d va => some ⟨.ordctl, h, modAt 0 (2#2), d, va, .none, .none⟩
  | .ordctlChk h d va => some ⟨.ordctl, h, modAt 0 (3#2), d, va, .none, .none⟩
  | .stepb h d ctx n => some ⟨.stepb, h, 0#9, d, ctx, n, .none⟩
  | .clauseEntry _ _ _ _ _ _ => none
  | .waitvLineWriteWake _ _ => none
  | .waitvTimeout _ _ => none
  | .loadDataReturn _ _ => none
  | .storePerformed _ _ => none
  | .atomicStepAtSlice _ _ => none
  | .tableWalkComplete _ _ => none
  | .cpyChunkWritten _ _ => none
  | .haltedCommandRetry _ => none
  | .haltedCommandTimeout _ => none
  | .transducerCommandComplete _ _ => none
  | .deqItemDelivery _ _ => none
  | .deqTimeout _ => none
  | .berthEnd _ _ => none
  | .matrixCommandStart _ _ => none
  | .matrixKblockComplete _ _ _ => none
  | .lmmPassComplete _ _ => none
  | .lmmWaitExpiry _ => none
  | .hdrinvComplete _ => none
  | .samplerHeaderReadComplete _ _ _ => none
  | .texelFillComplete _ _ _ _ => none
  | .weightFillComplete _ _ _ => none
  | .samplerQuadComplete _ => none
  | .gatedStepRelease _ => none
  | .extensionBlockGrant _ => none
  | .registerFillComplete _ _ _ => none
  | .registerRowEviction _ _ => none
  | .fillParkTimeout _ => none
  | .squadActivation _ => none
  | .activationWaitTimeout _ => none
  | .parkedSquadWake _ => none
  | .squadDeactivation _ => none
  | .deactivationComplete _ => none
  | .bundleFormation _ => none
  | .coreClockStart _ => none
  | .impreciseStoreFault _ => none
  | .groupScratchpadGrant _ => none
  | .groupDrainComplete _ => none
  | .apertureWrite _ _ _ _ => none
  | .groupPlacement _ => none
  | .kernelLoadComplete _ => none
  | .admissionInterval _ => none
  | .queueBalancing _ => none
  | .quantumExpiry _ _ => none
  | .preemptionCollected _ => none
  | .railSample _ _ _ => none
  | .weightRefit _ => none
  | .sensorSample _ => none
  | .thermalRelease _ => none
  | .gateReq _ => none
  | .idleGateTimer _ => none
  | .gateWritebackComplete _ => none
  | .spillComplete _ => none
  | .refillComplete _ => none
  | .wgtWrite _ _ _ => none
  | .registerWrite _ _ => none
  | .mailboxReadRing _ => none
  | .mailboxClearFrozen _ => none
  | .mailboxPreempt _ _ _ => none
  | .mailboxResume _ _ _ => none
  | .mailboxKill _ _ _ => none
  | .mailboxClusterReset _ => none
  | .mailboxDeviceReset => none
  | .mailboxAttestation => none
  | .deviceReset => none
  | .powerLoss => none
  | .hostRead _ _ => none
  | .hostWrite _ _ => none
  | .peerAccess _ => none
  | .refreshOrScrub _ _ _ => none
  | .peerLinkTraining _ _ => none

end Sys2Proof
end

