-- ==== Sys2Proof/Machine/Encoding.lean ====
section
/-! DEFINITION. The bits of words: fields (R11), descriptors (R24), clause headers (R33), the slot checks of R25 and R27,
and the instruction a set of checked fields stands for. -/
namespace Sys2Proof

/-- The bits [hi:lo] of a word, hi = lo + n - 1. -/
def wbits (x : BitVec 96) (lo n : Nat) : BitVec n := x.extractLsb' lo n

/-- The fields of a word before its descriptors are read (R11). -/
structure Fields where
  opc : BitVec 10
  h   : Hd
  mod : Mod
  lit : Bool
  fd  : BitVec 16
  fa  : BitVec 16
  fb  : BitVec 16
  fc  : BitVec 16
  deriving DecidableEq, Repr, Inhabited

/-- The fields of a word (R11). -/
def Fields.ofWord (x : BitVec 96) : Fields :=
  ⟨wbits x 0 10, ⟨wbits x 10 4, wbits x 14 8⟩, wbits x 22 9, x.getLsbD 31, wbits x 32 16, wbits x 48 16, wbits x 64 16,
    wbits x 80 16⟩

/-- The word of given fields (R11). -/
def Fields.word (f : Fields) : BitVec 96 :=
  f.fc ++ f.fb ++ f.fa ++ f.fd ++ (BitVec.ofBool f.lit ++ f.mod ++ f.h.hnt ++ f.h.grd ++ f.opc)

/-- The system register numbers that R251 assigns. -/
def sysAssigned (n : BitVec 10) : Bool :=
  let k := n.toNat
  k ≤ 0x11 || (0x20 ≤ k && k ≤ 0x28) || (0x40 ≤ k && k ≤ 0x49)

/-- Read a descriptor; none where an unassigned bit is set or an index is out of the ranges of R24 and R25. -/
def Opnd.ofDesc (d : BitVec 16) : Option Opnd :=
  match (d.extractLsb' 13 3).toNat with
  | 0 => if d.extractLsb' 6 4 == 0#4 then
           some (.v (d.extractLsb' 0 6) (d.getLsbD 10) (d.getLsbD 11) (d.getLsbD 12)) else none
  | 1 => some (.w (d.extractLsb' 0 10) (d.getLsbD 10) (d.getLsbD 11) (d.getLsbD 12))
  | 2 => if d.extractLsb' 4 9 == 0#9 then some (.q (d.extractLsb' 0 3) (d.getLsbD 3)) else none
  | 3 => if d.extractLsb' 4 9 == 0#9 && (d.extractLsb' 0 4).toNat ≤ 11 then some (.m (d.extractLsb' 0 4)) else none
  | 4 => some (.imm (d.extractLsb' 0 13))
  | 5 => if d.extractLsb' 10 3 == 0#3 && sysAssigned (d.extractLsb' 0 10) then some (.sys (d.extractLsb' 0 10)) else none
  | 6 => if d.extractLsb' 5 8 == 0#8 then
           (if d.getLsbD 4 then (if d.getLsbD 3 then none else some (.h (d.extractLsb' 0 3)))
            else some (.k (d.extractLsb' 0 4))) else none
  | _ => if d.extractLsb' 0 13 == 0#13 then some .none else none

/-- The descriptor of an operand (R24); a literal stands in no descriptor. -/
def Opnd.desc : Opnd → BitVec 16
  | .v i n a u => 0#3 ++ BitVec.ofBool u ++ BitVec.ofBool a ++ BitVec.ofBool n ++ 0#4 ++ i
  | .w i n a u => 1#3 ++ BitVec.ofBool u ++ BitVec.ofBool a ++ BitVec.ofBool n ++ i
  | .q i inv => 2#3 ++ 0#9 ++ BitVec.ofBool inv ++ i
  | .m i => 3#3 ++ 0#9 ++ i
  | .imm x => 4#3 ++ x
  | .sys n => 5#3 ++ 0#3 ++ n
  | .k i => 6#3 ++ 0#9 ++ i
  | .h i => 6#3 ++ 0#8 ++ 1#1 ++ 0#1 ++ i
  | .none => 7#3 ++ 0#13
  | .lit x => x.extractLsb' 0 16

/-- The operand is one R24 can name: a mask index to 11 and an assigned system register. -/
def Opnd.named : Opnd → Bool
  | .m i => i.toNat ≤ 11
  | .sys n => sysAssigned n
  | .lit _ => false
  | _ => true

/-- The index, width and modifier rules of a v or w operand (R25, R27). -/
def Slot.regOk (s : Slot) (idx : Nat) (neg abs hi : Bool) : Bool :=
  idx % s.align == 0 && (s.mods || (!neg && !abs)) && (s.hi || !hi)

/-- A slot accepts an operand (R25, R27, R30). -/
def Slot.ok (s : Slot) : Opnd → Bool
  | .v i n a h => s.v && s.regOk i.toNat n a h
  | .w i n a h => s.w && s.regOk i.toNat n a h
  | .q _ inv => s.q && !(s.dst && inv)
  | .m i => s.m && i.toNat ≤ 11
  | .imm x => s.imm && decide (s.lo ≤ x.toInt) && decide (x.toInt ≤ s.up)
  | .sys n => s.sys && sysAssigned n
  | .k i => s.kh && i.toNat % s.align == 0
  | .h i => s.kh && i.toNat % s.align == 0
  | .none => s.none
  | .lit _ => false

/-- A slot of a word under check: its field code in TVAL (R46), its descriptor, its operand where the descriptor reads,
and what the form accepts there. -/
structure SlotView where
  code : BitVec 3
  desc : BitVec 16
  opnd : Option Opnd
  slot : Slot
  deriving DecidableEq, Repr, Inhabited

/-- The slot passes the checks of R25 and R27. -/
def SlotView.ok (v : SlotView) : Bool :=
  match v.opnd with
  | some o => v.slot.ok o
  | none => false

/-- Why a word is not an instruction, in the order of R45. -/
inductive Bad
  /-- OPC unassigned, or a header where an instruction stands -/
  | opc
  /-- a modifier bit, type, format or rounding code -/
  | mod
  /-- LIT on a form that does not accept it, or missing where it is required -/
  | lit
  /-- HNT.FSEL = 3 -/
  | hnt
  /-- one or more descriptors -/
  | slots (l : List SlotView)
  deriving DecidableEq, Repr, Inhabited

/-- Whether LIT may be as it is (R32, R42). -/
def LitRule.ok (l : LitRule) (m : Mod) (lit : Bool) : Bool :=
  match l with
  | .no => !lit
  | .yes => true
  | .req => lit
  | .acc => !lit || m.opxB
  | .bint => !lit || !m.opxB
  | .cctl => !lit || m.bits 0 4 != 3#4

/-- FSEL, HNT[3:2] (R15). -/
def Hd.fsel (h : Hd) : BitVec 2 := h.hnt.extractLsb' 2 2

/-- The four slots of a word under a form's specification. -/
def slotViews (sp : Spec) (f : Fields) (fd fa fb fc : Option Opnd) : List SlotView :=
  if f.lit then [⟨3, f.fd, fd, sp.fd⟩, ⟨4, f.fa, fa, sp.fa⟩]
  else [⟨3, f.fd, fd, sp.fd⟩, ⟨4, f.fa, fa, sp.fa⟩, ⟨5, f.fb, fb, sp.fb⟩, ⟨6, f.fc, fc, sp.fc⟩]

/-- An operand of the kind that a descriptor names, for one that does not read (R24): what the other slots accept may rest on the kind alone. -/
def Opnd.ofKind (d : BitVec 16) : Opnd :=
  match (d.extractLsb' 13 3).toNat with
  | 0 => .v 0 false false false
  | 2 => .q 0 false
  | 3 => .m 0
  | 5 => .sys 0
  | 6 => .k 0
  | _ => .none

/-- The operands of a word, a descriptor that does not read standing as one of its kind. -/
def Fields.raw (f : Fields) (form : Form) : Raw :=
  let g := fun d => (Opnd.ofDesc d).getD (Opnd.ofKind d)
  ⟨form, f.h, f.mod, g f.fd, g f.fa, if f.lit then .lit (f.fc ++ f.fb) else g f.fb, if f.lit then .none else g f.fc⟩

/-- The fields of the word that stands for a set of operands. -/
def Raw.fields (r : Raw) : Fields :=
  match r.fb with
  | .lit x => ⟨r.form.opc, r.h, r.mod, true, r.fd.desc, r.fa.desc, x.extractLsb' 0 16, x.extractLsb' 16 16⟩
  | o => ⟨r.form.opc, r.h, r.mod, false, r.fd.desc, r.fa.desc, o.desc, r.fc.desc⟩

/-- The literal stands in FB. -/
def Opnd.isLit : Opnd → Bool
  | .lit _ => true
  | _ => false
/-- The system register of a given number. -/
def Opnd.isSys (o : Opnd) (n : BitVec 10) : Bool := o == .sys n
/-- MOOR or TMOOR (R99). -/
def Opnd.isMoorReg (o : Opnd) : Bool := o.isSys 0x001#10 || o.isSys 0x006#10
/-- TMOOR. -/
def Opnd.isTmoor (o : Opnd) : Bool := o.isSys 0x006#10
/-- The operation FC names (R167). -/
def Opnd.atomOp : Opnd → AtomOp
  | .imm x => AtomOp.ofImm x
  | _ => .add

/-- The mode-independent checks of R45 on a set of operands. -/
def Raw.ok (r : Raw) : Bool :=
  let sp := r.form.spec r
  sp.modOk && sp.lit.ok r.mod r.fb.isLit && r.h.fsel != 3#2 && sp.fd.ok r.fd && sp.fa.ok r.fa &&
    (match r.fb with
     | .lit _ => r.fc == .none
     | o => sp.fb.ok o && sp.fc.ok r.fc)

/-- The instruction a checked set of fields stands for. -/
def build (r : Raw) : Instr :=
  let m := r.mod
  match r.form with
  | .bra => .bra r.h r.fb
  | .brx => .brx r.h r.fa
  | .call => .call r.h r.fd r.fb
  | .callx => .callx r.h r.fd r.fa
  | .ret => .ret r.h r.fa
  | .exit => .exit r.h
  | .nop => .nop r.h
  | .yield => .yield r.h
  | .meet => .meet r.h r.fa r.fb
  | .brk => .brk r.h r.fa
  | .waitv => .waitv r.h m.ty m.pol (m.bits 6 3) r.fd r.fa r.fb
  | .gjoin => .gjoin r.h r.fd r.fa r.fb
  | .gleave => .gleave r.h
  | .gbar => .gbar r.h r.fa
  | .garv => .garv r.h r.fa
  | .gwait => .gwait r.h r.fa
  | .tkwait => .tkwait r.h r.fa
  | .tkpass => .tkpass r.h r.fa
  | .mjoin => .mjoin r.h r.fa
  | .mleave => .mleave r.h r.fa
  | .mwait => .mwait r.h r.fa
  | .mget => .mget r.h r.fd r.fa r.fb
  | .mset => .mset r.h r.fd r.fa r.fb
  | .vote => .vote r.h m.voteOp r.fd r.fa r.fc
  | .ballot => .ballot r.h r.fd r.fa r.fb r.fc
  | .shfl => .shfl r.h m.shflMode m.ty r.fd r.fa r.fb r.fc
  | .lred => .lred r.h m.redOp m.ty m.satB r.fd r.fa r.fc
  | .lscan => .lscan r.h m.redOp m.opxB m.ty m.satB r.fd r.fa r.fc
  | .lbcast => .lbcast r.h m.ty r.fd r.fa r.fb r.fc
  | .lmatch => .lmatch r.h m.ty r.fd r.fa r.fc
  | .iadd => .iadd r.h m.ty m.satB r.fd r.fa r.fb
  | .isub => .isub r.h m.ty m.satB r.fd r.fa r.fb
  | .iadd3 => .iadd3 r.h m.ty m.satB r.fd r.fa r.fb r.fc
  | .imul => .imul r.h m.ty m.satB r.fd r.fa r.fb
  | .imulh => .imulh r.h m.ty r.fd r.fa r.fb
  | .imad => .imad r.h m.ty m.satB m.opxB r.fd r.fa r.fb r.fc
  | .imadw => .imadw r.h m.ty m.satB m.opxB r.fd r.fa r.fb r.fc
  | .idiv => .idiv r.h m.ty m.satB r.fd r.fa r.fb
  | .irem => .irem r.h m.ty r.fd r.fa r.fb
  | .imin => .imin r.h m.ty r.fd r.fa r.fb
  | .imax => .imax r.h m.ty r.fd r.fa r.fb
  | .iabs => .iabs r.h m.ty m.satB r.fd r.fa
  | .ineg => .ineg r.h m.ty m.satB r.fd r.fa
  | .icmp => .icmp r.h (m.bits 4 3) m.ty r.fd r.fa r.fb
  | .isel => .isel r.h m.ty r.fd r.fa r.fb r.fc
  | .iadd64 => .iadd64 r.h m.ty m.satB r.fd r.fa r.fb
  | .isub64 => .isub64 r.h m.ty m.satB r.fd r.fa r.fb
  | .imul64 => .imul64 r.h m.ty m.opxB r.fd r.fa r.fb
  | .and => .and r.h m.ty r.fd r.fa r.fb
  | .or => .or r.h m.ty r.fd r.fa r.fb
  | .xor => .xor r.h m.ty r.fd r.fa r.fb
  | .not => .not r.h m.ty r.fd r.fa
  | .blut => .blut r.h m.ty r.fd r.fa r.fb r.fc
  | .shl => .shl r.h m.ty r.fd r.fa r.fb
  | .shr => .shr r.h m.ty r.fd r.fa r.fb
  | .sra => .sra r.h m.ty r.fd r.fa r.fb
  | .rot => .rot r.h m.ty m.opxB r.fd r.fa r.fb
  | .shcat => .shcat r.h m.opxB r.fd r.fa r.fb r.fc
  | .clz => .clz r.h m.ty r.fd r.fa
  | .ctz => .ctz r.h m.ty r.fd r.fa
  | .popc => .popc r.h m.ty r.fd r.fa
  | .brev => .brev r.h m.ty r.fd r.fa
  | .bfx => .bfx r.h m.ty r.fd r.fa r.fb r.fc
  | .bfi => .bfi r.h r.fd r.fa r.fb r.fc
  | .bint => .bint r.h m.ty m.opxB r.fd r.fa r.fb r.fc
  | .bdin => .bdin r.h m.ty m.opxB r.fd r.fa r.fb
  | .lea => .lea r.h r.fd r.fa r.fb r.fc
  | .lea64 => .lea64 r.h m.ty r.fd r.fa r.fb r.fc
  | .bsel => .bsel r.h r.fd r.fa r.fb r.fc
  | .qlop => .qlop r.h r.fd r.fa r.fb r.fc
  | .fadd => .fadd r.h m.ty m.rnd m.satB r.fd r.fa r.fb
  | .fsub => .fsub r.h m.ty m.rnd m.satB r.fd r.fa r.fb
  | .fmul => .fmul r.h m.ty m.rnd m.satB r.fd r.fa r.fb
  | .ffma => .ffma r.h m.ty m.rnd m.satB m.opxB r.fd r.fa r.fb r.fc
  | .fmin => .fmin r.h m.ty r.fd r.fa r.fb
  | .fmax => .fmax r.h m.ty r.fd r.fa r.fb
  | .fcmp => .fcmp r.h (m.bits 4 3) m.ty r.fd r.fa r.fb
  | .fclass => .fclass r.h m.ty r.fd r.fa
  | .frnd => .frnd r.h m.ty m.rnd m.opxB r.fd r.fa
  | .hadd2 => .hadd2 r.h m.ty m.rnd m.satB r.fd r.fa r.fb
  | .hmul2 => .hmul2 r.h m.ty m.rnd m.satB r.fd r.fa r.fb
  | .hfma2 => .hfma2 r.h m.ty m.rnd m.satB m.opxB r.fd r.fa r.fb r.fc
  | .fdot2 => .fdot2 r.h m.ty m.rnd m.satB m.opxB r.fd r.fa r.fb r.fc
  | .dadd => .dadd r.h m.rnd m.satB r.fd r.fa r.fb
  | .dmul => .dmul r.h m.rnd m.satB r.fd r.fa r.fb
  | .dfma => .dfma r.h m.rnd m.satB m.opxB r.fd r.fa r.fb r.fc
  | .dmin => .dmin r.h r.fd r.fa r.fb
  | .dmax => .dmax r.h r.fd r.fa r.fb
  | .dcmp => .dcmp r.h (m.bits 4 3) r.fd r.fa r.fb
  | .frcp => .frcp r.h m.ty m.rnd m.satB r.fd r.fa
  | .frsq => .frsq r.h m.ty m.rnd m.satB r.fd r.fa
  | .fsqrt => .fsqrt r.h m.ty m.rnd m.satB r.fd r.fa
  | .fdiv => .fdiv r.h m.ty m.rnd m.satB r.fd r.fa r.fb
  | .fex2 => .fex2 r.h m.satB r.fd r.fa
  | .flg2 => .flg2 r.h m.satB r.fd r.fa
  | .fsin => .fsin r.h r.fd r.fa
  | .fcos => .fcos r.h r.fd r.fa
  | .cvt => .cvt r.h m.ty m.ty2 (m.bit 8) r.fd r.fb r.fc
  | .qscale => .qscale r.h m.fmt m.rnd6 r.fd r.fa r.fb r.fc
  | .qcvt => .qcvt r.h m.fmt m.rnd6 r.fd r.fa r.fb
  | .qcvtEf => .qcvtEf r.h m.fmt m.rnd6 r.fd r.fa r.fb
  | .qpack => .qpack r.h m.fmt m.opxB r.fd r.fa r.fb
  | .qunpk => .qunpk r.h m.fmt r.fd r.fa r.fb r.fc
  | .qsplit => .qsplit r.h r.fd r.fa r.fb r.fc
  | .mov => .mov r.h m.ty r.fd r.fb
  | .movw => .movw r.h m.ty r.fd r.fb
  | .movq => if !m.opxB then .movq r.h r.fd r.fa else .movqAll r.h r.fd r.fa
  | .srd => .srd r.h m.wideB r.fd r.fa
  | .swr => if r.fd.isMoorReg then .moorWrite r.h m.wideB r.fd.isTmoor r.fb else if r.fd.isSys 0x010#10 then .regoWrite r.h m.wideB r.fb else if r.fd.isSys 0x026#10 then .privlWrite r.h m.wideB r.fb else .swr r.h m.wideB r.fd r.fb
  | .ld => .ld r.h m.ty m.opxB m.pol r.fd r.fa r.fb
  | .st => .st r.h m.ty m.opxB m.pol r.fd r.fa r.fb
  | .ldp => .ldp r.h m.ty m.opxB r.fd r.fa r.fb
  | .stp => .stp r.h m.ty m.opxB r.fd r.fa r.fb
  | .lds => .lds r.h m.ty m.opxB r.fd r.fa r.fb
  | .sts => .sts r.h m.ty m.opxB r.fd r.fa r.fb
  | .stsa => .stsa r.h m.ty r.fd r.fa r.fb
  | .ldw => .ldw r.h m.ty m.pol r.fd r.fa r.fb
  | .pref => .pref r.h m.pol r.fa r.fb
  | .cctl => if m.bits 0 4 == 0#4 then .cctlWb r.h r.fa r.fb else if m.bits 0 4 == 1#4 then .cctlInv r.h r.fa r.fb else if m.bits 0 4 == 2#4 then .cctlIinv r.h m.scope r.fa r.fb else .cctlWball r.h
  | .atom => .atom r.h r.fc.atomOp m.ty m.pol m.scope m.opxB r.fd r.fa r.fb
  | .cas => .cas r.h m.ty m.pol m.scope m.opxB r.fd r.fa r.fb r.fc
  | .red => .red r.h r.fc.atomOp m.ty m.pol m.scope m.opxB r.fa r.fb
  | .fence => .fence r.h m.fenceKind m.scope
  | .ldacq => .ldacq r.h m.ty m.pol m.scope r.fd r.fa r.fb
  | .strel => .strel r.h m.ty m.pol m.scope r.fd r.fa r.fb
  | .cpy => .cpy r.h r.fd r.fa r.fb
  | .tlsig => .tlsig r.h m.scope r.fd r.fa
  | .tlwait => .tlwait r.h m.scope r.fd r.fa r.fb
  | .tlread => .tlread r.h m.tlCtr r.fd r.fa
  | .wpwait => .wpwait r.h r.fd r.fa r.fb r.fc
  | .fork => .fork r.h r.fd r.fa r.fb
  | .rdv => .rdv r.h r.fd r.fa
  | .shape => .shape r.h r.fd r.fa
  | .shdrop => .shdrop r.h r.fa
  | .xtbl => .xtbl r.h r.fd r.fa
  | .xform => .xform r.h r.fd r.fa r.fb
  | .enq => .enq r.h r.fd r.fa r.fb
  | .deq => .deq r.h (m.bits 6 3) r.fd r.fa
  | .berth => .berth r.h r.fd r.fa
  | .unberth => .unberth r.h r.fa
  | .mma => .mma r.h (m.bit 4) (m.bits 0 4) r.fd r.fa r.fb
  | .mmad => .mmad r.h (m.bit 4) (m.bits 0 4) r.fd r.fa r.fb r.fc
  | .mzero => .mzero r.h (m.bit 4) (m.bits 0 4) (m.bit 5) r.fd
  | .lmm => .lmm r.h (m.bit 4) (m.bits 0 4) r.fd r.fa
  | .smp => .smp r.h r.fd r.fa r.fb
  | .smpl => .smpl r.h r.fd r.fa r.fb r.fc
  | .smpg => .smpg r.h r.fd r.fa r.fb r.fc
  | .smps => .smps r.h r.fd r.fa r.fb r.fc
  | .smpn => .smpn r.h r.fd r.fa r.fb
  | .hdrinv => .hdrinv r.h r.fa
  | .wcpin => .wcpin r.h r.fd r.fa
  | .wcunp => .wcunp r.h r.fa
  | .rndseq => .rndseq r.h (m.bit 0) r.fd r.fa r.fb
  | .raybox => .raybox r.h r.fd r.fa r.fb
  | .raytri => .raytri r.h (m.bit 0) r.fd r.fa r.fb
  | .qysend => .qysend r.h r.fa r.fb
  | .qyrecv => .qyrecv r.h r.fd r.fa
  | .qyfree => .qyfree r.h r.fd r.fa
  | .rbexp => .rbexp r.h m.ty m.pol m.scope r.fa r.fb
  | .rbadd => .rbadd r.h m.ty m.pol m.scope r.fa r.fb
  | .rbres => .rbres r.h m.ty m.pol m.scope r.fd r.fa
  | .sysc => .sysc r.h r.fa
  | .sret => .sret r.h
  | .hcall => .hcall r.h r.fa
  | .hret => .hret r.h
  | .ctxnew => .ctxnew r.h r.fd r.fa r.fb
  | .ctxfree => .ctxfree r.h r.fd r.fa
  | .ctxpin => if m.bit 0 then .ctxpinOn r.h r.fd r.fa else .ctxpinOff r.h r.fd r.fa
  | .sqact => .sqact r.h r.fd r.fa
  | .sqpark => .sqpark r.h (m.bit 0) r.fd r.fa
  | .xacq => .xacq r.h
  | .xrel => .xrel r.h
  | .regn => .regn r.h
  | .tlbinv => if m.bits 0 2 == 0#2 then .tlbinvVa r.h r.fa r.fb else if m.bits 0 2 == 1#2 then .tlbinvAsid r.h r.fb else if m.bits 0 2 == 2#2 then .tlbinvVm r.h r.fb else .tlbinvAll r.h
  | .ordctl => if m.bits 0 2 == 0#2 then .ordctlRec r.h r.fd r.fa else if m.bits 0 2 == 1#2 then .ordctlPlay r.h r.fd r.fa else if m.bits 0 2 == 2#2 then .ordctlOff r.h r.fd r.fa else .ordctlChk r.h r.fd r.fa
  | .stepb => .stepb r.h r.fd r.fa r.fb

/-! ### Clause headers (R33) -/

/-- A flag selection names a flag that exists (R34). -/
def FlagSel.ok (f : FlagSel) : Bool := !f.valid || f.flag.toNat ≤ 11

/-- The header word of given fields (R33). -/
def headerWord (len : BitVec 4) (waitFor : BitVec 12) (seta setb : FlagSel) (cls : BitVec 2) (yp : Bool) : BitVec 96 :=
  0#39 ++ BitVec.ofBool yp ++ cls ++ (BitVec.ofBool setb.valid ++ setb.flag) ++ (BitVec.ofBool seta.valid ++ seta.flag) ++
    waitFor ++ 0#18 ++ len ++ 0x3FF#10

/-- A word read as a header: none unless OPC is 0x3FF, LEN is not 0, unnamed bits are zero and the flags exist (R34).
The check of CLS needs the words that follow. -/
def headerOf (x : BitVec 96) : Option Instr :=
  let seta : FlagSel := ⟨x.getLsbD 48, wbits x 44 4⟩
  let setb : FlagSel := ⟨x.getLsbD 53, wbits x 49 4⟩
  if wbits x 0 10 == 0x3FF#10 && wbits x 10 4 != 0#4 && wbits x 14 18 == 0#18 && wbits x 57 39 == 0#39 && seta.ok && setb.ok then
    some (.clauseEntry (wbits x 10 4) (wbits x 32 12) seta setb (wbits x 54 2) (x.getLsbD 56))
  else none

/-! ### Timing classes (R43) -/

/-- The timing class of an opcode and modifier (R43). A word of a clause body whose OPC R41 does not assign has a class for the check of CLS too,
which R43 does not give: that of the other forms of its opcode class, and class 0 in an opcode class of none, 0x3FF in it. DESIGN CHOICE, log 46. -/
def timingClass (opc : BitVec 10) (m : Mod) : Nat :=
  let c := opc.toNat / 64
  let p := opc.toNat % 64
  match c with
  | 1 => if p ≤ 13 then 0 else if (p = 15 || p = 16) && (m.ty == .f32 || m.ty == .f64) then 2 else 1
  | 2 => if p = 3 || p = 4 || p = 5 || p = 6 || p = 15 || p = 16 then 1 else if p = 17 then 2
         else if p = 7 || p = 8 then 3 else 0
  | 3 => if p = 16 || p = 17 || p = 19 || p = 20 || p = 21 then 1 else 0
  | 4 => 1
  | 5 => if p = 8 || p = 9 || p = 12 || p = 13 then 3 else 2
  | 6 => if p = 0 && (m.ty == .f64 || m.ty2 == .f64) then 2 else 1
  | 8 => 1
  | 9 => 1
  | 12 => if p = 8 then 1 else if p = 9 then 2 else if p = 10 then 3 else 0
  | 13 => if p ≤ 2 then 0 else if p = 5 && m.ty == .f64 then 2 else 1
  | _ => 0

end Sys2Proof
end

