-- ==== Sys2Proof/WellFormed.lean ====
section
/-! DEFINITION. Well-formed instructions: a word form passes every mode-independent check of R45 and is the one
constructor its fields stand for; a header passes the checks of R34 on its own bits; an event names parts that exist. -/
namespace Sys2Proof

/-- A cluster of the device (R3). -/
def clusterOk (c : Nat) : Bool := decide (c < 24)
/-- A core of the device: seven to a cluster (R3). -/
def coreOk (k : Nat) : Bool := decide (k < 168)

/-- A host access of n bytes lies in the HDM range, in BAR0 or in BAR2 (R438). -/
def HostAddr.ok (n : Nat) : HostAddr → Bool
  | .hdm a => decide (a + n ≤ 549755813888)
  | .bar0 o => decide (o + n ≤ 16777216)
  | .bar2 o => decide (o + n ≤ 268435456)

/-- The parts an event names exist (R3, R251, R313, R322, R379, R430, R436, R438, R443). -/
def Instr.eventOk : Instr → Bool
  | .deqItemDelivery c q => clusterOk c && decide (q < 256)
  | .berthEnd c sl => clusterOk c && decide (sl < 32)
  | .matrixCommandStart c a => clusterOk c && decide (a < 2)
  | .matrixKblockComplete c a _ => clusterOk c && decide (a < 2)
  | .lmmPassComplete k _ => coreOk k
  | .lmmWaitExpiry k => coreOk k
  | .samplerHeaderReadComplete k _ _ => coreOk k
  | .texelFillComplete k _ _ _ => coreOk k
  | .weightFillComplete k _ _ => coreOk k
  | .extensionBlockGrant k => coreOk k
  | .registerFillComplete _ row _ => decide (row < 64)
  | .registerRowEviction _ row => decide (row < 64)
  | .squadActivation k => coreOk k
  | .squadDeactivation k => coreOk k
  | .bundleFormation k => coreOk k
  | .coreClockStart k => coreOk k
  | .apertureWrite e q _ _ => decide (e < 4096) && decide (q < 256)
  | .groupPlacement c => clusterOk c
  | .kernelLoadComplete c => clusterOk c
  | .admissionInterval c => clusterOk c
  | .queueBalancing c => clusterOk c
  | .quantumExpiry _ c => clusterOk c
  | .railSample r _ _ => decide (r < 51)
  | .hostRead a n => a.ok n
  | .hostWrite a bs => a.ok bs.length
  | .weightRefit ws => decide (ws.length = 18)
  | .sensorSample t => decide (t.length = 144)
  | .thermalRelease c => clusterOk c
  | .gateReq c => clusterOk c
  | .idleGateTimer c => clusterOk c
  | .gateWritebackComplete c => clusterOk c
  | .spillComplete c => clusterOk c
  | .refillComplete c => clusterOk c
  | .wgtWrite _ j _ => decide (j < 9)
  | .peerLinkTraining p _ => decide (p < 8)
  | .peerAccess r => decide (r.port < 8)
  | _ => true

/-- A well-formed instruction. -/
def Instr.wf (i : Instr) : Bool :=
  match i.raw with
  | some r => r.ok && build r == i
  | none =>
    match i with
    | .clauseEntry len _ seta setb _ _ => len != 0#4 && seta.ok && setb.ok
    | e => e.eventOk

end Sys2Proof
end

