-- ==== Sys2Proof/Decode.lean ====
section
/-! DEFINITION. The decoder, total on any bytes and rejecting by name (R45), and the encoder written from the same tables. -/
namespace Sys2Proof

/-- Read a word as an instruction of a clause body: the mode-independent rows of R45 in their order. -/
def decodeBody (x : BitVec 96) : Except Bad Instr :=
  let f := Fields.ofWord x
  match formOfOpc f.opc with
  | none => .error .opc
  | some form =>
    let r := f.raw form
    let sp := form.spec r
    if !sp.modOk then .error .mod
    else if !sp.lit.ok f.mod f.lit then .error .lit
    else if f.h.fsel == 3#2 then .error .hnt
    else
      let vs := slotViews sp f (Opnd.ofDesc f.fd) (Opnd.ofDesc f.fa) (Opnd.ofDesc f.fb) (Opnd.ofDesc f.fc)
      if vs.all SlotView.ok then .ok (build r) else .error (.slots vs)

/-- Read a word wherever it stands: a header (R33) or an instruction. -/
def decodeWord (x : BitVec 96) : Option Instr :=
  if wbits x 0 10 == 0x3FF#10 then headerOf x
  else match decodeBody x with
    | .ok i => some i
    | .error _ => none

/-- The words of an instruction (R11, R33); an event has none. -/
def encode (i : Instr) : Option (BitVec 96) :=
  match i.raw with
  | some r => some r.fields.word
  | none =>
    match i with
    | .clauseEntry len w a b c yp => some (headerWord len w a b c yp)
    | _ => none

/-- Twelve bytes in memory order, read as a word (R11). -/
def wordOfBytes : List Byte → Option (BitVec 96)
  | [a, b, c, d, e, f, g, h, i, j, k, l] => some (l ++ k ++ j ++ i ++ h ++ g ++ f ++ e ++ d ++ c ++ b ++ a)
  | _ => none

/-- The bytes of a word in memory order (R11). -/
def bytesOfWord (x : BitVec 96) : List Byte := (List.range 12).map fun k => x.extractLsb' (8 * k) 8

/-- Decode any bytes: the first twelve, none where there are fewer or they are no instruction. -/
def decodeBytes (bs : List Byte) : Option (Instr × List Byte) :=
  match wordOfBytes (bs.take 12) with
  | some x => (decodeWord x).map fun i => (i, bs.drop 12)
  | none => none

/-- The instruction the decoder reads from a table word: the table's bit 0 is bit 0 of the first word, and each of the
three 32-bit words is little-endian, so the bits of w stand in memory order as they are numbered. -/
def decodeTableWord (_nbits w : Nat) : Option Instr :=
  (decodeBytes (bytesOfWord (BitVec.ofNat 96 w))).map Prod.fst

end Sys2Proof
end

