-- ==== Sys2Proof/Machine/Maps.lean ====
section
/-! DEFINITION. The list maps and sets the state is built of: keys strictly rising, so that equal maps are equal data. -/
namespace Sys2Proof

variable {β : Type}

/-- The value at a key. -/
def fget : FMap β → Nat → Option β
  | [], _ => none
  | (a, b) :: t, k => if a = k then some b else fget t k

/-- The value at a key, or a default. -/
def fgetD (m : FMap β) (k : Nat) (dflt : β) : β := (fget m k).getD dflt

/-- Set the value at a key. -/
def fput : FMap β → Nat → β → FMap β
  | [], k, v => [(k, v)]
  | (a, b) :: t, k, v =>
    if k < a then (k, v) :: (a, b) :: t else if k = a then (k, v) :: t else (a, b) :: fput t k v

/-- Remove a key. -/
def fdel : FMap β → Nat → FMap β
  | [], _ => []
  | (a, b) :: t, k => if a = k then fdel t k else (a, b) :: fdel t k

/-- Set the value at a key of a map whose unlisted keys hold a default. -/
def fset [DecidableEq β] (dflt : β) (m : FMap β) (k : Nat) (v : β) : FMap β :=
  if v = dflt then fdel m k else fput m k v

/-- Change the value at a listed key. -/
def fmod (m : FMap β) (k : Nat) (f : β → β) : FMap β :=
  match fget m k with
  | some v => fput m k (f v)
  | none => m

/-- The keys. -/
def fkeys (m : FMap β) : List Nat := m.map Prod.fst

/-- Keys strictly rising. -/
def fsorted : FMap β → Bool
  | [] => true
  | [_] => true
  | (a, _) :: (b, v) :: t => decide (a < b) && fsorted ((b, v) :: t)

/-- Membership of a set. -/
def shas (s : NSet) (k : Nat) : Bool := s.contains k

/-- Add to a set. -/
def sadd : NSet → Nat → NSet
  | [], k => [k]
  | a :: t, k => if k < a then k :: a :: t else if k = a then a :: t else a :: sadd t k

/-- Take from a set. -/
def sdel (s : NSet) (k : Nat) : NSet := s.filter (· != k)

/-- Union of sets. -/
def sunion (s t : NSet) : NSet := t.foldl sadd s

/-- Join of two vector clocks: the later epoch of each thread (R302). -/
def vcJoin (a b : Clock) : Clock :=
  b.foldl (fun m p => if fgetD m p.1 0 < p.2 then fput m p.1 p.2 else m) a

/-- The numbers below n. -/
def upto (n : Nat) : List Nat := List.range n

end Sys2Proof
end

