-- ==== Sys2Proof/Config.lean ====
section
/-! DEFINITION. What an implementation fixes and the free values: opaque constants, so that nothing can be proved of
their values. -/
namespace Sys2Proof

/-- A move of the machine: a bundle issues, an event of the opcode table happens, or a part that no program commands acts on
its own (a cached copy is written back or dropped, time passes, a sequencer issues). -/
inductive Turn
  /-- the bundle that holds the first lane listed, formed of the lanes listed that may join it; the others go on by themselves (R269) -/
  | issue (sq : Nat) (lanes : List Nat)
  /-- an event row of the opcode table -/
  | event (i : Instr)
  /-- an L1 copy is written back and, with drop, leaves the L1 (R290) -/
  | l1Evict (set line : Nat) (drop : Bool)
  /-- an L2 line is written to the coherence point (R292) -/
  | l2Clean (line : Nat)
  /-- translation buffers drop one held translation (R296) -/
  | tlbDrop (k : Nat)
  /-- a core's fetch cache drops one 4-byte word (R47) -/
  | fetchDrop (core word : Nat)
  /-- a race tag or a recorded release is dropped (R307) -/
  | tagDrop (granule : Nat)
  /-- n ns of a cluster's reference input pass (R274) -/
  | elapse (cluster n : Nat)
  /-- a fork sequencer issues its next word (R186) -/
  | sequencer (cluster seq : Nat)
  /-- an HDRINV reaches the sampler of a core (R214) -/
  | hdrinvAt (hid core : Nat)
  /-- a sampler reads one 8-byte part of a header (R326) -/
  | headerPart (core hdr part : Nat)
  /-- a sampler reads one line of a weight fill (R326, R337) -/
  | weightLine (core fill line : Nat)
  /-- a dot array starts a pass of an LMM (R346, R347) -/
  | lmmPassStart (core : Nat)
  /-- a transducer lane follows one transition of a command (R185, R373) -/
  | xformStep (cmd : Nat)
  /-- a WAITV watch entry is displaced (R105) -/
  | watchDrop (sq lane : Nat)
  /-- an uncorrectable error in a lane's word of a register row, which stands at an index of the register file (R319, R323) -/
  | rowError (sq row lane index : Nat)
  deriving DecidableEq, Repr, Inhabited

/-- A firmware image (R445): its bytes, its signature, the public key that the signature names, and its security version. -/
structure Image where
  code    : List Byte
  sig     : List Byte
  key     : List Byte
  version : Nat
  deriving DecidableEq, Repr, Inhabited

namespace Config

/-- The move taken at a step when the state names none: which agent acts next is not the spec's to say (R269, R303, R390). DESIGN CHOICE, log 1. -/
opaque turn : Nat → Turn
/-- A free choice among finitely many: the step counter, a number that tells apart the choices of one step, and how many there are. DESIGN CHOICE, log 10. -/
opaque pick : Nat → Nat → Nat → Nat
/-- The H trap vector the firmware sets (R251, R447). DESIGN CHOICE, log 4. -/
opaque hvec : BitVec 64
/-- The weights and their bounds W, WLO, WHI that firmware sets (R436): the weight set (true for VUP) and j. DESIGN CHOICE, log 4. -/
opaque weight : Bool → Nat → BitVec 16 × BitVec 16 × BitVec 16
/-- The image that a reset at a step finds for measurement register i: the boot ROM stage, the firmware of the control processor, that of the power controller, the
configuration (R445). DESIGN CHOICE, log 5. -/
opaque image : Nat → Nat → Image
/-- An ML-DSA-87 signature of a message verifies under a public key: key, message, signature (R445). DESIGN CHOICE, log 5. -/
opaque verifies : List Byte → List Byte → List Byte → Bool
/-- The hash of the root key that is fused into the device, and the counter of security versions (R445). DESIGN CHOICE, log 5. -/
opaque rootHash : BitVec 512
opaque fusedVersion : Nat
/-- The silicon step that the identity record names (R440). DESIGN CHOICE, log 5. -/
opaque siliconStep : Nat
/-- How far apart the implementation places what BAR0 holds (R440), and what an offset of BAR0 that names no register reads as. DESIGN CHOICE, log 55. -/
opaque gap : Nat → Nat
opaque barHole : Nat → Byte
/-- Byte i of the ML-DSA-87 signature of a report under the device's key, and that key's certificate chain to the root (R446). DESIGN CHOICE, log 5. -/
opaque signature : List Byte → Nat → Byte
opaque certificates : List Byte
/-- The silicon's peer memory as a load finds it: peer, VMID, ASID, address, step (R443). DESIGN CHOICE, log 13. -/
opaque peerByte : Nat → Nat → Nat → Nat → Nat → Byte
/-- What a peer's translation of an address answers (R443): 1 not present, 2 no permission, anything else present; by peer, VMID, ASID,
address, whether the access writes, and step. DESIGN CHOICE, log 13. -/
opaque peerCheck : Nat → Nat → Nat → Nat → Bool → Nat → Nat
/-- The slice that holds a superblock, taken modulo their number, and the sectors that the compressed form of a line needs: neither is architectural (R292). DESIGN CHOICE, log 36. -/
opaque slice : Nat → Nat
opaque compressed : BitVec 1024 → Nat
/-- What a device address beyond the memory the module carries reads as (R1, R3). DESIGN CHOICE, log 49. -/
opaque absent : Nat → Byte

end Config
end Sys2Proof
end

