-- ==== Sys2Proof/Machine/Sha3.lean ====
section
/-! DEFINITION. SHA3-512 of a byte string, which measures the firmware images (R445): the standard's sponge of 72-byte blocks over Keccak-f[1600]. -/
namespace Sys2Proof.Machine.Sha3

/-- The 25 lanes of a state: lane (x, y) at x + 5y. -/
abbrev Lanes := List (BitVec 64)

/-- A lane. -/
def lane (s : Lanes) (x y : Nat) : BitVec 64 := s.getD (x % 5 + 5 * (y % 5)) 0

/-- A state by its lanes. -/
def ofLanes (f : Nat → Nat → BitVec 64) : Lanes := (List.range 25).map fun i => f (i % 5) (i / 5)

/-- The round constants. -/
def rounds : Lanes :=
  [0x0000000000000001, 0x0000000000008082, 0x800000000000808A, 0x8000000080008000, 0x000000000000808B, 0x0000000080000001,
   0x8000000080008081, 0x8000000000008009, 0x000000000000008A, 0x0000000000000088, 0x0000000080008009, 0x000000008000000A] ++
  [0x000000008000808B, 0x800000000000008B, 0x8000000000008089, 0x8000000000008003, 0x8000000000008002, 0x8000000000000080,
   0x000000000000800A, 0x800000008000000A, 0x8000000080008081, 0x8000000000008080, 0x0000000080000001, 0x8000000080008008]

/-- The rotation of each lane. -/
def offsets : List Nat := [0, 1, 62, 28, 27, 36, 44, 6, 55, 20, 3, 10, 43, 25, 39, 41, 45, 15, 21, 8, 18, 2, 61, 56, 14]

/-- Each lane takes the parities of two columns beside its own. -/
def theta (s : Lanes) : Lanes :=
  let c := fun x => lane s x 0 ^^^ lane s x 1 ^^^ lane s x 2 ^^^ lane s x 3 ^^^ lane s x 4
  ofLanes fun x y => lane s x y ^^^ c (x + 4) ^^^ (c (x + 1)).rotateLeft 1

/-- The lanes are rotated and change places: lane (x, y) goes to (y, 2x + 3y), so that place (x, y) takes lane (x + 3y, x). -/
def rhoPi (s : Lanes) : Lanes :=
  ofLanes fun x y => (lane s (x + 3 * y) x).rotateLeft (offsets.getD ((x + 3 * y) % 5 + 5 * x) 0)

/-- Each lane takes the two behind it in its row. -/
def chi (s : Lanes) : Lanes := ofLanes fun x y => lane s x y ^^^ (~~~lane s (x + 1) y &&& lane s (x + 2) y)

/-- The first lane takes a round constant. -/
def iota (rc : BitVec 64) (s : Lanes) : Lanes := ofLanes fun x y => if x = 0 && y = 0 then lane s 0 0 ^^^ rc else lane s x y

/-- The permutation: 24 rounds. -/
def keccak (s : Lanes) : Lanes := rounds.foldl (fun s rc => iota rc (chi (rhoPi (theta s)))) s

/-- A number from bytes, the first lowest. -/
def leBytes (bs : List (BitVec 8)) : Nat := bs.foldr (fun b n => b.toNat + 256 * n) 0

/-- A block of 72 bytes is taken in. -/
def absorb (s : Lanes) (bs : List (BitVec 8)) : Lanes :=
  keccak (ofLanes fun x y =>
    let i := x + 5 * y
    if i < 9 then lane s x y ^^^ BitVec.ofNat 64 (leBytes ((bs.drop (8 * i)).take 8)) else lane s x y)

/-- Byte i of the padded message of n bytes, in m blocks: the domain bits and the first padding bit behind the message, the last bit at the end. -/
def padded (bs : List (BitVec 8)) : List (BitVec 8) :=
  let n := bs.length
  let m := (n / 72 + 1) * 72
  bs ++ ((List.range (m - n)).map fun i => (if i = 0 then 0x06 else 0) ||| (if n + i + 1 = m then 0x80 else 0))

/-- SHA3-512; byte 0 of the digest is the lowest. -/
def sha3 (bs : List (BitVec 8)) : BitVec 512 :=
  let p := padded bs
  let s := (List.range (p.length / 72)).foldl (fun s i => absorb s ((p.drop (72 * i)).take 72)) (List.replicate 25 0)
  BitVec.ofNat 512 ((List.range 8).foldr (fun i n => (s.getD i 0).toNat + 18446744073709551616 * n) 0)

end Sys2Proof.Machine.Sha3
end

