-- ==== Sys2Proof/Machine/State.lean ====
section
/-! DEFINITION. The state of the machine as plain data, its reasons to stop, and the state after reset. -/
namespace Sys2Proof.Machine

/-- MOOR (R99). -/
structure Moor where
  addr : Pc := 0
  mask : BitVec 4 := 0
  v    : Bool := false
  deriving DecidableEq, Repr, Inhabited

/-- A trap frame, or the overflow registers, whose `moor` is not used (R233, R236, R260). -/
structure Frame where
  epc  : Pc := 0
  code : BitVec 8 := 0
  pm   : BitVec 2 := 0
  hc   : Bool := false
  imp  : Bool := false
  hdr  : Pc := 0
  pred : BitVec 7 := 0
  tval : DWord := 0
  moor : Moor := {}
  deriving DecidableEq, Repr, Inhabited

/-- What a core holds of the clause a lane is in (R33, R36). -/
structure Clause where
  wait : BitVec 12 := 0
  seta : FlagSel := ⟨false, 0⟩
  setb : FlagSel := ⟨false, 0⟩
  len  : BitVec 4 := 0
  yp   : Bool := false
  deriving DecidableEq, Repr, Inhabited

/-- What a parked lane awaits (R266): a barrier's phase to be over, its turn at a ticket, a number of a timeline, bytes of a command, a fork, an item
of a queue, an extended block, room in a quay direction, an entry of one, a register row, its turn at a
watch slot's gate, the flags of a clause's WAIT mask to be clear; or, at a gather or a mooring, other lanes. -/
inductive Await
  | bar (grp b phase : Nat)
  | ticket (grp t : Nat)
  | line (grp t n : Nat)
  | bytes (grp t n k : Nat)
  | fork (grp n : Nat)
  | item
  | block
  | send (dir : Nat)
  | recv (dir : Nat)
  | fill (row : Nat)
  | order (slot : Nat)
  | flags (mask : BitVec 12)
  | others
  deriving DecidableEq, Repr, Inhabited

/-- What a lane waits for at its word. -/
inductive Wait
  /-- nothing -/
  | run
  /-- arrived at a gathering form (R92) -/
  | gather
  /-- held at its mooring (R100) -/
  | moored
  /-- a table walk (R297) -/
  | walk (id : Nat)
  /-- a parking event: DEQ, GBAR, GWAIT, TKWAIT, XACQ, TLWAIT, WPWAIT, RDV, QYSEND, QYRECV, a register fill (R266) -/
  | park (on : Await)
  /-- another wait at the word: a full queue, a flag, a pending register, a release -/
  | hold
  /-- WAITV (R105) -/
  | watch
  /-- a sampler request (R332) -/
  | sample (req : Nat)
  /-- the order gate (R401, R416) -/
  | gate
  deriving DecidableEq, Repr, Inhabited

/-- A WAITV watch (R105): the address and the expected value, evaluated once, the line's physical address, the level, the ETIME of the first read,
the limit in ns (0 for none), the line as it stood at the last read, and the predicate to write. -/
structure Watch where
  va    : Nat
  want  : DWord
  line  : Nat
  pol   : Pol
  since : Nat
  limit : Nat
  seen  : BitVec 1024
  dest  : Nat := 0
  deriving DecidableEq, Repr, Inhabited

/-- An imprecise cause held for a lane until it stands at the depth it was raised for (R315, R402). -/
structure Imprecise where
  depth : Nat
  code  : BitVec 8
  tval  : DWord
  deriving DecidableEq, Repr, Inhabited

/-- A release as a location or a lane holds it: its clock, its scope, its squad and group (R301, R302). -/
structure Release where
  vc    : Clock := []
  scope : Scope := .sq
  sq    : Nat := 0
  grp   : Nat := 0
  deriving DecidableEq, Repr, Inhabited

/-- A lane (R260), with what the core holds for it while it is resident; `issued` says that its word has issued and that it waits there (R272). -/
structure Lane where
  pc     : Pc := 0
  mode   : Mode := .u
  depth  : Nat := 0
  udt    : Bool := false
  ovf    : Bool := false
  q      : BitVec 7 := 0
  moor   : Moor := {}
  rege   : Pc := 0
  regc   : Word := 0
  srkey  : Word := 0
  srcnt  : DWord := 0
  f0     : Frame := {}
  f1     : Frame := {}
  f2     : Frame := {}
  xf     : Frame := {}
  hofs   : BitVec 4 := 0
  clause : Clause := {}
  recheck : Bool := false
  reload : Bool := false
  wait   : Wait := .run
  issued : Bool := false
  watch  : Option Watch := none
  claim  : Option Nat := none
  imps   : List Imprecise := []
  vc     : Clock := []
  acq    : Nat := 0
  seen   : List Release := []
  frel   : List Release := []
  seq    : Nat := 0
  deriving DecidableEq, Repr, Inhabited

/-- A resident register row (R262): words by lane, unlisted 0. -/
structure Row where
  words  : FMap Word := []
  poison : NSet := []
  dirty  : Bool := false
  deriving DecidableEq, Repr, Inhabited

/-- CSTATE (R240, R259). -/
inductive CState | created | ready | held | ended
  deriving DecidableEq, Repr, Inhabited

/-- Residency of a squad (R266); In and Parked are told apart by what its lanes wait for. -/
inductive Residency | out | in_ | writing
  deriving DecidableEq, Repr, Inhabited

/-- Why a squad's issue is being stopped: SQPARK with the lane that waits for its status (R243), a halt (R236), pre-emption (R392),
a fatal error (R321). -/
inductive Stop
  | none
  | park (sq lane : Nat) (wb : Bool)
  | halt
  | preempt
  | fatal
  deriving DecidableEq, Repr, Inhabited

/-- An instance of a gathering form in progress (R92): its mask register (none: every lane), the lanes that have arrived, those that
arrived with a failing guard, and whether the gather is complete. -/
structure GInst where
  mask    : Option Nat := none
  arrived : NSet := []
  passed  : NSet := []
  closed  : Bool := false
  deriving DecidableEq, Repr, Inhabited

/-- How far a squad form got before its squad was stopped (R375). -/
inductive FormStage
  /-- a DEQ waits on a queue since an ETIME, for at most a limit (0 for none), in the order its instance completed, for sixteen w registers -/
  | deqWait (pc : Pc) (queue since limit order dst : Nat)
  /-- a DEQ has its item in the w registers and Q7 set, in lanes of which some had it set before, or it has none -/
  | deqDone (pc : Pc) (got : Bool) (was : NSet)
  /-- a DEQ would write a w register that another squad has written (R123) -/
  | deqBad (pc : Pc) (reg : Nat)
  /-- GBAR or GARV has recorded its arrival in a phase -/
  | arrived (pc : Pc) (bar phase : Nat)
  deriving DecidableEq, Repr, Inhabited

/-- A flag's claim by one issued instruction (R38, R39); it falls when no lane, access or command holds it. Its clock is what its
completion releases, and whether that is wider than `.sq` (R349). -/
structure Claim where
  flag : Nat
  vc   : Clock := []
  wide : Bool := false
  deriving DecidableEq, Repr, Inhabited

/-- One instruction in the debug undo log (R250, R396): lane states before, row words before, memory bytes before and after, whether
it issued an engine command, and what it wrote: the rows, whether a predicate set, and the lanes whose accesses wrote memory. -/
structure Undo where
  id     : Nat := 0
  lanes  : FMap Lane := []
  rows   : List (Nat × Nat × Word) := []
  mem    : List (Nat × Byte × Byte) := []
  engine : Bool := false
  wrows  : NSet := []
  wpred  : Bool := false
  wmem   : NSet := []
  deriving DecidableEq, Repr, Inhabited

/-- How many writes an instruction made: one for each register row, for its predicate set, and for each lane's memory access (R396). -/
def Undo.writes (x : Undo) : Nat := x.wrows.length + (if x.wpred then 1 else 0) + x.wmem.length

/-- What a kernel descriptor gives (R59). -/
structure Kern where
  entry  : DWord := 0
  priv   : Nat := 0
  scr    : Nat := 0
  unif   : Nat := 0
  gsq    : Nat := 0
  energy : Nat := 0
  peak   : Nat := 0
  ext    : Bool := false
  det    : Bool := false
  deriving DecidableEq, Repr, Inhabited

/-- A squad (R240, R257 to R268). `fills` are the fills outstanding, by the cycle they began in, `fillFor` the lanes that wait for each, `fillBad` the
row, lane and word of those a fill failed (R263, R264); `path` the lanes of the path that runs in deterministic mode (R277); `exited` the last state of
the lanes that have exited (R256); `pinSet` the pin that CTXPIN gave it while its image could not be written (R243); `debug` the debug area of its slot,
none where system software gave one (R396); `ending` says that it has ended and its image is still to be written (R97), `freed` that CTXFREE has given its address up (R243), `unrun` that a squad of CTXNEW has never been activated (R242); `deqTask` the cluster that admitted a worker's item and the item's PEAK (R386). Its lanes, banks, masks and rows are held here while they are on chip; otherwise the
context in memory holds them. The k and h banks of a new squad hold 0: DESIGN CHOICE, log 3. -/
structure Squad where
  ctx    : Nat := 0
  asid   : BitVec 16 := 0
  vmid   : BitVec 12 := 0
  state  : CState := .created
  res    : Residency := .out
  onChip : Bool := false
  core   : Nat := 0
  bound  : Option Nat := none
  prio   : Nat := 0
  ext    : Bool := false
  det    : Bool := false
  dbg    : Bool := false
  pin    : Bool := false
  fuse   : Bool := false
  kh     : Nat := 0
  kern   : Kern := {}
  sqidx  : Word := 0
  gpidx  : Word := 0
  privb  : DWord := 0
  privl  : Word := 0
  fpsr   : BitVec 7 := 0
  fpcr   : BitVec 5 := 0
  age    : Nat := 0
  qspill : DWord := 0
  wantExt : Bool := false
  fcnt   : FMap Nat := []
  rwr    : BitVec 64 := 0
  masks  : FMap (BitVec 128) := []
  kbank  : FMap (FMap Word) := []
  hbank  : FMap (FMap Word) := []
  rows   : FMap Row := []
  lanes  : FMap Lane := []
  group  : Nat := 0
  arr    : FMap Nat := []
  insts  : FMap GInst := []
  claims : FMap Claim := []
  fdone  : FMap (Clock × Bool) := []
  form   : Option FormStage := none
  fills  : FMap Nat := []
  fillFor : FMap NSet := []
  fillBad : List (Nat × Nat × Nat) := []
  path   : NSet := []
  exited : FMap Lane := []
  pinSet : Option Bool := none
  since  : Nat := 0
  late   : Bool := false
  deqTask : Option (Nat × Nat) := none
  awaits : List Await := []
  undo   : List Undo := []
  debug  : Option Nat := none
  stop   : Stop := .none
  slot   : Option (Nat × Nat × Nat) := none
  ending : Bool := false
  gone   : Bool := false
  freed  : Bool := false
  unrun  : Bool := false
  deriving DecidableEq, Repr, Inhabited

/-- The core a squad stands on, or, off chip, the one it will be activated on where SQACT bound it (R419). -/
def Squad.home (s : Squad) : Nat := if s.onChip then s.core else s.bound.getD s.core

/-- A barrier (R109): its phase, the squads that have arrived in it, those that joined during it (R110), the clock its arrivals
released and the clock of the last completed phase. -/
structure Bar where
  phase : Nat := 0
  arr   : NSet := []
  late  : NSet := []
  vc    : Clock := []
  done  : Clock := []
  deriving DecidableEq, Repr, Inhabited

/-- A timeline (R173): counters, completed numbers above DONE, and the clock of each completed number; the write pointers of commands
in flight are with the commands. -/
structure Timeline where
  issued : Nat := 0
  done   : Nat := 0
  fail   : Nat := 0
  out    : NSet := []
  failed : NSet := []
  vcs    : FMap Clock := []
  deriving DecidableEq, Repr, Inhabited

/-- A fork (R186): sequencers still running, whether one faulted, and the clock of their effects. -/
structure Fork where
  left   : Nat := 0
  fault  : Bool := false
  vc     : Clock := []
  deriving DecidableEq, Repr, Inhabited

/-- Whether a group still has members, drains, or is freed (R363). -/
inductive GState | live | draining | freed
  deriving DecidableEq, Repr, Inhabited

/-- A group record (R106 to R112, R173, R363, R399). -/
structure Group where
  item   : Option Nat := none
  idx    : Nat := 0
  members : NSet := []
  cap    : Nat := 1
  key    : Option Nat := none
  joined : Nat := 0
  unif   : Nat := 0
  scr    : Nat := 0
  base   : Option Nat := none
  cluster : Nat := 0
  upper  : Option Nat := none
  w      : FMap Word := []
  wold   : FMap Word := []
  wwriter : FMap Nat := []
  bars   : FMap Bar := []
  stsa   : FMap Nat := []
  ticketed : Bool := false
  passed : NSet := []
  tls    : FMap Timeline := []
  forks  : FMap Fork := []
  nfork  : Nat := 0
  hash   : DWord := 0
  chk    : Nat := 0
  state  : GState := .live
  killed : Bool := false
  kh     : Nat := 0
  asid   : BitVec 16 := 0
  vmid   : BitVec 12 := 0
  peak   : Nat := 0
  deriving DecidableEq, Repr, Inhabited

/-- A copy of a line in an L1, or the bytes of a line that L2 holds ahead of the coherence point, with the sectors it takes there (R286, R290, R292, R299). -/
structure Line where
  data  : BitVec 1024 := 0
  sects : Nat := 0
  dirty : BitVec 128 := 0
  stamp : Nat := 0
  wr    : Clock := []
  deriving DecidableEq, Repr, Inhabited

/-- One thread's access in a race tag: the thread, its epoch and whether the access synchronises (R298, R306). -/
structure TagAcc where
  tid  : Nat
  ep   : Nat
  sync : Bool
  deriving DecidableEq, Repr, Inhabited

/-- The race tag of one byte of a granule (R298, R306): the last write and the reads since. -/
structure Tag where
  wr : Option TagAcc := none
  rd : List TagAcc := []
  deriving DecidableEq, Repr, Inhabited

/-- A held translation (R294, R296): in the buffer of a core, or of cluster c as number 168 + c. -/
structure Tlb where
  buf  : Nat
  vmid : BitVec 12
  asid : BitVec 16
  va   : Nat
  size : Nat
  pa   : Nat
  r : Bool
  w : Bool
  x : Bool
  u : Bool
  host : Bool
  deriving DecidableEq, Repr, Inhabited

/-- A walk in flight in a cluster, or ended in a fault that lanes still wait to take (R297). -/
structure Walk where
  cluster : Nat
  vmid : BitVec 12
  asid : BitVec 16
  va   : Nat
  res  : Option Nat := none
  deriving DecidableEq, Repr, Inhabited

/-- Where a load's data goes. -/
inductive Dest
  | none
  /-- v registers from an index, by type, HI, and the part number of an x4 -/
  | v (idx : Nat) (ty : Ty) (hi : Bool)
  | w (idx : Nat) (ty : Ty)
  deriving DecidableEq, Repr, Inhabited

/-- What an outstanding access does where it is performed. -/
inductive AccOp
  | load
  | store (bytes : List (Option Byte))
  /-- a step of ATOM or RED, with each lane's operand in ascending order -/
  | atom (op : AtomOp) (ret : Bool) (xs : FMap DWord)
  /-- a step of CAS, with each lane's compare and new values -/
  | cas (xs : FMap (DWord × DWord))
  /-- RBEXP or RBADD terms -/
  | rbexp (xs : FMap DWord)
  | rbadd (xs : FMap DWord)
  /-- RBRES -/
  | rbres
  /-- a FENCE's place in the lane's order (R170, R300) -/
  | fence (kind : FenceKind)
  /-- STSA adds -/
  | stsa (xs : FMap DWord)
  /-- the old values of a step that has been applied, on their way to the lanes' registers -/
  | ret (xs : FMap DWord)
  deriving DecidableEq, Repr, Inhabited

/-- An access issued and not yet performed (R39, R160, R303): one per lane and part, or one per atomic step. `lanes` lists the lanes
that share it, with the clock each released; `uid` is the step that issued it, `parts` how many parts a lane's access has, `hdr` the header of its word's clause, `vmid` and `asid` those it was translated
under, `frel` the FENCE releases that stood before it in each lane (R301), `own` the bytes of a lane's store, those that a higher lane writes over included (R399). -/
structure Acc where
  sq    : Nat
  grp   : Nat
  core  : Nat
  lanes : FMap Clock
  pc    : Pc
  depth : Nat := 0
  op    : AccOp
  ty    : Ty
  pol   : Pol
  va    : Nat
  pa    : Nat
  len   : Nat
  space : Nat := 0
  dest  : Dest := .none
  claim : Option Nat := none
  rel   : Option Scope := none
  acq   : Option Scope := none
  sync  : Bool := false
  seqs  : FMap Nat := []
  rege  : FMap Pc := []
  gated : Bool := false
  full  : Bool := false
  set   : Nat := 0
  stamp : Nat := 0
  hash  : Bool := false
  own   : List Byte := []
  uid   : Nat := 0
  parts : Nat := 1
  hdr   : Pc := 0
  vmid  : BitVec 12 := 0
  asid  : BitVec 16 := 0
  frel  : List (Nat × Release) := []
  deriving DecidableEq, Repr, Inhabited

/-- A step of a shape object (R182). -/
inductive ShapeStep
  | layout (elemb rows cols spitch dpitch : Nat) (tr : Bool)
  | format (sfmt dfmt : BitVec 6) (rnd : BitVec 2) (sat : Bool) (blk : Nat) (scaddr : Nat)
  | transduce (table : List Byte)
  deriving DecidableEq, Repr, Inhabited

/-- What an engine or matrix command does (R176, R185, R197). -/
inductive CmdKind
  | cpy (desc : List Word) (chain : List ShapeStep)
  | xform (desc : List Word) (table : List Byte)
  | tlsig (scope : Scope)
  | mma (mmad : Bool) (dOff cOff ha hb : Nat)
  | mzero (off arr : Nat)
  | lmm (cOff aOff bOff k fa fb : Nat)
  /-- a follow-on that stands behind its copy (R180) -/
  | follow (word : BitVec 96)
  | hdrinv (hdr : Nat) (todo : NSet)
  deriving DecidableEq, Repr, Inhabited

/-- Where a command stands. -/
inductive CmdState
  | queued
  | running (pos : Nat)
  /-- halted at a position since an ETIME (R179, R365) -/
  | halted (pos : Nat) (since : Nat)
  deriving DecidableEq, Repr, Inhabited

/-- An engine, matrix or sampler command in flight (R172, R198). `buf` holds what a running command has read or formed and not
yet written or added, `src` the source bytes a shaped copy has read (R367, R370), `aux` where a transducer command stands (R373); `det` says whether its issuing squad is in deterministic mode, `uses` is the shape or table handle it took; `hva`, `last` and `kick` give the address and time the retries of a halted command (R365). -/
structure Cmd where
  kind  : CmdKind
  sq    : Nat
  lane  : Nat
  grp   : Nat
  core  : Nat
  asid  : BitVec 16
  vmid  : BitVec 12
  priv  : Bool
  tl    : Option (Nat × Nat) := none
  claim : Option Nat := none
  vc    : Clock := []
  state : CmdState := .queued
  wp    : Nat := 0
  buf   : List (Option Byte) := []
  src   : List Byte := []
  total : Nat := 0
  aux   : List Nat := []
  seqr  : Option Nat := none
  sqidx : Nat := 0
  ctx   : Nat := 0
  det   : Bool := false
  uses  : Nat := 0
  hva   : Nat := 0
  last  : Nat := 0
  kick  : Bool := false
  deriving DecidableEq, Repr, Inhabited

/-- A slot of the shape table or of the transducer-table store (R181). -/
structure ShapeSlot where
  gen   : BitVec 16 := 1
  steps : Option (List ShapeStep) := none
  table : Option (List Byte) := none
  deriving DecidableEq, Repr, Inhabited

/-- State of a berth slot (R355). -/
inductive BState | free | live | ending
  deriving DecidableEq, Repr, Inhabited

/-- A berth slot (R191, R350, R355). -/
structure Berth where
  gen     : BitVec 16 := 1
  state   : BState := .free
  record  : List Byte := []
  holders : NSet := []
  deriving DecidableEq, Repr, Inhabited

/-- A fork sequencer (R186): where it stands in its clause, whether it waits again for what its word waits for, and, once it has reached EXIT or
stopped, whether it faulted. -/
structure Sequencer where
  fork : Nat
  grp  : Nat
  sq   : Nat
  lane : Nat
  core : Nat
  asid : BitVec 16
  vmid : BitVec 12
  priv : Bool
  pc   : Pc
  hdr  : Pc
  left : Nat := 0
  vc   : Clock := []
  wait : Bool := false
  quit : Option Bool := none
  deriving DecidableEq, Repr, Inhabited

/-- Gating state of an upper core (R428, R436); Checking is passed through within the step that ends Deactivating. -/
inductive Gate | powered | deactivating | checking | spilling | gated | waking
  deriving DecidableEq, Repr, Inhabited

/-- Registers and mechanisms of a core (R251, R262, R272 to R276). `able` says whether a bundle of its resident squads could issue at the last turn that
rested on it (R273); `events` counts, by their number j, what the estimate of its rail counts (R432). -/
structure Core where
  stvec  : DWord := 0
  hvec   : DWord := 0
  hdeleg : Word := 0
  vmid   : BitVec 12 := 0
  xpool  : Nat := 1024
  cyc    : Nat := 0
  ctime  : Nat := 0
  exec   : List (Nat × Nat) := []
  clock  : Bool := false
  able   : Bool := false
  detRun : FMap Nat := []
  events : FMap Nat := []
  deriving DecidableEq, Repr, Inhabited

/-- A header copy or a cached line of a sampler, with the step of its last use (R334, R336). -/
structure SLine where
  bytes : List Byte
  used  : Nat := 0
  deriving DecidableEq, Repr, Inhabited

/-- A weight entry of a sampler (R335 to R340): its pennant, the header copy it is filled through and whether in U mode, its bytes once they have
arrived, the lines its fill has read so far, pins, whether it is stale, and the step of its last use. -/
structure WEntry where
  hdr   : Nat
  ver   : Nat
  copy  : List Byte
  user  : Bool
  bytes : Option (List Byte) := none
  got   : FMap (List Byte) := []
  pins  : Nat := 0
  stale : Bool := false
  used  : Nat := 0
  deriving DecidableEq, Repr, Inhabited

/-- What a request to a sampler is for: the forms of R204. -/
inductive SKind
  | smp
  | smpl
  | smpg (ch : Nat)
  | smps
  | smpn
  | pin
  | unpin
  deriving DecidableEq, Repr, Inhabited

/-- A request to a sampler: one quad of one sampler instruction (R332), or one lane's WCPIN or WCUNP (R339). `lanes` holds each participant's input
words; then what the request has found: its header copy, lines, weights, and the causes its fetches met. Its lanes wait at their word while it is `held`,
until every fetch that could trap them has ended; `outs` are the lanes whose registers it is still to write, `claims` what it counts for on their flags,
`uid` the step that issued it. -/
structure SReq where
  kind  : SKind
  sq    : Nat
  core  : Nat
  user  : Bool
  quad  : Nat
  lanes : FMap (List Word)
  dst   : Opnd
  desc  : BitVec 16
  hdr   : Nat
  copy  : Option (List Byte) := none
  stale : Bool := false
  lines : FMap (List Byte) := []
  bads  : FMap Nat := []
  entry : Option Nat := none
  wts   : Option (List Byte) := none
  wbad  : Option (Nat × Nat) := none
  held  : Bool := true
  outs  : NSet := []
  claims : FMap Nat := []
  uid   : Nat := 0
  deriving DecidableEq, Repr, Inhabited

/-- A line fill of a texel cache in flight (R331, R336): its header and line, whether in U mode, and whether an HDRINV has made it stale (R326). -/
structure LFill where
  hdr   : Nat
  line  : Nat
  user  : Bool
  stale : Bool := false
  deriving DecidableEq, Repr, Inhabited

/-- The sampler of a core (R331); lines are held by header and line number. `hreads` holds, by header, the 8-byte parts read so far of headers being read
(R326). -/
structure Sampler where
  hdrs    : FMap SLine := []
  hreads  : FMap (FMap (List Byte)) := []
  lines   : FMap (FMap SLine) := []
  fills   : List LFill := []
  weights : FMap WEntry := []
  lmmWait : Bool := false
  deriving DecidableEq, Repr, Inhabited

/-- An entry of a quay (R221): the words of a register row, and the clock its send released. -/
structure QEntry where
  words : FMap Word := []
  vc    : Clock := []
  deriving DecidableEq, Repr, Inhabited

/-- A direction of a quay (R222 to R225, R425, R426): its entries from the head, spilled ones included, how many are spilled and where (VMID, ASID and
address), the squads that have sent since it was opened, whether a faulted one of them was killed, the squad that last received, and who may send and
receive for each kernel in deterministic mode. Directions are numbered 16 times the cluster, plus twice the port, plus 1 downward. -/
structure Quay where
  entries : List QEntry := []
  spilled : Nat := 0
  area    : Option (BitVec 12 × BitVec 16 × Nat) := none
  openers : NSet := []
  orphan  : Bool := false
  recvBy  : Option Nat := none
  detSend : FMap Nat := []
  detRecv : FMap Nat := []
  deriving DecidableEq, Repr, Inhabited

/-- A cluster (R251, R321, R322, R385, R386, R428). -/
structure Cluster where
  etime  : Nat := 0
  balthr : BitVec 16 := 8
  e      : Nat := 0
  p      : Nat := 0
  eStart : Nat := 0
  kernels : FMap (Kern × Nat) := []
  loading : Option Nat := none
  ring   : FMap (BitVec 128) := []
  next   : BitVec 8 := 0
  frozen : Bool := false
  frozenEv : BitVec 8 := 0
  fatal  : Bool := false
  shapes : FMap ShapeSlot := []
  berths : FMap Berth := []
  seqs   : FMap Sequencer := []
  gate   : Gate := .powered
  wake   : Bool := false
  idleAt : Option Nat := none
  queueOrder : Nat := 0
  deriving DecidableEq, Repr, Inhabited

/-- A queue descriptor as a queue engine holds it (R378, R379). -/
structure QDesc where
  enable  : Nat := 0
  mode    : Nat := 0
  qflags  : BitVec 8 := 0
  home    : Nat := 0xFF
  cap     : Nat := 16
  ring    : Nat := 0
  ctrl    : Nat := 0
  cpool   : Nat := 0
  ppool   : Nat := 0
  nslot   : Nat := 0
  quantum : Nat := 0
  seed    : Word := 0
  pstride : Nat := 0
  dbgpool : Nat := 0
  ok      : Bool := false
  deriving DecidableEq, Repr, Inhabited

/-- A queue (R378 to R382): its held descriptor, counters, last rejection, and used pool slots. -/
structure Queue where
  d      : QDesc := {}
  accepted : Nat := 0
  rejected : Nat := 0
  done   : Nat := 0
  lastRej : DWord := 0
  preempted : Nat := 0
  used   : NSet := []
  deriving DecidableEq, Repr, Inhabited

/-- A ticket sequence of a work item (R112, R389). -/
structure Ticket where
  ctr    : Nat := 0
  poison : Bool := false
  killed : NSet := []
  left   : NSet := []
  vc     : Clock := []
  deriving DecidableEq, Repr, Inhabited

/-- A work item (R62, R383, R391, R393): `stopping` and `stopped` the clusters where a pre-emption of it is under way, or complete, `quant` those where its
quantum is a cause; `dropReq`, `killReq` and, for clusters that were reset, `killAt` what waits for the end of a kernel load or pre-emption, `kill` that its groups not yet
placed are discarded, `killed` that the whole item is killed (R394); `runner` the squad that took a worker item,
until its task ends (R386). -/
structure Item where
  entry : Nat
  queue : Nat
  seq   : Nat
  bytes : List Byte
  launch : Bool
  ens   : Bool := false
  mbox  : Bool := false
  quant : NSet := []
  stopping : NSet := []
  stopped : NSet := []
  kill  : Bool := false
  killReq : Bool := false
  dropReq : Bool := false
  killAt : NSet := []
  killed : Bool := false
  runner : Option Nat := none
  placed : NSet := []
  tickets : FMap Ticket := []
  firstAt : FMap Nat := []
  from_ : Clock := []
  vc    : Clock := []
  deriving DecidableEq, Repr, Inhabited

/-- An entry of a shard (R382, R383): an item, or a sub-item's run of logical group numbers still to place. -/
structure Shard where
  item : Nat
  next : Nat := 0
  last : Nat := 0
  begun : Bool := false
  deriving DecidableEq, Repr, Inhabited

/-- Mode of a watch slot (R397, R401). -/
inductive WMode | record | play | diverged
  deriving DecidableEq, Repr, Inhabited

/-- A watch slot of ORDCTL (R249, R397 to R401). -/
structure WatchSlot where
  mode   : WMode
  base   : Nat
  len    : Nat
  log    : Nat
  cap    : Nat
  kh     : Nat
  asid   : BitVec 16
  vmid   : BitVec 12
  pend   : Option (Nat × Nat) := none
  chunk  : List (Nat × Nat) := []
  nent   : Nat := 0
  chunks : Nat := 0
  nchk   : Nat := 0
  ovf    : Bool := false
  ents   : List (Nat × Nat) := []
  pos    : Nat := 0
  recs   : List (Nat × Nat × DWord) := []
  deriving DecidableEq, Repr, Inhabited

/-- A valid entry of the address-space table as the device holds it (R441). -/
structure AstEntry where
  idx  : Nat
  asid : BitVec 16
  vmid : BitVec 12
  l0   : Nat
  qtab : Nat
  fq   : Nat
  deriving DecidableEq, Repr, Inhabited

/-- A report to the control processor or the host agent: a squad halted, with its context, lane, code 0x12 and the cause that overflowed (R236, R313); a
cluster met a fatal error, with the event's data (R321, R323). -/
inductive HostReport
  | halted (ctx lane code cause : Nat)
  | fatal (cluster data : Nat)
  deriving DecidableEq, Repr, Inhabited

/-- Mailbox and capability registers (R440, R444) with the IDs of the capability records that are set (R447), the address-space table as last read (R441), the reports to the host agent of squads that halted
(R236), and the bytes that answer the last read of the host or a peer. -/
structure HostRegs where
  ast     : List AstEntry := []
  astBase : DWord := 0
  astN    : Word := 0
  peerUp  : BitVec 8 := 0
  cmd     : BitVec 8 := 0
  busy    : Bool := false
  result  : BitVec 8 := 0
  caps    : NSet := []
  args    : FMap Word := []
  payload : FMap Byte := []
  reports : List HostReport := []
  read    : List Byte := []
  vc      : Clock := []
  deriving DecidableEq, Repr, Inhabited

/-- The bundle that is executing: its squad and its lanes, ascending. -/
structure Bundle where
  sq    : Nat
  lanes : List Nat
  deriving DecidableEq, Repr, Inhabited

/-- Everything but power, heat and trust. -/
structure Dev where
  turns  : List Turn := []
  tick   : Nat := 0
  fresh  : Nat := 1
  cur    : Option Bundle := none
  mem    : List Host.Cell := []
  l2     : FMap Line := []
  l1     : FMap Line := []
  fetch  : FMap Word := []
  tlb    : FMap Tlb := []
  walks  : FMap Walk := []
  poison : NSet := []
  marks  : NSet := []
  tags   : FMap Tag := []
  rels   : FMap (List Release) := []
  scratch : FMap Byte := []
  scPoison : NSet := []
  opbuf  : FMap Byte := []
  bPoison : NSet := []
  squads : FMap Squad := []
  groups : FMap Group := []
  accs   : FMap Acc := []
  cmds   : FMap Cmd := []
  reqs   : FMap SReq := []
  cores  : FMap Core := []
  samplers : FMap Sampler := []
  clusters : FMap Cluster := []
  quays  : FMap Quay := []
  queues : FMap Queue := []
  items  : FMap Item := []
  shards : FMap (List Shard) := []
  tables : FMap ShapeSlot := []
  watches : FMap WatchSlot := []
  drops  : FMap Nat := []
  host   : HostRegs := {}
  ages   : Nat := 0
  deriving DecidableEq, Repr, Inhabited

/-- A rail (R430 to R432, R436). -/
structure Rail where
  code  : Nat := 0
  valid : Bool := false
  est   : Bool := false
  ilim  : Nat := 0
  step  : Nat := 0
  whld  : Nat := 0
  quiet : Nat := 0
  last  : Nat := 0
  deriving DecidableEq, Repr, Inhabited

/-- An estimate weight with its bounds (R432, R436). -/
structure Weight where
  w  : BitVec 16
  lo : BitVec 16
  hi : BitVec 16
  deriving DecidableEq, Repr, Inhabited

/-- A temperature sensor (R434). -/
structure Sensor where
  temp  : BitVec 12 := 0
  valid : Bool := false
  deriving DecidableEq, Repr, Inhabited

/-- What the power controller holds for a cluster (R433, R435, R436). -/
structure PCluster where
  ebud  : BitVec 16 := 100
  ires  : BitVec 10 := 100
  floor : Nat := 0
  thermal : Nat := 0
  cool  : Nat := 0
  cut   : Bool := false
  idle0 : Bool := false
  idle1 : Bool := false
  deriving DecidableEq, Repr, Inhabited

/-- The power controller (R430 to R436). -/
structure Power where
  rails  : FMap Rail := []
  clu    : FMap PCluster := []
  sens   : FMap Sensor := []
  lower  : Nat := 105
  upper  : Nat := 95
  vert   : Nat := 18
  lat    : Nat := 25
  level  : Nat := 0
  pair   : Nat := 0
  qty    : Nat := 0
  vcl    : List Weight := []
  vup    : List Weight := []
  held   : FMap Nat := []
  tripped : Bool := false
  deriving DecidableEq, Repr, Inhabited

/-- Boot and attestation (R445, R447), and module power (R322). -/
structure Trust where
  m0 : BitVec 512
  m1 : BitVec 512
  m2 : BitVec 512
  m3 : BitVec 512
  inReset : Bool := false
  failed  : Bool := false
  power   : Bool := true
  deriving DecidableEq, Repr, Inhabited

/-- The whole machine. -/
structure State where
  dev   : Dev
  power : Power
  trust : Trust
  deriving DecidableEq, Repr, Inhabited

/-- Why the machine stops. -/
inductive Fault
  /-- Raised by `step` when module power is lost (R322) or the thermal trip has removed it (R435) and the turn is not a device
  reset. Safe: nothing runs in a device without power. -/
  | powerOff
  deriving DecidableEq, Repr, Inhabited

/-- Why an instruction has no meaning here. -/
inductive Refusal
  /-- Raised by `exec` for an instruction whose meaning is not written yet, by its mnemonic. Safe: the machine stops. -/
  | notModelled (mnemonic : String)
  deriving DecidableEq, Repr

/-- The reset ILIM of a rail (R430). -/
def ilimReset (r : Nat) : Nat :=
  if r < 24 then 400 else if r < 48 then 600 else if r = 48 then 800 else if r = 49 then 400 else 500

/-- A rail after reset (R430, R436). -/
def railReset (r : Nat) : Rail := { ilim := ilimReset r }

/-- The weight set after reset, as firmware leaves it (R436). -/
def weightsReset (up : Bool) : List Weight :=
  (List.range 9).map fun j => ⟨(Config.weight up j).1, (Config.weight up j).2.1, (Config.weight up j).2.2⟩

/-- A core after reset: registers at their reset values, HVEC the firmware's (R251, R447). DESIGN CHOICE, log 4. -/
def coreReset : Core := { hvec := Config.hvec }

/-- The power controller after reset (R436). DESIGN CHOICE, log 4. -/
def powerReset : Power := { vcl := weightsReset false, vup := weightsReset true }

/-- What measurement register i holds after a boot at a step: the SHA3-512 digest of its image (R445). -/
def measured (tick i : Nat) : BitVec 512 := Sha3.sha3 (Config.image tick i).code

/-- The measurements that a boot at a step leaves (R445). -/
def trustAt (tick : Nat) : Trust := { m0 := measured tick 0, m1 := measured tick 1, m2 := measured tick 2, m3 := measured tick 3 }

/-- The IDs of the capability records (R440). -/
def capIds : List Nat := [1, 2, 3, 4, 5, 6]

/-- The machine right after reset (R447): no queue is configured, no squad, group or item exists, memory lists nothing, and the
capability records are set. A core, a cluster, a rail, a sensor or a slot not listed stands at its reset value. DESIGN CHOICE, logs 1, 2 and 4. -/
def State.reset : State := { dev := { host := { caps := capIds } }, power := powerReset, trust := trustAt 0 }

end Sys2Proof.Machine
end

