-- ==== Sys2Proof/Machine/Mem.lean ====
section
/-! DEFINITION. Memory at its levels: the coherence point, L2 ahead of it, and the L1 copies of each observer set (R286 to R292, R299). A
physical address is a number; host memory lies from 2^52 (R294, R441). -/
namespace Sys2Proof.Machine

/-- What a byte nothing has written reads as. DESIGN CHOICE, log 2. -/
def memDefault : Byte := 0

/-- The canonical form of memory: addresses strictly rising and no entry equal to what an unlisted address reads as. -/
def Memory.wf (m : List Host.Cell) : Bool := fsorted m && m.all fun c => c.2 != memDefault

/-- Where host memory lies among the model's physical addresses. DEDUCED, log 14. -/
def hostBase : Nat := 4503599627370496

/-- The end of device memory: 64 devices of 64 Gb (R1, R3, R286). -/
def memEnd : Nat := 549755813888

/-- No memory stands at an address: beyond device memory and below host memory. -/
def noMemory (a : Nat) : Bool := decide (memEnd ≤ a) && decide (a < hostBase)

/-- A byte at the coherence point. Where no memory stands it is a free value, and a write has no effect. DESIGN CHOICE, log 49. -/
def memRead (m : List Host.Cell) (a : Nat) : Byte := if noMemory a then Config.absent a else fgetD m a memDefault

/-- Write a byte at the coherence point. -/
def memWrite (m : List Host.Cell) (a : Nat) (b : Byte) : List Host.Cell := if noMemory a then m else fset memDefault m a b

/-- Byte i of a line. -/
def Line.byte (l : Line) (i : Nat) : Byte := l.data.extractLsb' (8 * i) 8

/-- A line's data with byte i replaced. -/
def lineSet (x : BitVec 1024) (i : Nat) (b : Byte) : BitVec 1024 :=
  (x &&& ~~~((0xFF#1024) <<< (8 * i))) ||| (b.setWidth 1024 <<< (8 * i))

/-- One bit of a byte mask. -/
def bitAt (i : Nat) : BitVec 128 := 1#128 <<< i

/-- Line number of an address. -/
def lineOf (a : Nat) : Nat := a / 128

/-- The byte L2 gives: its own where it holds the byte ahead of the coherence point. -/
def l2Byte (d : Dev) (a : Nat) : Byte :=
  match fget d.l2 (lineOf a) with
  | some l => if l.dirty.getLsbD (a % 128) then l.byte (a % 128) else memRead d.mem a
  | none => memRead d.mem a

/-- A write to a byte of a marked binned set clears its mark (R412). -/
def unmark (d : Dev) (a : Nat) : Dev := { d with marks := sdel d.marks (a / 64) }

/-- Write an L2 line's bytes to the coherence point. -/
def l2CleanLine (d : Dev) (ln : Nat) : Dev :=
  match fget d.l2 ln with
  | some l =>
    { d with
      mem := (upto 128).foldl (fun m i => if l.dirty.getLsbD i then memWrite m (ln * 128 + i) (l.byte i) else m) d.mem
      l2 := fdel d.l2 ln }
  | none => d

/-- The superblock tags that lines in ascending order take: one for each four lines (R292). -/
def superblocks (m : FMap Line) : Nat := (m.foldl (fun r p => if r.2 = some (p.1 / 4) then r else (r.1 + 1, some (p.1 / 4))) ((0, none) : Nat × Option Nat)).1

/-- The line as L2 gives it. -/
def l2LineData (d : Dev) (ln : Nat) : BitVec 1024 :=
  (upto 128).foldl (fun x i => lineSet x i (l2Byte d (ln * 128 + i))) 0

/-- The sectors of 32 bytes a line is stored in: none for a line of zeros, 4 for one stored raw (R292). -/
def sectorsOf (x : BitVec 1024) : Nat := if x = 0 then 0 else min 4 (Config.compressed x)

/-- The slice of L2 that a line stands in (R286, R292). -/
def sliceOf (ln : Nat) : Nat := Config.slice (ln / 4) % 64

/-- The lines that the slice of a line holds ahead of the coherence point. -/
def sliceLines (d : Dev) (ln : Nat) : FMap Line := d.l2.filter fun p => sliceOf p.1 == sliceOf ln

/-- The sectors that lines take. -/
def sectorsIn (m : FMap Line) : Nat := m.foldl (fun n p => n + p.2.sects) 0

/-- A slice holds 131,072 sectors and 16,384 superblock tags, each of four lines (R2, R286, R292). -/
def sliceSectors : Nat := 131072
def sliceTags : Nat := 16384

/-- L2 has a superblock tag for a line and n sectors for its data. Fewer lines than one slice has tags always leave room: they take 4 sectors each at most. -/
def l2Room (d : Dev) (ln n : Nat) : Bool :=
  (decide (d.l2.length < sliceTags) && decide (n ≤ 4)) ||
    (decide (superblocks (sliceLines d ln) < sliceTags) || d.l2.any fun p => p.1 / 4 == ln / 4) &&
      decide (sectorsIn ((sliceLines d ln).filter fun p => p.1 != ln) + n ≤ sliceSectors)

/-- A superblock leaves L2: its lines reach the coherence point. -/
def l2Evict (d : Dev) (k : Nat) : Dev := (upto 4).foldl (fun d i => l2CleanLine d (k * 4 + i)) d

/-- Superblocks leave a line's slice until it has room; which ones is not the spec's to say. DESIGN CHOICE, log 36. -/
def l2MakeFuel : Nat → Dev → Nat → Nat → Dev
  | 0, d, _, _ => d
  | k + 1, d, ln, n =>
    if l2Room d ln n then d
    else
      let l := (sliceLines d ln).filter fun p => p.1 / 4 != ln / 4
      match (l[Config.pick d.tick ln l.length % l.length]?).map (·.1) with
      | some v => l2MakeFuel k (l2Evict d (v / 4)) ln n
      | none => d

/-- Room for a line in n sectors is made in its slice. -/
def l2Make (d : Dev) (ln n : Nat) : Dev := l2MakeFuel d.l2.length d ln n

/-- Write a byte at L2: the line is stored in the sectors that its new data take. -/
def l2Put (d : Dev) (a : Nat) (b : Byte) : Dev :=
  let n := sectorsOf (lineSet (l2LineData d (lineOf a)) (a % 128) b)
  let d := l2Make d (lineOf a) n
  let l := fgetD d.l2 (lineOf a) {}
  { d with l2 := fput d.l2 (lineOf a) { l with data := lineSet l.data (a % 128) b, dirty := l.dirty ||| bitAt (a % 128), sects := n } }

/-- Write a byte at L2, as any write but a binned one does. -/
def l2Write (d : Dev) (a : Nat) (b : Byte) : Dev := unmark (l2Put d a b) a

/-- Write a byte at the coherence point; L2 no longer holds it ahead. -/
def sysPut (d : Dev) (a : Nat) (b : Byte) : Dev :=
  let l2 := match fget d.l2 (lineOf a) with
    | some l =>
      let m := l.dirty &&& ~~~(bitAt (a % 128))
      if m = 0#128 then fdel d.l2 (lineOf a) else fput d.l2 (lineOf a) { l with dirty := m }
    | none => d.l2
  { d with mem := memWrite d.mem a b, l2 := l2 }

/-- Write a byte at the coherence point, as any write but a binned one does. -/
def sysWrite (d : Dev) (a : Nat) (b : Byte) : Dev := unmark (sysPut d a b) a

/-- The key of a line in the L1 of an observer set. -/
def l1Key (set ln : Nat) : Nat := ln * 256 + set

/-- The lower core whose L1 holds a line of a set: an unfused set is a core's own, line n of a cluster's fused set stands in lower core n mod 6 (R286, R289). -/
def l1Core (set ln : Nat) : Nat := if set < 168 then set else 7 * (set - 168) + ln % 6

/-- The L1 that would hold a line of a set has room for it: it holds 2,048 lines (R286). -/
def l1Room (d : Dev) (set ln : Nat) : Bool :=
  (fget d.l1 (l1Key set ln)).isSome ||
    decide ((d.l1.filter fun p => l1Core (p.1 % 256) (p.1 / 256) == l1Core set ln).length < 2048)

/-- A line is in a set's L1, filled from L2 on a miss (R160, R290). -/
def l1Fill (d : Dev) (set ln : Nat) : Dev :=
  match fget d.l1 (l1Key set ln) with
  | some _ => d
  | none => { d with l1 := fput d.l1 (l1Key set ln) { data := l2LineData d ln, stamp := d.tick } }

/-- The byte a set's L1 holds. -/
def l1Byte (d : Dev) (set a : Nat) : Byte :=
  match fget d.l1 (l1Key set (lineOf a)) with
  | some l => l.byte (a % 128)
  | none => l2Byte d a

/-- Write a dirty L1 line to L2; the copy stays, clean (R165, R290). -/
def l1WriteBack (d : Dev) (set ln : Nat) : Dev :=
  match fget d.l1 (l1Key set ln) with
  | some l =>
    let d := (upto 128).foldl (fun d i => if l.dirty.getLsbD i then l2Write d (ln * 128 + i) (l.byte i) else d) d
    { d with l1 := fput d.l1 (l1Key set ln) { l with dirty := 0, wr := [] } }
  | none => d

/-- Drop an L1 line, writing it back first when dirty: no data is lost (R165). -/
def l1Drop (d : Dev) (set ln : Nat) : Dev :=
  let d := l1WriteBack d set ln
  { d with l1 := fdel d.l1 (l1Key set ln) }

/-- Write a byte in a set's L1, by threads at epochs (R160, R349). -/
def l1Write (d : Dev) (set a : Nat) (b : Byte) (by_ : Clock) : Dev :=
  let d := l1Fill d set (lineOf a)
  { d with l1 := fmod d.l1 (l1Key set (lineOf a)) fun l =>
      { l with data := lineSet l.data (a % 128) b, dirty := l.dirty ||| bitAt (a % 128), wr := vcJoin l.wr by_ } }

/-- Bring a set's copy up to a byte written at a wider level: the copy takes it and holds it clean (R160). -/
def l1Update (d : Dev) (set a : Nat) (b : Byte) : Dev :=
  { d with l1 := fmod d.l1 (l1Key set (lineOf a)) fun l =>
      { l with data := lineSet l.data (a % 128) b, dirty := l.dirty &&& ~~~(bitAt (a % 128)) } }

/-- Where a set's L1 has no room for a line, one of its lines leaves it; which one is not the spec's to say (R286). DESIGN CHOICE, log 36. -/
def l1Make (d : Dev) (set ln : Nat) : Dev :=
  if l1Room d set ln then d
  else
    let l := d.l1.filter fun p => l1Core (p.1 % 256) (p.1 / 256) == l1Core set ln
    match (l[Config.pick d.tick ln l.length % l.length]?).map (·.1) with
    | some k => l1Drop d (k % 256) (k / 256)
    | none => d

/-- Before a load wider than `.l1`: a dirty copy of the line in the set's L1 is written to L2 and any copy dropped (R290);
for `.sys`, L2's bytes reach the coherence point, so that a lane never reads a value older than its own last one. -/
def widen (d : Dev) (set ln : Nat) (p : Pol) : Dev :=
  let d := l1Drop d set ln
  if p = .sys then l2CleanLine d ln else d

/-- Ready a line for a load at a policy; an L1 copy filled before the stamp of the lane's last acquire is not returned (R300). -/
def loadPrep (d : Dev) (set ln : Nat) (p : Pol) (acq : Nat) : Dev :=
  if p = .l1 then
    let d := match fget d.l1 (l1Key set ln) with
      | some l => if l.stamp < acq then l1Drop d set ln else d
      | none => d
    l1Fill d set ln
  else widen d set ln p

/-- The byte a load at a policy returns once its line is ready (R160). -/
def loadByte (d : Dev) (set a : Nat) (p : Pol) : Byte :=
  match p with
  | .l1 => l1Byte d set a
  | .sys => memRead d.mem a
  | _ => l2Byte d a

/-- n bytes as a number, little-endian, of a byte reader. -/
def bytesNat (f : Nat → Byte) (a : Nat) : Nat → Nat
  | 0 => 0
  | n + 1 => (f a).toNat + 256 * bytesNat f (a + 1) n

/-- The n bytes at an address, lowest first. -/
def bytesAt (f : Nat → Byte) (a n : Nat) : List Byte := (upto n).map fun i => f (a + i)

/-- A list of bytes as a number, little-endian. -/
def leNat : List Byte → Nat
  | [] => 0
  | b :: t => b.toNat + 256 * leNat t

/-- The n bytes of a number, little-endian. -/
def natLe (x : Nat) : Nat → List Byte
  | 0 => []
  | n + 1 => BitVec.ofNat 8 x :: natLe (x / 256) n

/-- A little-endian field of a byte list. -/
def fieldAt (bs : List Byte) (off n : Nat) : Nat := leNat ((bs.drop off).take n)

/-- Every byte of a range of a byte list is zero. -/
def zeroAt (bs : List Byte) (off n : Nat) : Bool := ((bs.drop off).take n).all (· == 0#8)

/-- Write a byte for the device at `.l2`, at the coherence point for `.sys`; for `.str` too, since it takes no room in L2 (R160, R374). -/
def putByte (d : Dev) (a : Nat) (b : Byte) (p : Pol) : Dev :=
  match p with
  | .sys | .str => sysWrite d a b
  | .l1 | .l2 => l2Write d a b

/-- Store one byte at a policy for a set (R160). -/
def storeByte (d : Dev) (set a : Nat) (b : Byte) (p : Pol) (by_ : Clock) : Dev :=
  if p = .l1 then l1Write d set a b by_ else l1Update (putByte d a b p) set a b

/-- Store bytes from an address; a part that a mask leaves out is not written. -/
def storeBytes (d : Dev) (set : Nat) : Nat → List (Option Byte) → Pol → Clock → Dev
  | _, [], _, _ => d
  | a, b :: t, p, by_ =>
    let d := match b with
      | some b => storeByte d set a b p by_
      | none => d
    storeBytes d set (a + 1) t p by_

/-- Write bytes at L2 (engine and device writes). -/
def l2WriteBytes (d : Dev) : Nat → List Byte → Dev
  | _, [] => d
  | a, b :: t => l2WriteBytes (l2Write d a b) (a + 1) t

/-- Write bytes at the coherence point. -/
def sysWriteBytes (d : Dev) : Nat → List Byte → Dev
  | _, [] => d
  | a, b :: t => sysWriteBytes (sysWrite d a b) (a + 1) t

/-- Every L1 copy of a line, in every set. -/
def l1SetsOf (d : Dev) (ln : Nat) : List Nat := (d.l1.filter fun p => p.1 / 256 == ln).map fun p => p.1 % 256

/-- Every device copy of a line reaches the coherence point and leaves the device (R439). -/
def invalidateLine (d : Dev) (ln : Nat) : Dev :=
  let d := (l1SetsOf d ln).foldl (fun d s => l1Drop d s ln) d
  l2CleanLine d ln

/-- The line is poisoned (R319). -/
def poisoned (d : Dev) (a : Nat) : Bool := shas d.poison (lineOf a)
/-- Poison a line (R319). -/
def poisonLine (d : Dev) (a : Nat) : Dev := { d with poison := sadd d.poison (lineOf a) }

end Sys2Proof.Machine
end

