-- ==== Sys2Proof/Machine/Translate.lean ====
section
/-! DEFINITION. Translation: the address-space table (R441), the walk (R293, R294), permissions (R295), the buffers (R296). -/
namespace Sys2Proof.Machine

/-- Cause codes of R312. -/
abbrev Cause := Nat

/-- Bits [hi:lo] of a number. -/
def nbits (x lo n : Nat) : Nat := x / 2 ^ lo % 2 ^ n

/-- Read the valid entries of an address-space table of n entries (R441). -/
def astRead (d : Dev) (base n : Nat) : List AstEntry :=
  (upto (min n 4096)).filterMap fun a =>
    let bs := bytesAt (l2Byte d) (base + 64 * a) 64
    if fieldAt bs 0 1 = 1 && zeroAt bs 1 1 && zeroAt bs 6 2 && zeroAt bs 32 32 && decide (fieldAt bs 4 2 < 4096) then
      some ⟨a, BitVec.ofNat 16 (fieldAt bs 2 2), BitVec.ofNat 12 (fieldAt bs 4 2), fieldAt bs 8 8, fieldAt bs 16 8, fieldAt bs 24 8⟩
    else none

/-- The device reads its address-space table again (R441). -/
def astRefresh (d : Dev) : Dev :=
  { d with host := { d.host with ast := astRead d d.host.astBase.toNat d.host.astN.toNat } }

/-- The entry of a pair of VMID and ASID: the lowest-numbered (R441). -/
def astFind (d : Dev) (vmid : BitVec 12) (asid : BitVec 16) : Option AstEntry :=
  d.host.ast.find? fun e => e.vmid == vmid && e.asid == asid

/-- What a leaf gives (R294). -/
structure Leaf where
  va : Nat
  size : Nat
  pa : Nat
  r : Bool
  w : Bool
  x : Bool
  u : Bool
  host : Bool
  deriving DecidableEq, Repr, Inhabited

/-- Walk the levels that are left, each a shift and a number of entries, from a table (R293, R294). -/
def walkFrom (d : Dev) (va : Nat) : List (Nat × Nat) → Nat → Except Cause Leaf
  | [], _ => .error 0x04
  | (sh, n) :: rest, table =>
    let ea := table + 8 * (nbits va sh 64 % n)
    let e := bytesNat (l2Byte d) ea 8
    let addr := nbits e 8 44 * 256
    if poisoned d ea then .error 0x0D
    else if nbits e 0 1 = 0 || nbits e 7 1 ≠ 0 || nbits e 52 12 ≠ 0 then .error 0x04
    else if nbits e 1 1 = 0 then
      match rest with
      | [] => .error 0x04
      | (_, m) :: _ =>
        if nbits e 2 5 ≠ 0 || addr % (8 * m) ≠ 0 then .error 0x04 else walkFrom d va rest addr
    else if rest.length = 3 || addr % 2 ^ sh ≠ 0 then .error 0x04
    else .ok ⟨va / 2 ^ sh * 2 ^ sh, 2 ^ sh, addr, nbits e 2 1 = 1, nbits e 3 1 = 1, nbits e 4 1 = 1, nbits e 5 1 = 1,
              nbits e 6 1 = 1⟩

/-- The four levels of R293. -/
def walkLevels : List (Nat × Nat) := [(42, 4096), (30, 4096), (21, 512), (16, 32)]

/-- The walk of an address under a VMID and ASID (R293). -/
def walkPage (d : Dev) (vmid : BitVec 12) (asid : BitVec 16) (va : Nat) : Except Cause Leaf :=
  match astFind d vmid asid with
  | some e => if e.l0 % 32768 ≠ 0 || e.l0 ≥ 2 ^ 52 then .error 0x04 else walkFrom d va walkLevels e.l0
  | none => .error 0x04

/-- What an access needs (R295). -/
inductive Need | r | w | rw | x
  deriving DecidableEq, Repr, Inhabited

/-- The permissions of a held translation suffice (R295). -/
def permOk (t : Tlb) (need : Need) (user : Bool) : Bool :=
  match need with
  | .r => t.r && (t.u || !user)
  | .w => t.w && (t.u || !user)
  | .rw => t.r && t.w && (t.u || !user)
  | .x => t.x && (t.u == user)

/-- A translation held in one buffer (R296). -/
def tlbFind (d : Dev) (buf : Nat) (vmid : BitVec 12) (asid : BitVec 16) (va : Nat) : Option Tlb :=
  (d.tlb.find? fun p => p.2.buf == buf && p.2.vmid == vmid && p.2.asid == asid && p.2.va ≤ va && va < p.2.va + p.2.size).map (·.2)

/-- The buffer behind a core's, or the cluster's own. -/
def clusterBuf (buf : Nat) : Nat := if buf < 168 then 168 + buf / 7 else buf

/-- A translation held for a core: in its buffer, or its cluster's (R296). -/
def tlbLookup (d : Dev) (buf : Nat) (vmid : BitVec 12) (asid : BitVec 16) (va : Nat) : Option Tlb :=
  match tlbFind d buf vmid asid va with
  | some t => some t
  | none => tlbFind d (clusterBuf buf) vmid asid va

/-- The held form of a leaf. -/
def Leaf.tlb (l : Leaf) (buf : Nat) (vmid : BitVec 12) (asid : BitVec 16) : Tlb :=
  ⟨buf, vmid, asid, l.va, l.size, l.pa, l.r, l.w, l.x, l.u, l.host⟩

/-- Entries a buffer has: 128 in a core, 4,096 in a cluster (R296). -/
def tlbSize (buf : Nat) : Nat := if buf < 168 then 128 else 4096

/-- Hold a translation in one buffer; where it is full another leaves it, and which one is not the spec's to say. DESIGN CHOICE, log 21. -/
def tlbAdd (d : Dev) (buf : Nat) (vmid : BitVec 12) (asid : BitVec 16) (l : Leaf) : Dev :=
  let held := d.tlb.filter fun p => p.2.buf == buf
  let tlb := if held.length < tlbSize buf then d.tlb
    else match held[Config.pick d.tick buf held.length % held.length]? with
      | some p => fdel d.tlb p.1
      | none => d.tlb
  { d with tlb := fput tlb d.fresh (l.tlb buf vmid asid), fresh := d.fresh + 1 }

/-- Hold a translation in a core's and its cluster's buffers. DEDUCED, log 21. -/
def tlbFill (d : Dev) (buf : Nat) (vmid : BitVec 12) (asid : BitVec 16) (l : Leaf) : Dev :=
  let d := tlbAdd d (clusterBuf buf) vmid asid l
  if buf < 168 then tlbAdd d buf vmid asid l else d

/-- The physical address a held translation gives. -/
def Tlb.addr (t : Tlb) (va : Nat) : Nat := t.pa + (va - t.va) + (if t.host then hostBase else 0)

/-- Check and apply a held translation. -/
def Tlb.apply (t : Tlb) (va : Nat) (need : Need) (user : Bool) : Except Cause Nat :=
  if permOk t need user then .ok (t.addr va) else .error 0x05

/-- The address lies in the peer aperture (R443). -/
def isPeer (va : Nat) : Bool := nbits va 44 10 == 0x3FF

/-- The peer an aperture address names (R443). -/
def peerOf (va : Nat) : Nat := nbits va 41 3

/-- Translate at once, walking on a miss: the device's own accesses, records and instruction fetch (R47, R293). None of them
may reach the peer aperture (R288). -/
def xlatNow (d : Dev) (buf : Nat) (vmid : BitVec 12) (asid : BitVec 16) (va : Nat) (need : Need) (user : Bool) :
    Dev × Except Cause Nat :=
  if va ≥ 2 ^ 54 then (d, .error 0x04)
  else if isPeer va then (d, .error 0x05)
  else match tlbLookup d buf vmid asid va with
    | some t => (d, t.apply va need user)
    | none =>
      match walkPage d vmid asid va with
      | .ok l => (tlbFill d buf vmid asid l, (l.tlb buf vmid asid).apply va need user)
      | .error c => (d, .error c)

/-- Read n bytes for the device at `.l2`, translated; a poisoned line is an uncorrectable error. -/
def readNow (d : Dev) (buf : Nat) (vmid : BitVec 12) (asid : BitVec 16) (va n : Nat) (user : Bool) :
    Dev × Except Cause (List Byte) :=
  match xlatNow d buf vmid asid va .r user with
  | (d, .ok pa) => (d, if poisoned d pa then .error 0x0D else .ok (bytesAt (l2Byte d) pa n))
  | (d, .error c) => (d, .error c)

/-- Read a range that may cross pages, in pieces of at most 64 bytes. -/
def readPieces (buf : Nat) (vmid : BitVec 12) (asid : BitVec 16) (user : Bool) : Nat → Dev → Nat → Nat → List Byte →
    Dev × Except (Cause × Nat) (List Byte)
  | 0, d, _, _, acc => (d, .ok acc)
  | k + 1, d, va, n, acc =>
    if n = 0 then (d, .ok acc)
    else
      let m := min n (64 - va % 64)
      match readNow d buf vmid asid va m user with
      | (d, .ok bs) => readPieces buf vmid asid user k d (va + m) (n - m) (acc ++ bs)
      | (d, .error c) => (d, .error (c, va))

/-- Read n bytes from an address. -/
def readRange (d : Dev) (buf : Nat) (vmid : BitVec 12) (asid : BitVec 16) (va n : Nat) (user : Bool) :
    Dev × Except (Cause × Nat) (List Byte) := readPieces buf vmid asid user (n / 64 + 2) d va n []

/-- A translation is present with the permissions an access needs. -/
def xlatOk (d : Dev) (buf : Nat) (vmid : BitVec 12) (asid : BitVec 16) (va : Nat) (need : Need) (user : Bool) : Bool :=
  match (xlatNow d buf vmid asid va need user).2 with
  | .ok _ => true
  | .error _ => false

/-- Write bytes for the device at `.l2`, translated at S permission: the bytes of one 64-byte piece. -/
def writeNow (d : Dev) (buf : Nat) (vmid : BitVec 12) (asid : BitVec 16) (va : Nat) (bs : List Byte) (user : Bool) :
    Dev × Except Cause Unit :=
  match xlatNow d buf vmid asid va .w user with
  | (d, .ok pa) => (l2WriteBytes d pa bs, .ok ())
  | (d, .error c) => (d, .error c)

end Sys2Proof.Machine
end

