-- ==== Sys2Proof/Machine/Order.lean ====
section
/-! DEFINITION. Order: clocks and happens-before (R302), race tags (R306), which outstanding access may be performed (R300, R303),
and what a release makes visible (R299, R300). -/
namespace Sys2Proof.Machine

/-- The thread number of a lane. -/
def tidOf (sq ln : Nat) : Nat := sq * 128 + ln
/-- The thread number under which a command makes its accesses until it is acquired; they are its issuing lane's (R189, R298). -/
def cmdTid (c sq ln : Nat) : Nat := 18446744073709551616 * (c + 1) + tidOf sq ln
/-- The lane behind a thread number. -/
def ownerOf (t : Nat) : Nat := t % 18446744073709551616

/-- What thread t did at epoch e happens before a clock. -/
def hbefore (vc : Clock) (t e : Nat) : Bool := e ≤ fgetD vc t 0

/-- The thread number under which a lane's matrix commands reach their tiles: it is not the lane's own, since the lane too reads a tile only after it has
acquired the completion (R163, R201), but the commands of one lane have no race among themselves (R298). -/
def tileOwner (sq ln : Nat) : Nat := 9223372036854775808 + tidOf sq ln
/-- The thread number of a command's accesses to its tiles. -/
def tileTid (i sq ln : Nat) : Nat := 18446744073709551616 * (i + 1) + tileOwner sq ln

/-- A tagged access belongs to the thread that makes a new one; a lane's matrix commands count the lane's accesses as their own (R298). -/
def sameThread (a t : Nat) : Bool := ownerOf a == ownerOf t || (decide (9223372036854775808 ≤ ownerOf t) && ownerOf a % 9223372036854775808 == ownerOf t % 9223372036854775808)

/-- A tagged access and a new one by thread t make a race (R298, R302). -/
def tagRace (a : TagAcc) (t : Nat) (vc : Clock) (sync : Bool) : Bool :=
  !sameThread a.tid t && !(a.sync && sync) && !hbefore vc a.tid a.ep

/-- An access to a byte is the second of a race whose first is held (R306). -/
def raceAt (d : Dev) (t : Nat) (vc : Clock) (write sync : Bool) (g : Nat) : Bool :=
  match fget d.tags g with
  | none => false
  | some tag => (match tag.wr with
      | some a => tagRace a t vc sync
      | none => false) || (write && tag.rd.any fun a => tagRace a t vc sync)

/-- Record an access in the tag of a byte (R306). -/
def tagSet (t ep : Nat) (write sync : Bool) (d : Dev) (g : Nat) : Dev :=
  let tag := fgetD d.tags g {}
  let me : TagAcc := ⟨t, ep, sync⟩
  let tag := if write then { wr := some me, rd := [] } else { tag with rd := me :: tag.rd.filter fun a => a.tid != t || a.sync != sync }
  { d with tags := fput d.tags g tag }

/-- The keys of the bytes of a range: global by physical address, scratchpad apart. A granule's tag is held byte by byte, since only a common byte
makes a conflict and no pair that is not a race is reported (R298, R306, R307). DEDUCED, log 15. -/
def byteKeys (space pa n : Nat) : List Nat :=
  let b := if space = 1 then 1152921504606846976 + pa else pa
  (upto n).map fun i => b + i

/-- The keys of a granule's four bytes. -/
def granuleKeys (g : Nat) : List Nat := (upto 4).map fun i => 4 * g + i

/-- Host and peer writes discard the tags of every granule they write (R307). -/
def tagDrop (d : Dev) (pa n : Nat) : Dev := { d with tags := (byteKeys 0 (pa / 4 * 4) ((pa % 4 + n + 3) / 4 * 4)).foldl fdel d.tags }

/-- The accesses share a lane. -/
def Acc.sameLane (a b : Acc) : Bool := a.sq == b.sq && a.lanes.any fun p => b.lanes.any fun q => q.1 == p.1

/-- The accesses touch a common byte. -/
def Acc.overlap (a b : Acc) : Bool := a.space == b.space && a.len != 0 && b.len != 0 && a.pa < b.pa + b.len && b.pa < a.pa + a.len

/-- Access b, in one of its lanes, happens before access a: by the clock a was issued with. -/
def Acc.hb (b a : Acc) : Bool :=
  b.lanes.any fun p => a.lanes.any fun q => hbefore q.2 (tidOf b.sq p.1) (fgetD p.2 (tidOf b.sq p.1) 0)

/-- A pure store. -/
def Acc.isStore (a : Acc) : Bool :=
  match a.op with
  | .store _ => true
  | _ => false

/-- An access that returns nothing to its lanes. -/
def Acc.noReturn (a : Acc) : Bool :=
  match a.op with
  | .store _ | .stsa _ | .rbexp _ | .rbadd _ => true
  | .atom _ ret _ => !ret
  | .cas _ => a.dest == .none
  | _ => false

/-- An atomic step. -/
def Acc.isStep (a : Acc) : Bool :=
  match a.op with
  | .atom _ _ _ | .cas _ | .rbexp _ | .rbadd _ | .stsa _ => true
  | _ => false

/-- A FENCE's place. -/
def Acc.isFence (a : Acc) : Bool :=
  match a.op with
  | .fence _ => true
  | _ => false

/-- An atomic that leaves the value unchanged, which R303 and the cases of R310 treat as a load. DEDUCED, log 7. -/
def Acc.readOnly (a : Acc) : Bool :=
  match a.op with
  | .load | .rbres => true
  | .atom .or _ xs => xs.all fun p => p.2 == 0
  | _ => false

/-- A later access of a lane may be performed before an earlier one to another location (R303). -/
def Acc.mayPass (later earlier : Acc) : Bool := earlier.isStore || later.readOnly

/-- Outstanding access b keeps access a, issued after it, from being performed (R300, R303). -/
def Acc.blocks (b a : Acc) : Bool :=
  (a.rel.isSome && b.hb a) || (a.overlap b && b.hb a) ||
    (a.sameLane b && (a.overlap b || a.rel.isSome || b.acq.isSome || (b.isFence && a.sync) ||
      (a.isFence && b.sync) || (!b.isFence && !a.isFence && !a.mayPass b)))

/-- An outstanding access may be performed now. -/
def accReady (d : Dev) (i : Nat) (a : Acc) : Bool := d.accs.all fun p => p.1 ≥ i || !p.2.blocks a

/-- A lane's accesses are still held behind an acquire (R300). -/
def acqPending (d : Dev) (sq ln : Nat) : Bool :=
  d.accs.any fun p => p.2.sq == sq && p.2.acq.isSome && p.2.lanes.any fun q => q.1 == ln

/-- The L1 an access is performed in has room for its line (R286). -/
def accFits (d : Dev) (a : Acc) : Bool := a.pol != .l1 || a.space != 0 || l1Room d a.set (lineOf a.pa)

/-- Accesses that happen before a clock, by any lane, are all performed. -/
def quiet (d : Dev) (vc : Clock) : Bool :=
  d.accs.all fun p => !(p.2.lanes.any fun q => hbefore vc (tidOf p.2.sq q.1) (fgetD q.2 (tidOf p.2.sq q.1) 0))

/-- Write to L2 the dirty L1 lines written by accesses that happen before a clock (R300). -/
def flushFor (d : Dev) (vc : Clock) : Dev :=
  d.l1.foldl (fun d p => if p.2.wr.any fun q => hbefore vc q.1 q.2 then l1WriteBack d (p.1 % 256) (p.1 / 256) else d) d

/-- Make what happens before a clock visible at a scope (R299, R300). -/
def publish (d : Dev) (vc : Clock) (s : Scope) : Dev :=
  match s with
  | .sq => d
  | .gp | .dev => flushFor d vc
  | .sys => let d := flushFor d vc; d.l2.foldl (fun d p => l2CleanLine d p.1) d

/-- The host agent or a peer made a release: it carries no squad. -/
def Release.outside (r : Release) : Bool := r.sq == 0

/-- The scopes of a release and an acquire include both parties: the host agent and the peers are parties of `.sys` alone (R299, R302). -/
def scopeCovers (s : Scope) (r : Release) (sq grp : Nat) : Bool :=
  match s with
  | .sq => r.sq == sq
  | .gp => r.grp == grp && !r.outside
  | .dev => !r.outside
  | .sys => true

/-- A release pairs with an acquire (R302). -/
def pairs (r : Release) (s : Scope) (sq grp : Nat) : Bool := scopeCovers s r sq grp && scopeCovers r.scope r sq grp

/-- The releases an access finds at a location. -/
def relsAt (d : Dev) (space pa n : Nat) : List Release := ((byteKeys space pa n).map fun g => fgetD d.rels g []).flatten

/-- Set the releases at a location. -/
def relsSet (d : Dev) (space pa n : Nat) (f : List Release → List Release) : Dev :=
  { d with rels := (byteKeys space pa n).foldl (fun m g => fset [] m g (f (fgetD m g []))) d.rels }

/-- The host agent and the peers have acquired a release: what they write or offer next comes after it (R301, R380, R409). DEDUCED, log 16. -/
def outside (d : Dev) (vc : Clock) : Dev := { d with host := { d.host with vc := vcJoin d.host.vc vc } }

/-- They acquire the releases of scope `.sys` among those they find (R299, R302). -/
def outsideTake (d : Dev) (rs : List Release) : Dev := rs.foldl (fun d r => if r.scope = .sys then outside d r.vc else d) d

/-- What a write from outside the device releases (R301). -/
def outsideRel (d : Dev) : List Release := if d.host.vc.isEmpty then [] else [⟨d.host.vc, .sys, 0, 0⟩]

/-- The host agent or a peer reads a range of device memory, and acquires what was released there. -/
def outsideRead (d : Dev) (pa n : Nat) : Dev := outsideTake d (relsAt d 0 pa n).eraseDups

/-- A write leaves its releases at its place. The host agent sees those in its own memory without the device's knowledge. -/
def leaveRels (d : Dev) (space pa n : Nat) (own : List Release) (f : List Release → List Release) : Dev :=
  let d := if space = 0 && decide (4503599627370496 ≤ pa) then outsideTake d own else d
  relsSet d space pa n f

end Sys2Proof.Machine
end

