-- ==== Sys2Proof/Machine/Report.lean ====
section
/-! DEFINITION. The black-box ring (R322, R323) and the supervisor fault queue (R317, R318). -/
namespace Sys2Proof.Machine

/-- A cluster, at its reset value where it is not listed. -/
def clusterOf (d : Dev) (c : Nat) : Cluster := fgetD d.clusters c {}
/-- A core, at its reset value where it is not listed. -/
def coreOf (d : Dev) (k : Nat) : Core := fgetD d.cores k coreReset
/-- Change a cluster. -/
def setCluster (d : Dev) (c : Nat) (f : Cluster → Cluster) : Dev := { d with clusters := fput d.clusters c (f (clusterOf d c)) }
/-- Change a core. -/
def setCore (d : Dev) (k : Nat) (f : Core → Core) : Dev := { d with cores := fput d.cores k (f (coreOf d k)) }

/-- A record of the black-box ring (R322). -/
def ringRecord (time ev core : Nat) (data : DWord) : BitVec 128 :=
  data ++ (0#5 ++ BitVec.ofNat 3 core ++ BitVec.ofNat 8 ev ++ BitVec.ofNat 48 time)

/-- Record an event in a cluster's ring; 0x03 freezes it (R322, R323). -/
def blackBox (d : Dev) (c ev core : Nat) (data : DWord) : Dev :=
  setCluster d c fun k =>
    if k.frozen then k
    else { k with
      ring := fput k.ring k.next.toNat (ringRecord k.etime ev core data)
      next := k.next + 1
      frozen := ev == 3
      frozenEv := if ev = 3 then 3 else k.frozenEv }

/-- DATA of events 0x01 to 0x03 (R323). -/
def errData (e : ErrAt) : DWord := e.array ++ (0#4 ++ e.index)

/-- A report to the supervisor fault queue before it is laid out (R318). -/
structure FaultReport where
  kind : Nat
  cause : Nat := 0
  exited : Bool := false
  killed : Bool := false
  poison : Bool := false
  gpidx : Nat := 0
  sqidx : Nat := 0xFFFFFFFF
  lane : Nat := 0xFF
  pc : Nat := 0
  tval : Nat := 0
  ctx : Nat := 0
  tl : Nat := 0
  number : Nat := 0
  deriving DecidableEq, Repr, Inhabited

/-- A number of a Boolean. -/
def b2n (b : Bool) : Nat := if b then 1 else 0

/-- The 64 bytes of a report (R318). -/
def FaultReport.bytes (r : FaultReport) (dropped etime : Nat) : List Byte :=
  natLe r.kind 1 ++ natLe r.cause 1 ++ natLe (b2n r.exited + 2 * b2n r.killed + 4 * b2n r.poison) 1 ++ natLe 0 1 ++
  natLe r.gpidx 4 ++ natLe r.sqidx 4 ++ natLe r.lane 1 ++ natLe 0 3 ++ natLe r.pc 8 ++ natLe r.tval 8 ++ natLe r.ctx 8 ++
  natLe r.tl 1 ++ natLe 0 3 ++ natLe dropped 4 ++ natLe r.number 8 ++ natLe etime 8

/-- CAP of a fault queue is a power of two from 16 to 65,536 (R317). -/
def capOk (n : Nat) : Bool := (upto 13).any fun i => n == 2 ^ (i + 4)

/-- Drop a report and count it (R317). -/
def dropReport (d : Dev) (c : Nat) (vmid : BitVec 12) (r : FaultReport) : Dev :=
  blackBox { d with drops := fput d.drops vmid.toNat (fgetD d.drops vmid.toNat 0 + 1) } c 6 7 (BitVec.ofNat 64 r.gpidx)

/-- Write a report for a VMID, made in cluster c (R317). The write of the record is poisoned where its line is. -/
def report (d : Dev) (c : Nat) (vmid : BitVec 12) (r : FaultReport) : Dev :=
  match astFind d vmid 0 with
  | none => dropReport d c vmid r
  | some e =>
    if e.fq = 0 then dropReport d c vmid r
    else match readNow d (168 + c) vmid 0 e.fq 64 false with
    | (d, .error _) => dropReport d c vmid r
    | (d, .ok cb) =>
      let put := fieldAt cb 0 8
      let cap := fieldAt cb 16 4
      let va := e.fq + 64 + 64 * (put % cap)
      if !capOk cap || !zeroAt cb 20 44 then dropReport d c vmid r
      else if put - fieldAt cb 8 8 ≥ cap then dropReport d c vmid r
      else if !xlatOk d (168 + c) vmid 0 e.fq .w false then dropReport d c vmid r
      else match xlatNow d (168 + c) vmid 0 va .w false with
      | (d, .error _) => dropReport d c vmid r
      | (d, .ok pa) =>
        if poisoned d pa then dropReport d c vmid r
        else
          let d := l2WriteBytes d pa (r.bytes (fgetD d.drops vmid.toNat 0) (clusterOf d c).etime)
          (writeNow { d with drops := fdel d.drops vmid.toNat } (168 + c) vmid 0 e.fq (natLe (put + 1) 8) false).1

end Sys2Proof.Machine
end

