-- ==== Sys2Proof/Machine/Fetch.lean ====
section
/-! DEFINITION. Instruction fetch (R47) and the check of clause headers (R34). -/
namespace Sys2Proof.Machine

/-- The key of a 4-byte word in a core's fetch cache. -/
def fetchKey (core pa : Nat) : Nat := core * 1152921504606846976 + pa / 4

/-- Fetch one 4-byte word: the held copy, or L2's, then held (R47). DESIGN CHOICE, log 36. -/
def fetchWord (d : Dev) (core pa : Nat) : Dev × Word :=
  match fget d.fetch (fetchKey core pa) with
  | some x => (d, x)
  | none =>
    let x : Word := BitVec.ofNat 32 (bytesNat (l2Byte d) pa 4)
    ({ d with fetch := fput d.fetch (fetchKey core pa) x }, x)

/-- Who fetches: core, VMID, ASID and whether in U mode. -/
structure Fetcher where
  core : Nat
  vmid : BitVec 12
  asid : BitVec 16
  user : Bool
  deriving DecidableEq, Repr, Inhabited

/-- Fetch a number of 4-byte words from an address; an error gives its cause. -/
def fetchWords (d : Dev) (f : Fetcher) : Nat → Nat → Dev × Except Cause (List Word)
  | _, 0 => (d, .ok [])
  | va, n + 1 =>
    match xlatNow d f.core f.vmid f.asid va .x f.user with
    | (d, .error c) => (d, .error c)
    | (d, .ok pa) =>
      if poisoned d pa then (d, .error 0x0D)
      else
        let r := fetchWord d f.core pa
        match fetchWords r.1 f (va + 4) n with
        | (d, .ok ws) => (d, .ok (r.2 :: ws))
        | (d, .error c) => (d, .error c)

/-- Fetch the instruction word at an address (R11, R47). -/
def fetchInstr (d : Dev) (f : Fetcher) (va : Nat) : Dev × Except Cause (BitVec 96) :=
  match fetchWords d f va 3 with
  | (d, .ok [a, b, c]) => (d, .ok (c ++ b ++ a))
  | (d, .ok _) => (d, .error 0x04)
  | (d, .error c) => (d, .error c)

/-- The timing class of a word (R43). -/
def wordClass (x : BitVec 96) : Nat := timingClass (wbits x 0 10) (wbits x 22 9)

/-- The highest timing class of those of n words from an address that can be fetched, and whether all can. -/
def bodyClass (d : Dev) (f : Fetcher) : Nat → Nat → Dev × Nat × Bool
  | _, 0 => (d, 0, true)
  | va, n + 1 =>
    let p := fetchInstr d f va
    let r := bodyClass p.1 f (va + 12) n
    match p.2 with
    | .error _ => (r.1, r.2.1, false)
    | .ok x => (r.1, max (wordClass x) r.2.1, r.2.2)

/-- What a header check finds: a valid header as its instruction, no valid header, or the fault of the fetch of the header itself. -/
inductive HeaderRes
  | ok (i : Instr)
  | bad
  | fault (c : Cause)
  deriving DecidableEq, Repr, Inhabited

/-- Check the word at an address as a clause header (R34). A word of the body that cannot be fetched faults when a lane reaches it, at its own
address (R47); CLS is checked against the words that can be. DEDUCED, log 48. -/
def headerAt (d : Dev) (f : Fetcher) (va : Nat) : Dev × HeaderRes :=
  if va % 4 ≠ 0 then (d, .bad)
  else match fetchInstr d f va with
  | (d, .error c) => (d, .fault c)
  | (d, .ok x) =>
    match headerOf x with
    | some (.clauseEntry len w a b cls yp) =>
      match bodyClass d f (va + 12) len.toNat with
      | (d, k, all) => (d, if k = cls.toNat || (!all && decide (k < cls.toNat)) then .ok (.clauseEntry len w a b cls yp) else .bad)
    | _ => (d, .bad)

/-- What a core holds of a clause whose header is valid. -/
def clauseOf : Instr → Clause
  | .clauseEntry len w a b _ yp => ⟨w, a, b, len, yp⟩
  | _ => {}

end Sys2Proof.Machine
end

