-- ==== Sys2Proof/Machine/Operands.lean ====
section
/-! DEFINITION. Registers and operands: the banks of a squad, the uniform registers, source modifiers, literals and immediates (R24 to
R32, R48, R106, R123, R258, R262 to R265). -/
namespace Sys2Proof.Machine

/-- A lane of a squad. -/
def Squad.lane (s : Squad) (ln : Nat) : Lane := fgetD s.lanes ln {}
/-- Change a lane of a squad. -/
def Squad.setLane (s : Squad) (ln : Nat) (f : Lane → Lane) : Squad := { s with lanes := fmod s.lanes ln f }

/-- A word of register vi: +0 while its RWR bit is clear (R265). -/
def Squad.v (s : Squad) (i ln : Nat) : Word :=
  if s.rwr.getLsbD i then fgetD (fgetD s.rows i {}).words ln 0 else 0

/-- Write a word of register vi: the first write to a row sets its RWR bit (R265); the word's poison is cleared (R319). -/
def Squad.setV (s : Squad) (i ln : Nat) (x : Word) : Squad :=
  let r : Row := if s.rwr.getLsbD i then fgetD s.rows i {} else {}
  { s with rwr := s.rwr ||| (1#64 <<< i)
           rows := fput s.rows i { words := fset 0 r.words ln x, poison := sdel r.poison ln, dirty := true } }

/-- Poison a word of a resident register row (R319). -/
def Squad.poisonWord (s : Squad) (i ln : Nat) : Squad :=
  { s with rows := fmod s.rows i fun r => { r with poison := sadd r.poison ln } }

/-- Write half a word of register vi: what is not written whole stays poisoned (R319). -/
def Squad.setHalf (s : Squad) (i ln : Nat) (hi : Bool) (x : BitVec 16) : Squad :=
  let old := s.v i ln
  let bad := s.rwr.getLsbD i && shas (fgetD s.rows i {}).poison ln
  let t := s.setV i ln (if hi then x ++ old.setWidth 16 else (old.extractLsb' 16 16) ++ x)
  if bad then t.poisonWord i ln else t

/-- A word of ki (R258). -/
def Squad.k (s : Squad) (i ln : Nat) : Word := fgetD (fgetD s.kbank i []) ln 0
/-- A word of hi (R258). -/
def Squad.h (s : Squad) (i ln : Nat) : Word := fgetD (fgetD s.hbank i []) ln 0
/-- Write a word of ki. -/
def Squad.setK (s : Squad) (i ln : Nat) (x : Word) : Squad :=
  { s with kbank := fset [] s.kbank i (fset 0 (fgetD s.kbank i []) ln x) }
/-- Write a word of hi. -/
def Squad.setH (s : Squad) (i ln : Nat) (x : Word) : Squad :=
  { s with hbank := fset [] s.hbank i (fset 0 (fgetD s.hbank i []) ln x) }

/-- Predicate qi of a lane: q0 reads true (R26). -/
def Lane.qbit (l : Lane) (i : Nat) : Bool := if i = 0 then true else l.q.getLsbD (i - 1)
/-- Write predicate qi: a write to q0 is discarded (R26). -/
def Lane.setQ (l : Lane) (i : Nat) (b : Bool) : Lane :=
  if i = 0 then l
  else { l with q := if b then l.q ||| (1#7 <<< (i - 1)) else l.q &&& ~~~(1#7 <<< (i - 1)) }

/-- Mask mi of a squad: every lane at creation (R113). -/
def Squad.mask (s : Squad) (i : Nat) : BitVec 128 := fgetD s.masks i (BitVec.allOnes 128)
/-- Write mask mi. -/
def Squad.setMask (s : Squad) (i : Nat) (x : BitVec 128) : Squad := { s with masks := fset (BitVec.allOnes 128) s.masks i x }

/-- Uniform register wi as a squad reads it (R123): in the epoch of a write the writer reads its own latest value, every other squad
the value at the epoch's start. -/
def Group.wFor (g : Group) (sq i : Nat) : Word :=
  match fget g.wwriter i with
  | some u => if u = sq then fgetD g.w i 0 else fgetD g.wold i 0
  | none => fgetD g.w i 0

/-- Write wi by a squad whose right to write is checked (R123). -/
def Group.setW (g : Group) (sq i : Nat) (x : Word) : Group :=
  match fget g.wwriter i with
  | some _ => { g with w := fset 0 g.w i x }
  | none => { g with wold := fset 0 g.wold i (fgetD g.w i 0), w := fset 0 g.w i x, wwriter := fput g.wwriter i sq }

/-- The single-writer rule lets a squad write wi (R123). -/
def Group.mayW (g : Group) (sq i : Nat) : Bool :=
  match fget g.wwriter i with
  | some u => u == sq
  | none => true

/-- The epoch ends: every squad reads the last value, and any squad may write first (R123, R109); the STSA writers of the epoch are
forgotten (R163). -/
def Group.endEpoch (g : Group) : Group := { g with wold := [], wwriter := [], stsa := [] }

/-- What an instruction reads: its squad as it stood at issue (R31), its group and core. -/
structure Env where
  sq    : Nat
  s     : Squad
  g     : Group
  core  : Nat
  tick  : Nat := 0
  pc    : Pc := 0
  deriving DecidableEq, Repr, Inhabited

/-- A pair of words as 64 bits: the even register low (R27). -/
def pairOf (lo hi : Word) : DWord := hi ++ lo

/-- Keep the low n bits. -/
def lowBits (x : DWord) (n : Nat) : DWord := x &&& (BitVec.ofNat 64 (2 ^ n - 1))

/-- Sign-extend the low n bits to 64. -/
def sext (x : DWord) (n : Nat) : DWord :=
  if x.getLsbD (n - 1) then x ||| ~~~(BitVec.ofNat 64 (2 ^ n - 1)) else lowBits x n

/-- The value of the low n bits read as two's complement. -/
def toSigned (x : DWord) (n : Nat) : Int := (sext x n).toInt

/-- Two's-complement or sign-bit ABS at a type (R29). -/
def absTy (t : Ty) (x : DWord) : DWord :=
  if t.isFloat then x &&& ~~~(BitVec.ofNat 64 (2 ^ (t.wid - 1)))
  else if t.signed && x.getLsbD (t.wid - 1) then lowBits (0 - x) t.wid else x

/-- NEG at a type (R29). The spec gives NEG and ABS no meaning on an `.e8m0` source of CVT, which is neither an integer nor an IEEE type: here NEG
is the code's two's complement and ABS leaves it. DESIGN CHOICE, log 44. -/
def negTy (t : Ty) (x : DWord) : DWord :=
  if t.isFloat then x ^^^ BitVec.ofNat 64 (2 ^ (t.wid - 1)) else lowBits (0 - x) t.wid

/-- HI, then ABS, then NEG on a register's value (R29). -/
def applyMods (t : Ty) (neg abs hi : Bool) (x : DWord) : DWord :=
  let x := lowBits (if hi then x >>> 16 else x) t.wid
  let x := if abs then absTy t x else x
  if neg then negTy t x else x

/-- An f32 pattern widened exactly to f64, a NaN's fraction moved up unchanged (R32). -/
def f32to64 (x : Word) : DWord :=
  let s := x.extractLsb' 31 1
  let e := (x.extractLsb' 23 8).toNat
  let f := x.extractLsb' 0 23
  if e = 255 then s ++ (0x7FF#11 ++ (f ++ 0#29))
  else if e ≠ 0 then s ++ (BitVec.ofNat 11 (e + 896) ++ (f ++ 0#29))
  else if f = 0 then s ++ 0#63
  else
    let k := f.toNat.log2
    s ++ (BitVec.ofNat 11 (k + 874) ++ BitVec.ofNat 52 (f.toNat * 2 ^ (52 - k)))

/-- The literal at a type (R32). -/
def litVal (t : Ty) (x : Word) : DWord :=
  match t with
  | .s64 => x.signExtend 64
  | .n64 => x.setWidth 64
  | .f64 => f32to64 x
  | _ => lowBits (x.setWidth 64) t.wid

/-- The value of an operand at a type, in the low bits (R48). A system register is read by the forms that name one. -/
def readOp (e : Env) (ln : Nat) (o : Opnd) (t : Ty) : DWord :=
  match o with
  | .v i n a h => applyMods t n a h (if t.wid = 64 then pairOf (e.s.v i.toNat ln) (e.s.v (i.toNat + 1) ln)
      else (e.s.v i.toNat ln).setWidth 64)
  | .w i n a h => applyMods t n a h (if t.wid = 64 then pairOf (e.g.wFor e.sq i.toNat) (e.g.wFor e.sq (i.toNat + 1))
      else (e.g.wFor e.sq i.toNat).setWidth 64)
  | .q i inv => if ((e.s.lane ln).qbit i.toNat) ^^ inv then 1 else 0
  | .m i => (e.s.mask i.toNat).setWidth 64
  | .imm x => lowBits (x.signExtend 64) t.wid
  | .sys _ => 0
  | .k i => lowBits (if t.wid = 64 then pairOf (e.s.k i.toNat ln) (e.s.k (i.toNat + 1) ln) else (e.s.k i.toNat ln).setWidth 64) t.wid
  | .h i => lowBits (if t.wid = 64 then pairOf (e.s.h i.toNat ln) (e.s.h (i.toNat + 1) ln) else (e.s.h i.toNat ln).setWidth 64) t.wid
  | .none => 0
  | .lit x => litVal t x

/-- An operand as a natural 32-bit number. -/
def readN32 (e : Env) (ln : Nat) (o : Opnd) : Nat := (readOp e ln o .n32).toNat
/-- An operand as a 64-bit number. -/
def readN64 (e : Env) (ln : Nat) (o : Opnd) : Nat := (readOp e ln o .n64).toNat
/-- A predicate operand. -/
def readQ (e : Env) (ln : Nat) (o : Opnd) : Bool := readOp e ln o .none == 1

/-- The words of n registers from an operand's index. -/
def readBlock (e : Env) (ln : Nat) (o : Opnd) (n : Nat) : List Word :=
  match o with
  | .v i _ _ _ => (upto n).map fun j => e.s.v (i.toNat + j) ln
  | .w i _ _ _ => (upto n).map fun j => e.g.wFor e.sq (i.toNat + j)
  | _ => (upto n).map fun _ => 0

/-- Write a value at a type to the v, k or h register or pair, or the q predicate, an operand names: a 16-bit value goes to the half HI
selects and leaves the other (R27, R48). -/
def Squad.write (s : Squad) (ln : Nat) (o : Opnd) (t : Ty) (x : DWord) : Squad :=
  match o with
  | .v i _ _ h =>
    if t.wid = 64 then (s.setV i.toNat ln (x.setWidth 32)).setV (i.toNat + 1) ln ((x >>> 32).setWidth 32)
    else if t.wid = 16 then s.setHalf i.toNat ln h (x.setWidth 16)
    else s.setV i.toNat ln (x.setWidth 32)
  | .k i =>
    if t.wid = 64 then (s.setK i.toNat ln (x.setWidth 32)).setK (i.toNat + 1) ln ((x >>> 32).setWidth 32)
    else if t.wid = 16 then s.setK i.toNat ln (((s.k i.toNat ln).extractLsb' 16 16) ++ x.setWidth 16)
    else s.setK i.toNat ln (x.setWidth 32)
  | .h i =>
    if t.wid = 64 then (s.setH i.toNat ln (x.setWidth 32)).setH (i.toNat + 1) ln ((x >>> 32).setWidth 32)
    else if t.wid = 16 then s.setH i.toNat ln (((s.h i.toNat ln).extractLsb' 16 16) ++ x.setWidth 16)
    else s.setH i.toNat ln (x.setWidth 32)
  | .q i _ => s.setLane ln fun l => l.setQ i.toNat (x != 0)
  | _ => s

/-- Write n words to the v registers from an operand's index. -/
def Squad.writeBlock (s : Squad) (ln : Nat) (o : Opnd) (xs : List Word) : Squad :=
  match o with
  | .v i _ _ _ => xs.zipIdx.foldl (fun s p => s.setV (i.toNat + p.2) ln p.1) s
  | _ => s

/-- The v registers a slot's operand names. -/
def slotRows (sl : Slot) : Opnd → List Nat
  | .v i _ _ _ => (upto sl.span).map (i.toNat + ·)
  | _ => []

/-- The w registers a slot's operand names. -/
def slotWs (sl : Slot) : Opnd → List Nat
  | .w i _ _ _ => (upto sl.span).map (i.toNat + ·)
  | _ => []

/-- Sixteen-bit halves of a packed operand: literals and registers alike. -/
def half (x : DWord) (hi : Bool) : DWord := lowBits (if hi then x >>> 16 else x) 16

end Sys2Proof.Machine
end

