-- ==== Sys2Proof/Machine/Flags.lean ====
section
/-! DEFINITION. Sticky flags and their traps (R76, R252). -/
namespace Sys2Proof.Machine

/-- A set of raised flags, FPSR[6:0] (R252). -/
abbrev Fl := BitVec 7
/-- NV. -/
def flNV : Fl := 1
/-- DZ. -/
def flDZ : Fl := 2
/-- OF. -/
def flOF : Fl := 4
/-- UF. -/
def flUF : Fl := 8
/-- NX. -/
def flNX : Fl := 16
/-- SAT. -/
def flSAT : Fl := 32
/-- ZBLK. -/
def flZBLK : Fl := 64

/-- A flag when a condition holds. -/
def flIf (b : Bool) (f : Fl) : Fl := if b then f else 0

/-- A raised flag is enabled in FPCR (R76, R252): only NV to NX have enables. -/
def flTraps (fpcr : BitVec 5) (f : Fl) : Bool := f &&& fpcr.setWidth 7 != 0

/-- Raised flags stay set in FPSR (R76). -/
def Squad.raise (s : Squad) (f : Fl) : Squad := { s with fpsr := s.fpsr ||| f }

end Sys2Proof.Machine
end

