-- ==== Sys2Proof/Machine/Ops.lean ====
section
/-! DEFINITION. The named operations over squads, lanes and registers: taking an exception and returning from one (R233 to R238), moving
on, transfers (R35, R96), moorings and gathers (R92, R100), flags (R38), groups' uniforms. -/
namespace Sys2Proof.Machine

/-- A squad by its number. -/
def squadOf (d : Dev) (u : Nat) : Squad := fgetD d.squads u {}
/-- Change a squad. -/
def setSquad (d : Dev) (u : Nat) (f : Squad → Squad) : Dev := { d with squads := fmod d.squads u f }
/-- A group by its number. -/
def groupOf (d : Dev) (g : Nat) : Group := fgetD d.groups g {}
/-- Change a group. -/
def setGroup (d : Dev) (g : Nat) (f : Group → Group) : Dev := { d with groups := fmod d.groups g f }
/-- A lane of a squad. -/
def laneOf (d : Dev) (u ln : Nat) : Lane := (squadOf d u).lane ln
/-- Change a lane of a squad. -/
def setLane (d : Dev) (u ln : Nat) (f : Lane → Lane) : Dev := setSquad d u fun s => s.setLane ln f
/-- The cluster of a squad's core. -/
def clusterIdx (s : Squad) : Nat := s.core / 7
/-- A new identifier. -/
def bump (d : Dev) : Dev := { d with fresh := d.fresh + 1 }

/-- The header of the clause a lane's word stands in (R260). -/
def Lane.hdr (l : Lane) : Pc := l.pc - BitVec.ofNat 54 (12 * l.hofs.toNat)

/-- The address where byte k of a scratchpad lies in the model's numbering of scratchpad bytes. -/
def scAddr (cluster k : Nat) : Nat := cluster * 8388608 + k

/-- Who fetches for a lane (R47, R287). -/
def fetcherOf (d : Dev) (u ln : Nat) : Fetcher :=
  let s := squadOf d u
  ⟨s.core, (coreOf d s.core).vmid, s.asid, (s.lane ln).mode == .u⟩

/-! ### Gathers (R92) -/

/-- The lanes a gather counts (R92): those of its mask, or every lane; mask 16 + q stands for quad q (R211). An exited lane is not counted. -/
def Squad.gatherSet (s : Squad) (m : Option Nat) : List Nat :=
  (fkeys s.lanes).filter fun ln => match m with
    | none => true
    | some i => if i < 16 then (s.mask i).getLsbD ln else ln / 4 == i - 16

/-- Every lane an instance gathers has arrived, or arrived with a failing guard (R92). -/
def Squad.instDone (s : Squad) (g : GInst) : Bool :=
  (s.gatherSet g.mask).all fun ln => shas g.arrived ln || shas g.passed ln

/-- An instance now: while it is open only lanes of its set have arrived, and it closes once it is complete (R92). -/
def Squad.instNow (s : Squad) (g : GInst) : GInst :=
  if g.closed then g
  else
    let g := { g with arrived := g.arrived.filter fun ln => (s.gatherSet g.mask).contains ln }
    if s.instDone g then { g with closed := true } else g

/-- Close every instance that is complete (R92); one that no arrived lane is left to take part in is over. -/
def Squad.closeInsts (s : Squad) : Squad :=
  { s with insts := s.insts.filterMap fun p =>
      let g := s.instNow p.2
      if g.closed && g.arrived.isEmpty then none else some (p.1, g) }

/-- A lane that traps has no longer arrived at any gather (R92, R270). -/
def unarrive (d : Dev) (u ln : Nat) : Dev :=
  if (squadOf d u).insts.any fun p => shas p.2.arrived ln then
    setSquad d u fun s => ({ s with insts := s.insts.map fun p => (p.1, { p.2 with arrived := sdel p.2.arrived ln }) } : Squad).closeInsts
  else d

/-! ### Traps -/

/-- The imprecise cause a lane takes at its next boundary (R315, R402). -/
def Lane.due (l : Lane) : Option Imprecise := l.imps.find? fun i => i.depth == l.depth

/-- Frame j (R260). -/
def Lane.frame (l : Lane) (j : Nat) : Frame := if j = 0 then l.f0 else if j = 1 then l.f1 else l.f2
/-- Write frame j. -/
def Lane.setFrame (l : Lane) (j : Nat) (f : Frame) : Lane :=
  if j = 0 then { l with f0 := f } else if j = 1 then { l with f1 := f } else { l with f2 := f }
/-- The top frame; at depth 0 it reads 0 (R233). -/
def Lane.top (l : Lane) : Frame := if l.depth = 0 then {} else l.frame (l.depth - 1)
/-- Write the top frame; at depth 0 ignored (R233). -/
def Lane.setTop (l : Lane) (f : Frame) : Lane := if l.depth = 0 then l else l.setFrame (l.depth - 1) f

/-- The mode of a PM field. -/
def modeOf (m : BitVec 2) : Mode := if m == 0 then .u else if m == 1 then .s else .h

/-- The target mode of a trap (R234). -/
def trapMode (hdeleg : Word) (m : Mode) (c : Cause) (hc : Bool) : Mode :=
  if m = .h || hc || hdeleg.getLsbD c && decide (c < 32) then .h else .s

/-- What a lane that leaves its word drops: its wait, its watch, its claim on a flag (R39). -/
def Lane.leave (l : Lane) : Lane := { l with wait := .run, issued := false, watch := none, claim := none, recheck := false, seq := l.seq + 1 }

/-- The frame a trap pushes (R235). -/
def Lane.newFrame (l : Lane) (c : Cause) (tval : DWord) (epc hdr : Pc) (hc imp : Bool) : Frame :=
  { epc, hdr, code := BitVec.ofNat 8 c, pm := l.mode.code, hc, imp, tval, pred := l.q, moor := l.moor }

/-- A lane after an ordinary entry into mode t at a vector (R235). -/
def Lane.enter (l : Lane) (t : Mode) (vec : DWord) (fr : Frame) : Lane :=
  { (l.setFrame l.depth fr).leave with
    depth := l.depth + 1, moor := { l.moor with v := false }, mode := t, pc := vec.setWidth 54, hofs := 0 }

/-- A lane after an overflow entry (R236): MOOR and DEPTH stay. -/
def Lane.enterOverflow (l : Lane) (vec : DWord) (fr : Frame) : Lane :=
  { l.leave with xf := { fr with moor := {} }, ovf := true, mode := .h, pc := vec.setWidth 54, hofs := 0 }

/-- The squad halts (R236): no lane issues again, its context is written back, and the control processor gets a report. -/
def haltSquad (d : Dev) (u ln : Nat) (c : Cause) : Dev :=
  let s := squadOf d u
  let d := setSquad d u fun s => { s with stop := .halt, res := .writing }
  let d := { d with host := { d.host with reports := d.host.reports ++ [.halted s.ctx ln 0x12 c] } }
  blackBox d (clusterIdx s) 4 (s.core % 7)
    (BitVec.ofNat 8 c ++ (BitVec.ofNat 8 ln ++ BitVec.ofNat 48 (s.ctx / 65536)))

/-- Take a trap in a lane (R234 to R236). A vector of 2^54 or more is no clause header and traps again at entry; three frames and the
overflow bound the climb. -/
def trapFuel : Nat → Dev → Nat → Nat → Cause → DWord → Pc → Pc → Bool → Bool → Dev
  | 0, d, _, _, _, _, _, _, _, _ => d
  | n + 1, d, u, ln, c, tval, epc, hdr, hc, imp =>
    let l := laneOf d u ln
    let s := squadOf d u
    let k := coreOf d s.core
    let fr := l.newFrame c tval epc hdr hc imp
    if l.depth ≥ 3 && (l.mode = .h || l.ovf) then haltSquad d u ln c
    else
      let t := if l.depth ≥ 3 then Mode.h else trapMode k.hdeleg l.mode c hc
      let vec := if t = .h then k.hvec else k.stvec
      let d := setLane d u ln fun l => if l.depth ≥ 3 then l.enterOverflow vec fr else l.enter t vec fr
      let d := if t = .h then
          blackBox d (clusterIdx s) 5 (s.core % 7) (BitVec.ofNat 64 (c + 256 * ln)) else d
      if vec.toNat ≥ 2 ^ 54 then
        trapFuel n d u ln 0x01 (0x8000000000000000#64 ||| (vec.setWidth 54).setWidth 64) (vec.setWidth 54) (vec.setWidth 54) false false
      else d

/-- Take a trap with a given resume address and header (R235). -/
def trapTo (d : Dev) (u ln : Nat) (c : Cause) (tval : DWord) (epc hdr : Pc) (hc imp : Bool) : Dev :=
  trapFuel 6 (unarrive d u ln) u ln c tval epc hdr hc imp

/-- Take a precise trap at the lane's word (R48, R235). -/
def trapAt (d : Dev) (u ln : Nat) (c : Cause) (tval : DWord) : Dev :=
  let l := laneOf d u ln
  trapTo d u ln c tval l.pc l.hdr false false

/-- TVAL of a header or branch-target fault (R46). -/
def tvHeader (a : Nat) : DWord := 0x8000000000000000#64 ||| BitVec.ofNat 64 (a % 2 ^ 54)

/-- TVAL naming a field (R46). -/
def tvField (code : Nat) (x : BitVec 16) : DWord := (BitVec.ofNat 48 code) ++ x

/-! ### Moving on -/

/-- The lane goes on to the next word (R12); after the clause's last word that is the next header. -/
def Lane.advance (l : Lane) : Lane :=
  { l.leave with pc := l.pc + 12, hofs := if l.hofs = l.clause.len then 0 else l.hofs + 1 }

/-- Advance lanes of a squad. -/
def advanceAll (d : Dev) (u : Nat) (lns : List Nat) : Dev :=
  if lns.isEmpty then d else setSquad d u fun s => lns.foldl (fun s ln => s.setLane ln Lane.advance) s

/-- The lane goes to a clause header. -/
def Lane.goto (l : Lane) (a : Pc) : Lane := { l.leave with pc := a, hofs := 0 }

/-- A control transfer of a lane to an address (R35, R96): a target that is no valid header traps at the transfer; one whose fetch
faults is reached, and the lane takes the fetch's cause there (R47). Before the lane goes it makes its writes. -/
def transfer (d : Dev) (u ln : Nat) (a : Nat) (pre : Squad → Squad) : Dev :=
  if a ≥ 2 ^ 54 then trapAt d u ln 0x01 (tvHeader a)
  else
    let pc : Pc := BitVec.ofNat 54 a
    match headerAt d (fetcherOf d u ln) a with
    | (d, .ok _) => setSquad d u fun s => (pre s).setLane ln fun l => l.goto pc
    | (d, .bad) => trapAt d u ln 0x01 (tvHeader a)
    | (d, .fault c) =>
      trapTo (setSquad d u fun s => (pre s).setLane ln fun l => l.goto pc) u ln c (BitVec.ofNat 64 a) pc pc false false

/-- Return from a trap (R238): HRET through the overflow registers when OVF is set, otherwise a popped frame. -/
def returnFrom (d : Dev) (u ln : Nat) (hret : Bool) : Dev :=
  let l := laneOf d u ln
  let viaX := hret && l.ovf
  let fr := if viaX then l.xf else l.top
  if !viaX && l.depth = 0 then trapAt d u ln 0x01 0
  else if fr.pm = 3 then trapAt d u ln 0x01 0
  else if !hret && fr.pm = 2 then trapAt d u ln 0x02 0
  else
    let m := modeOf fr.pm
    let f := { fetcherOf d u ln with user := m == .u }
    let bad := fun d => trapAt d u ln 0x01 (tvHeader fr.epc.toNat)
    match headerAt d f fr.hdr.toNat with
    | (d, .fault c) => trapAt d u ln c (fr.hdr.setWidth 64)
    | (d, .bad) => bad d
    | (d, .ok i) =>
      let cl := clauseOf i
      let j := (fr.epc.toNat - fr.hdr.toNat) / 12
      if fr.epc.toNat < fr.hdr.toNat || fr.epc.toNat ≠ fr.hdr.toNat + 12 * j || j > cl.len.toNat + 1 then bad d
      else setLane d u ln fun l =>
        let l := if viaX then { l.leave with ovf := false } else { l.leave with moor := fr.moor, depth := l.depth - 1 }
        let inside := j ≠ 0 && j ≤ cl.len.toNat
        { l with q := fr.pred, mode := m, pc := fr.epc, clause := if inside then cl else l.clause,
                 hofs := if inside then BitVec.ofNat 4 j else 0, recheck := inside }

/-! ### Flags -/

/-- The count of flag fi (R38). -/
def Squad.flag (s : Squad) (i : Nat) : Nat := fgetD s.fcnt i 0
/-- Every flag a WAIT mask names is clear (R36). -/
def Squad.waitClear (s : Squad) (w : BitVec 12) : Bool := (upto 12).all fun i => !w.getLsbD i || s.flag i == 0

/-- Something still holds a claim (R39). -/
def claimHeld (d : Dev) (u c : Nat) : Bool :=
  (squadOf d u).lanes.any (fun p => p.2.claim == some c) ||
  d.accs.any (fun p => p.2.sq == u && p.2.claim == some c) ||
  d.cmds.any (fun p => p.2.sq == u && p.2.claim == some c) ||
  d.reqs.any (fun p => p.2.sq == u && p.2.claims.any fun q => q.2 == c)

/-- What a flag's completed accesses and commands have released (R349). -/
def Squad.flagDone (s : Squad) (i : Nat) : Clock × Bool := fgetD s.fdone i ([], false)

/-- A claim falls. -/
def Squad.dropClaim (s : Squad) (c : Nat) (k : Claim) : Squad :=
  { s with
    claims := fdel s.claims c, fcnt := fset 0 s.fcnt k.flag (s.flag k.flag - 1)
    fdone := fput s.fdone k.flag (vcJoin (s.flagDone k.flag).1 k.vc, (s.flagDone k.flag).2 || k.wide) }

/-- A flag's count falls for each claim that nothing holds any more (R38, R39); a squad off chip takes that up when it is loaded. -/
def settleClaims (d : Dev) (u : Nat) : Dev :=
  if !(squadOf d u).onChip then d
  else (squadOf d u).claims.foldl (fun d p => if claimHeld d u p.1 then d else setSquad d u fun s => s.dropClaim p.1 p.2) d

/-! ### Clocks -/

/-- A thread's clock as it stands. -/
def clockOf (d : Dev) (u ln : Nat) : Clock := (laneOf d u ln).vc
/-- The lane's epoch ends: a release has been issued (R302). -/
def Lane.release (l : Lane) (t : Nat) : Lane := { l with vc := fput l.vc t (fgetD l.vc t 0 + 1) }
/-- The lane acquires a clock; L1 copies filled before now are not returned at .gp and wider (R300). -/
def Lane.acquire (l : Lane) (vc : Clock) (tick : Nat) (wide : Bool) : Lane :=
  { l with vc := vcJoin l.vc vc, acq := if wide then tick else l.acq }
/-- The join of the clocks of lanes. -/
def joinClocks (d : Dev) (u : Nat) (lns : List Nat) : Clock := lns.foldl (fun c ln => vcJoin c (clockOf d u ln)) []
/-- What a squad has done: the clocks of its live lanes, and those with which its other lanes exited (R111, R222). -/
def squadClock (d : Dev) (u : Nat) : Clock :=
  (squadOf d u).exited.foldl (fun c p => vcJoin c p.2.vc) (joinClocks d u (fkeys (squadOf d u).lanes))

/-- Lanes release to and acquire from one another at .sq (R301). -/
def meetClocks (d : Dev) (u : Nat) (lns : List Nat) : Dev :=
  let c := joinClocks d u lns
  setSquad d u fun s => lns.foldl (fun s ln => s.setLane ln fun l => (l.acquire c 0 false).release (tidOf u ln)) s

/-! ### Moorings -/

/-- A lane is held at its mooring (R100). -/
def Lane.moored (l : Lane) : Bool := l.wait == .moored

/-- The mooring of a held lane is released: every lane of its mask is held at the same address or has exited (R100). -/
def Squad.moorDone (s : Squad) (l : Lane) : Bool :=
  (s.gatherSet (some l.moor.mask.toNat)).all fun ln => (s.lane ln).moored && (s.lane ln).moor.addr == l.moor.addr

/-- Release the moorings that are complete; the released lanes release to and acquire from one another (R100, R301). -/
def releaseMoorings (d : Dev) (u : Nat) : Dev :=
  let s := squadOf d u
  let go := fkeys (s.lanes.filter fun p => p.2.moored && s.moorDone p.2)
  if go.isEmpty then d
  else setSquad (meetClocks d u go) u fun s =>
    go.foldl (fun s ln => s.setLane ln fun l => { l with wait := .run, moor := { l.moor with v := false } }) s

/-- After a lane exits or a mask changes: gathers and moorings that this completes are released (R92, R100, R113). -/
def regather (d : Dev) (u : Nat) : Dev := releaseMoorings (setSquad d u Squad.closeInsts) u

/-- Write a mask register (R113). -/
def writeMask (d : Dev) (u i : Nat) (x : BitVec 128) : Dev := regather (setSquad d u fun s => s.setMask i x) u

/-! ### Uniform registers -/

/-- Write wi and, for a pair, w(i+1), where the single-writer rule lets the squad (R123). -/
def writeW (d : Dev) (gid sq i : Nat) (t : Ty) (x : DWord) : Dev :=
  setGroup d gid fun g =>
    let g := g.setW sq i (x.setWidth 32)
    if t.wid = 64 then g.setW sq (i + 1) ((x >>> 32).setWidth 32) else g

/-- The registers a w write of a type names. -/
def wNamed (i : Nat) (t : Ty) : List Nat := if t.wid = 64 then [i, i + 1] else [i]

end Sys2Proof.Machine
end

