-- ==== Sys2Proof/Machine/Await.lean ====
section
/-! DEFINITION. What waiting lanes await, and whether it has occurred (R266): queues, tickets, timelines, forks, quays, gates, extended blocks. -/
namespace Sys2Proof.Machine

/-- A queue by its number: 256 times its table entry, plus its index. -/
def queueOf (d : Dev) (k : Nat) : Queue := fgetD d.queues k {}

/-- The queue is configured (R378). -/
def QDesc.configured (q : QDesc) : Bool := q.ok && q.enable != 0

/-- The queue lets a DEQ go without an item: closed or aborting (R379), or its limit has expired. -/
def deqOver (d : Dev) (cl k since limit : Nat) : Bool :=
  !(queueOf d k).d.configured || (queueOf d k).d.enable == 3 || (limit != 0 && decide (since + limit ≤ (clusterOf d cl).etime))

/-- An item. -/
def itemOf (d : Dev) (i : Nat) : Item := fgetD d.items i default

/-- GBASE. -/
def Item.gbase (i : Item) : Nat := fieldAt i.bytes 32 8

/-- A ticket sequence of an item: its counter starts at GBASE. -/
def Item.ticket (i : Item) (t : Nat) : Ticket := fgetD i.tickets t { ctr := i.gbase }

/-- The group has its turn at a ticket, or holds no position (R112, R389). -/
def ticketOpen (d : Dev) (g : Group) (t : Nat) : Bool :=
  match g.item with
  | none => true
  | some i => !g.ticketed || shas g.passed t || ((itemOf d i).ticket t).ctr == g.idx

/-- A barrier of a group. -/
def Group.bar (g : Group) (b : Nat) : Bar := fgetD g.bars b {}

/-- A timeline of a group. -/
def Group.tl (g : Group) (t : Nat) : Timeline := fgetD g.tls t {}

/-- Number n of a timeline has completed. -/
def Timeline.has (t : Timeline) (n : Nat) : Bool := decide (n ≤ t.done) || shas t.out n

/-- The clock of every command numbered n or below (R175). -/
def Timeline.clockTo (t : Timeline) (n : Nat) : Clock := (t.vcs.filter fun p => p.1 ≤ n).foldl (fun c p => vcJoin c p.2) []

/-- The bytes below the write pointer of a command, as WPWAIT acquires them (R175). -/
def wpClock (i : Nat) (c : Cmd) (wp : Nat) : Clock := vcJoin c.vc [(cmdTid i c.sq c.lane, wp / 128)]

/-- TLWAIT of a timeline for a number: its value once it is over (R175). -/
def tlwaitVal (tl : Timeline) (n : Nat) : Option (Bool × Clock) :=
  if n ≤ tl.done then some (tl.fail = 0 || decide (n < tl.fail), tl.clockTo n) else none

/-- WPWAIT for bytes of a command (R175): its value once it is over. -/
def wpwaitVal (d : Dev) (gid t n b : Nat) : Option (Bool × Clock) :=
  let tl := (groupOf d gid).tl t
  if tl.has n then some (!shas tl.failed n, fgetD tl.vcs n [])
  else match d.cmds.find? fun p => p.2.grp == gid && p.2.tl == some (t, n) with
    | some (i, c) => if b ≤ c.wp then some (true, wpClock i c c.wp) else none
    | none => if b = 0 then some (true, []) else none

/-- RDV of a fork: its value once every sequencer is done (R186). -/
def rdvVal (d : Dev) (gid n : Nat) : Option (Bool × Clock) :=
  match fget (groupOf d gid).forks n with
  | some f => if f.left = 0 then some (!f.fault, f.vc) else none
  | none => none

/-- A direction of a quay. -/
def quayOf (d : Dev) (k : Nat) : Quay := fgetD d.quays k {}

/-- The direction runs to the upper core. -/
def quayUp (k : Nat) : Bool := k % 2 == 0

/-- A squad has exited (R224). -/
def squadGone (d : Dev) (u : Nat) : Bool :=
  match fget d.squads u with
  | some s => s.state == .ended
  | none => true

/-- Every opener of a direction has exited (R224). -/
def openersGone (d : Dev) (q : Quay) : Bool := q.openers.all (squadGone d)

/-- The armed slot that watches an address for a squad: same address space, in the range, its KHANDLE (R398). -/
def watchFor (d : Dev) (s : Squad) (va : Nat) : Option (Nat × WatchSlot) :=
  d.watches.find? fun p => p.2.asid == s.asid && p.2.vmid == s.vmid && p.2.kh == s.kh &&
    decide (p.2.base ≤ va) && decide (va < p.2.base + p.2.len)

/-- What the gate answers for a step (R401). -/
inductive Gated
  | go
  | wait
  | used (tval : Nat)
  deriving DecidableEq, Repr, Inhabited

/-- The gate's answer for a squad of a logical index (R401, R417). -/
def gateAt (w : WatchSlot) (sqidx : Nat) : Gated :=
  match w.pend with
  | some (s, _) => if s = sqidx then .go else .wait
  | none => .used (128 + 4 * w.nent)

/-- The watch slot whose gate a lane waits at (R401). -/
def gateSlot (d : Dev) (u ln : Nat) : Option Nat :=
  d.accs.findSome? fun p => if p.2.gated && p.2.sq == u && p.2.lanes.any (fun q => q.1 == ln) then
    (watchFor d (squadOf d u) p.2.va).map (·.1) else none

/-- A squad waits for its extended block on a core, resident or not (R242, R245). -/
def extWaits (core : Nat) (s : Squad) : Bool :=
  s.home == core && s.state == .ready &&
    (s.wantExt || (s.lanes.any fun p => p.2.wait == .park .block) || (s.res == .out && s.awaits.contains .block))

/-- Order of service: PRIO, then age (R245). -/
def extBefore (a b : Squad) : Bool := decide (b.prio < a.prio) || (a.prio == b.prio && decide (a.age < b.age))

/-- No other waiting squad is served before this one. -/
def extFirst (d : Dev) (u : Nat) : Bool :=
  let s := squadOf d u
  d.squads.all fun p => p.1 == u || !extWaits s.home p.2 || !extBefore p.2 s

/-- The claims on a flag that something still holds: its count once a squad off chip has taken up what completed (R38, R39). -/
def flagLeft (d : Dev) (u i : Nat) : Bool := (squadOf d u).claims.any fun p => p.2.flag == i && claimHeld d u p.1

/-- An event that a squad awaits has occurred. -/
def awaitOver (d : Dev) (u : Nat) (a : Await) : Bool :=
  let s := squadOf d u
  match a with
  | .bar g b n => decide (n < ((groupOf d g).bar b).phase)
  | .ticket g t => ticketOpen d (groupOf d g) t
  | .line g t n => (tlwaitVal ((groupOf d g).tl t) n).isSome
  | .bytes g t n k => (wpwaitVal d g t n k).isSome
  | .fork g n => (rdvVal d g n).isSome
  | .item => match s.form with
    | some (.deqWait _ k since limit _ _) => deqOver d (s.core / 7) k since limit
    | _ => true
  | .block => s.ext || (decide (32 ≤ (coreOf d s.home).xpool) && extFirst d u)
  | .send k =>
    let q := quayOf d k
    decide (q.entries.length < 64) && q.spilled == 0 && (!quayUp k || (clusterOf d (k / 16)).gate == .powered)
  | .recv k =>
    let q := quayOf d k
    (q.spilled == 0 || !s.onChip) && (!q.entries.isEmpty || q.orphan || (!q.openers.isEmpty && openersGone d q))
  | .fill i => (fget s.fills i).isNone
  | .flags w => (upto 12).all fun i => !w.getLsbD i || !flagLeft d u i
  | .others => false
  | .order k => match fget d.watches k with
    | none => true
    | some w => w.mode != .play || gateAt w s.sqidx.toNat != .wait

/-- A lane is held at its mooring, or at a gather that is not complete (R92, R100). -/
def Squad.laneHeld (s : Squad) (ln : Nat) (l : Lane) : Bool :=
  l.wait == .moored || (l.wait == .gather && s.insts.any fun p =>
    p.1 % 2 ^ 54 == l.pc.toNat && !p.2.closed && ((s.gatherSet p.2.mask).contains ln || shas p.2.arrived ln))

/-- A lane that waits at its word has nothing to wait for any more: its event has occurred, its gather is complete, or a held cause is due (R266, R315). -/
def laneReady (d : Dev) (u ln : Nat) (l : Lane) : Bool :=
  match l.wait with
  | .park a => awaitOver d u a || l.due.isSome
  | .gather => !(squadOf d u).laneHeld ln l || l.due.isSome
  | .moored => l.due.isSome
  | .watch | .gate => false
  | _ => true

end Sys2Proof.Machine
end

