-- ==== Sys2Proof/Machine/Issue.lean ====
section
/-! DEFINITION. Issue: what every instruction meets before its own effect, in the order of R13, R45, R16, R38, R263 and R313, and the
gathering of lanes (R92, R93). -/
namespace Sys2Proof.Machine

/-- What a form's own checks find for a lane: nothing, a cause with its level (R313), a walk to wait for, or a wait. -/
inductive Chk
  | ok
  | bad (lvl : Nat) (c : Cause) (tv : DWord)
  | walk (va : Nat)
  | stall
  deriving DecidableEq, Repr, Inhabited

/-- The first of two results that is not `ok`. -/
def Chk.orElse (a : Chk) (b : Unit → Chk) : Chk :=
  match a with
  | .ok => b ()
  | x => x

/-- How a cause ranks among those of several parts (R313): within one level the first part decides, and a walk is of level 3. -/
def Chk.rank : Chk → Nat
  | .bad l _ _ => l
  | .walk _ => 3
  | .stall => 9
  | .ok => 10

/-- The result that decides among parts. -/
def firstChk (l : List Chk) : Chk := l.foldl (fun a b => if b.rank < a.rank then b else a) .ok

/-- The address whose walk is to be waited for. -/
def Chk.walkVa : Chk → Option Nat
  | .walk va => some va
  | _ => none

/-- Access of SRD and SWR to system registers by mode (R251): 0 none, 1 read, 2 read and write; number, U, S, H. -/
def sysAccess (n : Nat) (m : Mode) : Nat :=
  let row : Nat × Nat × Nat :=
    if n = 0x00 || n = 0x0E || n = 0x0F || n = 0x26 || n = 0x27 then (1, 2, 2)
    else if n = 0x01 || n = 0x0C || n = 0x0D || n = 0x10 || n = 0x20 || n = 0x21 then (2, 2, 2)
    else if 2 ≤ n && n ≤ 7 then (0, 2, 2)
    else if 8 ≤ n && n ≤ 0xB then (0, 0, 2)
    else if n = 0x11 || n = 0x22 || n = 0x23 || (0x40 ≤ n && n ≤ 0x43) then (1, 1, 1)
    else if n = 0x24 || n = 0x48 then (0, 1, 1)
    else if n = 0x25 || n = 0x28 || n = 0x44 then (0, 2, 2)
    else if n = 0x45 then (0, 0, 2)
    else if n = 0x46 || n = 0x47 || n = 0x49 then (0, 1, 2)
    else (0, 0, 0)
  match m with
  | .u => row.1
  | .s => row.2.1
  | .h => row.2.2

/-- The slots of an instruction in field order with their codes (R46). -/
def slotsOf (r : Raw) : List (Nat × Opnd × Slot) :=
  let sp := r.form.spec r
  [(3, r.fd, sp.fd), (4, r.fa, sp.fa), (5, r.fb, sp.fb), (6, r.fc, sp.fc)]

/-- A slot names an extended register the squad does not hold (R28), or a w register beyond UNIF (R106). -/
def slotIllegal (s : Squad) (g : Group) (o : Opnd) (sl : Slot) : Bool :=
  (slotRows sl o).any (fun i => decide (32 ≤ i) && !s.ext) || (slotWs sl o).any fun i => decide (g.unif ≤ i)

/-- A slot names a register beyond the lane's mode (R28, R125). -/
def slotPrivileged (m : Mode) (o : Opnd) (sl : Slot) : Bool :=
  match o with
  | .k _ => m == .u
  | .h _ => m != .h
  | .sys n => if sl.dst then sysAccess n.toNat m < 2 else sysAccess n.toNat m = 0
  | _ => false

/-- SWR names a register that no mode may write (R125). -/
def slotReadOnly (o : Opnd) (sl : Slot) : Bool :=
  match o with
  | .sys n => sl.dst && decide (sysAccess n.toNat .h < 2)
  | _ => false

/-- The squad forms (R94). -/
def isSquadForm : Form → Bool
  | .gjoin | .gleave | .gbar | .garv | .gwait | .tkwait | .tkpass | .deq | .qysend | .qyrecv => true
  | _ => false

/-- A class 0xE form that a mode may not execute (R45, R231). -/
def formPrivileged (f : Form) (md : Mod) (m : Mode) : Bool :=
  f.opc.toNat / 64 == 0xE && f != .sysc && (m == .u || (m == .s && (f == .hret || (f == .tlbinv && 2 ≤ (md.bits 0 2).toNat))))

/-- One of the slots that fail, where several do: which one is named is not the spec's to say (R46). DESIGN CHOICE, logs 10 and 47. -/
def pickSlot (tick nonce : Nat) (l : List (Nat × BitVec 16)) : DWord :=
  match l[Config.pick tick nonce l.length % l.length]? with
  | some (c, x) => tvField c x
  | none => 0

/-- The checks of R17, R28, R94, R106 and R231 that depend on the lane and its squad: cause and TVAL. -/
def dynCheck (d : Dev) (s : Squad) (g : Group) (ln : Nat) (r : Raw) : Option (Cause × DWord) :=
  let l := s.lane ln
  let fsel := r.h.fsel
  let sl := slotsOf r
  let ill := sl.filterMap fun p => if slotIllegal s g p.2.1 p.2.2 || slotReadOnly p.2.1 p.2.2 then some (p.1, p.2.1.desc) else none
  let prv := sl.filterMap fun p => if slotPrivileged l.mode p.2.1 p.2.2 then some (p.1, p.2.1.desc) else none
  if (fsel == 1#2 && !l.clause.seta.valid) || (fsel == 2#2 && !l.clause.setb.valid) then some (0x01, tvField 2 0)
  else if !ill.isEmpty then some (0x01, pickSlot d.tick ln ill)
  else if isSquadForm r.form && r.h.grd != 0 then some (0x01, tvField 7 (r.h.grd.setWidth 16))
  else if isSquadForm r.form && l.depth ≠ 0 then some (0x01, 0)
  else if r.form == .sret && l.mode == .h then some (0x01, 0)
  else if formPrivileged r.form r.mod l.mode then some (0x02, 0)
  else if !prv.isEmpty then some (0x02, pickSlot d.tick ln prv)
  else none

/-! ### Register rows (R262 to R265) -/

/-- The address of register row i in its context (R257). -/
def rowAddr (s : Squad) (i : Nat) : Nat := s.ctx + 0x8000 + 512 * i

/-- The rows an instruction reads, in the slot order of R263. -/
def rowsRead (r : Raw) : List Nat :=
  let sp := r.form.spec r
  slotRows sp.fa r.fa ++ slotRows sp.fb r.fb ++ slotRows sp.fc r.fc ++ (if sp.fd.reads then slotRows sp.fd r.fd else [])

/-- The rows an instruction writes. -/
def rowsWritten (r : Raw) : List Nat :=
  let sp := r.form.spec r
  if sp.fd.dst then slotRows sp.fd r.fd else []

/-- The places of the slots that read rows in the order of R263 (FA 4, FB 5, FC 6, FD 7), each with its rows. -/
def rowSlots (r : Raw) : List (Nat × List Nat) :=
  let sp := r.form.spec r
  [(4, slotRows sp.fa r.fa), (5, slotRows sp.fb r.fb), (6, slotRows sp.fc r.fc), (7, if sp.fd.reads then slotRows sp.fd r.fd else [])]

/-- The place of a row in that order; a row that is only written comes last. -/
def rowPlace (r : Raw) (i : Nat) : Nat := (((rowSlots r).find? fun p => p.2.contains i).map (·.1)).getD 7

/-- The slots whose values a form's own checks rest on (R263, R313): those that give its address, or a value that it checks. -/
def chkSlots : Form → List Nat
  | .raybox | .raytri | .swr | .tlbinv => [5]
  | .qysend | .qyrecv | .movw | .fence | .xrel | .regn | .gjoin | .gleave | .deq | .enq => []
  | .ld | .st | .ldp | .stp | .lds | .sts | .stsa | .ldw | .ldacq | .strel | .cctl | .fork => [4, 5]
  | _ => [4]

/-- The place of the slot that names a form's own access (R313). -/
def accPlace : Form → Nat
  | .raybox | .raytri | .enq => 5
  | _ => 4

/-- A row that must come from memory and is not resident. -/
def Squad.missing (s : Squad) (i : Nat) : Bool := s.rwr.getLsbD i && (fget s.rows i).isNone

/-- The row's page is present with S read and write permission (R263). -/
def rowPage (d : Dev) (s : Squad) (i : Nat) : Bool := xlatOk d s.core s.vmid s.asid (rowAddr s i) .rw false

/-- The first cause of level 3 that the rows give a lane (R263, R265, R313): cause and row. -/
def rowCause (d : Dev) (s : Squad) (ln : Nat) (rd wr : List Nat) : Option (Cause × Nat) :=
  (rd.findSome? fun i =>
    if !s.rwr.getLsbD i && (s.lane ln).udt then some (0x09, i)
    else if s.missing i && !rowPage d s i then some (0x08, i) else none) <|>
  (wr.findSome? fun i => if s.missing i && !rowPage d s i then some (0x08, i) else none)

/-- The first poisoned word among the rows a lane reads (R263, R319). -/
def rowPoison (s : Squad) (ln : Nat) (rd : List Nat) : Option Nat :=
  rd.find? fun i => s.rwr.getLsbD i && shas (fgetD s.rows i {}).poison ln

/-- A row written that was filled for the lane's word and met an error there (R263, R264). -/
def fillPoison (s : Squad) (ln : Nat) (wr : List Nat) : Option Nat :=
  wr.find? fun i => s.fillBad.contains (i, ln, (s.lane ln).seq)

/-- A lane cannot read a row: it is not there, its word is poisoned, or it is an undefined register (R263, R265, R319). -/
def unreadable (s : Squad) (ln i : Nat) : Bool :=
  s.missing i || (s.rwr.getLsbD i && shas (fgetD s.rows i {}).poison ln) || (!s.rwr.getLsbD i && (s.lane ln).udt)

/-- A lane can read the pair of an address (R263). -/
def pairReadable (e : Env) (ln : Nat) (o : Opnd) : Bool := !(slotRows .vwPair o).any (unreadable e.s ln)

/-- Start the fills of rows that are missing, for lanes that wait for them (R263, R264). -/
def startFills (d : Dev) (u : Nat) (lns rows : List Nat) : Dev :=
  if rows.isEmpty then d else setSquad d u fun s => { s with
    fills := rows.foldl (fun m i => if (fget m i).isSome then m else fput m i (coreOf d s.core).cyc) s.fills
    fillFor := rows.foldl (fun m i => fput m i (sunion (fgetD m i []) lns)) s.fillFor }

/-- The v registers an access will write. -/
def Dest.vRows : Dest → List Nat
  | .v i ty _ => if ty.wid = 64 then [i, i + 1] else [i]
  | _ => []

/-- The v registers a sampler request will write (R332). -/
def SReq.rows (r : SReq) : List Nat :=
  match r.dst with
  | .v i _ _ _ => (upto 4).map (i.toNat + ·)
  | _ => []

/-- The rows of a squad that outstanding loads and sampler requests will write. -/
def pendRows (d : Dev) (u : Nat) : NSet :=
  sunion (d.accs.foldl (fun m p => if p.2.sq = u then sunion m p.2.dest.vRows else m) [])
    (d.reqs.foldl (fun m p => if p.2.sq = u then sunion m p.2.rows else m) [])

/-- The rows of a core's register file in use: those resident, and those that a write on its way will make so (R262). -/
def rowsHeld (d : Dev) (core : Nat) : Nat :=
  d.squads.foldl (fun n p => if p.2.core = core && p.2.onChip then n + (sunion (pendRows d p.1) (fkeys p.2.rows)).length else n) 0

/-- The register file has room for the rows a squad is about to write for the first time (R262, R265). -/
def rowRoom (d : Dev) (u : Nat) (s : Squad) (wr : List Nat) : Bool :=
  let new := wr.filter fun i => !s.rwr.getLsbD i && (fget s.rows i).isNone && !shas (pendRows d u) i
  new.isEmpty || decide (rowsHeld d s.core + new.length ≤ 4096)

/-! ### Interlocks and flags (R16, R38) -/

/-- The w registers an access will write. -/
def Dest.wRegs : Dest → List Nat
  | .w i ty => wNamed i ty
  | _ => []

/-- A register the instruction names is still to be written by an outstanding access or sampler request (R16, R332). -/
def interlocked (d : Dev) (u gid : Nat) (lns : List Nat) (r : Raw) : Bool :=
  let vs := rowsRead r ++ rowsWritten r
  let ws := ((slotsOf r).map fun p => slotWs p.2.2 p.2.1).flatten
  (d.accs.any fun p =>
    (p.2.sq == u && (p.2.dest.vRows.any fun i => vs.contains i) && p.2.lanes.any fun q => lns.contains q.1) ||
    (p.2.grp == gid && p.2.dest.wRegs.any fun i => ws.contains i)) ||
  d.reqs.any fun p => p.2.sq == u && (p.2.rows.any fun i => vs.contains i) && p.2.outs.any fun q => lns.contains q

/-- The flag an instruction selects (R15, R36). -/
def flagOf (l : Lane) (h : Hd) : Option Nat :=
  if h.fsel == 1#2 && l.clause.seta.valid then some l.clause.seta.flag.toNat
  else if h.fsel == 2#2 && l.clause.setb.valid then some l.clause.setb.flag.toNat else none

/-- The flag that lanes of a bundle are to claim: the one their word selects, unless each of them has claimed it already (R36, R38). -/
def Squad.newFlag (s : Squad) (lns : List Nat) (h : Hd) : Option Nat :=
  if lns.all fun ln => (s.lane ln).claim.isSome then none else flagOf (s.lane (lns.headD 0)) h

/-- That flag counts 63 already (R38). -/
def Squad.flagFull (s : Squad) (lns : List Nat) (h : Hd) : Bool := (s.newFlag lns h).any fun f => decide (63 ≤ s.flag f)

/-- Hold lanes at their word. -/
def holdLanes (d : Dev) (u : Nat) (w : Wait) (lns : List Nat) : Dev :=
  if lns.isEmpty then d else setSquad d u fun s => lns.foldl (fun s ln => s.setLane ln fun l => { l with wait := w }) s

/-- Take the claim of an issuing instruction on its flag, for the lanes that hold none yet (R38). -/
def takeClaim (d : Dev) (u : Nat) (lns : List Nat) (flag : Option Nat) : Dev :=
  match flag with
  | none => d
  | some f =>
    let c := d.fresh
    bump (setSquad d u fun s =>
      lns.foldl (fun s ln => s.setLane ln fun l => if l.claim.isSome then l else { l with claim := some c })
        { s with claims := fput s.claims c { flag := f }, fcnt := fput s.fcnt f (s.flag f + 1) })

/-- The instruction enters the core's execute stages for 4 cycles (R272); in which of the four cycles that follow a formation it issues is
free (R269). An entry counts down from its cycles to come. DESIGN CHOICE, log 10. Its rail counts it by its timing class (R432). -/
def enterExecute (d : Dev) (core : Nat) (r : Raw) : Dev :=
  let n := timingClass r.form.opc r.mod
  let d := setCore d core fun k => { k with
    exec := (n, 4 + Config.pick d.tick 8 4 % 4) :: k.exec, clock := true, events := fset 0 k.events (n + 1) (fgetD k.events (n + 1) 0 + 1) }
  if core % 7 = 6 then setCluster d (core / 7) fun c => { c with idleAt := none } else d

/-- The word that lanes stand at has issued. -/
def markIssued (d : Dev) (u : Nat) (lns : List Nat) : Dev :=
  setSquad d u fun s => lns.foldl (fun s ln => s.setLane ln fun l => { l with issued := true }) s

/-- Lanes whose word issues stand in execute, or have done so before they came to wait at it (R272). -/
def startExecute (d : Dev) (u : Nat) (lns : List Nat) (r : Raw) : Dev :=
  if lns.all fun ln => (laneOf d u ln).issued then d else markIssued (enterExecute d (squadOf d u).core r) u lns

/-! ### Walks (R297) -/

/-- Two addresses lie on one page: one of 64 KiB, or a larger one that the tables give. -/
def samePage (d : Dev) (vmid : BitVec 12) (asid : BitVec 16) (a b : Nat) : Bool :=
  a / 65536 == b / 65536 || match walkPage d vmid asid a with
    | .ok l => decide (l.va ≤ b) && decide (b < l.va + l.size)
    | .error _ => false

/-- The walk in flight for the page of an address. DEDUCED, log 21. -/
def walkFor (d : Dev) (c : Nat) (vmid : BitVec 12) (asid : BitVec 16) (va : Nat) : Option (Nat × Walk) :=
  d.walks.find? fun p => p.2.res.isNone && p.2.cluster == c && p.2.vmid == vmid && p.2.asid == asid && samePage d vmid asid p.2.va va

/-- The walks a cluster runs. -/
def walksOf (d : Dev) (c : Nat) : Nat := (d.walks.filter fun p => p.2.res.isNone && p.2.cluster == c).length

/-- Lanes that miss join the walk for their page, or start it, each page for itself; while the cluster runs 32 walks they wait (R297). -/
def joinWalk (u : Nat) (d : Dev) (p : Nat × Nat) : Dev :=
  let s := squadOf d u
  let c := clusterIdx s
  let vmid := (coreOf d s.core).vmid
  match walkFor d c vmid s.asid p.2 with
  | some (w, _) => setLane d u p.1 fun l => { l with wait := .walk w }
  | none =>
    let w := d.fresh
    if 32 ≤ walksOf d c then setLane d u p.1 fun l => { l with wait := .hold }
    else setLane (bump { d with walks := fput d.walks w { cluster := c, vmid, asid := s.asid, va := p.2 } }) u p.1
      fun l => { l with wait := .walk w }

/-- Forget ended walks that no lane waits for. -/
def sweepWalks (d : Dev) : Dev :=
  { d with walks := d.walks.filter fun p =>
      p.2.res.isNone || d.squads.any fun q => q.2.lanes.any fun l => l.2.wait == .walk p.1 }

/-! ### The debug undo log (R250, R396) -/

/-- The words of rows that lanes hold differently afterwards: row, lane, word before. -/
def rowChanges (a b : Squad) (lns : List Nat) : List (Nat × Nat × Word) :=
  ((fkeys b.rows).map fun i => lns.filterMap fun ln => if a.v i ln = b.v i ln then none else some (i, ln, a.v i ln)).flatten

/-- The area of a squad's log has the translation that the next write needs; which page that is, is not the spec's to say, nor where the area lies that
system software gave a squad of CTXNEW. DESIGN CHOICE, log 10. -/
def undoArea (d : Dev) (s : Squad) : Bool :=
  match s.debug with
  | some a => xlatOk d s.core s.vmid s.asid (a + 65536 * (Config.pick d.tick 7 128 % 128)) .w false
  | none => Config.pick d.tick 7 2 % 2 == 0

/-- The log keeps its last 4,096 writes; an instruction whose writes it keeps only in part cannot be undone. DEDUCED, log 31. -/
def undoTrim : List Undo → List Undo
  | [] => []
  | x :: t => if 4096 < (x :: t).foldl (fun n u => n + u.writes) 0 then undoTrim t else x :: t

/-- Add what an instruction wrote to a squad's log; where the log cannot hold it, DBG is cleared (R396). -/
def undoAdd (d : Dev) (u : Nat) (x : Undo) : Dev :=
  setSquad d u fun s =>
    if x.writes ≠ 0 && !undoArea d s then { s with dbg := false, undo := [] }
    else if s.undo.any fun y => y.id == x.id then
      { s with undo := undoTrim (s.undo.map fun y => if y.id = x.id then
          { y with
            lanes := x.lanes.foldl (fun m q => if (fget m q.1).isSome then m else fput m q.1 q.2) y.lanes
            rows := x.rows ++ y.rows, mem := x.mem ++ y.mem
            engine := y.engine || x.engine
            wrows := sunion y.wrows x.wrows, wpred := y.wpred || x.wpred, wmem := sunion y.wmem x.wmem } else y) }
    else { s with undo := undoTrim (s.undo ++ [x]) }

/-- The different rows of a list of changed words. -/
def rowSet (l : List (Nat × Nat × Word)) : NSet := l.foldl (fun m p => sadd m p.1) []

/-- The form writes predicates. -/
def writesPred (r : Raw) : Bool :=
  match r.fd with
  | .q .. => (r.form.spec r).fd.dst
  | _ => false

/-- A lane of a squad as its instruction found it: where a DEQ has its item, without the Q7 that the item set ahead of its return (R250, R375). -/
def Squad.laneFound (s : Squad) (ln : Nat) : Lane :=
  match s.form with
  | some (.deqDone pc true was) => if (s.lane ln).pc = pc then (s.lane ln).setQ 7 (shas was ln) else s.lane ln
  | _ => s.lane ln

/-- Log an instruction of a squad whose DBG is set, in the lanes that retire it; a lane that traps does not (R250). A row that an access or request will write
is logged when it is written. -/
def logUndo (before after : Dev) (u : Nat) (r : Raw) (engine : Bool) : Dev :=
  let a := squadOf before u
  let b := squadOf after u
  if !a.dbg || !b.dbg then after
  else
    let moved := (fkeys a.lanes).filter fun ln => (b.lane ln).seq != (a.lane ln).seq && (b.lane ln).depth ≤ (a.lane ln).depth &&
      (b.lane ln).ovf == (a.lane ln).ovf
    let rows := rowChanges a b moved
    if moved.isEmpty then after
    else
      let later := pendRows after u
      undoAdd after u { id := before.tick, lanes := moved.map fun ln => (ln, a.laneFound ln), rows := rows, engine := engine
                        wrows := sunion (rowSet rows) ((rowsWritten r).filter fun i => !shas later i)
                        wpred := writesPred r || moved.any fun ln => (b.lane ln).q != (a.laneFound ln).q }

/-- Log what an event wrote for lanes that waited at their word: their predicates and how far they came (R250). -/
def logLanes (before after : Dev) (u : Nat) (lns : List Nat) : Dev :=
  let a := squadOf before u
  if !a.dbg || !(squadOf after u).dbg || lns.isEmpty then after
  else undoAdd after u { id := before.tick, lanes := lns.map fun ln => (ln, a.lane ln)
                         wpred := lns.any fun ln => ((squadOf after u).lane ln).q != (a.lane ln).q }

/-- The form issues an engine or matrix command (R250). -/
def isEngine : Form → Bool
  | .cpy | .tlsig | .fork | .xform | .mma | .mmad | .mzero | .lmm | .hdrinv => true
  | _ => false

/-! ### The common path of an instruction -/

/-- What decides between a cause of level 3 at a row's place and what a form's own checks find (R313). -/
def rowFirst (row acc : Nat) (x : Chk) : Chk → Chk
  | .bad l c tv => if l < 3 || (l == 3 && decide (acc < row)) then .bad l c tv else x
  | .walk va => if acc < row then .walk va else x
  | _ => x

/-- What decides between a poisoned row, of level 6, and what a form's own checks find (R313). -/
def poisonFirst (x : Chk) : Chk → Chk
  | .bad l c tv => if l < 6 then .bad l c tv else x
  | .walk va => .walk va
  | .stall => .stall
  | .ok => x

/-- A lane's result: the lowest level decides (R313). A form's own checks are made where the lane can read what they rest on. -/
def laneChk (d : Dev) (e : Env) (r : Raw) (chk : Dev → Env → Nat → Chk) (ln : Nat) : Chk :=
  let rd := rowsRead r
  let wr := rowsWritten r
  let own := if (rowSlots r).any fun p => (chkSlots r.form).contains p.1 && p.2.any (unreadable e.s ln) then Chk.ok else chk d e ln
  match rowCause d e.s ln rd wr with
  | some (c, i) => rowFirst (if rd.contains i then rowPlace r i else 7) (accPlace r.form) (.bad 3 c (BitVec.ofNat 64 (rowAddr e.s i))) own
  | none =>
    if ((rd ++ wr).any fun i => e.s.missing i) || !rowRoom d e.sq e.s wr then .stall
    else match rowPoison e.s ln rd <|> fillPoison e.s ln wr with
    | some i => poisonFirst (.bad 6 0x0D (BitVec.ofNat 64 (rowAddr e.s i))) own
    | none => own

/-- What an instruction at hand reads: its squad u, with the word at which the bundle's first lane stands (R31, R269). -/
def envOf (d : Dev) (u : Nat) (lns : List Nat) : Env :=
  { sq := u, s := squadOf d u, g := groupOf d (squadOf d u).group, core := (squadOf d u).core, tick := d.tick
    pc := (laneOf d u (lns.headD 0)).pc }

/-- Forms that a mode may not execute, or whose register it may not write, and that their own check may find illegal (R99, R247, R248, R281). -/
def ownFirst : Form → Bool
  | .regn | .swr | .tlbinv => true
  | _ => false

/-- The cause of level 1 that a lane takes: "illegal instruction" comes before "privileged instruction", what the form's own check finds among it, which waits for
the registers that it rests on (R45, R313). Where they cannot be read the check is not made. DEDUCED, log 47. -/
def encCheck (d : Dev) (e : Env) (r : Raw) (chk : Dev → Env → Nat → Chk) (ln : Nat) : Option (Cause × DWord) :=
  match dynCheck d e.s e.g ln r with
  | none => none
  | some (c, tv) =>
    if c ≠ 0x02 || !ownFirst r.form then some (c, tv)
    else if interlocked d e.sq e.s.group [ln] r || (rowsRead r).any (fun i => e.s.missing i && rowPage d e.s i) then none
    else if (rowsRead r).any (unreadable e.s ln) then some (c, tv)
    else match chk d e ln with
      | .bad 1 k t => some (k, t)
      | _ => some (c, tv)

/-- Trap lanes with the causes found for them, in ascending lane order (R314). -/
def trapAll (d : Dev) (u : Nat) (l : List (Nat × Cause × DWord)) : Dev :=
  l.foldl (fun d p => trapAt d u p.1 p.2.1 p.2.2) d

/-- The lanes of a list of results. -/
def badOf (l : List (Nat × Chk)) : List (Nat × Cause × DWord) :=
  l.filterMap fun p => match p.2 with
    | .bad _ c tv => some (p.1, c, tv)
    | _ => none

/-- The last part of an issue: of lanes that nothing held before, each takes its first cause (R313), waits for a row's fill or a walk, or takes part in `act`; the
whole bundle waits in deterministic mode (R277). `retires` says that lanes whose guard failed stand in execute for it already; g is its group as the issue found it. -/
def issueLive (r : Raw) (chk : Dev → Env → Nat → Chk) (act : Env → List Nat → Dev → Dev) (retires : Bool) (g : Group) (d : Dev) (u : Nat)
    (live : List Nat) : Dev :=
  let e : Env := { envOf d u live with g }
  let s := e.s
  let res := live.map fun ln => (ln, laneChk d e r chk ln)
  let stalled := res.filter fun p => p.2 == .stall
  let walks := res.filterMap fun p => p.2.walkVa.map fun va => (p.1, va)
  let ready := (res.filter fun p => p.2 == .ok).map (·.1)
  let d4 := startFills (holdLanes (trapAll d u (badOf res)) u .hold (stalled.map (·.1))) u (stalled.map (·.1))
    (if stalled.isEmpty then [] else (rowsRead r ++ rowsWritten r).filter s.missing)
  let d5 := walks.foldl (joinWalk u) d4
  if ready.isEmpty then sweepWalks d5
  else if s.det && !(stalled.isEmpty && walks.isEmpty) then holdLanes d5 u .hold ready
  else
    let d6 := takeClaim (if retires then markIssued d5 u ready else startExecute d5 u ready r) u ready (s.newFlag live r.h)
    let e6 : Env := { e with s := squadOf d6 u, g := groupOf d6 s.group }
    sweepWalks (settleClaims (logUndo d6 (act e6 ready d6) u r (isEngine r.form)) u)

/-- The lanes of a bundle whose guard holds: each takes its cause of level 1 (R45); lanes that wait for a register's pending write are a split of their own
(R16, R269), but in deterministic mode (R277); while the flag counts 63 they wait (R38). -/
def issuePass (r : Raw) (chk : Dev → Env → Nat → Chk) (act : Env → List Nat → Dev → Dev) (retires : Bool) (d : Dev) (u : Nat) (pass : List Nat) : Dev :=
  let s := squadOf d u
  let enc := pass.filterMap fun ln => (encCheck d (envOf d u pass) r chk ln).map fun p => (ln, p.1, p.2)
  let all := pass.filter fun ln => !enc.any fun p => p.1 == ln
  let d1 := trapAll d u enc
  let late := all.filter fun ln => interlocked d1 u s.group [ln] r
  let waits := s.det && !late.isEmpty
  let live := if waits then [] else all.filter fun ln => !late.contains ln
  let d2 := holdLanes d1 u .hold (if waits then all else late)
  if live.isEmpty then d2
  else if (squadOf d2 u).flagFull live r.h then holdLanes d2 u .hold live
  else issueLive r chk act retires (groupOf d s.group) d2 u live

/-- Issue an instruction to the bundle at hand: lanes whose guard fails go on by `fails`; the others by `issuePass`. An instruction whose guard fails stands in execute
and retires (R13, R39, R272), which the undo log counts (R250); like any other it waits while its flag counts 63 (R38). -/
def issueWith (r : Raw) (fails : List Nat → Dev → Dev) (chk : Dev → Env → Nat → Chk) (act : Env → List Nat → Dev → Dev)
    (d : Dev) : Dev :=
  match d.cur with
  | none => d
  | some b =>
    let goes := fun ln => (laneOf d b.sq ln).qbit (r.h.grd.toNat % 8) ^^ r.h.grd.getLsbD 3
    let pass := b.lanes.filter goes
    let skip := b.lanes.filter fun ln => !goes ln
    let full := (squadOf d b.sq).flagFull b.lanes r.h
    let d1 := if full then holdLanes d b.sq .hold skip
      else if skip.isEmpty then d
      else logUndo d (fails skip (startExecute d b.sq skip r)) b.sq r false
    if pass.isEmpty then d1 else issuePass r chk act (!skip.isEmpty && !full) d1 b.sq pass

/-- Lanes whose guard fails just go on (R13). -/
def plainFails (lns : List Nat) (d : Dev) : Dev :=
  match d.cur with
  | some b => advanceAll d b.sq lns
  | none => d

/-- Issue an instruction whose failing lanes just go on. -/
def issueChk (r : Raw) (chk : Dev → Env → Nat → Chk) (act : Env → List Nat → Dev → Dev) (d : Dev) : Dev := issueWith r plainFails chk act d

/-- Issue an instruction with no check of its own. -/
def issue (r : Raw) (act : Env → List Nat → Dev → Dev) (d : Dev) : Dev := issueChk r (fun _ _ _ => .ok) act d

/-- The instruction of the opcode table behind a meaning. -/
def rawOf (i : Instr) : Raw := i.raw.getD ⟨.nop, ⟨0, 0⟩, 0, .none, .none, .none, .none⟩

/-- Lift an effect on the device to the machine: it always ends in a next state. -/
def onDev (f : Dev → Dev) (s : State) : Host.Outcome State Fault Refusal := .next { s with dev := f s.dev }

/-! ### Deterministic scheduling (R276) -/

/-- A lane of a squad can go on (R276): it is not at a wait for another squad, an engine or an outside agent, nor at a gather that is not complete or its mooring. -/
def canRun (d : Dev) (u : Nat) : Bool := (squadOf d u).lanes.any fun p => laneReady d u p.1 p.2

/-- The resident squads of a squad's work item on its core (R276). -/
def detPeers (d : Dev) (s : Squad) (item : Nat) : List (Nat × Squad) :=
  d.squads.filter fun p => p.2.core == s.core && p.2.res == .in_ && p.2.state == .ready && p.2.det &&
    (groupOf d p.2.group).item == some item

/-- The lowest logical squad index of a list that a condition admits. -/
def lowestIdx (l : List (Nat × Squad)) (ok : Nat → Bool) : Option (Nat × Squad) :=
  l.foldl (fun m p => if !ok p.2.sqidx.toNat then m else match m with
    | none => some p
    | some q => if p.2.sqidx.toNat < q.2.sqidx.toNat then some p else some q) none

/-- A switch point: the core passes to the next higher logical squad index of the work item that can run, wrapping to the lowest (R276). -/
def detPass (d : Dev) (u : Nat) : Dev :=
  let s := squadOf d u
  match s.det, (groupOf d s.group).item with
  | true, some i =>
    let l := (detPeers d s i).filter fun p => p.2.stop == .none && canRun d p.1
    match lowestIdx l (fun x => decide (s.sqidx.toNat < x)) <|> lowestIdx l (fun _ => true) with
    | some p => setCore d s.core fun k => { k with detRun := fput k.detRun i p.1 }
    | none => d
  | _, _ => d

/-- Lanes wait on a parking event; in deterministic mode that is a switch point (R266, R276). -/
def parkLanes (d : Dev) (u : Nat) (w : Wait) (lns : List Nat) : Dev := detPass (holdLanes d u w lns) u

/-! ### Gathering forms (R92, R93) -/

/-- The mask register a gathering form names; none gathers every lane. -/
def maskOf : Opnd → Option Nat
  | .m i => some i.toNat
  | _ => none

/-- The key of an instance: its word, and its quad where it gathers one (R211). -/
def instKey (pc : Pc) (m : Option Nat) : Nat :=
  match m with
  | some i => if i < 16 then pc.toNat else (i - 15) * 18014398509481984 + pc.toNat
  | none => pc.toNat

/-- The instance of a gathering form at a word. -/
def instAt (s : Squad) (pc : Pc) (m : Option Nat) : GInst := fgetD s.insts (instKey pc m) { mask := m }

/-- Lanes whose guard fails arrive and go on at once (R92); one that reaches the word again before the instance completes, or before a complete instance is
gone, waits there. -/
def gatherFails (m : Option Nat) (lns : List Nat) (d : Dev) : Dev :=
  match d.cur with
  | none => d
  | some b =>
    lns.foldl (fun d ln =>
      let s := squadOf d b.sq
      let l := s.lane ln
      let g := instAt s l.pc m
      if l.depth ≠ 0 || !(s.gatherSet m).contains ln then advanceAll d b.sq [ln]
      else if g.closed || shas g.arrived ln || shas g.passed ln then holdLanes d b.sq .gather [ln]
      else
        let s' := { s with insts := fput s.insts (instKey l.pc m) { g with passed := sadd g.passed ln } }
        advanceAll (setSquad d b.sq fun _ => s'.closeInsts) b.sq [ln]) d

/-- Arrive at a gather; when the instance is complete, its arrived lanes are the participants of `done`. A lane at depth 1 or more, or not
gathered over, is the sole participant of its own instance (R93), but for one whose instance was complete before it left the set. -/
def gatherAct (m : Option Nat) (done : Env → List Nat → Dev → Dev) (e : Env) (lns : List Nat) (d : Dev) : Dev :=
  let set := e.s.gatherSet m
  let g0 := instAt e.s e.pc m
  let sole := fun ln => (e.s.lane ln).depth ≠ 0 || !(set.contains ln || (g0.closed && shas g0.arrived ln))
  let d := (lns.filter sole).foldl (fun d ln => done { e with s := squadOf d e.sq, g := groupOf d e.s.group } [ln] d) d
  let rest := lns.filter fun ln => !sole ln
  if rest.isEmpty then d
  else
    let s := squadOf d e.sq
    let g := instAt s e.pc m
    let again := rest.filter fun ln => !shas g.arrived ln && (g.closed || shas g.passed ln)
    let arrive := rest.filter fun ln => !again.contains ln
    let d := holdLanes (holdLanes d e.sq .gather again) e.sq .gather arrive
    let d := setSquad d e.sq fun s =>
      ({ s with insts := fput s.insts (instKey e.pc m) { g with arrived := sunion g.arrived arrive } }).closeInsts
    let s := squadOf d e.sq
    let g := instAt s e.pc m
    if g.closed && !arrive.isEmpty then
      done { e with s := { s with insts := fdel s.insts (instKey e.pc m) }, g := groupOf d s.group } g.arrived
        (meetClocks (setSquad d e.sq fun s => { s with insts := fdel s.insts (instKey e.pc m) }) e.sq g.arrived)
    else d

/-- Issue a gathering form. -/
def issueGather (r : Raw) (m : Opnd) (chk : Dev → Env → Nat → Chk) (done : Env → List Nat → Dev → Dev) (d : Dev) : Dev :=
  issueWith r (gatherFails (maskOf m)) chk (gatherAct (maskOf m) done) d

/-! ### Results of register forms -/

/-- What a register form gives a lane: the squad with its writes, and the flags it raises. -/
structure Out where
  s  : Squad
  fl : BitVec 7 := 0

/-- Apply a register form lane by lane: sources are read from the squad at issue (R31), flags are kept (R76), and a lane that raises an enabled
flag writes nothing but what `keep` gives and takes "enabled floating-point exception". -/
def applyOut (f : Env → Nat → Squad → Out) (keep : Env → Nat → Squad → Squad) (e : Env) (lns : List Nat) (d : Dev) : Dev :=
  lns.foldl (fun d ln =>
    let o := f e ln (squadOf d e.sq)
    if flTraps e.s.fpcr o.fl then
      trapAt (setSquad d e.sq fun s => (keep e ln s).raise o.fl) e.sq ln 0x14 (o.fl.setWidth 64)
    else setSquad d e.sq fun _ => (o.s.raise o.fl).setLane ln Lane.advance) d

/-- Apply a register form that raises no flag. -/
def applyRegs (f : Env → Nat → Squad → Squad) (e : Env) (lns : List Nat) (d : Dev) : Dev :=
  setSquad d e.sq fun s => lns.foldl (fun s ln => (f e ln s).setLane ln Lane.advance) s

end Sys2Proof.Machine
end

