-- ==== Sys2Proof/Machine/Integer.lean ====
section
/-! DEFINITION. Integer forms (R127 to R131). -/
namespace Sys2Proof.Machine

/-- The exact value of a register's bits at an integer type (R63). -/
def intVal (t : Ty) (x : DWord) : Int := if t.signed then toSigned x t.wid else (lowBits x t.wid).toNat

/-- The smallest value of an integer type (R63). -/
def intMin (t : Ty) : Int := if t.signed then -(2 ^ (t.wid - 1) : Nat) else 0
/-- The largest value of an integer type (R63). -/
def intMax (t : Ty) : Int := if t.signed then (2 ^ (t.wid - 1) : Nat) - 1 else (2 ^ t.wid : Nat) - 1

/-- Clamp to an integer type (R127). -/
def clampTo (t : Ty) (x : Int) : Int := max (intMin t) (min (intMax t) x)

/-- The register value of an exact result at a type: wrapped, extended by the type's signedness (R127). -/
def intBits (t : Ty) (x : Int) : DWord :=
  let b := BitVec.ofInt 64 x
  if t.signed then sext b t.wid else lowBits b t.wid

/-- Finish an integer result: clamp under SAT, else wrap; SAT where the clamp changed the value (R127). -/
def intDone (t : Ty) (sat : Bool) (x : Int) : DWord × Fl :=
  if sat then (intBits t (clampTo t x), flIf (clampTo t x != x) flSAT) else (intBits t x, 0)

/-- The type an integer result is written at: the whole register, or a pair (R127). -/
def intDst (t : Ty) : Ty := if t.wid = 64 then .n64 else .n32

/-- Write an integer result. -/
def intOut (t : Ty) (sat : Bool) (d : Opnd) (ln : Nat) (s : Squad) (x : Int) : Out :=
  let r := intDone t sat x
  ⟨s.write ln d (intDst t) r.1, r.2⟩

/-- An operand's exact value. -/
def opInt (e : Env) (ln : Nat) (t : Ty) (o : Opnd) : Int := intVal t (readOp e ln o t)

/-- Nothing is written where a flag traps (R76). -/
def keepNone (_ : Env) (_ : Nat) (s : Squad) : Squad := s

/-- An integer form of two sources. -/
def int2 (t : Ty) (sat : Bool) (d a b : Opnd) (f : Int → Int → Int) : Env → List Nat → Dev → Dev :=
  applyOut (fun e ln s => intOut t sat d ln s (f (opInt e ln t a) (opInt e ln t b))) keepNone

/-- An integer form of three sources. -/
def int3 (t : Ty) (sat : Bool) (d a b c : Opnd) (f : Int → Int → Int → Int) : Env → List Nat → Dev → Dev :=
  applyOut (fun e ln s => intOut t sat d ln s (f (opInt e ln t a) (opInt e ln t b) (opInt e ln t c))) keepNone

/-- An integer form of one source. -/
def int1 (t : Ty) (sat : Bool) (d a : Opnd) (f : Int → Int) : Env → List Nat → Dev → Dev :=
  applyOut (fun e ln s => intOut t sat d ln s (f (opInt e ln t a))) keepNone

/-- The 64-bit type of the same signedness (R129). -/
def wideTy (t : Ty) : Ty := if t.signed then .s64 else .n64

/-- The condition codes of ICMP (R128). -/
def iccHolds (cc : BitVec 3) (a b : Int) : Bool :=
  match cc.toNat with
  | 0 => a == b
  | 1 => a != b
  | 2 => decide (a < b)
  | 3 => decide (a ≤ b)
  | 4 => decide (b < a)
  | _ => decide (b ≤ a)

/-- Write a truth value to a q or v destination (R131). -/
def Squad.writeBool (s : Squad) (ln : Nat) (d : Opnd) (b : Bool) : Squad := s.write ln d .n32 (if b then 1 else 0)

/-- IDIV (R130). -/
def divOut (t : Ty) (sat : Bool) (d : Opnd) (ln : Nat) (s : Squad) (a b : Int) : Out :=
  if b = 0 then
    ⟨s.write ln d .n32 (intBits t (if t.signed && decide (a < 0) then intMin t else intMax t)), flDZ⟩
  else intOut t sat d ln s (a.tdiv b)

/-- IREM (R130). -/
def remOut (t : Ty) (d : Opnd) (ln : Nat) (s : Squad) (a b : Int) : Out :=
  if b = 0 then ⟨s.write ln d .n32 (intBits t a), flDZ⟩ else intOut t false d ln s (a.tmod b)

/-- IADD.t vD, a, b (R129) -/
def execIadd (h : Hd) (t : Ty) (sat : Bool) (d a b : Opnd) : State → Host.Outcome State Fault Refusal :=
  onDev (issue (rawOf (.iadd h t sat d a b)) (int2 t sat d a b (· + ·)))

/-- ISUB.t vD, a, b (R129) -/
def execIsub (h : Hd) (t : Ty) (sat : Bool) (d a b : Opnd) : State → Host.Outcome State Fault Refusal :=
  onDev (issue (rawOf (.isub h t sat d a b)) (int2 t sat d a b (· - ·)))

/-- IADD3.t vD, a, b, c (R129) -/
def execIadd3 (h : Hd) (t : Ty) (sat : Bool) (d a b c : Opnd) : State → Host.Outcome State Fault Refusal :=
  onDev (issue (rawOf (.iadd3 h t sat d a b c)) (int3 t sat d a b c fun x y z => x + y + z))

/-- IMUL.t vD, a, b (R129) -/
def execImul (h : Hd) (t : Ty) (sat : Bool) (d a b : Opnd) : State → Host.Outcome State Fault Refusal :=
  onDev (issue (rawOf (.imul h t sat d a b)) (int2 t sat d a b (· * ·)))

/-- IMULH.t vD, a, b (R129) -/
def execImulh (h : Hd) (t : Ty) (d a b : Opnd) : State → Host.Outcome State Fault Refusal :=
  onDev (issue (rawOf (.imulh h t d a b)) (int2 t false d a b fun x y => (x * y).fdiv 4294967296))

/-- IMAD[.acc].t vD, a, b, c (R129) -/
def execImad (h : Hd) (t : Ty) (sat : Bool) (acc : Bool) (d a b c : Opnd) : State → Host.Outcome State Fault Refusal :=
  onDev (issue (rawOf (.imad h t sat acc d a b c)) (int3 t sat d a b (if acc then d else c) fun x y z => x * y + z))

/-- IMADW[.acc].t vD, a, b, c (R129) -/
def execImadw (h : Hd) (t : Ty) (sat : Bool) (acc : Bool) (d a b c : Opnd) : State → Host.Outcome State Fault Refusal :=
  onDev (issue (rawOf (.imadw h t sat acc d a b c)) (applyOut (fun e ln s =>
    intOut (wideTy t) sat d ln s (opInt e ln t a * opInt e ln t b + opInt e ln (wideTy t) (if acc then d else c))) keepNone))

/-- IDIV.t vD, a, b (R130) -/
def execIdiv (h : Hd) (t : Ty) (sat : Bool) (d a b : Opnd) : State → Host.Outcome State Fault Refusal :=
  onDev (issue (rawOf (.idiv h t sat d a b)) (applyOut (fun e ln s => divOut t sat d ln s (opInt e ln t a) (opInt e ln t b)) keepNone))

/-- IREM.t vD, a, b (R130) -/
def execIrem (h : Hd) (t : Ty) (d a b : Opnd) : State → Host.Outcome State Fault Refusal :=
  onDev (issue (rawOf (.irem h t d a b)) (applyOut (fun e ln s => remOut t d ln s (opInt e ln t a) (opInt e ln t b)) keepNone))

/-- IMIN.t vD, a, b (R129) -/
def execImin (h : Hd) (t : Ty) (d a b : Opnd) : State → Host.Outcome State Fault Refusal :=
  onDev (issue (rawOf (.imin h t d a b)) (int2 t false d a b min))

/-- IMAX.t vD, a, b (R129) -/
def execImax (h : Hd) (t : Ty) (d a b : Opnd) : State → Host.Outcome State Fault Refusal :=
  onDev (issue (rawOf (.imax h t d a b)) (int2 t false d a b max))

/-- IABS.t vD, a (R129) -/
def execIabs (h : Hd) (t : Ty) (sat : Bool) (d a : Opnd) : State → Host.Outcome State Fault Refusal :=
  onDev (issue (rawOf (.iabs h t sat d a)) (int1 t sat d a fun x => (x.natAbs : Int)))

/-- INEG.t vD, a (R129) -/
def execIneg (h : Hd) (t : Ty) (sat : Bool) (d a : Opnd) : State → Host.Outcome State Fault Refusal :=
  onDev (issue (rawOf (.ineg h t sat d a)) (int1 t sat d a fun x => -x))

/-- ICMP.cc.t dst, a, b (R131) -/
def execIcmp (h : Hd) (cc : BitVec 3) (t : Ty) (d a b : Opnd) : State → Host.Outcome State Fault Refusal :=
  onDev (issue (rawOf (.icmp h cc t d a b)) (applyRegs fun e ln s => s.writeBool ln d (iccHolds cc (opInt e ln t a) (opInt e ln t b))))

/-- ISEL.t vD, a, b, qC (R131) -/
def execIsel (h : Hd) (t : Ty) (d a b c : Opnd) : State → Host.Outcome State Fault Refusal :=
  onDev (issue (rawOf (.isel h t d a b c)) (applyRegs fun e ln s => s.write ln d t (if readQ e ln c then readOp e ln a t else readOp e ln b t)))

/-- IADD64.t vD, a, b (R129) -/
def execIadd64 (h : Hd) (t : Ty) (sat : Bool) (d a b : Opnd) : State → Host.Outcome State Fault Refusal :=
  onDev (issue (rawOf (.iadd64 h t sat d a b)) (int2 t sat d a b (· + ·)))

/-- ISUB64.t vD, a, b (R129) -/
def execIsub64 (h : Hd) (t : Ty) (sat : Bool) (d a b : Opnd) : State → Host.Outcome State Fault Refusal :=
  onDev (issue (rawOf (.isub64 h t sat d a b)) (int2 t sat d a b (· - ·)))

/-- IMUL64[.hi].t vD, a, b (R129) -/
def execImul64 (h : Hd) (t : Ty) (hi : Bool) (d a b : Opnd) : State → Host.Outcome State Fault Refusal :=
  onDev (issue (rawOf (.imul64 h t hi d a b)) (int2 t false d a b fun x y => if hi then (x * y).fdiv 18446744073709551616 else x * y))

end Sys2Proof.Machine
end

