-- ==== Sys2Proof/Machine/Bit.lean ====
section
/-! DEFINITION. Bit and address forms (R133 to R138). -/
namespace Sys2Proof.Machine

/-- The low n bits of a register built bit by bit. -/
def bitsOf (n : Nat) (f : Nat → Bool) : DWord :=
  (upto n).foldl (fun x i => if f i then x ||| (1#64 <<< i) else x) 0

/-- The number of bits set among the low n. -/
def countBits (x : DWord) (n : Nat) : Nat := ((upto n).filter fun i => x.getLsbD i).length

/-- Zero bits above the highest one bit of the low n (R135). -/
def clzBits (x : DWord) (n : Nat) : Nat := ((upto n).find? fun i => x.getLsbD (n - 1 - i)).getD n
/-- Zero bits below the lowest one bit of the low n (R135). -/
def ctzBits (x : DWord) (n : Nat) : Nat := ((upto n).find? fun i => x.getLsbD i).getD n

/-- A three-input truth table at one bit (R133). -/
def lutBit (lut : Nat) (a b c : Bool) : Bool := lut.testBit (b2n a + 2 * b2n b + 4 * b2n c)

/-- The truth table of an immediate slot. -/
def lutOf : Opnd → Nat
  | .imm x => x.toNat
  | _ => 0

/-- A form that writes a value of one type computed from operands. -/
def regForm (t : Ty) (d : Opnd) (f : Env → Nat → DWord) : Env → List Nat → Dev → Dev :=
  applyRegs fun e ln s => s.write ln d t (f e ln)

/-- SHL (R134). -/
def shlVal (w : Nat) (a : DWord) (n : Nat) : DWord := if n < w then lowBits (a <<< n) w else 0
/-- SHR (R134). -/
def shrVal (w : Nat) (a : DWord) (n : Nat) : DWord := if n < w then a >>> n else 0
/-- SRA (R134). -/
def sraVal (w : Nat) (a : DWord) (n : Nat) : DWord := lowBits ((sext a w).sshiftRight (min n 63)) w
/-- ROT (R134). -/
def rotVal (w : Nat) (a : DWord) (n : Nat) (right : Bool) : DWord :=
  let n := if right then (w - n % w) % w else n % w
  lowBits (a <<< n) w ||| (a >>> (w - n))

/-- SHCAT (R134). -/
def shcatVal (left : Bool) (lo hi : DWord) (n : Nat) : DWord :=
  let n := min n 32
  let h := (hi <<< 32) ||| lowBits lo 32
  if left then (h <<< n) >>> 32 else lowBits (h >>> n) 32

/-- BFX (R136). -/
def bfxVal (signed : Bool) (a : DWord) (p n : Nat) : DWord :=
  let n := min n 32
  let src := fun i => if i ≤ 31 then a.getLsbD i else signed && a.getLsbD 31
  bitsOf 32 fun i => if i < n then src (p + i) else signed && decide (0 < n) && src (p + n - 1)

/-- BFI (R136). -/
def bfiVal (old ins : DWord) (p n : Nat) : DWord :=
  bitsOf 32 fun i => if p ≤ i && i < p + min n 32 then ins.getLsbD (i - p) else old.getLsbD i

/-- BINT (R137). -/
def bintVal (w : Nat) (three : Bool) (a b c : DWord) : DWord :=
  if three then
    let k := if w = 64 then 21 else 10
    bitsOf (3 * k) fun i => if i % 3 = 0 then a.getLsbD (i / 3) else if i % 3 = 1 then b.getLsbD (i / 3) else c.getLsbD (i / 3)
  else bitsOf w fun i => if i % 2 = 0 then a.getLsbD (i / 2) else b.getLsbD (i / 2)

/-- BDIN (R137). -/
def bdinVal (w : Nat) (three : Bool) (a : DWord) (k : Nat) : DWord :=
  if three then bitsOf ((w - 1 - k) / 3 + 1) fun i => a.getLsbD (3 * i + k)
  else bitsOf (w / 2) fun i => a.getLsbD (2 * i + k)

/-- BSEL (R138). -/
def bselVal (a b sel : DWord) : DWord :=
  let src := (lowBits b 32 <<< 32) ||| lowBits a 32
  (upto 4).foldl (fun x i =>
    let z := ((sel >>> (4 * i)) &&& 15).toNat
    if z < 8 then x ||| (lowBits (src >>> (8 * z)) 8 <<< (8 * i)) else x) 0

/-- The type of shift amounts. -/
def amt (e : Env) (ln : Nat) (o : Opnd) : Nat := readN32 e ln o

/-- AND.t vD, a, b (R133) -/
def execAnd (h : Hd) (t : Ty) (d a b : Opnd) : State → Host.Outcome State Fault Refusal :=
  onDev (issue (rawOf (.and h t d a b)) (regForm t d fun e ln => readOp e ln a t &&& readOp e ln b t))

/-- OR.t vD, a, b (R133) -/
def execOr (h : Hd) (t : Ty) (d a b : Opnd) : State → Host.Outcome State Fault Refusal :=
  onDev (issue (rawOf (.or h t d a b)) (regForm t d fun e ln => readOp e ln a t ||| readOp e ln b t))

/-- XOR.t vD, a, b (R133) -/
def execXor (h : Hd) (t : Ty) (d a b : Opnd) : State → Host.Outcome State Fault Refusal :=
  onDev (issue (rawOf (.xor h t d a b)) (regForm t d fun e ln => readOp e ln a t ^^^ readOp e ln b t))

/-- NOT.t vD, a (R133) -/
def execNot (h : Hd) (t : Ty) (d a : Opnd) : State → Host.Outcome State Fault Refusal :=
  onDev (issue (rawOf (.not h t d a)) (regForm t d fun e ln => lowBits (~~~ (readOp e ln a t)) t.wid))

/-- BLUT.t vD, a, b, lut (R133) -/
def execBlut (h : Hd) (t : Ty) (d a b lut : Opnd) : State → Host.Outcome State Fault Refusal :=
  onDev (issue (rawOf (.blut h t d a b lut)) (regForm t d fun e ln =>
    let x := readOp e ln a t
    let y := readOp e ln b t
    let z := readOp e ln d t
    bitsOf t.wid fun i => lutBit (lutOf lut) (x.getLsbD i) (y.getLsbD i) (z.getLsbD i)))

/-- SHL.t vD, a, s (R134) -/
def execShl (h : Hd) (t : Ty) (d a sh : Opnd) : State → Host.Outcome State Fault Refusal :=
  onDev (issue (rawOf (.shl h t d a sh)) (regForm t d fun e ln => shlVal t.wid (readOp e ln a t) (amt e ln sh)))

/-- SHR.t vD, a, s (R134) -/
def execShr (h : Hd) (t : Ty) (d a sh : Opnd) : State → Host.Outcome State Fault Refusal :=
  onDev (issue (rawOf (.shr h t d a sh)) (regForm t d fun e ln => shrVal t.wid (readOp e ln a t) (amt e ln sh)))

/-- SRA.t vD, a, s (R134) -/
def execSra (h : Hd) (t : Ty) (d a sh : Opnd) : State → Host.Outcome State Fault Refusal :=
  onDev (issue (rawOf (.sra h t d a sh)) (regForm t d fun e ln => sraVal t.wid (readOp e ln a t) (amt e ln sh)))

/-- ROT[.r].t vD, a, s (R134) -/
def execRot (h : Hd) (t : Ty) (right : Bool) (d a sh : Opnd) : State → Host.Outcome State Fault Refusal :=
  onDev (issue (rawOf (.rot h t right d a sh)) (regForm t d fun e ln => rotVal t.wid (readOp e ln a t) (amt e ln sh) right))

/-- SHCAT.l and SHCAT.r vD, lo, hi, s (R134) -/
def execShcat (h : Hd) (left : Bool) (d lo hi sh : Opnd) : State → Host.Outcome State Fault Refusal :=
  onDev (issue (rawOf (.shcat h left d lo hi sh)) (regForm .n32 d fun e ln =>
    shcatVal left (readOp e ln lo .n32) (readOp e ln hi .n32) (amt e ln sh)))

/-- CLZ.t vD, a (R135) -/
def execClz (h : Hd) (t : Ty) (d a : Opnd) : State → Host.Outcome State Fault Refusal :=
  onDev (issue (rawOf (.clz h t d a)) (regForm .n32 d fun e ln => BitVec.ofNat 64 (clzBits (readOp e ln a t) t.wid)))

/-- CTZ.t vD, a (R135) -/
def execCtz (h : Hd) (t : Ty) (d a : Opnd) : State → Host.Outcome State Fault Refusal :=
  onDev (issue (rawOf (.ctz h t d a)) (regForm .n32 d fun e ln => BitVec.ofNat 64 (ctzBits (readOp e ln a t) t.wid)))

/-- POPC.t vD, a (R135) -/
def execPopc (h : Hd) (t : Ty) (d a : Opnd) : State → Host.Outcome State Fault Refusal :=
  onDev (issue (rawOf (.popc h t d a)) (regForm .n32 d fun e ln => BitVec.ofNat 64 (countBits (readOp e ln a t) t.wid)))

/-- BREV.t vD, a (R135) -/
def execBrev (h : Hd) (t : Ty) (d a : Opnd) : State → Host.Outcome State Fault Refusal :=
  onDev (issue (rawOf (.brev h t d a)) (regForm t d fun e ln =>
    let x := readOp e ln a t
    bitsOf t.wid fun i => x.getLsbD (t.wid - 1 - i)))

/-- BFX.t vD, a, pos, len (R136) -/
def execBfx (h : Hd) (t : Ty) (d a pos len : Opnd) : State → Host.Outcome State Fault Refusal :=
  onDev (issue (rawOf (.bfx h t d a pos len)) (regForm .n32 d fun e ln => bfxVal t.signed (readOp e ln a t) (amt e ln pos % 256) (amt e ln len % 256)))

/-- BFI vD, ins, pos, len (R136) -/
def execBfi (h : Hd) (d ins pos len : Opnd) : State → Host.Outcome State Fault Refusal :=
  onDev (issue (rawOf (.bfi h d ins pos len)) (regForm .n32 d fun e ln =>
    bfiVal (readOp e ln d .n32) (readOp e ln ins .n32) (amt e ln pos % 256) (amt e ln len % 256)))

/-- BINT.2 and BINT.3 (R137) -/
def execBint (h : Hd) (t : Ty) (three : Bool) (d a b c : Opnd) : State → Host.Outcome State Fault Refusal :=
  onDev (issue (rawOf (.bint h t three d a b c)) (regForm t d fun e ln => bintVal t.wid three (readOp e ln a t) (readOp e ln b t) (readOp e ln c t)))

/-- BDIN.2 and BDIN.3 (R137) -/
def execBdin (h : Hd) (t : Ty) (three : Bool) (d a k : Opnd) : State → Host.Outcome State Fault Refusal :=
  onDev (issue (rawOf (.bdin h t three d a k)) (regForm .n32 d fun e ln => bdinVal t.wid three (readOp e ln a t) (lutOf k)))

/-- LEA vD, a, b, s (R138) -/
def execLea (h : Hd) (d a b sc : Opnd) : State → Host.Outcome State Fault Refusal :=
  onDev (issue (rawOf (.lea h d a b sc)) (regForm .n32 d fun e ln => lowBits (readOp e ln a .n32 + (readOp e ln b .n32 <<< lutOf sc)) 32))

/-- LEA64.t vD, a, b, s (R138) -/
def execLea64 (h : Hd) (t : Ty) (d a b sc : Opnd) : State → Host.Outcome State Fault Refusal :=
  onDev (issue (rawOf (.lea64 h t d a b sc)) (regForm .n64 d fun e ln =>
    readOp e ln a .n64 + ((if t.signed then sext (readOp e ln b t) 32 else readOp e ln b t) <<< lutOf sc)))

/-- BSEL vD, a, b, sel (R138) -/
def execBsel (h : Hd) (d a b sel : Opnd) : State → Host.Outcome State Fault Refusal :=
  onDev (issue (rawOf (.bsel h d a b sel)) (regForm .n32 d fun e ln => bselVal (readOp e ln a .n32) (readOp e ln b .n32) (readOp e ln sel .n32)))

/-- QLOP qD, qA, qB, lut (R133) -/
def execQlop (h : Hd) (d a b lut : Opnd) : State → Host.Outcome State Fault Refusal :=
  onDev (issue (rawOf (.qlop h d a b lut)) (applyRegs fun e ln s =>
    s.writeBool ln d (lutBit (lutOf lut) (readQ e ln a) (readQ e ln b) (readQ e ln d))))

end Sys2Proof.Machine
end

