-- ==== Sys2Proof/Machine/Float.lean ====
section
/-! DEFINITION. Number formats: exact values, decoding, and the one rounding (R64 to R81, R86 to R90, R448). -/
namespace Sys2Proof.Machine

/-- An exact value: NaN (signalling or quiet), an infinity, or (-1)^neg * m * 2^e (a zero keeps its sign). -/
inductive FV
  | nan (sig : Bool)
  | inf (neg : Bool)
  | fin (neg : Bool) (m : Nat) (e : Int)
  deriving DecidableEq, Repr, Inhabited

/-- A floating format: width, fraction bits, exponent of the smallest normal, bias, largest finite magnitude maxK * 2^maxE, whether it has a
sign, infinities and -0, and its NaN. -/
structure FF where
  wid : Nat
  m : Nat
  emin : Int
  bias : Int
  maxK : Nat
  maxE : Int
  signed : Bool
  hasInf : Bool
  negZero : Bool
  nan : Nat
  deriving DecidableEq, Repr, Inhabited

/-- An IEEE format of a width and fraction bits (R64). -/
def ieee (wid m : Nat) : FF :=
  let b : Nat := 2 ^ (wid - 2 - m) - 1
  ⟨wid, m, 1 - (b : Int), b, 2 ^ (m + 1) - 1, (b : Int) - m, true, true, true, (2 ^ (wid - 1 - m) - 1) * 2 ^ m + 2 ^ (m - 1)⟩

/-- .f16 -/
def f16 : FF := ieee 16 10
/-- .bf16 -/
def bf16 : FF := ieee 16 7
/-- .f32 -/
def f32 : FF := ieee 32 23
/-- .f64 -/
def f64 : FF := ieee 64 52

/-- A binary8 format (R67 to R69). -/
def b8 (signed ext : Bool) (p : Nat) : FF :=
  let m := p - 1
  let b : Nat := if signed then 2 ^ (7 - p) else 2 ^ (8 - p)
  let top := (if signed then 0x7F else 0xFE) - (if ext then 1 else 0)
  let e := top / 2 ^ m
  ⟨8, m, 1 - (b : Int), b, if e = 0 then top % 2 ^ m else 2 ^ m + top % 2 ^ m, (max e 1 : Nat) - (b : Int) - m, signed, ext, false,
    if signed then 0x80 else 0xFF⟩

/-- .e2m1 (R70). -/
def e2m1 : FF := ⟨4, 1, 0, 1, 3, 1, true, false, true, 0⟩

/-- The format of a type. -/
def ffOf : Ty → FF
  | .f16 => f16
  | .bf16 => bf16
  | .f64 => f64
  | .e2m1 => e2m1
  | _ => f32

/-! ### Decoding (R64 to R71) -/

/-- The finite value of exponent and fraction fields. -/
def fieldVal (f : FF) (neg : Bool) (e k : Nat) : FV :=
  if e = 0 then .fin neg k (f.emin - f.m) else .fin neg (2 ^ f.m + k) ((e : Int) - f.bias - f.m)

/-- Decode a code of an IEEE format (R64 to R66). -/
def decIeee (f : FF) (c : Nat) : FV :=
  let neg := c.testBit (f.wid - 1)
  let emax := 2 ^ (f.wid - 1 - f.m) - 1
  let e := c / 2 ^ f.m % 2 ^ (f.wid - 1 - f.m)
  let k := c % 2 ^ f.m
  if e = emax then (if k = 0 then .inf neg else .nan (!k.testBit (f.m - 1))) else fieldVal f neg e k

/-- Decode a binary8 code (R67). -/
def decB8 (f : FF) (c : Nat) : FV :=
  let neg := f.signed && c.testBit 7
  let mag := if f.signed then c % 128 else c
  if c = f.nan then .nan false
  else if f.hasInf && mag = (if f.signed then 0x7F else 0xFE) then .inf neg
  else fieldVal f neg (mag / 2 ^ f.m) (mag % 2 ^ f.m)

/-- Decode a code at a type: IEEE, e2m1, e8m0 and the integers (R63 to R71). -/
def decTy (t : Ty) (c : Nat) : FV :=
  match t with
  | .f16 => decIeee f16 c
  | .bf16 => decIeee bf16 c
  | .f32 => decIeee f32 c
  | .f64 => decIeee f64 c
  | .e2m1 => fieldVal e2m1 (c.testBit 3) (c / 2 % 4) (c % 2)
  | .e8m0 => if c % 256 = 0xFF then .nan false else .fin false 1 ((c % 256 : Nat) - 127)
  | _ =>
    let x := intVal t (BitVec.ofNat 64 c)
    .fin (decide (x < 0)) x.natAbs 0

/-- Decode a code of a format (R21). -/
def decFmt (f : Fmt) (c : Nat) : FV :=
  match f with
  | .ty .s4 =>
    let x := toSigned (BitVec.ofNat 64 c) 4
    .fin (decide (x < 0)) x.natAbs 0
  | .ty t => decTy t c
  | .b8 s e p => decB8 (b8 s e p.toNat) (c % 256)

/-! ### Rounding (R72 to R75) -/

/-- A positive magnitude n / d in units of 2^q: the whole part, the remainder and what the remainder is out of. -/
def inUnits (n d : Nat) (q : Int) : Nat × Nat × Nat :=
  let nn := n * 2 ^ (-q).toNat
  let dd := d * 2 ^ q.toNat
  (nn / dd, nn % dd, dd)

/-- floor(log2 (n / d)), n and d positive. -/
def log2r (n d : Nat) : Int :=
  let l : Int := (n.log2 : Int) - d.log2
  if n * 2 ^ (-l).toNat < d * 2 ^ l.toNat then l - 1 else l

/-- Whether a mode rounds a magnitude away from zero: the sign, whether the lower value's code is even, remainder and denominator, draw. -/
def roundsUp (mode : Rnd) (neg even : Bool) (r d draw : Nat) : Bool :=
  if r = 0 then false
  else match mode with
    | .rne => decide (d < 2 * r) || (2 * r == d && !even)
    | .rtz => false
    | .rup => !neg
    | .rdn => neg
    | .rs => decide (65536 ≤ r * 65536 / d + draw)

/-- The magnitude k * 2^q after rounding to a multiple of 2^q. -/
def roundAt (m : Nat) (bias : Int) (mode : Rnd) (neg : Bool) (n d : Nat) (q : Int) (draw : Nat) : Nat × Bool :=
  let (k, r, dd) := inUnits n d q
  let even := if m = 0 then k = 0 || (q + bias) % 2 = 0 else k % 2 = 0
  (k + b2n (roundsUp mode neg even r dd draw), r = 0)

/-- k * 2^q is below n2 * 2^e2. -/
def magLt (k : Nat) (q : Int) (n2 : Nat) (e2 : Int) : Bool :=
  decide (k * 2 ^ (q - e2).toNat < n2 * 2 ^ (e2 - q).toNat)

/-- The code of a finite magnitude k * 2^q of a format, without sign. -/
def magCode (f : FF) (k : Nat) (q : Int) : Nat :=
  if k = 0 then 0
  else
    let l : Int := k.log2
    if l + q < f.emin then (inUnits k 1 (f.emin - f.m - q)).1
    else
      let sig := (inUnits k 1 (l - f.m)).1
      (l + q + f.bias).toNat * 2 ^ f.m + (sig - 2 ^ f.m)

/-- The sign bit of a code. -/
def signBit (f : FF) (neg : Bool) : Nat := if neg && f.signed then 2 ^ (f.wid - 1) else 0

/-- The code of the largest finite value with a sign. -/
def maxCode (f : FF) (neg : Bool) : Nat := signBit f neg + magCode f f.maxK f.maxE

/-- The code of an infinity. -/
def infCode (f : FF) (neg : Bool) : Nat :=
  signBit f neg + (if f.wid = 8 then (if f.signed then 0x7F else 0xFE) else (2 ^ (f.wid - 1 - f.m) - 1) * 2 ^ f.m)

/-- The code of a zero with a sign (R72, R74). -/
def zeroCode (f : FF) (neg : Bool) : Nat := if f.negZero then signBit f neg else 0

/-- An overflow's code and flags (R73). -/
def overflow (f : FF) (mode : Rnd) (sat neg up : Bool) : Nat × Fl :=
  if sat || !f.hasInf then (maxCode f neg, flOF ||| flNX ||| flSAT)
  else
    let toInf := match mode with
      | .rne => true
      | .rtz => false
      | .rup => !neg
      | .rdn => neg
      | .rs => up
    (if toInf then infCode f neg else maxCode f neg, flOF ||| flNX)

/-- Round an exact magnitude n / d, not zero, with a sign (R72 to R74, R79). -/
def roundRat (f : FF) (mode : Rnd) (sat neg : Bool) (n d draw : Nat) : Nat × Fl :=
  let l := log2r n d
  let q := max l f.emin - f.m
  let (k, exact) := roundAt f.m f.bias mode neg n d q draw
  let up := (inUnits n d q).1 != k
  if neg && !f.signed then
    if k = 0 then (0, flUF ||| flNX) else (f.nan, flNV)
  else if magLt f.maxK f.maxE k q then overflow f mode sat neg up
  else
    let (ku, _) := roundAt f.m f.bias mode neg n d (l - f.m) draw
    let tiny := magLt ku (l - f.m) 1 f.emin
    (if k = 0 then zeroCode f neg else signBit f neg + magCode f k q, flIf (!exact) flNX ||| flIf (tiny && !exact) flUF)

/-- A dyadic magnitude as numerator and denominator. -/
def dyadic (m : Nat) (e : Int) : Nat × Nat := (m * 2 ^ e.toNat, 2 ^ (-e).toNat)

/-- Round an exact value to a floating format (R72 to R75, R78, R79, R90). -/
def roundFV (f : FF) (mode : Rnd) (sat : Bool) (draw : Nat) (x : FV) : Nat × Fl :=
  match x with
  | .nan sig => (f.nan, flIf (sig || f.wid = 4) flNV)
  | .inf neg =>
    if neg && !f.signed then (f.nan, flNV)
    else if f.hasInf && !sat then (infCode f neg, 0) else (maxCode f neg, flSAT)
  | .fin neg m e =>
    if m = 0 then (zeroCode f neg, 0)
    else roundRat f mode sat neg (dyadic m e).1 (dyadic m e).2 draw

/-- Round to .e8m0 (R71, R78, R79). -/
def roundE8 (mode : Rnd) (draw : Nat) (x : FV) : Nat × Fl :=
  match x with
  | .nan sig => (0xFF, flIf sig flNV)
  | .inf true => (0xFF, flNV)
  | .inf false => (0xFE, flSAT)
  | .fin neg m e =>
    if m = 0 || neg then (0xFF, flNV)
    else
      let (n, d) := dyadic m e
      let l := log2r n d
      if l < -127 then (0x00, flUF ||| flNX)
      else
        let (k, exact) := roundAt 0 127 mode false n d l draw
        let l := l + (if 2 ≤ k then 1 else 0)
        if 127 < l then (0xFE, flOF ||| flNX ||| flSAT) else ((l + 127).toNat, flIf (!exact) flNX)

/-- Round an exact value to an integer, ties to the even integer (R72, R80). -/
def roundInt (mode : Rnd) (draw : Nat) (neg : Bool) (m : Nat) (e : Int) : Int × Bool :=
  let (n, d) := dyadic m e
  let k := n / d + b2n (roundsUp mode neg (n / d % 2 = 0) (n % d) d draw)
  (if neg then -(k : Int) else k, n % d = 0)

/-- Round to an integer type from a floating value (R80). -/
def toIntTy (t : Ty) (mode : Rnd) (draw : Nat) (x : FV) : DWord × Fl :=
  match x with
  | .nan _ => (0, flNV)
  | .inf neg => (intBits t (if neg then intMin t else intMax t), flNV)
  | .fin neg m e =>
    let (k, exact) := roundInt mode draw neg m e
    if k < intMin t then (intBits t (intMin t), flNV)
    else if intMax t < k then (intBits t (intMax t), flNV)
    else (intBits t k, flIf (!exact) flNX)

/-- Round to .s4 or .s8 as an element format with sat = 1 (R448): the code in w bits. -/
def roundElemInt (w : Nat) (mode : Rnd) (draw : Nat) (x : FV) : Nat × Fl :=
  let top : Int := 2 ^ (w - 1) - 1
  let code := fun (k : Int) => (k % (2 ^ w : Nat)).toNat
  match x with
  | .nan _ => (0, flNV)
  | .inf neg => (code (if neg then -top - 1 else top), flSAT)
  | .fin neg m e =>
    let (k, exact) := roundInt mode draw neg m e
    if top < k then (code top, flOF ||| flNX ||| flSAT)
    else if k < -top - 1 then (code (-top - 1), flOF ||| flNX ||| flSAT)
    else (code k, flIf (!exact) flNX)

/-- Round to a type (R90). -/
def roundTy (t : Ty) (mode : Rnd) (sat : Bool) (draw : Nat) (x : FV) : DWord × Fl :=
  if t = .e8m0 then ((BitVec.ofNat 64 (roundE8 mode draw x).1), (roundE8 mode draw x).2)
  else ((BitVec.ofNat 64 (roundFV (ffOf t) mode sat draw x).1), (roundFV (ffOf t) mode sat draw x).2)

/-- Round to an element format (R90, R448). -/
def roundFmt (f : Fmt) (mode : Rnd) (sat : Bool) (draw : Nat) (x : FV) : Nat × Fl :=
  match f with
  | .ty .s4 => roundElemInt 4 mode draw x
  | .ty .s8 => roundElemInt 8 mode draw x
  | .ty t => ((roundTy t mode sat draw x).1.toNat, (roundTy t mode sat draw x).2)
  | .b8 s e p => roundFV (b8 s e p.toNat) mode sat draw x

/-! ### Exact arithmetic -/

/-- A signalling NaN among values raises NV (R66). -/
def anySig (l : List FV) : Bool := l.any fun x => x == .nan true
/-- A NaN among values. -/
def FV.isNan : FV → Bool
  | .nan _ => true
  | _ => false
/-- The value is zero. -/
def FV.isZero : FV → Bool
  | .fin _ m _ => m == 0
  | _ => false
/-- The sign of a value. -/
def FV.neg : FV → Bool
  | .inf n => n
  | .fin n _ _ => n
  | .nan _ => false
/-- The value is infinite. -/
def FV.isInf : FV → Bool
  | .inf _ => true
  | _ => false

/-- Exact product; none for 0 times infinity. -/
def mulFV (a b : FV) : Option FV :=
  match a, b with
  | .nan s, .nan t => some (.nan (s || t))
  | .nan s, _ => some (.nan s)
  | _, .nan s => some (.nan s)
  | .inf s, x => if x.isZero then none else some (.inf (s ^^ x.neg))
  | x, .inf s => if x.isZero then none else some (.inf (s ^^ x.neg))
  | .fin s m e, .fin t n f => some (.fin (s ^^ t) (m * n) (e + f))

/-- The signed numerator of a finite value at an exponent no larger than its own. -/
def FV.at (x : FV) (e0 : Int) : Int :=
  match x with
  | .fin n m e => (if n then -1 else 1) * (m * 2 ^ (e - e0).toNat : Nat)
  | _ => 0

/-- The least exponent of finite values. -/
def minExp (l : List FV) : Int :=
  l.foldl (fun k x => match x with
    | .fin _ _ e => min k e
    | _ => k) 0

/-- Exact sum of finite values; the sign of an exact zero by R65. -/
def sumFin (mode : Rnd) (l : List FV) : FV :=
  let e0 := minExp l
  let s : Int := l.foldl (fun s x => s + x.at e0) 0
  if s = 0 then
    let neg := if l.all FV.neg then true else if l.any FV.neg then mode = .rdn else false
    .fin neg 0 0
  else .fin (decide (s < 0)) s.natAbs e0

/-- Exact sum of terms, each none where it is an invalid product: NV for those and for infinities of both signs, whatever NaN stands beside them
(R139, R141). -/
def sumFV (mode : Rnd) (l : List (Option FV)) : FV × Fl :=
  let xs := l.filterMap id
  let p := xs.any fun x => x == .inf false
  let n := xs.any fun x => x == .inf true
  if l.any Option.isNone || xs.any FV.isNan || (p && n) then (.nan false, flIf (anySig xs || l.any Option.isNone || (p && n)) flNV)
  else if p then (.inf false, 0)
  else if n then (.inf true, 0)
  else (sumFin mode xs, 0)

/-- Negate. -/
def negFV : FV → FV
  | .inf n => .inf !n
  | .fin n m e => .fin (!n) m e
  | x => x

/-- Scale by a power of two. -/
def scaleFV (x : FV) (k : Int) : FV :=
  match x with
  | .fin n m e => .fin n m (e + k)
  | y => y

/-- Round the sum of terms to a type. -/
def sumRound (t : Ty) (mode : Rnd) (sat : Bool) (draw : Nat) (l : List (Option FV)) : DWord × Fl :=
  let s := sumFV mode l
  let r := roundTy t mode sat draw s.1
  (r.1, r.2 ||| s.2)

/-- A number between n / d and (n + 1) / d, when the remainder is not zero, as a fraction that rounds as it does. -/
def stickyRat (n d : Nat) (rem : Bool) : Nat × Nat := if rem then (2 * n + 1, 2 * d) else (n, d)

/-- Round a rational with a sign to a type. -/
def ratRound (t : Ty) (mode : Rnd) (sat neg : Bool) (r : Nat × Nat) : DWord × Fl :=
  let x := roundRat (ffOf t) mode sat neg r.1 r.2 0
  (BitVec.ofNat 64 x.1, x.2)

/-- Compare two values that are not NaN: -1, 0 or 1; zeros are equal. -/
def cmpFV (a b : FV) : Int :=
  let rank := fun (x : FV) => match x with
    | .inf true => (-1 : Int)
    | .inf false => 1
    | _ => 0
  match a, b with
  | .fin _ _ _, .fin _ _ _ =>
    let e0 := minExp [a, b]
    (a.at e0 - b.at e0).sign
  | _, _ => (rank a - rank b).sign

/-- minimumNumber or maximumNumber of two codes (R142): the code and flags. -/
def minmaxTy (t : Ty) (max : Bool) (a b : DWord) : DWord × Fl :=
  let x := decTy t a.toNat
  let y := decTy t b.toNat
  let nv := flIf (anySig [x, y]) flNV
  let c := cmpFV x y
  let less := c < 0 || (c = 0 && x.neg && !y.neg)
  if x.isNan && y.isNan then (BitVec.ofNat 64 (ffOf t).nan, nv)
  else if x.isNan then (b, nv)
  else if y.isNan then (a, nv)
  else (if less == max then b else a, nv)

/-- Convert a code from one type to another (R77 to R81, R90, R149). -/
def convertTy (src tgt : Ty) (mode : Rnd) (sat : Bool) (draw : Nat) (c : DWord) : DWord × Fl :=
  let v := decTy src c.toNat
  if src.isInt && tgt.isInt then intDone tgt sat (intVal src c)
  else if tgt.isInt then toIntTy tgt mode draw v
  else if tgt = .f64 || tgt = .f32 then roundTy tgt mode sat draw v
  else if src = .f64 || src.isInt then
    match v with
    | .fin _ (_ + 1) _ =>
      let r := roundTy .f32 .rne false 0 v
      let w := decTy .f32 r.1.toNat
      let x := if tgt = .e8m0 && w.isZero && !w.neg then (0, flUF ||| flNX) else roundTy tgt mode sat draw w
      (x.1, x.2 ||| r.2)
    | _ => roundTy tgt mode sat draw v
  else roundTy tgt mode sat draw v

/-- floor(log2) of a positive finite value. -/
def log2FV : FV → Int
  | .fin _ m e => (m.log2 : Int) + e
  | _ => 0

/-- Emax of an element format (R86, R150). -/
def fmtEmax : Fmt → Int
  | .ty .s4 => 2
  | .ty .s8 => 6
  | .ty _ => 2
  | .b8 s e p => let f := b8 s e p.toNat; (f.maxK.log2 : Int) + f.maxE

/-- Sum the products of a K-block exactly and round once to f32 (R87, R88): no flags. -/
def blockSum (l : List (Option FV)) : Nat :=
  match (sumFV .rne l).1 with
  | .fin _ 0 _ => 0
  | x => (roundFV f32 .rne false 0 x).1

/-- A bank adder's or tree's f32 sum by RNE, the default NaN for any NaN (R89, R118): code and flags. -/
def addTy (t : Ty) (a b : DWord) : DWord × Fl :=
  sumRound t .rne false 0 [some (decTy t a.toNat), some (decTy t b.toNat)]

/-! ### Square roots and transcendental functions (R147) -/

/-- floor of the square root, by bits from the top. -/
def isqrt : Nat → Nat → Nat → Nat
  | 0, _, r => r
  | k + 1, n, r =>
    let t := r + 2 ^ k
    isqrt k n (if t * t ≤ n then t else r)

/-- floor of the square root. -/
def natSqrt (n : Nat) : Nat := isqrt (n.log2 / 2 + 1) n 0

/-- The square root of m * 2^e as a fraction to 2 bits more than any format needs. -/
def sqrtRat (m : Nat) (e : Int) : Nat × Nat :=
  let e2 : Int := if e % 2 = 0 then e else e - 1
  let n := (if e % 2 = 0 then m else 2 * m) * 2 ^ 512
  let r := natSqrt n
  let x := stickyRat r (2 ^ 256) (r * r != n)
  let h := e2 / 2
  (x.1 * 2 ^ h.toNat, x.2 * 2 ^ (-h).toNat)

/-- The binary point of the fixed-point series. -/
def fixP : Nat := 320
/-- floor(pi * 2^320). -/
def fixPi : Nat := 6710401180212168915155840974220003240804194089427148950727106424351713218671805380099500388914039
/-- floor(ln 2 * 2^320). -/
def fixLn2 : Nat := 1480553391661173448385607439722553250922680800745876974795605978609098082859138712941075737848984

/-- The series of e^y, y in [0, 1): each term is the last times y over its number. -/
def expSeries : Nat → Nat → Nat → Nat → Nat → Nat
  | 0, _, _, _, s => s
  | k + 1, n, y, t, s =>
    let t := t * y / 2 ^ fixP / n
    expSeries k (n + 1) y t (s + t)

/-- 2^(n / d), 0 ≤ n / d < 1, in fixed point. -/
def exp2Frac (n d : Nat) : Nat := expSeries 80 1 (n * fixLn2 / d) (2 ^ fixP) (2 ^ fixP)

/-- The alternating series of sin y, y in [0, pi/2]. -/
def sinSeries : Nat → Nat → Nat → Nat → Int → Bool → Int
  | 0, _, _, _, s, _ => s
  | k + 1, n, y2, t, s, add =>
    let t := t * y2 / 2 ^ fixP / (n * (n + 1))
    sinSeries k (n + 2) y2 t (if add then s + t else s - t) (!add)

/-- sin(pi * n / d), 0 < n / d < 1/2, in fixed point. -/
def sinPi (n d : Nat) : Nat :=
  let y := n * fixPi / d
  (sinSeries 50 2 (y * y / 2 ^ fixP) y y false).toNat

/-- The series of atanh z, z in [0, 1/3]. -/
def atanhSeries : Nat → Nat → Nat → Nat → Nat → Nat
  | 0, _, _, _, s => s
  | k + 1, n, z2, t, s =>
    let t := t * z2 / 2 ^ fixP
    atanhSeries k (n + 2) z2 t (s + t / n)

/-- log2 (n / d), 1 ≤ n / d < 2, in fixed point. -/
def log2Frac (n d : Nat) : Nat :=
  let z := (n - d) * 2 ^ fixP / (n + d)
  2 * atanhSeries 105 3 (z * z / 2 ^ fixP) z z * 2 ^ fixP / fixLn2

end Sys2Proof.Machine
end

