-- ==== Sys2Proof/Machine/Fp.lean ====
section
/-! DEFINITION. Floating-point, FP64 and transcendental forms (R139 to R147), the random function (R217) and CVT (R149). -/
namespace Sys2Proof.Machine

/-! ### The random function and draws (R75, R217) -/

/-- One round of Mix (R217). -/
def mixRound (p : Word × Word) : Word × Word :=
  let a := (p.1 ^^^ (p.2 >>> 16)) * 0x85EBCA6B
  (a, p.2 + (a.rotateLeft 13) + 0x6A09E667)

/-- Mix (R217). -/
def mix (k l : Word) (c : DWord) : Word :=
  let p := mixRound (mixRound (mixRound (mixRound (c.setWidth 32 + k, ((c >>> 32).setWidth 32) ^^^ (l * 0x9E3779B9)))))
  p.1 ^^^ p.2.rotateLeft 7

/-- Draw j of an instruction in a lane (R75). -/
def drawOf (e : Env) (ln j : Nat) : Nat :=
  let l := e.s.lane ln
  (mix l.srkey (BitVec.ofNat 32 ln) (l.srcnt + BitVec.ofNat 64 j)).toNat % 65536

/-- The draws an instruction of n rounded elements takes (R75, R139). -/
def drawsOf (mode : Rnd) (n : Nat) : Nat := if mode = .rs then n else 0

/-- The lane has taken n draws (R75). -/
def takeDraws (n : Nat) (ln : Nat) (s : Squad) : Squad :=
  if n = 0 then s else s.setLane ln fun l => { l with srcnt := l.srcnt + BitVec.ofNat 64 n }

/-- A floating-point form that writes one result (R139): its draws are taken whether or not it traps. -/
def fpForm (t : Ty) (d : Opnd) (draws : Nat) (f : Env → Nat → DWord × Fl) : Env → List Nat → Dev → Dev :=
  applyOut (fun e ln s =>
    let r := f e ln
    ⟨(takeDraws draws ln s).write ln d t r.1, r.2⟩) (fun _ ln s => takeDraws draws ln s)

/-- An operand's exact value at a floating type. -/
def opFV (e : Env) (ln : Nat) (t : Ty) (o : Opnd) : FV := decTy t (readOp e ln o t).toNat

/-- A packed operand: modifiers on both halves (R140). -/
def readPacked (e : Env) (ln : Nat) (o : Opnd) : DWord :=
  let m := fun (n a : Bool) (x : Word) =>
    let x := if a then x &&& 0x7FFF7FFF#32 else x
    (if n then x ^^^ 0x80008000#32 else x).setWidth 64
  match o with
  | .v i n a _ => m n a (e.s.v i.toNat ln)
  | .w i n a _ => m n a (e.g.wFor e.sq i.toNat)
  | .lit x => x.setWidth 64
  | _ => 0

/-- One half of a packed operand as an exact value. -/
def halfFV (t : Ty) (x : DWord) (hi : Bool) : FV := decTy t (half x hi).toNat

/-- A packed form: the low element before the high one (R139, R141). -/
def packed (t : Ty) (rnd : Rnd) (sat : Bool) (d : Opnd) (f : Env → Nat → Bool → List (Option FV)) : Env → List Nat → Dev → Dev :=
  fpForm .n32 d (drawsOf rnd 2) fun e ln =>
    let lo := sumRound t rnd sat (drawOf e ln 0) (f e ln false)
    let hi := sumRound t rnd sat (drawOf e ln 1) (f e ln true)
    ((hi.1 <<< 16) ||| lo.1, lo.2 ||| hi.2)

/-- A form that rounds one exact sum of terms. -/
def scalar (t : Ty) (rnd : Rnd) (sat : Bool) (d : Opnd) (f : Env → Nat → List (Option FV)) : Env → List Nat → Dev → Dev :=
  fpForm t d (drawsOf rnd 1) fun e ln => sumRound t rnd sat (drawOf e ln 0) (f e ln)

/-- The addend of an accumulating form. -/
def addend (acc : Bool) (d c : Opnd) : Opnd := if acc then d else c

/-- The flags of a comparison (R143). -/
def fcmpFlags (cc : BitVec 3) (a b : FV) : Fl :=
  flIf (anySig [a, b] || ((a.isNan || b.isNan) && 2 ≤ cc.toNat && cc.toNat ≤ 5)) flNV

/-- The conditions of FCMP and DCMP (R143). -/
def fcmpHolds (cc : BitVec 3) (a b : FV) : Bool :=
  let nan := a.isNan || b.isNan
  let c := cmpFV a b
  match cc.toNat with
  | 0 => !nan && c == 0
  | 1 => nan || c != 0
  | 2 => !nan && decide (c < 0)
  | 3 => !nan && decide (c ≤ 0)
  | 4 => !nan && decide (0 < c)
  | 5 => !nan && decide (0 ≤ c)
  | 6 => !nan
  | _ => nan

/-- FCMP and DCMP (R143). -/
def fcmpForm (cc : BitVec 3) (t : Ty) (d a b : Opnd) : Env → List Nat → Dev → Dev :=
  applyOut (fun e ln s =>
    let x := opFV e ln t a
    let y := opFV e ln t b
    ⟨s.writeBool ln d (fcmpHolds cc x y), fcmpFlags cc x y⟩) keepNone

/-- FMIN, FMAX, DMIN, DMAX (R142). -/
def minmaxForm (t : Ty) (mx : Bool) (d a b : Opnd) : Env → List Nat → Dev → Dev :=
  fpForm t d 0 fun e ln => minmaxTy t mx (readOp e ln a t) (readOp e ln b t)

/-- The bit of FCLASS (R144). -/
def classBit (f : FF) (x : FV) : Nat :=
  match x with
  | .inf n => if n then 0 else 7
  | .nan sig => if sig then 8 else 9
  | .fin n m e =>
    if m = 0 then (if n then 3 else 4)
    else if (m.log2 : Int) + e < f.emin then (if n then 2 else 5) else (if n then 1 else 6)

/-- FRND (R145). -/
def frndVal (t : Ty) (rnd : Rnd) (ex : Bool) (x : FV) : DWord × Fl :=
  match x with
  | .fin n m e =>
    let r := roundInt rnd 0 n m e
    ((roundTy t .rne false 0 (.fin n r.1.natAbs 0)).1, flIf (ex && !r.2) flNX)
  | y => roundTy t .rne false 0 y

/-- FRCP (R147). -/
def frcpVal (t : Ty) (rnd : Rnd) (sat : Bool) (x : FV) : DWord × Fl :=
  match x with
  | .nan s => roundTy t rnd sat 0 (.nan s)
  | .inf n => roundTy t rnd sat 0 (.fin n 0 0)
  | .fin n m e =>
    if m = 0 then let r := roundTy t rnd sat 0 (.inf n); (r.1, r.2 ||| flDZ)
    else ratRound t rnd sat n ((dyadic m e).2, (dyadic m e).1)

/-- FRSQ (R147). -/
def frsqVal (t : Ty) (rnd : Rnd) (sat : Bool) (x : FV) : DWord × Fl :=
  match x with
  | .nan s => roundTy t rnd sat 0 (.nan s)
  | .inf true => roundTy t rnd sat 0 (.nan true)
  | .inf false => roundTy t rnd sat 0 (.fin false 0 0)
  | .fin n m e =>
    if m = 0 then let r := roundTy t rnd sat 0 (.inf n); (r.1, r.2 ||| flDZ)
    else if n then roundTy t rnd sat 0 (.nan true)
    else ratRound t rnd sat false ((sqrtRat m e).2, (sqrtRat m e).1)

/-- FSQRT (R147). -/
def fsqrtVal (t : Ty) (rnd : Rnd) (sat : Bool) (x : FV) : DWord × Fl :=
  match x with
  | .nan s => roundTy t rnd sat 0 (.nan s)
  | .inf true => roundTy t rnd sat 0 (.nan true)
  | .inf false => roundTy t rnd sat 0 (.inf false)
  | .fin n m e =>
    if m = 0 then roundTy t rnd sat 0 (.fin n 0 0)
    else if n then roundTy t rnd sat 0 (.nan true)
    else ratRound t rnd sat false (sqrtRat m e)

/-- FDIV (R147). -/
def fdivVal (t : Ty) (rnd : Rnd) (sat : Bool) (x y : FV) : DWord × Fl :=
  let neg := x.neg ^^ y.neg
  if x.isNan || y.isNan then roundTy t rnd sat 0 (.nan (anySig [x, y]))
  else match x, y with
    | .inf _, .inf _ => roundTy t rnd sat 0 (.nan true)
    | .inf _, _ => roundTy t rnd sat 0 (.inf neg)
    | _, .inf _ => roundTy t rnd sat 0 (.fin neg 0 0)
    | .fin _ m e, .fin _ n f =>
      if n = 0 then
        if m = 0 then roundTy t rnd sat 0 (.nan true)
        else let r := roundTy t rnd sat 0 (.inf neg); (r.1, r.2 ||| flDZ)
      else if m = 0 then roundTy t rnd sat 0 (.fin neg 0 0)
      else ratRound t rnd sat neg ((dyadic m e).1 * (dyadic n f).2, (dyadic m e).2 * (dyadic n f).1)
    | _, _ => (0, 0)

/-- A power-of-two multiple of a fraction. -/
def ratShift (r : Nat × Nat) (k : Int) : Nat × Nat := (r.1 * 2 ^ k.toNat, r.2 * 2 ^ (-k).toNat)

/-- FEX2 (R147). -/
def fex2Val (sat : Bool) (x : FV) : DWord × Fl :=
  match x with
  | .nan s => roundTy .f32 .rne sat 0 (.nan s)
  | .inf true => (0, 0)
  | .inf false => roundTy .f32 .rne sat 0 (.inf false)
  | .fin n m e =>
    let p := dyadic m e
    let big := decide (200 * p.2 ≤ p.1)
    if big then ratRound .f32 .rne sat false (if n then (1, 2 ^ 200) else (2 ^ 200, 1))
    else
      let a : Int := if n then -(p.1 : Int) else p.1
      let i := a.fdiv p.2
      let fr := (a.fmod p.2).toNat
      ratRound .f32 .rne sat false (ratShift (if fr = 0 then (1, 1) else stickyRat (exp2Frac fr p.2) (2 ^ fixP) true) i)

/-- FLG2 (R147). -/
def flg2Val (sat : Bool) (x : FV) : DWord × Fl :=
  match x with
  | .nan s => roundTy .f32 .rne sat 0 (.nan s)
  | .inf true => roundTy .f32 .rne sat 0 (.nan true)
  | .inf false => roundTy .f32 .rne sat 0 (.inf false)
  | .fin n m e =>
    if m = 0 then let r := roundTy .f32 .rne sat 0 (.inf true); (r.1, r.2 ||| flDZ)
    else if n then roundTy .f32 .rne sat 0 (.nan true)
    else
      let l : Int := (m.log2 : Int) + e
      if m = 2 ^ m.log2 then roundTy .f32 .rne sat 0 (.fin (decide (l < 0)) l.natAbs 0)
      else
        let v : Int := l * (2 ^ fixP : Nat) + log2Frac m (2 ^ m.log2)
        ratRound .f32 .rne sat (decide (v < 0)) (if v < 0 then 2 * v.natAbs - 1 else 2 * v.natAbs + 1, 2 * 2 ^ fixP)

/-- sin (pi * n / d) for 0 < n / d < 1 with a sign, rounded to f32. -/
def sinOut (neg : Bool) (n d : Nat) : DWord × Fl :=
  if 2 * n = d then ratRound .f32 .rne false neg (1, 1)
  else ratRound .f32 .rne false neg (stickyRat (if 2 * n < d then sinPi n d else sinPi (d - n) d) (2 ^ fixP) true)

/-- FSIN (R147). -/
def fsinVal (x : FV) : DWord × Fl :=
  match x with
  | .nan s => roundTy .f32 .rne false 0 (.nan s)
  | .inf _ => roundTy .f32 .rne false 0 (.nan true)
  | .fin n m e =>
    let (p, d) := dyadic m e
    if p % d = 0 then roundTy .f32 .rne false 0 (.fin n 0 0)
    else sinOut (n ^^ (p / d % 2 == 1)) (p % d) d

/-- FCOS (R147). -/
def fcosVal (x : FV) : DWord × Fl :=
  match x with
  | .nan s => roundTy .f32 .rne false 0 (.nan s)
  | .inf _ => roundTy .f32 .rne false 0 (.nan true)
  | .fin _ m e =>
    let (p, d) := dyadic m e
    let odd := p / d % 2 == 1
    let t := p % d
    if t = 0 then roundTy .f32 .rne false 0 (.fin odd 1 0)
    else if 2 * t = d then (0, 0)
    else if 2 * t < d then sinOut odd (d - 2 * t) (2 * d)
    else sinOut (!odd) (2 * t - d) (2 * d)

/-- A form of one source. -/
def unary (t : Ty) (d a : Opnd) (f : FV → DWord × Fl) : Env → List Nat → Dev → Dev :=
  fpForm t d 0 fun e ln => f (opFV e ln t a)

/-- FADD.t vD, a, b (R141) -/
def execFadd (h : Hd) (t : Ty) (rnd : Rnd) (sat : Bool) (d a b : Opnd) : State → Host.Outcome State Fault Refusal :=
  onDev (issue (rawOf (.fadd h t rnd sat d a b)) (scalar t rnd sat d fun e ln => [some (opFV e ln t a), some (opFV e ln t b)]))

/-- FSUB.t vD, a, b (R141) -/
def execFsub (h : Hd) (t : Ty) (rnd : Rnd) (sat : Bool) (d a b : Opnd) : State → Host.Outcome State Fault Refusal :=
  onDev (issue (rawOf (.fsub h t rnd sat d a b)) (scalar t rnd sat d fun e ln => [some (opFV e ln t a), some (negFV (opFV e ln t b))]))

/-- FMUL.t vD, a, b (R141) -/
def execFmul (h : Hd) (t : Ty) (rnd : Rnd) (sat : Bool) (d a b : Opnd) : State → Host.Outcome State Fault Refusal :=
  onDev (issue (rawOf (.fmul h t rnd sat d a b)) (scalar t rnd sat d fun e ln => [mulFV (opFV e ln t a) (opFV e ln t b)]))

/-- FFMA[.acc].t vD, a, b, c (R141) -/
def execFfma (h : Hd) (t : Ty) (rnd : Rnd) (sat : Bool) (acc : Bool) (d a b c : Opnd) : State → Host.Outcome State Fault Refusal :=
  onDev (issue (rawOf (.ffma h t rnd sat acc d a b c)) (scalar t rnd sat d fun e ln =>
    [mulFV (opFV e ln t a) (opFV e ln t b), some (opFV e ln t (addend acc d c))]))

/-- FMIN.t vD, a, b (R142) -/
def execFmin (h : Hd) (t : Ty) (d a b : Opnd) : State → Host.Outcome State Fault Refusal :=
  onDev (issue (rawOf (.fmin h t d a b)) (minmaxForm t false d a b))

/-- FMAX.t vD, a, b (R142) -/
def execFmax (h : Hd) (t : Ty) (d a b : Opnd) : State → Host.Outcome State Fault Refusal :=
  onDev (issue (rawOf (.fmax h t d a b)) (minmaxForm t true d a b))

/-- FCMP.cc.t dst, a, b (R143) -/
def execFcmp (h : Hd) (cc : BitVec 3) (t : Ty) (d a b : Opnd) : State → Host.Outcome State Fault Refusal :=
  onDev (issue (rawOf (.fcmp h cc t d a b)) (fcmpForm cc t d a b))

/-- FCLASS.t vD, a (R144) -/
def execFclass (h : Hd) (t : Ty) (d a : Opnd) : State → Host.Outcome State Fault Refusal :=
  onDev (issue (rawOf (.fclass h t d a)) (regForm .n32 d fun e ln => BitVec.ofNat 64 (2 ^ classBit (ffOf t) (opFV e ln t a))))

/-- FRND[.x].t vD, a (R145) -/
def execFrnd (h : Hd) (t : Ty) (rnd : Rnd) (ex : Bool) (d a : Opnd) : State → Host.Outcome State Fault Refusal :=
  onDev (issue (rawOf (.frnd h t rnd ex d a)) (unary t d a (frndVal t rnd ex)))

/-- HADD2.t vD, a, b (R141) -/
def execHadd2 (h : Hd) (t : Ty) (rnd : Rnd) (sat : Bool) (d a b : Opnd) : State → Host.Outcome State Fault Refusal :=
  onDev (issue (rawOf (.hadd2 h t rnd sat d a b)) (packed t rnd sat d fun e ln hi =>
    [some (halfFV t (readPacked e ln a) hi), some (halfFV t (readPacked e ln b) hi)]))

/-- HMUL2.t vD, a, b (R141) -/
def execHmul2 (h : Hd) (t : Ty) (rnd : Rnd) (sat : Bool) (d a b : Opnd) : State → Host.Outcome State Fault Refusal :=
  onDev (issue (rawOf (.hmul2 h t rnd sat d a b)) (packed t rnd sat d fun e ln hi => [mulFV (halfFV t (readPacked e ln a) hi) (halfFV t (readPacked e ln b) hi)]))

/-- HFMA2[.acc].t vD, a, b, c (R141) -/
def execHfma2 (h : Hd) (t : Ty) (rnd : Rnd) (sat : Bool) (acc : Bool) (d a b c : Opnd) : State → Host.Outcome State Fault Refusal :=
  onDev (issue (rawOf (.hfma2 h t rnd sat acc d a b c)) (packed t rnd sat d fun e ln hi =>
    [mulFV (halfFV t (readPacked e ln a) hi) (halfFV t (readPacked e ln b) hi),
     some (halfFV t (readPacked e ln (addend acc d c)) hi)]))

/-- FDOT2[.acc].t vD, a, b, c (R141) -/
def execFdot2 (h : Hd) (t : Ty) (rnd : Rnd) (sat : Bool) (acc : Bool) (d a b c : Opnd) : State → Host.Outcome State Fault Refusal :=
  onDev (issue (rawOf (.fdot2 h t rnd sat acc d a b c)) (scalar .f32 rnd sat d fun e ln =>
    [mulFV (halfFV t (readPacked e ln a) false) (halfFV t (readPacked e ln b) false),
     mulFV (halfFV t (readPacked e ln a) true) (halfFV t (readPacked e ln b) true),
     some (opFV e ln .f32 (addend acc d c))]))

/-- DADD.f64 vD, a, b (R146) -/
def execDadd (h : Hd) (rnd : Rnd) (sat : Bool) (d a b : Opnd) : State → Host.Outcome State Fault Refusal :=
  onDev (issue (rawOf (.dadd h rnd sat d a b)) (scalar .f64 rnd sat d fun e ln => [some (opFV e ln .f64 a), some (opFV e ln .f64 b)]))

/-- DMUL.f64 vD, a, b (R146) -/
def execDmul (h : Hd) (rnd : Rnd) (sat : Bool) (d a b : Opnd) : State → Host.Outcome State Fault Refusal :=
  onDev (issue (rawOf (.dmul h rnd sat d a b)) (scalar .f64 rnd sat d fun e ln => [mulFV (opFV e ln .f64 a) (opFV e ln .f64 b)]))

/-- DFMA[.acc].f64 vD, a, b, c (R146) -/
def execDfma (h : Hd) (rnd : Rnd) (sat : Bool) (acc : Bool) (d a b c : Opnd) : State → Host.Outcome State Fault Refusal :=
  onDev (issue (rawOf (.dfma h rnd sat acc d a b c)) (scalar .f64 rnd sat d fun e ln =>
    [mulFV (opFV e ln .f64 a) (opFV e ln .f64 b), some (opFV e ln .f64 (addend acc d c))]))

/-- DMIN.f64 vD, a, b (R142) -/
def execDmin (h : Hd) (d a b : Opnd) : State → Host.Outcome State Fault Refusal :=
  onDev (issue (rawOf (.dmin h d a b)) (minmaxForm .f64 false d a b))

/-- DMAX.f64 vD, a, b (R142) -/
def execDmax (h : Hd) (d a b : Opnd) : State → Host.Outcome State Fault Refusal :=
  onDev (issue (rawOf (.dmax h d a b)) (minmaxForm .f64 true d a b))

/-- DCMP.cc.f64 dst, a, b (R143) -/
def execDcmp (h : Hd) (cc : BitVec 3) (d a b : Opnd) : State → Host.Outcome State Fault Refusal :=
  onDev (issue (rawOf (.dcmp h cc d a b)) (fcmpForm cc .f64 d a b))

/-- FRCP.t vD, a (R147) -/
def execFrcp (h : Hd) (t : Ty) (rnd : Rnd) (sat : Bool) (d a : Opnd) : State → Host.Outcome State Fault Refusal :=
  onDev (issue (rawOf (.frcp h t rnd sat d a)) (unary t d a (frcpVal t rnd sat)))

/-- FRSQ.t vD, a (R147) -/
def execFrsq (h : Hd) (t : Ty) (rnd : Rnd) (sat : Bool) (d a : Opnd) : State → Host.Outcome State Fault Refusal :=
  onDev (issue (rawOf (.frsq h t rnd sat d a)) (unary t d a (frsqVal t rnd sat)))

/-- FSQRT.t vD, a (R147) -/
def execFsqrt (h : Hd) (t : Ty) (rnd : Rnd) (sat : Bool) (d a : Opnd) : State → Host.Outcome State Fault Refusal :=
  onDev (issue (rawOf (.fsqrt h t rnd sat d a)) (unary t d a (fsqrtVal t rnd sat)))

/-- FDIV.t vD, a, b (R147) -/
def execFdiv (h : Hd) (t : Ty) (rnd : Rnd) (sat : Bool) (d a b : Opnd) : State → Host.Outcome State Fault Refusal :=
  onDev (issue (rawOf (.fdiv h t rnd sat d a b)) (fpForm t d 0 fun e ln => fdivVal t rnd sat (opFV e ln t a) (opFV e ln t b)))

/-- FEX2.f32 vD, a (R147) -/
def execFex2 (h : Hd) (sat : Bool) (d a : Opnd) : State → Host.Outcome State Fault Refusal :=
  onDev (issue (rawOf (.fex2 h sat d a)) (unary .f32 d a (fex2Val sat)))

/-- FLG2.f32 vD, a (R147) -/
def execFlg2 (h : Hd) (sat : Bool) (d a : Opnd) : State → Host.Outcome State Fault Refusal :=
  onDev (issue (rawOf (.flg2 h sat d a)) (unary .f32 d a (flg2Val sat)))

/-- FSIN.f32 vD, a (R147) -/
def execFsin (h : Hd) (d a : Opnd) : State → Host.Outcome State Fault Refusal :=
  onDev (issue (rawOf (.fsin h d a)) (unary .f32 d a fsinVal))

/-- FCOS.f32 vD, a (R147) -/
def execFcos (h : Hd) (d a : Opnd) : State → Host.Outcome State Fault Refusal :=
  onDev (issue (rawOf (.fcos h d a)) (unary .f32 d a fcosVal))

/-- The rounding mode of CVT's FC (R148). -/
def cvtMode : Opnd → Rnd
  | .imm x => Rnd.ofCode (x.extractLsb' 0 3)
  | _ => .rne

/-- Whether a CVT takes a draw (R149). -/
def cvtDraws (src tgt : Ty) (mode : Rnd) : Nat := drawsOf mode (if src.isInt && tgt.isInt then 0 else 1)

/-- CVT.target.source[.rnd][.sat] vD, src (R149) -/
def execCvt (h : Hd) (src : Ty) (tgt : Ty) (sat : Bool) (d x rc : Opnd) : State → Host.Outcome State Fault Refusal :=
  onDev (issue (rawOf (.cvt h src tgt sat d x rc)) (fpForm (if tgt.wid = 64 then .n64 else if tgt.isFloat then tgt else .n32) d (cvtDraws src tgt (cvtMode rc))
    fun e ln => convertTy src tgt (cvtMode rc) sat (drawOf e ln 0) (readOp e ln x src)))

/-- RNDSEQ[.ln] vD, key, ctr (R217) -/
def execRndseq (h : Hd) (ln : Bool) (d key ctr : Opnd) : State → Host.Outcome State Fault Refusal :=
  onDev (issue (rawOf (.rndseq h ln d key ctr)) (regForm .n32 d fun e i =>
    (mix ((readOp e i key .n32).setWidth 32) (BitVec.ofNat 32 (if ln then i else 0)) (readOp e i ctr .n64)).setWidth 64))

end Sys2Proof.Machine
end

