-- ==== Sys2Proof/Machine/BinSet.lean ====
section
/-! DEFINITION. Bin sets as data (R226, R228, R229): 64 bytes, the update of each form, and the result. -/
namespace Sys2Proof.Machine

/-- A bin set's fields (R226). -/
structure BinSet where
  acc  : BitVec 256 := 0
  emax : BitVec 16 := 0x8000
  flg  : BitVec 8 := 0
  deriving DecidableEq, Repr, Inhabited

/-- EMAX is none. -/
def BinSet.empty (b : BinSet) : Bool := b.emax == 0x8000#16

/-- A set read from its bytes. -/
def binSetOf (bs : List Byte) : BinSet :=
  ⟨BitVec.ofNat 256 (fieldAt bs 0 32), BitVec.ofNat 16 (fieldAt bs 32 2), BitVec.ofNat 8 (fieldAt bs 35 1)⟩

/-- The 36 bytes a form writes: ACC, EMAX, STATE 1, FLG (R226). -/
def BinSet.bytes (b : BinSet) : List Byte := natLe b.acc.toNat 32 ++ natLe b.emax.toNat 2 ++ natLe 1 1 ++ natLe b.flg.toNat 1

/-- floor(log2 |x|) of a finite nonzero value. -/
def expOf (m : Nat) (e : Int) : Int := (m.log2 : Int) + e

/-- RBEXP of one term (R228). -/
def binExp (b : BinSet) (x : FV) : BinSet :=
  match x with
  | .fin _ m e =>
    if m = 0 then b
    else if b.empty || b.emax.toInt < expOf m e then { b with emax := BitVec.ofInt 16 (expOf m e) } else b
  | _ => b

/-- RBADD of one term (R228). -/
def binAdd (b : BinSet) (x : FV) : BinSet :=
  match x with
  | .nan _ => { b with flg := b.flg ||| 1 }
  | .inf false => { b with flg := b.flg ||| 2 }
  | .inf true => { b with flg := b.flg ||| 4 }
  | .fin neg m e =>
    if m = 0 then b
    else if b.empty || b.emax.toInt < expOf m e then { b with flg := b.flg ||| 8 }
    else { b with acc := b.acc + BitVec.ofInt 256 (roundInt .rne 0 neg m (e + 190 - b.emax.toInt)).1 }

/-- The result RBRES gives at a type, with its flags (R229). -/
def binRes (b : BinSet) (t : Ty) : DWord × Fl :=
  let f := b.flg
  if f.getLsbD 0 || f.getLsbD 3 || (f.getLsbD 1 && f.getLsbD 2) then (BitVec.ofNat 64 (ffOf t).nan, 0)
  else if f.getLsbD 1 then (BitVec.ofNat 64 (infCode (ffOf t) false), 0)
  else if f.getLsbD 2 then (BitVec.ofNat 64 (infCode (ffOf t) true), 0)
  else if b.empty || b.acc = 0 then (0, 0)
  else
    let r := roundTy t .rne false 0 (.fin (decide (b.acc.toInt < 0)) b.acc.toInt.natAbs (b.emax.toInt - 190))
    (r.1, r.2 &&& (flOF ||| flNX))

end Sys2Proof.Machine
end

