-- ==== Sys2Proof/Machine/Narrow.lean ====
section
/-! DEFINITION. Narrow-data forms (R82, R86, R150 to R154). -/
namespace Sys2Proof.Machine

/-- The block scale exponent of finite or infinite inputs, not all zero (R86), and whether it was clamped at the top. -/
def blockExp (f : Fmt) (xs : List FV) : Int × Bool :=
  let x : Int := if xs.any FV.isInf then 128
    else match (xs.filter fun x => !x.isZero).map log2FV with
      | [] => 0
      | a :: l => l.foldl max a - fmtEmax f
  (max (-127) (min 127 x), decide (127 < x))

/-- A block's scale, the flags of the whole block, and each element's code and flags (R86); draw i is the draw of element i. In a block with a NaN an
element that is a signalling one raises NV (R66), in its own lane: DEDUCED, log 45. -/
def blockScale (f : Fmt) (mode : Rnd) (draws : Nat → Nat) (xs : List FV) : Nat × Fl × List (Nat × Fl) :=
  if xs.any FV.isNan then (0xFF, 0, xs.map fun x => (0, flIf (anySig [x]) flNV))
  else if xs.all FV.isZero then (0x7F, flZBLK, xs.map fun _ => (0, 0))
  else
    let (x, clamped) := blockExp f xs
    ((x + 127).toNat, flIf clamped flSAT, xs.zipIdx.map fun p =>
      let r := roundFmt f mode true (draws p.2) (scaleFV p.1 (-x))
      (r.1, r.2 &&& ~~~flSAT))

/-- A gathering form's results per participant: a lane that raises an enabled flag writes nothing and traps (R76); `draws` are taken either way. -/
def applyEach (draws : Nat) (rs : List (Nat × (Squad → Squad) × Fl)) (e : Env) (d : Dev) : Dev :=
  rs.foldl (fun d p =>
    let d := setSquad d e.sq fun s => takeDraws draws p.1 (s.raise p.2.2)
    if flTraps e.s.fpcr p.2.2 then trapAt d e.sq p.1 0x14 (p.2.2.setWidth 64)
    else setSquad d e.sq fun s => (p.2.1 s).setLane p.1 Lane.advance) d

/-- QSCALE over its participants (R151). -/
def qscaleDone (fmt : Fmt) (rnd : Rnd) (d x : Opnd) (n : Nat) (e : Env) (lns : List Nat) (dv : Dev) : Dev :=
  let blk := fun j => lns.filter fun ln => ln / n = j
  let rs := ((upto (127 / n + 1)).map fun j =>
    let l := blk j
    let b := blockScale fmt rnd (fun i => drawOf e (l.getD i 0) 0) (l.map fun ln => opFV e ln .f32 x)
    (l.zip b.2.2).map fun p =>
      (p.1, (fun (s : Squad) => s.write p.1 d .n32 (BitVec.ofNat 64 (b.1 + p.2.1 % 2 ^ fmt.wid * 256))), b.2.1 ||| p.2.2)).flatten
  applyEach (drawsOf rnd 1) rs e dv

/-- The code of NaN in an element format (R78, R448). -/
def fmtNan : Fmt → Nat
  | .b8 s e p => (b8 s e p.toNat).nan
  | _ => 0

/-- The element of QCVT (R152). -/
def qcvtElem (fmt : Fmt) (rnd : Rnd) (draw s : Nat) (x : FV) : Nat × Fl :=
  if s = 0xFF then (fmtNan fmt, flNV)
  else
    let r := roundFmt fmt rnd true draw (scaleFV x (127 - s))
    (r.1 % 2 ^ fmt.wid, r.2)

/-- QCVT.EF (R152): the new register and flags. -/
def qcvtEfVal (fmt : Fmt) (rnd : Rnd) (draw s : Nat) (x : FV) (old : DWord) : DWord × Fl :=
  let r1 := sumRound .f32 .rne false 0 [some x, some (decTy .f16 (half old true).toNat)]
  let x' := decTy .f32 r1.1.toNat
  let c := qcvtElem fmt rnd draw s x'
  let r2 := if s = 0xFF || x'.isNan || x'.isInf then ((0 : DWord), (0 : Fl))
    else sumRound .f16 .rne true 0 [some x', some (negFV (scaleFV (decFmt fmt c.1) ((s : Int) - 127)))]
  ((r2.1 <<< 16) ||| BitVec.ofNat 64 c.1, r1.2 ||| c.2 ||| r2.2)

/-- QPACK (R153). -/
def qpackVal (k sel : Nat) (code old : DWord) : DWord :=
  let m := BitVec.ofNat 64 ((2 ^ k - 1) * 2 ^ (k * sel))
  (old &&& ~~~m) ||| ((code <<< (k * sel)) &&& m)

/-- QUNPK (R153). -/
def qunpkVal (fmt : Fmt) (sel s : Nat) (x : DWord) : DWord × Fl :=
  if s = 0xFF then (0x7FC00000, 0)
  else roundTy .f32 .rne false 0 (scaleFV (decFmt fmt (x.toNat / 2 ^ (fmt.wid * sel) % 2 ^ fmt.wid)) ((s : Int) - 127))

/-- QSPLIT over its participants (R154). -/
def qsplitDone (d x c dd : Opnd) (e : Env) (lns : List Nat) (dv : Dev) : Dev :=
  let l0 := lns.headD 0
  let cc := readN32 e l0 c
  let dl := readN32 e l0 dd
  let split := cc ≠ dl && lns.contains cc && lns.contains dl
  let h := roundTy .f32 .rne false 0 (scaleFV (opFV e cc .f32 x) (-1))
  let rs := lns.map fun ln =>
    if split && (ln = cc || ln = dl) then (ln, (fun (s : Squad) => s.write ln d .f32 h.1), h.2)
    else (ln, (fun (s : Squad) => s.write ln d .f32 (readOp e ln x .f32)), 0)
  applyEach 0 rs e dv

/-- QSCALE.fmt vD, x, n, mC (R151) -/
def execQscale (h : Hd) (fmt : Fmt) (rnd : Rnd) (d x n mc : Opnd) : State → Host.Outcome State Fault Refusal :=
  onDev (issueGather (rawOf (.qscale h fmt rnd d x n mc)) mc (fun _ _ _ => .ok) (qscaleDone fmt rnd d x (lutOf n)))

/-- QCVT.fmt vD, x, scale (R152) -/
def execQcvt (h : Hd) (fmt : Fmt) (rnd : Rnd) (d x sc : Opnd) : State → Host.Outcome State Fault Refusal :=
  onDev (issue (rawOf (.qcvt h fmt rnd d x sc)) (fpForm .n32 d (drawsOf rnd 1) fun e ln =>
    let r := qcvtElem fmt rnd (drawOf e ln 0) (readN32 e ln sc % 256) (opFV e ln .f32 x)
    (BitVec.ofNat 64 r.1, r.2)))

/-- QCVT.EF.fmt vD, x, scale (R152) -/
def execQcvtEf (h : Hd) (fmt : Fmt) (rnd : Rnd) (d x sc : Opnd) : State → Host.Outcome State Fault Refusal :=
  onDev (issue (rawOf (.qcvtEf h fmt rnd d x sc)) (fpForm .n32 d (drawsOf rnd 1) fun e ln =>
    qcvtEfVal fmt rnd (drawOf e ln 0) (readN32 e ln sc % 256) (opFV e ln .f32 x) (readOp e ln d .n32)))

/-- QPACK[.sc].fmt vD, code, sel (R153) -/
def execQpack (h : Hd) (fmt : Fmt) (sc : Bool) (d code sel : Opnd) : State → Host.Outcome State Fault Refusal :=
  onDev (issue (rawOf (.qpack h fmt sc d code sel)) (regForm .n32 d fun e ln =>
    qpackVal fmt.wid (lutOf sel) (if sc then readOp e ln code .n32 >>> 8 else readOp e ln code .n32) (readOp e ln d .n32)))

/-- QUNPK.fmt vD, word, sel, scale (R153) -/
def execQunpk (h : Hd) (fmt : Fmt) (d x sel sc : Opnd) : State → Host.Outcome State Fault Refusal :=
  onDev (issue (rawOf (.qunpk h fmt d x sel sc)) (fpForm .n32 d 0 fun e ln =>
    qunpkVal fmt (lutOf sel) (if sc = .none then 0x7F else readN32 e ln sc % 256) (readOp e ln x .n32)))

/-- QSPLIT.f32 vD, x, c, d (R154) -/
def execQsplit (h : Hd) (d x c dd : Opnd) : State → Host.Outcome State Fault Refusal :=
  onDev (issueGather (rawOf (.qsplit h d x c dd)) .none (fun _ _ _ => .ok) (qsplitDone d x c dd))

end Sys2Proof.Machine
end

