-- ==== Sys2Proof/Machine/CrossLane.lean ====
section
/-! DEFINITION. Cross-lane forms (R116 to R120) and the fixed tree (R118). -/
namespace Sys2Proof.Machine

/-- Combine two nodes of the tree (R118). -/
def combine (op : RedOp) (t : Ty) (sat : Bool) (a b : DWord) : DWord × Fl :=
  match op with
  | .add => if t.isFloat then addTy t a b else
      let r := intDone t sat (intVal t a + intVal t b)
      (lowBits r.1 t.wid, r.2)
  | .min => if t.isFloat then minmaxTy t false a b else (if intVal t b < intVal t a then b else a, 0)
  | .max => if t.isFloat then minmaxTy t true a b else (if intVal t a < intVal t b then b else a, 0)
  | .and => (a &&& b, 0)
  | .or => (a ||| b, 0)
  | .xor => (a ^^^ b, 0)

/-- Combine two nodes that may be empty (R118). -/
def combineNode (op : RedOp) (t : Ty) (sat : Bool) (a b : Option (DWord × Fl)) : Option (DWord × Fl) :=
  match a, b with
  | none, y => y
  | x, none => x
  | some x, some y =>
    let r := combine op t sat x.1 y.1
    some (r.1, x.2 ||| y.2 ||| r.2)

/-- One level of the tree: neighbours combine, the lower-numbered side to the left. -/
def treeLevel (op : RedOp) (t : Ty) (sat : Bool) : List (Option (DWord × Fl)) → List (Option (DWord × Fl))
  | a :: b :: l => combineNode op t sat a b :: treeLevel op t sat l
  | l => l

/-- Levels of the tree over a list of 2^n nodes. -/
def treeFold (op : RedOp) (t : Ty) (sat : Bool) : Nat → List (Option (DWord × Fl)) → Option (DWord × Fl)
  | 0, l => l.headD none
  | n + 1, l => treeFold op t sat n (treeLevel op t sat l)

/-- The fixed tree over the lanes of a set (R118). -/
def tree (op : RedOp) (t : Ty) (sat : Bool) (x : Nat → DWord) (set : List Nat) : Option (DWord × Fl) :=
  treeFold op t sat 7 ((upto 128).map fun ln => if set.contains ln then some (x ln, 0) else none)

/-- The identity of an exclusive scan (R116). -/
def identity (op : RedOp) (t : Ty) : DWord :=
  match op with
  | .add | .or | .xor => 0
  | .and => BitVec.ofNat 64 (2 ^ t.wid - 1)
  | .min => if t.isFloat then BitVec.ofNat 64 (infCode (ffOf t) false) else lowBits (BitVec.ofInt 64 (intMax t)) t.wid
  | .max => if t.isFloat then BitVec.ofNat 64 (infCode (ffOf t) true) else lowBits (BitVec.ofInt 64 (intMin t)) t.wid

/-- Results that every participant shares flags of (R119). -/
def applyShared (fl : Fl) (ws : List (Nat × (Squad → Squad))) (e : Env) (d : Dev) : Dev :=
  applyEach 0 (ws.map fun p => (p.1, p.2, fl)) e d

/-- LRED over its participants (R119). -/
def lredDone (op : RedOp) (t : Ty) (sat : Bool) (d a : Opnd) (e : Env) (lns : List Nat) (dv : Dev) : Dev :=
  let r := (tree op t sat (fun ln => readOp e ln a t) lns).getD (0, 0)
  applyShared r.2 (lns.map fun ln => (ln, fun (s : Squad) => s.write ln d t r.1)) e dv

/-- LSCAN over its participants (R119). -/
def lscanDone (op : RedOp) (exc : Bool) (t : Ty) (sat : Bool) (d a : Opnd) (e : Env) (lns : List Nat) (dv : Dev) : Dev :=
  let rs := lns.map fun ln =>
    (ln, (tree op t sat (fun m => readOp e m a t) (lns.filter fun m => if exc then decide (m < ln) else decide (m ≤ ln))).getD (identity op t, 0))
  applyShared (rs.foldl (fun f p => f ||| p.2.2) 0) (rs.map fun p => (p.1, fun (s : Squad) => s.write p.1 d t p.2.1)) e dv

/-- The source lane of SHFL (R117). -/
def shflLane (md : ShflMode) (ln : Nat) (b : Nat) : Int :=
  match md with
  | .idx => b
  | .up => (ln : Int) - b
  | .down => (ln : Int) + b
  | .xor => ((ln ^^^ b : Nat) : Int)

/-- Write one value in each participant. -/
def writeEach (d : Opnd) (t : Ty) (f : Nat → DWord) (e : Env) (lns : List Nat) (dv : Dev) : Dev :=
  applyShared 0 (lns.map fun ln => (ln, fun (s : Squad) => s.write ln d t (f ln))) e dv

/-- SHFL.mode.type vD, vA, b, mC (R117) -/
def execShfl (h : Hd) (md : ShflMode) (t : Ty) (d a b mc : Opnd) : State → Host.Outcome State Fault Refusal :=
  onDev (issueGather (rawOf (.shfl h md t d a b mc)) mc (fun _ _ _ => .ok) fun e lns => writeEach d t (fun ln =>
    let s := shflLane md ln (readN32 e ln b)
    readOp e (if 0 ≤ s && s ≤ 127 && lns.contains s.toNat then s.toNat else ln) a t) e lns)

/-- LRED.op.type vD, vA, mC (R119) -/
def execLred (h : Hd) (op : RedOp) (t : Ty) (sat : Bool) (d a mc : Opnd) : State → Host.Outcome State Fault Refusal :=
  onDev (issueGather (rawOf (.lred h op t sat d a mc)) mc (fun _ _ _ => .ok) (lredDone op t sat d a))

/-- LSCAN.op[.exc].type vD, vA, mC (R119) -/
def execLscan (h : Hd) (op : RedOp) (exc : Bool) (t : Ty) (sat : Bool) (d a mc : Opnd) : State → Host.Outcome State Fault Refusal :=
  onDev (issueGather (rawOf (.lscan h op exc t sat d a mc)) mc (fun _ _ _ => .ok) (lscanDone op exc t sat d a))

/-- LBCAST.type vD, vA, s, mC (R120) -/
def execLbcast (h : Hd) (t : Ty) (d a ls mc : Opnd) : State → Host.Outcome State Fault Refusal :=
  onDev (issueGather (rawOf (.lbcast h t d a ls mc)) mc (fun _ _ _ => .ok) fun e lns => writeEach d t (fun ln =>
    let s := if ls = .none then lns.headD 0 else readN32 e (lns.headD 0) ls
    readOp e (if lns.contains s then s else ln) a t) e lns)

/-- LMATCH.type vD, vA, mC (R120) -/
def execLmatch (h : Hd) (t : Ty) (d a mc : Opnd) : State → Host.Outcome State Fault Refusal :=
  onDev (issueGather (rawOf (.lmatch h t d a mc)) mc (fun _ _ _ => .ok) fun e lns => writeEach d (if t.wid = 64 then .n64 else .n32) (fun ln =>
    BitVec.ofNat 64 ((lns.find? fun m => readOp e m a t == readOp e ln a t).getD ln)) e lns)

end Sys2Proof.Machine
end

