-- ==== Sys2Proof/Machine/Move.lean ====
section
/-! DEFINITION. Moves and system registers (R99, R121 to R125, R233, R239, R247, R251, R252, R281). -/
namespace Sys2Proof.Machine

/-! ### System registers (R251) -/

/-- STATUS (R239). -/
def statusVal (l : Lane) : Nat := l.mode.code.toNat + 4 * l.depth + 16 * b2n l.udt + 32 * b2n l.ovf

/-- MOOR's layout (R99). -/
def moorVal (m : Moor) : DWord := BitVec.ofBool m.v ++ (0#3 ++ (m.mask ++ (0#2 ++ m.addr)))
/-- A value read as MOOR; bits it does not name are ignored (R99). -/
def moorOf (x : DWord) : Moor := ⟨x.setWidth 54, x.extractLsb' 56 4, x.getLsbD 63⟩

/-- TCAUSE's layout (R239). -/
def causeVal (f : Frame) : Nat := f.code.toNat + 256 * f.pm.toNat + 4096 * b2n f.hc + 8192 * b2n f.imp
/-- A frame with TCAUSE written. -/
def causeSet (f : Frame) (x : DWord) : Frame :=
  { f with code := x.extractLsb' 0 8, pm := x.extractLsb' 8 2, hc := x.getLsbD 12, imp := x.getLsbD 13 }

/-- SQCTL (R252). -/
def sqctlVal (s : Squad) : Nat := b2n s.ext + 2 * b2n s.det + 4 * b2n s.dbg + 8 * b2n s.pin + 16 * b2n s.fuse

/-- The value of a system register for a lane (R251). -/
def sysRead (d : Dev) (u ln n : Nat) : DWord :=
  let s := squadOf d u
  let l := s.lane ln
  let k := coreOf d s.core
  let g := groupOf d s.group
  match n with
  | 0x000 => BitVec.ofNat 64 (statusVal l)
  | 0x001 => moorVal l.moor
  | 0x002 => l.top.epc.setWidth 64
  | 0x003 => l.top.hdr.setWidth 64
  | 0x004 => BitVec.ofNat 64 (causeVal l.top)
  | 0x005 => l.top.tval
  | 0x006 => moorVal l.top.moor
  | 0x007 => BitVec.ofNat 64 (2 * l.top.pred.toNat)
  | 0x008 => l.xf.epc.setWidth 64
  | 0x009 => l.xf.hdr.setWidth 64
  | 0x00A => BitVec.ofNat 64 (causeVal l.xf + 65536 * l.xf.pred.toNat)
  | 0x00B => l.xf.tval
  | 0x00C => l.srkey.setWidth 64
  | 0x00D => l.srcnt
  | 0x00E => l.rege.setWidth 64
  | 0x00F => l.regc.setWidth 64
  | 0x011 => BitVec.ofNat 64 ln
  | 0x020 => s.fpsr.setWidth 64
  | 0x021 => s.fpcr.setWidth 64
  | 0x022 => s.sqidx.setWidth 64
  | 0x023 => s.gpidx.setWidth 64
  | 0x024 => BitVec.ofNat 64 s.ctx
  | 0x025 => s.privb
  | 0x026 => s.privl.setWidth 64
  | 0x027 => BitVec.ofNat 64 (sqctlVal s)
  | 0x028 => s.asid.setWidth 64
  | 0x040 => BitVec.ofNat 64 k.cyc
  | 0x041 => BitVec.ofNat 64 k.ctime
  | 0x042 => BitVec.ofNat 64 (clusterOf d (s.core / 7)).etime
  | 0x043 => BitVec.ofNat 64 (s.core % 7 + 256 * (s.core / 7))
  | 0x044 => k.stvec
  | 0x045 => k.hvec
  | 0x046 => k.hdeleg.setWidth 64
  | 0x047 => k.vmid.setWidth 64
  | 0x048 => BitVec.ofNat 64 k.xpool
  | 0x049 => (clusterOf d (s.core / 7)).balthr.setWidth 64
  | _ => 0

/-- Write a lane's own register. -/
def laneSysWrite (l : Lane) (n : Nat) (x : DWord) : Lane :=
  let t := l.top
  match n with
  | 0x000 => { l with udt := x.getLsbD 4 }
  | 0x001 => { l with moor := moorOf x }
  | 0x002 => l.setTop { t with epc := x.setWidth 54 }
  | 0x003 => l.setTop { t with hdr := x.setWidth 54 }
  | 0x004 => l.setTop (causeSet t x)
  | 0x005 => l.setTop { t with tval := x }
  | 0x006 => l.setTop { t with moor := moorOf x }
  | 0x007 => l.setTop { t with pred := x.extractLsb' 1 7 }
  | 0x008 => { l with xf := { l.xf with epc := x.setWidth 54 } }
  | 0x009 => { l with xf := { l.xf with hdr := x.setWidth 54 } }
  | 0x00A => { l with xf := { causeSet l.xf x with pred := x.extractLsb' 16 7 } }
  | 0x00B => { l with xf := { l.xf with tval := x } }
  | 0x00C => { l with srkey := x.setWidth 32 }
  | 0x00D => { l with srcnt := x }
  | 0x00E => { l with rege := x.setWidth 54 }
  | 0x00F => { l with regc := x.setWidth 32 }
  | _ => l

/-- Write a squad's register. -/
def squadSysWrite (s : Squad) (n : Nat) (x : DWord) : Squad :=
  match n with
  | 0x020 => { s with fpsr := x.setWidth 7 }
  | 0x021 => { s with fpcr := x.setWidth 5 }
  | 0x025 => { s with privb := x }
  | 0x026 => { s with privl := x.setWidth 32 }
  | 0x027 => { s with dbg := x.getLsbD 2, undo := if x.getLsbD 2 then s.undo else [] }
  | 0x028 => { s with asid := x.setWidth 16 }
  | _ => s

/-- Write a system register for a lane whose right to write it is checked (R125, R251). -/
def sysWriteReg (d : Dev) (u ln n : Nat) (x : DWord) : Dev :=
  let core := (squadOf d u).core
  if n < 0x20 then setLane d u ln fun l => laneSysWrite l n x
  else if n < 0x40 then setSquad d u fun s => squadSysWrite s n x
  else match n with
    | 0x044 => setCore d core fun k => { k with stvec := x }
    | 0x045 => setCore d core fun k => { k with hvec := x }
    | 0x046 => setCore d core fun k => { k with hdeleg := x.setWidth 32 }
    | 0x047 => setCore d core fun k => { k with vmid := x.setWidth 12 }
    | 0x049 => setCluster d (core / 7) fun c => { c with balthr := x.setWidth 16 }
    | _ => d

/-- The number of a system register operand. -/
def sysNum : Opnd → Nat
  | .sys n => n.toNat
  | _ => 0

/-- What SWR writes: a 32-bit write of a register replaces bits [31:0] only (R125). -/
def swrVal (d : Dev) (e : Env) (ln : Nat) (wide : Bool) (n : Nat) (x : Opnd) : DWord :=
  if wide then readOp e ln x .n64 else ((sysRead d e.sq ln n) &&& 0xFFFFFFFF00000000#64) ||| readOp e ln x .n32

/-- SWR lane by lane (R125). -/
def swrAct (wide : Bool) (n : Nat) (x : Opnd) (e : Env) (lns : List Nat) (d : Dev) : Dev :=
  lns.foldl (fun d ln => advanceAll (sysWriteReg d e.sq ln n (swrVal d e ln wide n x)) e.sq [ln]) d

/-- The check of a MOOR or TMOOR value (R99): MASK 12 to 15 is illegal and names FB (R46). -/
def moorChk (wide : Bool) (n : Nat) (x : Opnd) (d : Dev) (e : Env) (ln : Nat) : Chk :=
  if 12 ≤ (moorOf (swrVal d e ln wide n x)).mask.toNat then .bad 1 0x01 (tvField 5 x.desc) else .ok

/-- The check of a PRIVL value (R281). -/
def privlChk (wide : Bool) (x : Opnd) (d : Dev) (e : Env) (ln : Nat) : Chk :=
  let v := (swrVal d e ln wide 0x026 x).toNat
  if v % 4 ≠ 0 || 262144 < v then .bad 1 0x01 (tvField 5 x.desc) else .ok

/-- REGO (R247). -/
def regoAct (x : Opnd) (e : Env) (lns : List Nat) (d : Dev) : Dev :=
  setSquad d e.sq fun s => lns.foldl (fun s ln => s.setLane ln fun l =>
    { l.advance with rege := (e.s.kern.entry + (readOp e ln x .n32)).setWidth 54, regc := l.regc + 1 }) s

/-! ### Moves -/

/-- The single-writer rule over the w registers of a write (R123). -/
def wChk (gid sq : Nat) (d : Dev) (regs : List Nat) : Chk :=
  match regs.find? fun i => !(groupOf d gid).mayW sq i with
  | some i => .bad 5 0x0A (BitVec.ofNat 64 i)
  | none => .ok

/-- The index of a w operand. -/
def wIdx : Opnd → Nat
  | .w i _ _ _ => i.toNat
  | _ => 0

/-- MOV.type vD, src (R122) -/
def execMov (h : Hd) (t : Ty) (d x : Opnd) : State → Host.Outcome State Fault Refusal :=
  onDev (issue (rawOf (.mov h t d x)) (regForm t d fun e ln => readOp e ln x t))

/-- MOVW.type wD, src (R123) -/
def execMovw (h : Hd) (t : Ty) (d x : Opnd) : State → Host.Outcome State Fault Refusal :=
  onDev (issueChk (rawOf (.movw h t d x)) (fun dv e _ => wChk e.s.group e.sq dv (wNamed (wIdx d) t)) fun e lns dv =>
    advanceAll (writeW dv e.s.group e.sq (wIdx d) t (readOp e (lns.headD 0) x t)) e.sq lns)

/-- MOVQ qD, src and MOVQ vD, qA (R124) -/
def execMovq (h : Hd) (d x : Opnd) : State → Host.Outcome State Fault Refusal :=
  onDev (issue (rawOf (.movq h d x)) (applyRegs fun e ln s => s.writeBool ln d (readOp e ln x .none != 0)))

/-- MOVQ.all vD and MOVQ.all _, src (R124) -/
def execMovqAll (h : Hd) (d x : Opnd) : State → Host.Outcome State Fault Refusal :=
  onDev (issue (rawOf (.movqAll h d x)) (applyRegs fun e ln s =>
    if d = .none then s.setLane ln fun l => { l with q := (readOp e ln x .n32).extractLsb' 1 7 }
    else s.write ln d .n32 (BitVec.ofNat 64 (1 + 2 * (e.s.lane ln).q.toNat))))

/-- SRD.type vD, SYSREG (R125) -/
def execSrd (h : Hd) (wide : Bool) (d sr : Opnd) : State → Host.Outcome State Fault Refusal :=
  onDev (issue (rawOf (.srd h wide d sr)) fun e lns dv => setSquad dv e.sq fun s => lns.foldl (fun s ln =>
    (s.write ln d (if wide then .n64 else .n32) (sysRead dv e.sq ln (sysNum sr))).setLane ln Lane.advance) s)

/-- SWR to MOOR or TMOOR (R99) -/
def execMoorWrite (h : Hd) (wide : Bool) (tm : Bool) (x : Opnd) : State → Host.Outcome State Fault Refusal :=
  onDev (issueChk (rawOf (.moorWrite h wide tm x)) (moorChk wide (if tm then 6 else 1) x) (swrAct wide (if tm then 6 else 1) x))

/-- SWR to REGO (R247) -/
def execRegoWrite (h : Hd) (wide : Bool) (x : Opnd) : State → Host.Outcome State Fault Refusal :=
  onDev (issue (rawOf (.regoWrite h wide x)) (regoAct x))

/-- SWR to PRIVL (R281) -/
def execPrivlWrite (h : Hd) (wide : Bool) (x : Opnd) : State → Host.Outcome State Fault Refusal :=
  onDev (issueChk (rawOf (.privlWrite h wide x)) (privlChk wide x) (swrAct wide 0x026 x))

/-- SWR.type SYSREG, src (R125) -/
def execSwr (h : Hd) (wide : Bool) (d x : Opnd) : State → Host.Outcome State Fault Refusal :=
  onDev (issue (rawOf (.swr h wide d x)) (swrAct wide (sysNum d) x))

end Sys2Proof.Machine
end

