-- ==== Sys2Proof/Machine/Berths.lean ====
section
/-! DEFINITION. Berth records and slots, and the end of a berth (R191 to R196, R354, R355). -/
namespace Sys2Proof.Machine

/-- SIDE. -/
def brSide (r : List Byte) : Nat := fieldAt r 2 1
/-- ARRAY. -/
def brArray (r : List Byte) : Nat := fieldAt r 3 1
/-- BASE. -/
def brBase (r : List Byte) : Nat := fieldAt r 4 4
/-- SIZE. -/
def brSize (r : List Byte) : Nat := fieldAt r 8 4

/-- A berth slot of a cluster. -/
def berthOf (d : Dev) (cl i : Nat) : Berth := fgetD (clusterOf d cl).berths i {}
/-- Change a berth slot. -/
def setBerth (d : Dev) (cl i : Nat) (f : Berth → Berth) : Dev :=
  setCluster d cl fun c => { c with berths := fput c.berths i (f (fgetD c.berths i {})) }
/-- The key of a byte of an operand store: its cluster, its side, and its offset in CPY's space (R192, R354). -/
def opKey (cl side off : Nat) : Nat := cl * 16777216 + side * 8388608 + off

/-- The next generation: 0xFFFF wraps to 1 (R181). -/
def nextGen (g : BitVec 16) : BitVec 16 := if g = 0xFFFF#16 then 1 else g + 1

/-- An offset in CPY's space of a side lies in a berth's range (R192). -/
def inBerth (r : List Byte) (off : Nat) : Bool :=
  let y := if brSide r = 0 then off % 1048576 else off % 8192
  let a := if brSide r = 0 then off / 1048576 else off / 2097152
  a == brArray r && decide (brBase r ≤ y) && decide (y < brBase r + brSize r)

/-- Every byte of a berth's range becomes 0, and its poison is cleared (R195, R196, R319). -/
def zeroBerth (d : Dev) (cl : Nat) (r : List Byte) : Dev :=
  let lo := opKey cl (brSide r) 0
  let hit := fun k => decide (lo ≤ k) && decide (k < lo + 8388608) && inBerth r (k - lo)
  { d with opbuf := d.opbuf.filter (fun p => !hit p.1), bPoison := d.bPoison.filter fun k => !hit (k * 128) }

/-- The place in an operand store that a copy's descriptor names as its destination: side and offset (R176). -/
def storeDst (ds : List Word) : Option (Nat × Nat) :=
  let w := fun i => (ds.getD i 0).toNat
  let sp := nbits (w 5) 2 2
  if 2 ≤ sp then some (sp - 2, w 2 + 4294967296 * w 3) else none

/-- A command names a berth slot: a matrix command by its handle, a copy by a destination in the berth's range (R355). DEDUCED, log 51. -/
def CmdKind.names (k : CmdKind) (i : Nat) (r : List Byte) : Bool :=
  match k with
  | .mma _ _ _ ha hb => ha % 256 == i || hb % 256 == i
  | .cpy ds _ => (storeDst ds).any fun p => p.1 == brSide r && inBerth r p.2
  | _ => false

/-- Commands of the cluster still name a berth slot. -/
def berthBusy (d : Dev) (cl i : Nat) : Bool :=
  d.cmds.any fun p => p.2.core / 7 == cl && p.2.kind.names i (berthOf d cl i).record

/-- A berth that no group holds and no command names ends: zeroed, its GEN advanced, its slot free (R196, R355). -/
def endBerth (d : Dev) (cl i : Nat) : Dev :=
  let b := berthOf d cl i
  if b.state = .ending && !berthBusy d cl i then
    setBerth (zeroBerth d cl b.record) cl i fun b => { gen := nextGen b.gen }
  else d

/-- A group's hold on a berth ends; a live berth that no group holds is Ending (R355). -/
def Berth.release (b : Berth) (gid : Nat) : Berth :=
  let h := sdel b.holders gid
  { b with holders := h, state := if b.state = .live && h.isEmpty then .ending else b.state }

/-- A group's berth holds end (R196, R363); a berth that nothing holds or names any more ends at once (R355). -/
def releaseHolds (d : Dev) (c gid : Nat) : Dev :=
  (fkeys (clusterOf d c).berths).foldl (fun d i => endBerth (setBerth d c i fun b => b.release gid) c i) d

end Sys2Proof.Machine
end

