-- ==== Sys2Proof/Machine/Groups.lean ====
section
/-! DEFINITION. Work items and their control blocks (R380, R383), tickets (R112, R389), scratchpad allocations (R291), barriers (R109,
R110), and the end of a group (R363). -/
namespace Sys2Proof.Machine

/-! ### Queues' control blocks (R380) -/

/-- Change a queue. -/
def setQueue (d : Dev) (k : Nat) (f : Queue → Queue) : Dev := { d with queues := fput d.queues k (f (queueOf d k)) }
/-- The number of a queue's shard in a cluster. -/
def shardKey (k c : Nat) : Nat := k * 24 + c
/-- A shard (R382). -/
def shardOf (d : Dev) (k c : Nat) : List Shard := fgetD d.shards (shardKey k c) []
/-- The table entry a number names. -/
def astAt (d : Dev) (e : Nat) : Option AstEntry := d.host.ast.find? fun x => x.idx == e

/-- Change an item. -/
def setItem (d : Dev) (i : Nat) (f : Item → Item) : Dev := { d with items := fmod d.items i f }

/-- An entry of a shard is an item, or a sub-item with groups still to place, and not one that only waits for its turn (R393). -/
def Shard.held (d : Dev) (s : Shard) : Bool := decide (s.next < s.last) || !((itemOf d s.item).launch || s.begun)
/-- The entries a shard holds (R382). -/
def heldEntries (d : Dev) (k c : Nat) : List Shard := (shardOf d k c).filter fun s => s.held d

/-- Shard c of a queue is stored at RING + c × CAP × 64, an entry's item at its place in the shard (R382); an entry whose line has no translation, no
permission or an error is skipped. DESIGN CHOICE, log 27. -/
def storeShard (d : Dev) (k c : Nat) : Dev :=
  let q := (queueOf d k).d
  match astAt d (k / 256) with
  | none => d
  | some e => (heldEntries d k c).zipIdx.foldl (fun d p =>
      match xlatNow d (168 + c) e.vmid e.asid (q.ring + (c * q.cap + p.2) * 64) .w false with
      | (d, .error _) => d
      | (d, .ok pa) => if poisoned d pa then d else l2WriteBytes d pa (itemOf d p.1.item).bytes) d

/-- Change a shard. -/
def setShard (d : Dev) (k c : Nat) (l : List Shard) : Dev := storeShard { d with shards := fset [] d.shards (shardKey k c) l } k c

/-- The control block of a queue (R380). -/
def ctrlBytes (q : Queue) (count : Nat) : List Byte :=
  natLe q.accepted 8 ++ natLe q.rejected 8 ++ natLe q.done 8 ++ natLe q.lastRej.toNat 8 ++ natLe q.preempted 8 ++ natLe count 8 ++ natLe 0 16

/-- Entries in every shard of a queue. -/
def shardCount (d : Dev) (k : Nat) : Nat := (upto 24).foldl (fun n c => n + (heldEntries d k c).length) 0

/-- What a control block releases once one more event has been counted: all that the counters before it released, and what a clock covers. -/
def ctrlRel (vc : Clock) (l : List Release) : List Release := [⟨l.foldl (fun c r => vcJoin c r.vc) vc, .sys, 0, 0⟩]

/-- Write a queue's control block at `.sys`, a release that covers every event its counters count, the last one's by a clock (R380). A write that finds no translation, no
permission or an error is skipped, and so is one of a queue whose descriptor gives no place for it; a descriptor with another field out of range gives it. -/
def ctrlWrite (d : Dev) (k : Nat) (vc : Clock) : Dev :=
  let q := queueOf d k
  match if q.d.ctrl % 64 = 0 then astAt d (k / 256) else none with
  | none => d
  | some e =>
    match xlatNow d 168 e.vmid e.asid q.d.ctrl .w false with
    | (d, .error _) => d
    | (d, .ok pa) =>
      if poisoned d pa then d
      else relsSet (sysWriteBytes (publish d vc .sys) pa (ctrlBytes q (shardCount d k))) 0 pa 64 (ctrlRel vc)

/-- Count a rejection with its reason (R380, R381). -/
def rejectItem (d : Dev) (k reason : Nat) : Dev :=
  ctrlWrite (setQueue d k fun q =>
    let q := { q with rejected := q.rejected + 1 }
    { q with lastRej := BitVec.ofNat 64 ((q.accepted + q.rejected) % 4294967296 + reason * 4294967296) }) k []

/-! ### Work items (R62) -/

/-- An item takes up what its groups have done: its DONE releases it (R380). -/
def joinItem (d : Dev) (gid : Nat) (vc : Clock) : Dev :=
  match (groupOf d gid).item with
  | some i => setItem d i fun it => { it with vc := vcJoin it.vc vc }
  | none => d

/-- KHANDLE. -/
def Item.khandle (i : Item) : Nat := fieldAt i.bytes 0 8
/-- GROUPS. -/
def Item.groups (i : Item) : Nat := fieldAt i.bytes 8 4
/-- GSQ. -/
def Item.gsq (i : Item) : Nat := fieldAt i.bytes 12 2
/-- PRIO, by which a shard orders its items, a worker item like a launch item (R382). -/
def Item.prio (i : Item) : Nat := fieldAt i.bytes 14 1
/-- WFLAGS.DET. -/
def Item.det (i : Item) : Bool := fieldAt i.bytes 15 1 % 2 == 1
/-- WFLAGS.FUSE. -/
def Item.fuse (i : Item) : Bool := fieldAt i.bytes 15 1 / 2 % 2 == 1
/-- ARGS. -/
def Item.args (i : Item) : Nat := fieldAt i.bytes 16 8
/-- ENERGY. -/
def Item.energy (i : Item) : Nat := fieldAt i.bytes 24 4
/-- PEAK. -/
def Item.peak (i : Item) : Nat := fieldAt i.bytes 28 2

/-- The number of the item's queue. -/
def Item.qk (i : Item) : Nat := i.entry * 256 + i.queue

/-- The item is being pre-empted in a cluster, or is (R392). -/
def Item.haltedAt (i : Item) (c : Nat) : Bool := shas i.stopping c || shas i.stopped c
/-- A cause that pre-empts the item in a cluster is held (R393). -/
def Item.causedAt (i : Item) (c : Nat) : Bool := i.ens || i.mbox || shas i.quant c
/-- Groups of the item run, or its task does. -/
def Item.running (i : Item) : Bool := if i.launch then !i.placed.isEmpty else i.runner.isSome

/-- The item's work is in a group: a launch item's own groups, and the group of the squad that took a worker item (R391). DEDUCED, log 29. -/
def Item.uses (it : Item) (i : Nat) (g : Group) : Bool := g.item == some i || it.runner.any fun u => g.members.contains u

/-- A pre-emption of an item with work in the group holds it (R392). -/
def groupHalted (d : Dev) (gid : Nat) : Bool :=
  let g := groupOf d gid
  d.items.any fun p => p.2.haltedAt g.cluster && p.2.uses p.1 g

/-- The squads of a group that no pre-emption holds any more may run again (R393). -/
def unstop (d : Dev) (gid : Nat) : Dev :=
  if groupHalted d gid then d
  else (groupOf d gid).members.foldl (fun d u => setSquad d u fun s =>
    if s.stop = .preempt then { s with stop := .none, since := (clusterOf d (s.core / 7)).etime } else s) d

/-! ### Tickets (R112, R389) -/

/-- The first placed index from a number on, or the end of the item's indices. -/
def Item.nextPlaced (i : Item) (x : Nat) : Nat := (i.placed.find? fun y => x ≤ y).getD (i.gbase + i.groups)

/-- The counter passes the positions of groups that left or were killed, and of killed groups never placed (R389, R394). -/
def settleTicket (i : Item) : Nat → Ticket → Ticket
  | 0, k => k
  | n + 1, k =>
    if shas k.left k.ctr then settleTicket i n { k with ctr := k.ctr + 1, left := sdel k.left k.ctr }
    else if shas k.killed k.ctr then settleTicket i n { k with ctr := k.ctr + 1, killed := sdel k.killed k.ctr, poison := true }
    else if i.kill && !shas i.placed k.ctr && k.ctr < i.gbase + i.groups then
      settleTicket i n { k with ctr := i.nextPlaced k.ctr, poison := true }
    else k

/-- Change a ticket of an item and let its counter move on. -/
def setTicket (d : Dev) (i t : Nat) (f : Ticket → Ticket) : Dev :=
  setItem d i fun it =>
    let k := f (it.ticket t)
    { it with tickets := fput it.tickets t (settleTicket it (2 * (k.left.length + k.killed.length + it.placed.length) + 2) k) }

/-- A dissolved group's positions: passed in their turn, with poison when it was killed (R389). -/
def leaveTickets (d : Dev) (g : Group) : Dev :=
  match g.item with
  | none => d
  | some i =>
    if !g.ticketed then d
    else (upto 4).foldl (fun d t =>
      if shas g.passed t then d
      else setTicket d i t fun k =>
        if g.killed then { k with killed := sadd k.killed g.idx }
        else if g.idx < k.ctr then k else { k with left := sadd k.left g.idx }) d

/-! ### Scratchpad allocations (R291) -/

/-- The allocations in a cluster's scratchpad. -/
def allocs (d : Dev) (c : Nat) : List (Nat × Nat) :=
  d.groups.filterMap fun p => match p.2.base with
    | some b => if p.2.cluster = c && p.2.scr != 0 then some (b, p.2.scr) else none
    | none => none

/-- A range fits at a base. -/
def scFits (as : List (Nat × Nat)) (n b : Nat) : Bool :=
  decide (b + n ≤ 8388608) && as.all fun a => decide (b + n ≤ a.1) || decide (a.1 + a.2 ≤ b)

/-- The lowest base at which n bytes fit (R291). -/
def scAlloc (d : Dev) (c n : Nat) : Option Nat :=
  if n = 0 then some 0
  else
    let as := allocs d c
    ((0 :: as.map fun a => a.1 + a.2).filter (scFits as n)).foldl (fun m b => match m with
      | none => some b
      | some x => some (min x b)) none

/-- Zero a range of a cluster's scratchpad; its poison is cleared (R291, R319). -/
def scZero (d : Dev) (c b n : Nat) : Dev :=
  let lo := scAddr c b
  { d with
    scratch := d.scratch.filter fun p => p.1 < lo || lo + n ≤ p.1
    scPoison := d.scPoison.filter fun k => k * 4 < lo || lo + n ≤ k * 4 }

/-- The race tags and releases of an allocation end with it (R307). -/
def scForget (d : Dev) (c b n : Nat) : Dev :=
  let lo := 1152921504606846976 + scAddr c b
  { d with
    tags := d.tags.filter fun p => p.1 < lo || lo + n ≤ p.1
    rels := d.rels.filter fun p => p.1 < lo || lo + n ≤ p.1 }

/-! ### Barriers (R109, R110) -/

/-- Change a barrier. -/
def Group.setBar (g : Group) (b : Nat) (x : Bar) : Group := { g with bars := fset {} g.bars b x }

/-- The squads a phase waits for: members, but for those that joined during it (R110). -/
def Group.expected (g : Group) (b : Nat) : List Nat := g.members.filter fun m => !shas (g.bar b).late m

/-- The phase is complete: some squad has arrived, and no expected one has not. -/
def Group.phaseDone (g : Group) (b : Nat) : Bool :=
  !(g.bar b).arr.isEmpty && (g.expected b).all fun m => shas (g.bar b).arr m

/-- Complete a phase whose arrivals are complete: the next phase has none, and the uniform epoch ends (R109, R123). -/
def Group.completePhase (g : Group) (b : Nat) : Group :=
  if g.phaseDone b then
    let x := g.bar b
    (g.setBar b { phase := x.phase + 1, done := x.vc }).endEpoch
  else g

/-- Every barrier's phase is looked at again. -/
def Group.completePhases (g : Group) : Group := (upto 16).foldl (fun g b => g.completePhase b) g

/-! ### The end of a group (R363) -/

/-- The access is a store or an atomic, or the values of one on their way to its lanes (R363). -/
def Acc.keepsGroup (a : Acc) : Bool :=
  match a.op with
  | .load | .fence _ => false
  | _ => true

/-- The group has work outstanding (R363). -/
def groupBusy (d : Dev) (gid : Nat) : Bool :=
  (d.accs.any fun p => p.2.grp == gid && p.2.keepsGroup) || (d.cmds.any fun p => p.2.grp == gid) ||
  (d.clusters.any fun p => p.2.seqs.any fun q => q.2.grp == gid)

/-- The item still has groups to place. -/
def toPlace (d : Dev) (i : Nat) : Bool := d.shards.any fun p => p.2.any fun s => s.item == i && decide (s.next < s.last)

/-- An item completes when every group of every sub-item has ended and drained; DONE advances (R383, R394). An item none of whose groups
was placed, and which was not killed, was discarded and is not counted. DEDUCED, log 28. -/
def itemCheck (d : Dev) (i : Nat) : Dev :=
  match fget d.items i with
  | none => d
  | some it =>
    if !it.launch || toPlace d i || d.groups.any (fun p => p.2.item == some i) then d
    else
      let d := { d with items := fdel d.items i }
      if it.placed.isEmpty && !it.kill then d
      else outside (ctrlWrite (setQueue d it.qk fun q => { q with done := q.done + 1 }) it.qk it.vc) it.vc

/-- Free a group: its allocation is zeroed and freed, its berth holds, timelines and forks end, and its item may complete (R363). -/
def freeGroup (d : Dev) (gid : Nat) : Dev :=
  let g := groupOf d gid
  let d := match g.base with
    | some b => scForget (scZero d g.cluster b g.scr) g.cluster b g.scr
    | none => d
  let d := releaseHolds d g.cluster gid
  let d := { d with groups := fdel d.groups gid }
  match g.item with
  | some i => itemCheck d i
  | none => d

/-- A Draining group with no outstanding work is freed. -/
def drainCheck (d : Dev) (gid : Nat) : Dev :=
  match fget d.groups gid with
  | some g => if g.state = .draining && !groupBusy d gid then freeGroup d gid else d
  | none => d

/-- Dissolve a group: its tickets pass in their turn, its peak leaves the cluster's sum (R386), and it drains (R363). -/
def dissolve (d : Dev) (gid : Nat) : Dev :=
  let g := groupOf d gid
  let d := leaveTickets d g
  let d := setCluster d g.cluster fun k => { k with p := k.p - g.peak }
  drainCheck (setGroup d gid fun g => { g with state := .draining, members := [], peak := 0 }) gid

/-- A squad leaves its group: it is no longer expected at a barrier (R110), and the last member's group is dissolved (R108). -/
def leaveGroup (d : Dev) (u : Nat) : Dev :=
  let gid := (squadOf d u).group
  let d := setGroup d gid fun g =>
    { g with
      members := sdel g.members u
      bars := g.bars.map fun p => (p.1, { p.2 with arr := sdel p.2.arr u, late := sdel p.2.late u }) }
  if (groupOf d gid).members.isEmpty then dissolve d gid else setGroup d gid Group.completePhases

/-- A new group for a squad: its kernel's UNIF registers, no allocation where none is given (R108, R242). -/
def newGroup (d : Dev) (u : Nat) (g : Group) : Dev :=
  let gid := d.fresh
  setSquad { bump d with groups := fput d.groups gid { g with members := [u] } } u fun s =>
    { s with group := gid, arr := [] }

end Sys2Proof.Machine
end

