-- ==== Sys2Proof/Machine/Watch.lean ====
section
/-! DEFINITION. Watch slots as atomic steps meet them: recording the order (R397, R398), the gate of a replay (R401, R402), and the store
hash (R399). -/
namespace Sys2Proof.Machine

/-- Change a watch slot. -/
def setWatch (d : Dev) (k : Nat) (f : WatchSlot → WatchSlot) : Dev := { d with watches := fmod d.watches k f }

/-- Write bytes of a log through the arming lane's address space at S permission; false when they cannot be written (R397). -/
def logWrite (d : Dev) (w : WatchSlot) (va : Nat) (bs : List Byte) : Dev × Bool :=
  match xlatNow d 168 w.vmid w.asid va .w false with
  | (d, .ok pa) => if poisoned d pa then (d, false) else (l2WriteBytes d pa bs, true)
  | (d, .error _) => (d, false)

/-- An entry's word (R397). -/
def entryWord (e : Nat × Nat) : Nat := e.1 * 4096 + e.2

/-- Write the entries at hand as a chunk, if the log has room (R397). -/
def writeChunk (d : Dev) (k : Nat) : Dev :=
  match fget d.watches k with
  | none => d
  | some w =>
    if w.ovf then d
    else if 128 + 128 * (w.chunks + 1) + 16 * w.nchk > w.cap then setWatch d k fun w => { w with ovf := true }
    else
      let bs := (w.chunk.map fun e => natLe (entryWord e) 4).flatten
      match logWrite d w (w.log + 128 + 128 * w.chunks) (bs ++ natLe 0 (128 - bs.length)) with
      | (d, true) => setWatch d k fun w => { w with chunks := w.chunks + 1, nent := w.nent + w.chunk.length, chunk := [] }
      | (d, false) => setWatch d k fun w => { w with ovf := true }

/-- The pending entry goes to the chunk; a full chunk is written (R397, R398). -/
def pushEntry (d : Dev) (k : Nat) : Dev :=
  match fget d.watches k with
  | none => d
  | some w =>
    match w.pend with
    | none => d
    | some e =>
      let d := setWatch d k fun w => { w with pend := none, chunk := w.chunk ++ [e] }
      if w.chunk.length = 31 then writeChunk d k else d

/-- Record a step by a squad of a logical index (R398, R417). -/
def recordStep (d : Dev) (k sqidx : Nat) : Dev :=
  match fget d.watches k with
  | none => d
  | some w =>
    if w.ovf then d
    else if sqidx ≥ 1048576 then setWatch d k fun w => { w with ovf := true }
    else
      let fresh := fun d => setWatch (pushEntry d k) k fun w => { w with pend := some (sqidx, 1) }
      match w.pend with
      | some (s, n) => if s = sqidx && n < 4095 then setWatch d k fun w => { w with pend := some (s, n + 1) } else fresh d
      | none => fresh d

/-- The first entry from a position on that has steps left to count, and where it stands; one of count 0 is used up at once. -/
def nextEntry : List (Nat × Nat) → Nat → Nat × Option (Nat × Nat)
  | [], k => (k, none)
  | e :: t, k => if e.2 = 0 then nextEntry t (k + 1) else (k, some e)

/-- The entry at a slot's position becomes current (R401). -/
def WatchSlot.atEntry (w : WatchSlot) : WatchSlot :=
  let p := nextEntry (w.ents.drop w.pos) w.pos
  { w with pos := p.1, pend := p.2 }

/-- A gated step has been performed (R401). -/
def gatePass (d : Dev) (k : Nat) : Dev :=
  setWatch d k fun w =>
    match w.pend with
    | some (s, n) => if n ≤ 1 then { w with pos := w.pos + 1 }.atEntry else { w with pend := some (s, n - 1) }
    | none => w

/-- A lane takes "replay divergence" (R402): imprecise, at its region entry. -/
def diverge (d : Dev) (u ln tval : Nat) : Dev :=
  match fget (squadOf d u).lanes ln with
  | some l => trapTo d u ln 0x0F (BitVec.ofNat 64 tval) l.rege l.rege false true
  | none => d

/-- The steps that wait for their turn at a slot in replay: those held at their words, and those that were outstanding when the slot was armed (R398, R401). -/
def stepsAt (d : Dev) (k : Nat) : List (Nat × Acc) :=
  d.accs.filter fun p => p.2.isStep && (match watchFor d (squadOf d p.2.sq) p.2.va with
    | some q => q.1 == k
    | none => false)

/-- The lanes of waiting steps take "replay divergence" and the slot is Diverged (R401). -/
def divergeSteps (d : Dev) (k tval : Nat) (go : List (Nat × Acc)) : Dev :=
  let d := setWatch { d with accs := go.foldl (fun m p => fdel m p.1) d.accs } k fun w => { w with mode := .diverged }
  go.foldl (fun d p => settleClaims (p.2.lanes.foldl (fun d q => diverge d p.2.sq q.1 tval) d) p.2.sq) d

/-- Every waiting step's lanes take "replay divergence" and the slot is Diverged (R401). -/
def divergeAll (d : Dev) (k tval : Nat) : Dev := divergeSteps d k tval (stepsAt d k)

/-- A squad ends: a slot in replay whose current entry names it is Diverged (R401). DEDUCED, log 33. -/
def gateSquadEnd (d : Dev) (s : Squad) : Dev :=
  d.watches.foldl (fun d p =>
    match p.2.mode, p.2.pend with
    | .play, some (i, _) =>
      if i = s.sqidx.toNat && p.2.kh = s.kh && p.2.asid = s.asid && p.2.vmid = s.vmid then divergeAll d p.1 (128 + 4 * p.2.pos) else d
    | _, _ => d) d

/-- The terms a write adds to its group's store hash: one per aligned 4-byte part, bytes not covered counting as 0 (R399). -/
def hashTerms (va : Nat) (bs : List (Option Byte)) : DWord :=
  let first := va / 4
  (upto ((va % 4 + bs.length + 3) / 4)).foldl (fun h i =>
    let a := (first + i) * 4
    let byte := fun j => if a + j < va then 0 else match bs[a + j - va]? with
      | some (some b) => b.toNat
      | _ => 0
    let v := byte 0 + 256 * byte 1 + 65536 * byte 2 + 16777216 * byte 3
    let a1 := a % 4294967296 + 1
    if (upto 4).any fun j => decide (va ≤ a + j) && (match bs[a + j - va]? with
      | some (some _) => true
      | _ => false) then h + BitVec.ofNat 64 (a1 * 4294967296 + a1 * v) else h) 0

/-- A group's store hash takes a write's terms. -/
def hashWrite (d : Dev) (gid va : Nat) (bs : List (Option Byte)) : Dev :=
  setGroup d gid fun g => { g with hash := g.hash + hashTerms va bs }

end Sys2Proof.Machine
end

