-- ==== Sys2Proof/Machine/Contexts.lean ====
section
/-! DEFINITION. Squad contexts in memory: the header's layout (R257 to R261), write-back (R268, R282) and the end of a squad (R97). -/
namespace Sys2Proof.Machine

/-! ### Layout -/

/-- Sum of fields, each a place and a value (R259, R260). -/
def packBits (l : List (Nat × Nat)) : Nat := l.foldl (fun n p => n + p.2 * 2 ^ p.1) 0

/-- A trap frame in a lane record, from bit 0 (R260). -/
def frameBits (f : Frame) : Nat :=
  packBits [(0, f.epc.toNat), (54, f.code.toNat), (62, f.pm.toNat), (64, b2n f.hc), (65, b2n f.imp), (66, f.hdr.toNat),
    (120, f.pred.toNat), (127, f.tval.toNat), (191, f.moor.addr.toNat), (245, f.moor.mask.toNat), (249, b2n f.moor.v)]

/-- A frame read back. -/
def frameOf (x : Nat) : Frame :=
  { epc := BitVec.ofNat 54 x, code := BitVec.ofNat 8 (nbits x 54 8), pm := BitVec.ofNat 2 (nbits x 62 2)
    hc := nbits x 64 1 = 1, imp := nbits x 65 1 = 1, hdr := BitVec.ofNat 54 (nbits x 66 54)
    pred := BitVec.ofNat 7 (nbits x 120 7), tval := BitVec.ofNat 64 (nbits x 127 64)
    moor := ⟨BitVec.ofNat 54 (nbits x 191 54), BitVec.ofNat 4 (nbits x 245 4), nbits x 249 1 = 1⟩ }

/-- A lane record (R260). -/
def laneBits (l : Lane) : Nat :=
  packBits [(0, l.pc.toNat), (54, statusVal l), (60, l.q.toNat), (67, l.moor.addr.toNat), (121, l.moor.mask.toNat),
    (125, b2n l.moor.v), (126, l.rege.toNat), (180, l.regc.toNat), (212, l.srkey.toNat), (244, l.srcnt.toNat),
    (308, frameBits l.f0), (558, frameBits l.f1), (808, frameBits l.f2),
    (1058, l.xf.epc.toNat), (1112, l.xf.code.toNat), (1120, l.xf.pm.toNat), (1122, b2n l.xf.hc), (1123, b2n l.xf.imp),
    (1124, l.xf.hdr.toNat), (1178, l.xf.tval.toNat)]

/-- A lane extension (R260). -/
def lextBits (l : Lane) : Nat := l.hofs.toNat + 16 * l.xf.pred.toNat

/-- A lane read back from its record and extension; it reads its clause's header again when it resumes (R37). What the device keeps for
the lane beside its thread state is taken from what it held. -/
def laneFrom (old : Lane) (x e : Nat) : Lane :=
  { old with
    pc := BitVec.ofNat 54 x, mode := modeOf (BitVec.ofNat 2 (nbits x 54 2)), depth := nbits x 56 2
    udt := nbits x 58 1 = 1, ovf := nbits x 59 1 = 1, q := BitVec.ofNat 7 (nbits x 60 7)
    moor := ⟨BitVec.ofNat 54 (nbits x 67 54), BitVec.ofNat 4 (nbits x 121 4), nbits x 125 1 = 1⟩
    rege := BitVec.ofNat 54 (nbits x 126 54), regc := BitVec.ofNat 32 (nbits x 180 32)
    srkey := BitVec.ofNat 32 (nbits x 212 32), srcnt := BitVec.ofNat 64 (nbits x 244 64)
    f0 := frameOf (nbits x 308 250), f1 := frameOf (nbits x 558 250), f2 := frameOf (nbits x 808 250)
    xf := { epc := BitVec.ofNat 54 (nbits x 1058 54), code := BitVec.ofNat 8 (nbits x 1112 8), pm := BitVec.ofNat 2 (nbits x 1120 2)
            hc := nbits x 1122 1 = 1, imp := nbits x 1123 1 = 1, hdr := BitVec.ofNat 54 (nbits x 1124 54)
            tval := BitVec.ofNat 64 (nbits x 1178 64), pred := BitVec.ofNat 7 (nbits e 4 7) }
    hofs := BitVec.ofNat 4 (nbits e 0 4), reload := true, wait := .run, watch := none }

/-- CSTATE (R259). -/
def CState.code : CState → Nat
  | .created => 0
  | .ready => 1
  | .held => 2
  | .ended => 3

/-- The squad block (R259). -/
def blockBits (s : Squad) (st : CState) : Nat :=
  packBits ([(0, st.code), (8, s.prio), (32, sqctlVal s), (64, s.kh), (128, s.sqidx.toNat), (160, s.gpidx.toNat),
    (192, s.privb.toNat), (256, s.privl.toNat), (288, s.fpsr.toNat), (320, s.fpcr.toNat), (352, s.asid.toNat), (368, s.vmid.toNat),
    (384, s.age), (448, s.qspill.toNat), (640, s.rwr.toNat), (832, s.group)]) +
  packBits ((upto 12).map fun i => (512 + 8 * i, s.flag i)) +
  packBits ((upto 12).map fun i => (1024 + 128 * i, (s.mask i).toNat)) +
  packBits ((fkeys s.lanes).map fun l => (704 + l, 1)) +
  packBits ((s.lanes ++ s.exited).map fun p => (2560 + 12 * p.1, lextBits p.2))

/-- A squad with what its block gives. -/
def squadFrom (s : Squad) (x : Nat) : Squad :=
  let c := nbits x 32 32
  { s with
    prio := nbits x 8 8, ext := c % 2 = 1, det := nbits c 1 1 = 1, dbg := nbits c 2 1 = 1, fuse := nbits c 4 1 = 1
    pin := s.pinSet.getD (nbits c 3 1 = 1), undo := if nbits c 2 1 = 1 then s.undo else []
    kh := nbits x 64 64, sqidx := BitVec.ofNat 32 (nbits x 128 32), gpidx := BitVec.ofNat 32 (nbits x 160 32)
    privb := BitVec.ofNat 64 (nbits x 192 64), privl := BitVec.ofNat 32 (nbits x 256 32)
    fpsr := BitVec.ofNat 7 (nbits x 288 32), fpcr := BitVec.ofNat 5 (nbits x 320 32)
    asid := BitVec.ofNat 16 (nbits x 352 16), vmid := BitVec.ofNat 12 (nbits x 368 12)
    age := nbits x 384 64, qspill := BitVec.ofNat 64 (nbits x 448 64)
    fcnt := (upto 12).foldl (fun m i => fset 0 m i (nbits x (512 + 8 * i) 6)) []
    rwr := BitVec.ofNat 64 (nbits x 640 64)
    masks := (upto 12).foldl (fun m i => fset (BitVec.allOnes 128) m i (BitVec.ofNat 128 (nbits x (1024 + 128 * i) 128))) [] }

/-- The zero bytes of the block (R259, R261). -/
def blockZeros (x : Nat) : Bool := nbits x 16 16 = 0 && nbits x 608 32 = 0 && nbits x 896 128 = 0

/-- MOOR.MASK and the MASK of every pushed frame name mask registers, and the record's and extension's zero bits are zero (R261). -/
def laneOk (x e : Nat) : Bool :=
  nbits x 1242 6 = 0 && nbits e 11 1 = 0 && decide (nbits x 121 4 ≤ 11) &&
  (upto (nbits x 56 2)).all fun j => decide (nbits x (308 + 250 * j + 245) 4 ≤ 11)

/-! ### Access to a context's page -/

/-- The physical address of a squad's context, when its page is present with S read and write permission (R261); the 64 KiB of a
context lie in one page. DEDUCED, log 18. -/
def ctxPage (d : Dev) (s : Squad) : Dev × Option Nat :=
  match xlatNow d s.core s.vmid s.asid s.ctx .rw false with
  | (d, .ok pa) => (d, some pa)
  | (d, .error _) => (d, none)

/-- Write CSTATE in the image of a context that is current in memory (R261). -/
def writeCState (d : Dev) (s : Squad) (st : CState) : Dev :=
  match ctxPage d s with
  | (d, some pa) => l2WriteBytes d pa (natLe st.code 1)
  | (d, none) => d

/-- Write a row of 128 words at L2. -/
def writeRow (d : Dev) (pa : Nat) (f : Nat → Word) : Dev :=
  l2WriteBytes d pa ((upto 128).map fun l => natLe (f l).toNat 4).flatten

/-- Poison follows the words of a row to the lines they are written to (R319). -/
def poisonRow (d : Dev) (pa : Nat) (r : Row) : Dev :=
  (upto 4).foldl (fun d j =>
    let p := { d with poison := sdel d.poison (lineOf (pa + 128 * j)) }
    if r.poison.any fun l => l / 32 == j then poisonLine p (pa + 128 * j) else p) d

/-- Write back a register row to its context address (R262). -/
def writeBackRow (d : Dev) (pa i : Nat) (r : Row) : Dev :=
  let a := pa + 0x8000 + 512 * i
  poisonRow (writeRow d a fun l => fgetD r.words l 0) a r

/-- Word j of a lane's record: a lane that has exited keeps the state it had (R256). -/
def laneWord (s : Squad) (j ln : Nat) : Word :=
  match fget s.lanes ln <|> fget s.exited ln with
  | some l => BitVec.ofNat 32 (laneBits l / 2 ^ (32 * j))
  | none => 0

/-- Write a squad's header at its context (R257, R258). -/
def writeHeader (d : Dev) (s : Squad) (st : CState) (pa : Nat) : Dev :=
  let d := l2WriteBytes d pa (natLe (blockBits s st) 512)
  let d := (upto 16).foldl (fun d i => writeRow d (pa + 0x200 + 512 * i) (s.k i)) d
  let d := (upto 8).foldl (fun d i => writeRow d (pa + 0x2200 + 512 * i) (s.h i)) d
  (upto 39).foldl (fun d j => writeRow d (pa + 0x3200 + 512 * j) (laneWord s j)) d

/-- The L1 that serves a squad: its core's, or its cluster's when fused (R286). -/
def l1Set (s : Squad) : Nat := if s.fuse then 168 + s.core / 7 else s.core

/-- Where the page of an address lies, whatever it permits. -/
def placeNow (d : Dev) (core : Nat) (vmid : BitVec 12) (asid : BitVec 16) (va : Nat) : Dev × Option Nat :=
  [Need.r, .w, .x].foldl (fun p k => match p.2 with
    | some _ => p
    | none => match xlatNow p.1 core vmid asid va k false with
      | (d, .ok pa) => (d, some pa)
      | (d, .error _) => (d, none)) (d, none)

/-- Dirty L1 lines of a squad's private range are written to L2 (R282). -/
def privWriteBack (d : Dev) (s : Squad) : Dev :=
  let set := l1Set s
  let len := 512 * ((s.privl.toNat + 3) / 4)
  let dirty := d.l1.filter fun p => p.1 % 256 == set && p.2.dirty != 0#128
  if len = 0 || dirty.isEmpty then d
  else
    let first := s.privb.toNat / 65536
    (upto ((s.privb.toNat + len + 65535) / 65536 - first)).foldl (fun d i =>
      let va := (first + i) * 65536
      match placeNow d s.core s.vmid s.asid va with
      | (d, some pa) => dirty.foldl (fun d p =>
          let a := p.1 / 256 * 128
          let v := va + (a - pa)
          if pa ≤ a && a < pa + 65536 && s.privb.toNat < v + 128 && v < s.privb.toNat + len then l1WriteBack d set (p.1 / 256) else d) d
      | (d, none) => d) d

/-- A lane waits on a parking event (R266, R416). -/
def Lane.parks (l : Lane) : Bool :=
  match l.wait with
  | .park _ | .watch | .gate => true
  | _ => false

/-- A resident squad is Parked (R266): each live lane that is not held at a gather or mooring waits on a parking event, and none has a cause to take. -/
def Squad.parked (s : Squad) : Bool :=
  !s.lanes.isEmpty && s.lanes.all fun p => (p.2.parks || s.laneHeld p.1 p.2) && p.2.due.isNone

/-- The flags of a WAIT mask for which a lane is held: at the header it is to enter, or inside a clause that it comes back to (R36, R37). -/
def maskHeld (d : Dev) (u ln : Nat) (l : Lane) : Option (BitVec 12) :=
  let w := if l.hofs ≠ 0 then (if l.recheck then l.clause.wait else 0)
    else match (headerAt d (fetcherOf d u ln) l.pc.toNat).2 with
      | .ok i => (clauseOf i).wait
      | _ => 0
  if (squadOf d u).waitClear w then none else some w

/-- What a lane awaits, none where it does not wait or has a cause to take (R266); a watch is lost when its squad leaves the core (R267). -/
def laneAwait (d : Dev) (u ln : Nat) (l : Lane) : Option Await :=
  if l.due.isSome then none
  else match l.wait with
    | .park a => some a
    | .gate => (gateSlot d u ln).map .order
    | .moored => some .others
    | .gather => if (squadOf d u).laneHeld ln l then some .others else none
    | .hold => (maskHeld d u ln l).map .flags
    | _ => none

/-- What the lanes of a squad that leaves its core await: nothing where one of them does not wait (R267). -/
def awaitsOf (d : Dev) (u : Nat) : List Await :=
  let l := (squadOf d u).lanes.map fun p => laneAwait d u p.1 p.2
  if l.contains none then [] else l.filterMap id

/-- Write a squad's whole context to memory: its header and every dirty row (R268). It is no longer on chip; lanes that waited arrive
again later, and a step that waits at a gate is not performed (R401). False when a page is absent. -/
def saveContext (d : Dev) (u : Nat) (st : CState) : Dev × Bool :=
  let s := squadOf d u
  match ctxPage d s with
  | (d, none) => (d, false)
  | (d, some pa) =>
    let d := s.rows.foldl (fun d p => if p.2.dirty then writeBackRow d pa p.1 p.2 else d) (writeHeader d s st pa)
    let waits := awaitsOf d u
    (setSquad { d with accs := d.accs.filter fun p => !(p.2.gated && p.2.sq == u) } u fun s => { s with
      onChip := false, rows := [], fills := [], fillFor := [], fillBad := [], awaits := waits
      insts := s.insts.map fun p => (p.1, { p.2 with arrived := [], closed := false })
      lanes := s.lanes.map fun p => (p.1, { p.2 with wait := .run, watch := none }) }, true)

/-- What loading a context finds. -/
inductive LoadRes
  | ok
  | absent
  | bad
  deriving DecidableEq, Repr, Inhabited

/-- A word of a context row. -/
def ctxWord (d : Dev) (pa row ln : Nat) : Nat := bytesNat (l2Byte d) (pa + 512 * row + 4 * ln) 4

/-- The words of a row that are not 0. -/
def ctxRow (d : Dev) (pa row : Nat) : FMap Word :=
  (upto 128).filterMap fun ln =>
    let x := ctxWord d pa row ln
    if x = 0 then none else some (ln, BitVec.ofNat 32 x)

/-- A lane's record in a context. -/
def laneRec (d : Dev) (pa ln : Nat) : Nat := packBits ((upto 39).map fun j => (32 * j, ctxWord d pa (25 + j) ln))

/-- The live lanes a header holds, with their records and extensions. -/
def liveRecs (d : Dev) (pa x : Nat) : List (Nat × Nat × Nat) :=
  ((upto 128).filter fun l => nbits x (704 + l) 1 == 1).map fun l => (l, laneRec d pa l, nbits x (2560 + 12 * l) 12)

/-- A squad's lanes as its header gives them; a lane that is not live has exited. -/
def Squad.takeLanes (s : Squad) (live : List (Nat × Nat × Nat)) : Squad :=
  let all := s.lanes ++ s.exited
  { s with lanes := live.map fun r => (r.1, laneFrom (fgetD all r.1 {}) r.2.1 r.2.2)
           exited := all.foldl (fun m p => if live.any fun r => r.1 == p.1 then m else fput m p.1 p.2) [] }

/-- Load a context and check it (R261); a poisoned header line fails the check. -/
def loadContext (d : Dev) (u core : Nat) : Dev × LoadRes :=
  let s := { squadOf d u with core }
  match ctxPage d s with
  | (d, none) => (d, .absent)
  | (d, some pa) =>
    let x := bytesNat (l2Byte d) pa 512
    let all := (upto 128).all fun l => laneOk (laneRec d pa l) (nbits x (2560 + 12 * l) 12)
    if nbits x 0 8 ≠ 1 || !blockZeros x || !all || nbits x 832 64 ≠ s.group || (upto 256).any (fun j => poisoned d (pa + 128 * j)) then
      (d, .bad)
    else
      (setSquad d u fun s => { (squadFrom s x).takeLanes (liveRecs d pa x) with
        core, onChip := true, rows := [], fills := [], pinSet := none
        kbank := (upto 16).foldl (fun m i => fset [] m i (ctxRow d pa (1 + i))) []
        hbank := (upto 8).foldl (fun m i => fset [] m i (ctxRow d pa (17 + i))) [] }, .ok)

/-- The lanes of a new squad (R242): all 128 at one address, at depth 0, in one mode, with one key. -/
def freshLanes (u : Nat) (pc : Pc) (mode : Mode) (key : Word) : FMap Lane :=
  (upto 128).map fun ln => (ln, { pc := pc, mode := mode, rege := pc, srkey := key, vc := [(tidOf u ln, 1)] })

/-! ### The end of a squad (R97) -/

/-- A squad's extended rows return to its core's pool (R243, R246). -/
def returnExt (d : Dev) (u : Nat) : Dev :=
  let s := squadOf d u
  if s.ext && !s.wantExt then setSquad (setCore d s.core fun k => { k with xpool := k.xpool + 32 }) u fun s => { s with ext := false } else d

/-- A worker item's task ends: its PEAK leaves P (R386), and the item is gone. -/
def endTask (d : Dev) (u : Nat) : Dev :=
  match (squadOf d u).deqTask with
  | none => d
  | some (c, p) =>
    let d := { d with items := d.items.filter fun q => q.2.runner != some u }
    unstop (setSquad (setCluster d c fun k => { k with p := k.p - p }) u fun s => { s with deqTask := none }) (squadOf d u).group

/-- A launched squad's pool slot returns (R384). -/
def freeSlot (d : Dev) (s : Squad) : Dev :=
  match s.slot with
  | some (e, q, n) => setQueue d (e * 256 + q) fun k => { k with used := sdel k.used n }
  | none => d

/-- A squad's loads, atomics with return and accepted sampler requests have written their registers (R243, R268, R392). -/
def loadsDone (d : Dev) (u : Nat) : Bool :=
  (d.accs.all fun p => p.2.sq != u || p.2.noReturn || p.2.isFence || p.2.gated) && d.reqs.all fun p => p.2.sq != u

/-- Accesses of a squad that are performed in L1 are outstanding. -/
def l1Out (d : Dev) (u : Nat) : Bool := d.accs.any fun p => p.2.sq == u && p.2.pol == .l1 && p.2.space == 0 && !p.2.isFence

/-- Accesses or sampler requests of a squad are outstanding. -/
def workOut (d : Dev) (u : Nat) : Bool := d.accs.any (fun p => p.2.sq == u) || d.reqs.any fun p => p.2.sq == u

/-- A squad that has ended has its private lines written back, once no access of it is to be performed in L1 (R282). When what it had outstanding is complete,
its image is written if its context is still its own, and its extended rows return (R97, R246, R261); while its page is absent it waits (R253). DEDUCED, log 17. -/
def endImage (d : Dev) (u : Nat) : Dev :=
  let s := squadOf d u
  let d := if s.ending && !l1Out d u then privWriteBack d s else d
  if !s.ending || workOut d u then d
  else
    let done := fun d => setSquad (returnExt d u) u fun s => { s with ending := false, onChip := false, rows := [] }
    if !s.onChip || s.freed then done d
    else match saveContext d u .ended with
      | (d, true) => done d
      | (d, false) => d

/-- What becomes of a squad that has ended: its image is written, and once nothing keeps it, its context is released (R97). -/
def releaseSquad (d : Dev) (u : Nat) : Dev :=
  let d := endImage d u
  match fget d.squads u with
  | some s => if s.state = .ended && s.gone && !s.ending then freeSlot { d with squads := fdel d.squads u } s else d
  | none => d

/-- Lanes of a squad exit: their last state is kept (R256), but their trap frames are discarded (R91, R97). -/
def Squad.exit (s : Squad) (lns : List Nat) : Squad :=
  { s with exited := lns.foldl (fun m ln => fput m ln { s.lane ln with depth := 0 }) s.exited, lanes := lns.foldl fdel s.lanes }

/-- A squad ends (R97): it leaves its group, what it has outstanding completes, and then its private lines (R282) and its context's image are written and its
extended rows return. A launched squad's context is released then; another stands Ended until CTXFREE. -/
def endSquad (d : Dev) (u : Nat) : Dev :=
  let s := squadOf d u
  let d := endTask d u
  let d := if s.onChip then d else writeCState d s .ended
  let d := setSquad d u fun s => { s.exit (fkeys s.lanes) with
    state := .ended, res := .out, insts := [], fills := [], fillFor := [], fillBad := [], undo := [], stop := .none, form := none, ending := true }
  let d := leaveGroup (gateSquadEnd d s) u
  releaseSquad (setSquad d u fun s => { s with gone := s.slot.isSome }) u

/-- A lane that ends with an imprecise fault held has it reported from the group record (R315). -/
def reportImps (d : Dev) (u ln : Nat) (killed : Bool) : Dev :=
  let s := squadOf d u
  (laneOf d u ln).imps.foldl (fun d i =>
    if i.code = 0x15 then
      report d (s.core / 7) s.vmid
        { kind := 1, cause := 0x15, exited := !killed, killed := killed, gpidx := s.gpidx.toNat, sqidx := s.sqidx.toNat, lane := ln,
          pc := (laneOf d u ln).rege.toNat, tval := i.tval.toNat, ctx := s.ctx }
    else d) d

/-- EXIT of lanes (R97). -/
def exitLanes (d : Dev) (u : Nat) (lns : List Nat) : Dev :=
  let d := joinItem (lns.foldl (fun d ln => reportImps d u ln false) d) (squadOf d u).group (joinClocks d u lns)
  let d := setSquad d u fun s => s.exit lns
  if (squadOf d u).lanes.isEmpty then endSquad d u else regather d u

end Sys2Proof.Machine
end

