-- ==== Sys2Proof/Machine/Commands.lean ====
section
/-! DEFINITION. Commands in flight: timelines (R173), completion and failure (R179, R318, R364), forks (R186), and the memory accesses of
engines (R178, R179, R295, R319, R320, R354). -/
namespace Sys2Proof.Machine

/-! ### Errors an access meets (R319, R321, R323) -/

/-- A squad of a cluster that meets a fatal error is Held where it stands, or, off chip, in its image (R261, R321). -/
def holdFatal (d : Dev) (u : Nat) : Dev :=
  let s := squadOf d u
  if s.onChip then (if s.state = .ended then d else setSquad d u fun s => { s with state := .held, stop := .fatal })
  else if s.state = .ready then setSquad (writeCState d s .held) u fun s => { s with state := .held, stop := .none }
  else d

/-- A cluster meets a fatal error (R321): it stops issuing, its ring freezes, the host agent has a report, its squads are Held. -/
def fatalError (d : Dev) (c core : Nat) (e : ErrAt) : Dev :=
  let d := setCluster (blackBox d c 3 core (errData e)) c fun k => { k with fatal := true }
  let d := { d with host := { d.host with reports := d.host.reports ++ [HostReport.fatal c (errData e).toNat] } }
  (d.squads.filter fun p => p.2.home / 7 == c).foldl (fun (d : Dev) p => holdFatal d p.1) d

/-- Record the error met by an access of a cluster: CORE is the core's number in it, or 7 for the cluster itself (R322). -/
def noteErrAt (d : Dev) (c core : Nat) (e : MemErr) : Dev :=
  match e with
  | .none | .refused => d
  | .corrected a => blackBox d c 1 core (errData a)
  | .poison a => blackBox d c 2 core (errData a)
  | .fatal a => fatalError d c core a

/-- Record the error an access of a core meets. -/
def noteErr (d : Dev) (core : Nat) (e : MemErr) : Dev := noteErrAt d (core / 7) (core % 7) e

/-- An error that keeps an access from its data. -/
def errBad : MemErr → Bool
  | .none | .corrected _ => false
  | _ => true

/-- A 64-bit address as TVAL. -/
def tvAddr (va : Nat) : DWord := BitVec.ofNat 64 va

/-- The bytes of scratchpad a group may reach (R108, R163). -/
def scrOf (g : Group) : Nat := if g.base.isSome then g.scr else 0

/-- The place of offset a of a group's scratchpad. -/
def scPlace (g : Group) (a : Nat) : Nat := scAddr g.cluster (g.base.getD 0 + a)

/-- Write bytes of scratchpad; a part that is masked out is not written. -/
def putScratch : FMap Byte → Nat → List (Option Byte) → FMap Byte
  | m, _, [] => m
  | m, k, some b :: t => putScratch (fset 0 m k b) (k + 1) t
  | m, k, none :: t => putScratch m (k + 1) t

/-! ### Timelines (R173) -/

/-- Change a timeline. -/
def Group.setTl (g : Group) (t : Nat) (x : Timeline) : Group := { g with tls := fput g.tls t x }

/-- DONE advances over completed numbers (R173). -/
def doneFrom (out : NSet) : Nat → Nat → Nat
  | 0, n => n
  | k + 1, n => if shas out (n + 1) then doneFrom out k (n + 1) else n

/-- Number n completes, failed or not, releasing a clock (R173). -/
def Timeline.complete (t : Timeline) (n : Nat) (bad : Bool) (vc : Clock) : Timeline :=
  let out := sadd t.out n
  let done := doneFrom out out.length t.done
  { t with
    done := done
    out := out.filter fun k => decide (done < k)
    fail := if bad && (t.fail = 0 || decide (n < t.fail)) then n else t.fail
    failed := if bad then sadd t.failed n else t.failed
    vcs := fput t.vcs n vc }

/-- The next number of a timeline is taken (R173). -/
def takeNumber (d : Dev) (gid t : Nat) : Dev := setGroup d gid fun g => g.setTl t { g.tl t with issued := (g.tl t).issued + 1 }

/-! ### Commands -/

/-- A command in flight. -/
def cmdOf (d : Dev) (i : Nat) : Cmd := fgetD d.cmds i default
/-- Change a command. -/
def setCmd (d : Dev) (i : Nat) (f : Cmd → Cmd) : Dev := { d with cmds := fmod d.cmds i f }
/-- The epoch at which a command's reads and on-chip accesses are tagged; global destination bytes are tagged by 128-byte step (R175). -/
def cmdEpoch : Nat := 1099511627776
/-- A command's own accesses as a clock. -/
def ownClock (i : Nat) (c : Cmd) : Clock := [(cmdTid i c.sq c.lane, cmdEpoch), (tileTid i c.sq c.lane, cmdEpoch)]
/-- What a completed command releases: what was released to it, and its own accesses (R302). -/
def cmdClock (i : Nat) (c : Cmd) : Clock := vcJoin c.vc (ownClock i c)

/-- A command that a lane issues (R172), before it has its number. -/
def mkCmd (d : Dev) (e : Env) (ln : Nat) (kind : CmdKind) : Cmd :=
  let l := e.s.lane ln
  { kind := kind, sq := e.sq, lane := ln, grp := e.s.group, core := e.core, asid := e.s.asid, vmid := (coreOf d e.core).vmid
    priv := l.mode != .u, claim := (e.s.lane ln).claim, vc := l.vc, sqidx := e.s.sqidx.toNat, ctx := e.s.ctx, det := e.s.det }

/-- The instruction's flag counts a command, whose completion it releases alone (R349). -/
def claimCmd (d : Dev) (sq i : Nat) (c : Cmd) : Dev :=
  match c.claim with
  | none => d
  | some k => setSquad d sq fun s => { s with claims := fmod s.claims k fun x =>
      { x with vc := vcJoin x.vc (ownClock i c), wide := true } }

/-- A command goes to its engine, on a timeline or none; it takes the next number there (R173). -/
def addCmd (d : Dev) (c : Cmd) (t : Option Nat) : Dev :=
  let i := d.fresh
  let c := match t with
    | some t => { c with tl := some (t, ((groupOf d c.grp).tl t).issued + 1) }
    | none => c
  let d := bump { d with cmds := fput d.cmds i c }
  let d := match t with
    | some t => takeNumber d c.grp t
    | none => d
  claimCmd d c.sq i c

/-! ### Forks (R186) -/

/-- A sequencer of a cluster that has reached EXIT, or stopped, is done once its commands are complete; its fork counts it. -/
def seqSettle (d : Dev) (cl k : Nat) : Dev :=
  match fget (clusterOf d cl).seqs k with
  | none => d
  | some q =>
    match q.quit with
    | none => d
    | some bad =>
      if d.cmds.any fun p => p.2.seqr == some k && p.2.core / 7 == cl then d
      else
        let d := setCluster d cl fun c => { c with seqs := fdel c.seqs k }
        setGroup d q.grp fun g => { g with forks := fmod g.forks q.fork fun f =>
          { left := f.left - 1, fault := f.fault || bad, vc := vcJoin f.vc q.vc } }

/-- A sequencer ends, faulted or not. -/
def seqEnd (d : Dev) (cl k : Nat) (bad : Bool) : Dev :=
  seqSettle (setCluster d cl fun c => { c with seqs := fmod c.seqs k fun q => { q with quit := some bad } }) cl k

/-- A sequencer stops as faulted and is reported with KIND 3 (R186, R318). -/
def seqFault (d : Dev) (cl k cause : Nat) (tval : Nat) : Dev :=
  match fget (clusterOf d cl).seqs k with
  | none => d
  | some q =>
    if q.quit.isSome then d
    else
      let g := groupOf d q.grp
      let d := report d cl g.vmid
        { kind := 3, cause := cause, exited := g.state != .live && !g.killed, killed := g.killed, gpidx := g.idx
          sqidx := if (fget d.squads q.sq).isSome then (squadOf d q.sq).sqidx.toNat else 0xFFFFFFFF
          lane := q.lane, tval := tval, ctx := (squadOf d q.sq).ctx }
      seqEnd d cl k true

/-! ### Completion (R173, R179, R364) -/

/-- A command completes: its timeline advances, its flag's claim may fall, its sequencer's fork takes its effects. -/
def completeCmd (d : Dev) (i : Nat) (bad : Bool) : Dev :=
  match fget d.cmds i with
  | none => d
  | some c =>
    let vc := cmdClock i c
    let d := joinItem { d with cmds := fdel d.cmds i } c.grp vc
    let d := match c.tl with
      | some (t, n) => setGroup d c.grp fun g => g.setTl t ((g.tl t).complete n bad vc)
      | none => d
    let d := match c.seqr with
      | some k =>
        let cl := c.core / 7
        seqSettle (setCluster d cl fun x => { x with seqs := fmod x.seqs k fun q => { q with vc := vcJoin q.vc vc } }) cl k
      | none => d
    settleClaims d c.sq

/-- A command fails on a fault: it is reported with KIND 2 (R179, R318, R364), and a sequencer that issued it stops (R186). -/
def failCmd (d : Dev) (i cause tval : Nat) (poison : Bool) : Dev :=
  let c := cmdOf d i
  let g := groupOf d c.grp
  let d := report d (c.core / 7) g.vmid
    { kind := 2, cause := cause, exited := g.state != .live && !g.killed, killed := g.killed, poison := poison, gpidx := g.idx
      sqidx := c.sqidx, lane := c.lane, tval := tval, ctx := c.ctx
      tl := (c.tl.map (·.1)).getD 0, number := (c.tl.map (·.2)).getD 0 }
  let d := match c.seqr with
    | some k => seqFault d (c.core / 7) k cause tval
    | none => d
  completeCmd d i true

/-- The command is a TLSIG whose lane's earlier accesses are performed at its scope (R175). -/
def sigReady (d : Dev) (c : Cmd) : Option Scope :=
  match c.kind with
  | .tlsig s => if quiet d c.vc then some s else none
  | _ => none

/-- TLSIGs that nothing holds any more complete (R175). -/
def settleSignals (d : Dev) : Dev :=
  d.cmds.foldl (fun d p => match sigReady d p.2 with
    | some s => completeCmd (publish d p.2.vc s) p.1 false
    | none => d) d

/-- A command is stopped by a pre-emption of its group (R392). -/
def cmdStopped (d : Dev) (c : Cmd) : Bool := groupHalted d c.grp

/-! ### Memory as engines reach it -/

/-- The parts of a range within 128-byte lines. -/
def lineParts : Nat → Nat → Nat → List (Nat × Nat)
  | 0, _, _ => []
  | k + 1, a, n => if n = 0 then [] else (a, min n (128 - a % 128)) :: lineParts k (a + min n (128 - a % 128)) (n - min n (128 - a % 128))

/-- The parts of n bytes from an address. -/
def partsOf (a n : Nat) : List (Nat × Nat) := lineParts (n / 128 + 2) a n

/-- Translate for a command (R293, R295, R288, R443): the space, 0 or 2 for a peer, and the address there. -/
def engXlat (d : Dev) (c : Cmd) (va : Nat) (need : Need) (pol : Pol) : Dev × Except Cause (Nat × Nat) :=
  if va ≥ 2 ^ 54 then (d, .error 0x04)
  else if isPeer va then
    (d, if !d.host.peerUp.getLsbD (peerOf va) then .error 0x04
        else
          let r := Config.peerCheck (peerOf va) c.vmid.toNat c.asid.toNat (va % 2 ^ 41) (need != .r) d.tick
          if r = 1 then .error 0x04 else if pol ≠ .sys || r = 2 then .error 0x05 else .ok (2, va))
  else match xlatNow d (168 + c.core / 7) c.vmid c.asid va need (!c.priv) with
    | (d, .ok pa) => (d, .ok (0, pa))
    | (d, .error e) => (d, .error e)

/-- Read a part of a line of global memory for a command. -/
def engReadPart (d : Dev) (c : Cmd) (pol : Pol) (va n : Nat) : Dev × Except Cause (List Byte) :=
  match engXlat d c va .r pol with
  | (d, .error e) => (d, .error e)
  | (d, .ok (2, _)) => (d, .ok ((upto n).map fun i => Config.peerByte (peerOf va) c.vmid.toNat c.asid.toNat (va % 2 ^ 41 + i) d.tick))
  | (d, .ok (_, pa)) =>
    (d, if poisoned d pa then .error 0x0D
        else .ok (bytesAt (fun a => if pol = .sys then memRead d.mem a else l2Byte d a) pa n))

/-- Read a range of global memory for a command; an error gives its cause and address. -/
def engRead (d : Dev) (c : Cmd) (pol : Pol) (va n : Nat) : Dev × Except (Cause × Nat) (List Byte) :=
  (partsOf va n).foldl (fun r p =>
    match r.2 with
    | .error e => (r.1, .error e)
    | .ok bs => match engReadPart r.1 c pol p.1 p.2 with
      | (d, .ok xs) => (d, .ok (bs ++ xs))
      | (d, .error e) => (d, .error (e, p.1))) (d, .ok [])

/-- Bytes that are to be written. -/
def someBytes (bs : List Byte) : List (Option Byte) := bs.map some

/-- Write bytes at a level, leaving those that are masked out. -/
def putLevel (d : Dev) (pol : Pol) : Nat → List (Option Byte) → Dev
  | _, [] => d
  | a, none :: t => putLevel d pol (a + 1) t
  | a, some b :: t => putLevel (putByte d a b pol) pol (a + 1) t

/-- Write a part of a line of global memory for a command: a whole line clears its poison (R319). -/
def engWritePart (d : Dev) (c : Cmd) (pol : Pol) (va : Nat) (bs : List (Option Byte)) : Dev × Except Cause Unit :=
  if bs.all Option.isNone then (d, .ok ())
  else match engXlat d c va .w pol with
  | (d, .error e) => (d, .error e)
  | (d, .ok (2, _)) => (d, .ok ())
  | (d, .ok (_, pa)) =>
    let d := relsSet (putLevel d pol pa bs) 0 pa bs.length fun _ => []
    (if bs.length = 128 && bs.all Option.isSome then { d with poison := sdel d.poison (lineOf pa) } else d, .ok ())

/-- Go through the parts of a range that is to be written, up to the first error. -/
def eachPart (step : Dev → Nat → List (Option Byte) → Dev × Except Cause Unit) (d : Dev) (va : Nat) (bs : List (Option Byte)) :
    Dev × Except (Cause × Nat) Unit :=
  (partsOf va bs.length).foldl (fun r p =>
    match r.2 with
    | .error e => (r.1, .error e)
    | .ok _ => match step r.1 p.1 ((bs.drop (p.1 - va)).take p.2) with
      | (d, .ok _) => (d, .ok ())
      | (d, .error e) => (d, .error (e, p.1))) (d, .ok ())

/-- The parts of a range that a command is to write can be translated. -/
def engProbe (d : Dev) (c : Cmd) (pol : Pol) (va : Nat) (bs : List (Option Byte)) : Dev × Except (Cause × Nat) Unit :=
  eachPart (fun d a xs => if xs.all Option.isNone then (d, .ok ()) else match engXlat d c a .w pol with
    | (d, .ok _) => (d, .ok ())
    | (d, .error e) => (d, .error e)) d va bs

/-- Write a range of global memory for a command: nothing is written where a part of it meets a fault, so that what a copy has written is whole steps of its
write pointer (R179, R366). -/
def engWrite (d : Dev) (c : Cmd) (pol : Pol) (va : Nat) (bs : List (Option Byte)) : Dev × Except (Cause × Nat) Unit :=
  match engProbe d c pol va bs with
  | (d, .ok _) => eachPart (fun d a xs => engWritePart d c pol a xs) d va bs
  | r => r

/-- Read a range of a group's scratchpad for a command: a poisoned word is an error (R319). -/
def scRead (d : Dev) (g : Group) (off n : Nat) : Except (Cause × Nat) (List Byte) :=
  let a := scPlace g off
  match (upto n).find? fun i => shas d.scPoison ((a + i) / 4) with
  | some i => .error (0x0D, off + i)
  | none => .ok ((upto n).map fun i => fgetD d.scratch (a + i) 0)

/-- Write a range of a group's scratchpad for a command: a word written whole loses its poison (R319). -/
def scWrite (d : Dev) (g : Group) (off : Nat) (bs : List (Option Byte)) : Dev :=
  let a := scPlace g off
  let whole := (upto (bs.length / 4 + 1)).filter fun i =>
    let k := (a + 3) / 4 * 4 - a + 4 * i
    decide (k + 4 ≤ bs.length) && ((bs.drop k).take 4).all Option.isSome
  relsSet { d with
    scratch := putScratch d.scratch a bs
    scPoison := whole.foldl (fun m i => sdel m ((a + 3) / 4 + i)) d.scPoison } 1 a bs.length fun _ => []

/-- Write a range of an operand store for a command: the units written lose their poison (R319). -/
def opWrite (d : Dev) (cl side off : Nat) (bs : List (Option Byte)) : Dev :=
  let a := opKey cl side off
  { d with
    opbuf := putScratch d.opbuf a bs
    bPoison := (upto ((a % 128 + bs.length + 127) / 128)).foldl (fun m i => sdel m (a / 128 + i)) d.bPoison }

end Sys2Proof.Machine
end

