-- ==== Sys2Proof/Machine/Access.lean ====
section
/-! DEFINITION. Memory accesses of lanes: their checks at issue (R155 to R157, R162, R163, R288, R306), and what each does where it is
performed (R159, R160, R168, R169, R228, R299 to R303, R308, R413). -/
namespace Sys2Proof.Machine

/-! ### Addresses (R155, R157, R162, R163, R288, R443) -/

/-- The offset operand FB as a signed number (R155). -/
def offOf (e : Env) (ln : Nat) (o : Opnd) : Int := toSigned (readOp e ln o .s32) 32

/-- The virtual address of a global form (R155). -/
def vaOf (e : Env) (ln : Nat) (va off : Opnd) : Nat := (BitVec.ofInt 64 ((readN64 e ln va : Int) + offOf e ln off)).toNat

/-- The end of a squad's private range (R162). -/
def privEnd (s : Squad) : Nat := s.privb.toNat + 512 * ((s.privl.toNat + 3) / 4)

/-- The level of a walk's cause (R313). -/
def walkLvl (c : Cause) : Nat := if c = 0x0D then 6 else 3

/-- What ended the walk a lane waited for, if it ended in a fault for this page (R297). -/
def walkCause (d : Dev) (l : Lane) (va : Nat) : Option Cause :=
  match l.wait with
  | .walk w => match fget d.walks w with
    | some k => if k.va / 65536 = va / 65536 then k.res else none
    | none => none
  | _ => none

/-- The peer's part of an access in the aperture (R288, R443). -/
def peerAddr (d : Dev) (e : Env) (va : Nat) (wr : Bool) (pol : Pol) (sync sysScope : Bool) : Except Chk (Nat × Nat) :=
  let tv := tvAddr va
  if !d.host.peerUp.getLsbD (peerOf va) then .error (.bad 3 0x04 tv)
  else
    let r := Config.peerCheck (peerOf va) (coreOf d e.core).vmid.toNat e.s.asid.toNat (va % 2 ^ 41) wr d.tick
    if r = 1 then .error (.bad 3 0x04 tv)
    else if pol ≠ .sys || (sync && !sysScope) || r = 2 then .error (.bad 4 0x05 tv)
    else .ok (2, va)

/-- Translate a lane's global access: causes of levels 2 to 4 in order, or its space and address there. -/
def globalAddr (d : Dev) (e : Env) (ln va n : Nat) (need : Need) (pol : Pol) (sync sysScope : Bool) : Except Chk (Nat × Nat) :=
  let tv := tvAddr va
  let l := e.s.lane ln
  let user := l.mode == .u
  if va % n ≠ 0 then .error (.bad 2 0x03 tv)
  else if va ≥ 2 ^ 54 then .error (.bad 3 0x04 tv)
  else if isPeer va then peerAddr d e va (need != .r) pol sync sysScope
  else match walkCause d l va with
  | some c => .error (.bad (walkLvl c) c tv)
  | none =>
    match tlbLookup d e.core (coreOf d e.core).vmid e.s.asid va with
    | none => .error (.walk va)
    | some t =>
      if !permOk t need user then .error (.bad 4 0x05 tv)
      else if user && e.s.privb.toNat < va + n && va < privEnd e.s then .error (.bad 4 0x05 tv)
      else .ok (0, t.addr va)

/-- Translate a part of a private access; it is never a global one (R162), and never carries `.sys` (R288). -/
def privAddr (d : Dev) (e : Env) (ln va : Nat) (need : Need) : Except Chk (Nat × Nat) :=
  let tv := tvAddr va
  let l := e.s.lane ln
  if va ≥ 2 ^ 54 then .error (.bad 3 0x04 tv)
  else if isPeer va then .error (.bad 4 0x05 tv)
  else match walkCause d l va with
  | some c => .error (.bad (walkLvl c) c tv)
  | none =>
    match tlbLookup d e.core (coreOf d e.core).vmid e.s.asid va with
    | none => .error (.walk va)
    | some t => if permOk t need (l.mode == .u) then .ok (0, t.addr va) else .error (.bad 4 0x05 tv)

/-- The offset of a private or scratchpad access, exact (R162, R163). -/
def offsetOf (e : Env) (ln : Nat) (a off : Opnd) : Int := (readN32 e ln a : Int) + offOf e ln off

/-- The offset of a scratchpad access, checked (R156, R163). -/
def scChk (g : Group) (a : Int) (n : Nat) : Except Chk Nat :=
  let tv := BitVec.ofInt 64 a
  if a % n ≠ 0 then .error (.bad 2 0x03 tv)
  else if a < 0 || (scrOf g : Int) < a + n then .error (.bad 5 0x07 tv)
  else .ok a.toNat

/-! ### Poison and races (R306, R319) -/

/-- A read of n bytes meets poison. -/
def readsPoison (d : Dev) (space pa n : Nat) : Bool :=
  if space = 0 then poisoned d pa
  else if space = 1 then (upto ((pa % 4 + n + 3) / 4)).any fun i => shas d.scPoison (pa / 4 + i)
  else false

/-- Accesses to a space are tagged; those to peers' memory are not. -/
def tagged (space : Nat) : Bool := space != 2

/-- An earlier store of the lane to the poisoned place is still to be performed: a load that follows it waits for it, since it may clear the poison. DEDUCED, log 19. -/
def storeAhead (d : Dev) (sq ln space pa n : Nat) : Bool :=
  let g := if space = 0 then 128 else 4
  d.accs.any fun p => p.2.sq == sq && p.2.space == space && p.2.isStore && (p.2.lanes.any fun q => q.1 == ln) &&
    decide (p.2.pa / g * g < pa + n) && decide (pa / g * g < p.2.pa + p.2.len)

/-- Level 6 of a read at an address or offset (R157, R319). -/
def poisonChk (d : Dev) (sq ln space pa n : Nat) (tv : Nat) : Chk :=
  if readsPoison d space pa n then (if storeAhead d sq ln space pa n then .stall else .bad 6 0x0D (tvAddr tv)) else .ok

/-- Level 7 of an access of a thread: it is the second of a race (R306). -/
def raceChk (d : Dev) (t : Nat) (vc : Clock) (space pa n tv : Nat) (writes sync : Bool) : Chk :=
  if !tagged space then .ok
  else match ((byteKeys space pa n).zipIdx.find? fun g => raceAt d t vc writes sync g.1) with
    | some g => .bad 7 0x0C (tvAddr ((tv + g.2) / 4 * 4))
    | none => .ok

/-- Levels 6 and 7 of an access at an address or offset (R157). -/
def lateChk (d : Dev) (sq ln : Nat) (vc : Clock) (space pa n : Nat) (tv : Nat) (reads writes sync : Bool) : Chk :=
  (if reads then poisonChk d sq ln space pa n tv else .ok).orElse fun _ => raceChk d (tidOf sq ln) vc space pa n tv writes sync

/-- Tag an access of a thread at an epoch (R306). -/
def tagAccess (d : Dev) (t ep space pa n : Nat) (writes sync : Bool) : Dev :=
  if tagged space then (byteKeys space pa n).foldl (tagSet t ep writes sync) d else d

/-- The lane's clock at issue. -/
def issueClock (e : Env) (ln : Nat) : Clock := (e.s.lane ln).vc
/-- The lane's epoch at issue. -/
def issueEpoch (e : Env) (ln : Nat) : Nat := fgetD (issueClock e ln) (tidOf e.sq ln) 0

/-- Tag a lane's access in its own epoch. -/
def tagLane (d : Dev) (e : Env) (ln space pa n : Nat) (writes sync : Bool) : Dev :=
  tagAccess d (tidOf e.sq ln) (issueEpoch e ln) space pa n writes sync

/-- An instruction without return whose completion a flag counts: its accesses are a thread of their own, whose clock the lanes hold from
here on and which the flag releases alone (R349). DEDUCED, log 7. -/
def claimThread (d : Dev) (e : Env) (lns : List Nat) (wide : Bool) : Dev :=
  lns.foldl (fun d ln => match (e.s.lane ln).claim with
    | none => d
    | some c => setSquad d e.sq fun s =>
        ({ s with claims := fmod s.claims c fun k => { k with vc := fput k.vc (cmdTid c e.sq ln) 1, wide := wide } } : Squad).setLane ln
          fun l => { l with vc := fput l.vc (cmdTid c e.sq ln) 1 }) d

/-- Tag a lane's access of an instruction without return (R306, R349). -/
def tagQuiet (d : Dev) (e : Env) (ln space pa n : Nat) (writes sync : Bool) : Dev :=
  match (e.s.lane ln).claim with
  | some c => tagAccess d (cmdTid c e.sq ln) 1 space pa n writes sync
  | none => tagLane d e ln space pa n writes sync

/-! ### Issuing an access -/

/-- An access of one lane as it is issued. -/
def mkAcc (d : Dev) (e : Env) (ln : Nat) (op : AccOp) (ty : Ty) (pol : Pol) (va : Nat) (pl : Nat × Nat) (len : Nat) : Acc :=
  let l := laneOf d e.sq ln
  { sq := e.sq, grp := e.s.group, core := e.core, lanes := [(ln, l.vc)], pc := e.pc, depth := l.depth, op := op, ty := ty, pol := pol,
    va := va, pa := pl.2, len := len, space := pl.1, claim := (e.s.lane ln).claim, seqs := [(ln, l.seq + 1)], rege := [(ln, l.rege)],
    set := l1Set e.s, stamp := l.acq, uid := d.tick, hdr := l.hdr, vmid := (coreOf d e.core).vmid, asid := e.s.asid
    frel := l.frel.map fun r => (ln, r) }

/-- An access is outstanding. -/
def addAcc (d : Dev) (a : Acc) : Dev := bump { d with accs := fput d.accs d.fresh a }

/-- The lane's epoch ends where it has issued a release (R302). -/
def endEpochs (d : Dev) (sq : Nat) (lns : List Nat) : Dev :=
  setSquad d sq fun s => lns.foldl (fun s ln => s.setLane ln fun l => l.release (tidOf sq ln)) s

/-! ### Where an access is performed -/

/-- The bytes of an access's place as a reader at a policy sees them; the line is made ready first (R160, R290, R300). -/
def readAt (d : Dev) (a : Acc) : Dev × List Byte :=
  match a.space with
  | 0 =>
    let d := loadPrep d a.set (lineOf a.pa) a.pol a.stamp
    (d, (upto a.len).map fun i => loadByte d a.set (a.pa + i) a.pol)
  | 1 => (d, (upto a.len).map fun i => fgetD d.scratch (a.pa + i) 0)
  | _ => (d, (upto a.len).map fun i => Config.peerByte (peerOf a.va) a.vmid.toNat a.asid.toNat (a.va % 2 ^ 41 + i) d.tick)

/-- The threads an access is one of: its lane's, and that of its instruction where a flag counts it (R349). -/
def Acc.threads (a : Acc) : Clock :=
  match a.lanes with
  | [] => []
  | p :: _ => (match a.claim with
      | some c => vcJoin [(tidOf a.sq p.1, fgetD p.2 (tidOf a.sq p.1) 0)] [(cmdTid c a.sq p.1, 1)]
      | none => [(tidOf a.sq p.1, fgetD p.2 (tidOf a.sq p.1) 0)])

/-- What the lanes of an access had released or acquired when it was issued. -/
def Acc.clock (a : Acc) : Clock := a.lanes.foldl (fun c p => vcJoin c p.2) []

/-- Two accesses are of one instruction and reach one line of global memory. -/
def Acc.sameLine (a b : Acc) : Bool := a.sq == b.sq && a.uid == b.uid && b.space == 0 && lineOf b.pa == lineOf a.pa

/-- Of the accesses by which one instruction writes a line whole, no other is still to be performed (R319). -/
def lastOfLine (d : Dev) (a : Acc) : Bool := decide ((d.accs.filter fun p => a.sameLine p.2).length ≤ 1)

/-- Write bytes of an access at its place (R160). A scratchpad word written whole loses its poison, and so does a line that one
instruction writes whole, once all of it is written (R319). -/
def writeAt (d : Dev) (a : Acc) (bs : List (Option Byte)) : Dev :=
  match a.space with
  | 0 =>
    let d := storeBytes d a.set a.pa bs a.pol a.threads
    if a.full && lastOfLine d a then { d with poison := sdel d.poison (lineOf a.pa) } else d
  | 1 =>
    let d := { d with scratch := putScratch d.scratch a.pa bs }
    if a.full then { d with scPoison := (upto (a.len / 4)).foldl (fun m i => sdel m (a.pa / 4 + i)) d.scPoison } else d
  | _ => d

/-- The releases an acquire takes from what it found, at a scope. -/
def takeRels (d : Dev) (sq grp ln : Nat) (s : Scope) (rs : List Release) : Dev :=
  setLane d sq ln fun l =>
    let l := rs.foldl (fun l r => if pairs r s sq grp then l.acquire r.vc 0 false else l) l
    if s = .sq then l else { l with acq := d.tick }

/-- What a synchronising read of a lane finds is acquired, and kept for a later FENCE (R300, R301). -/
def readLane (a : Acc) (rs : List Release) (d : Dev) (ln : Nat) : Dev :=
  let d := setLane d a.sq ln fun l => { l with seen := l.seen ++ rs.filter fun r => !l.seen.contains r }
  match a.acq with
  | some s => takeRels d a.sq a.grp ln s rs
  | none => d

/-- What a synchronising read finds is acquired in each of its lanes. -/
def readSync (d : Dev) (a : Acc) (rs : List Release) : Dev :=
  if !a.sync then d else a.lanes.foldl (fun d p => readLane a rs d p.1) d

/-- The releases that the write of one lane leaves at its place: its own, and those of the FENCEs before it (R301). -/
def laneRels (a : Acc) (p : Nat × Clock) : List Release :=
  (match a.rel with
    | some s => [{ vc := p.2, scope := s, sq := a.sq, grp := a.grp }]
    | none => []) ++
  (if a.sync then (a.frel.filter fun r => r.1 == p.1).map (·.2) else [])

/-- The releases a write leaves at its place. -/
def ownRels (a : Acc) : List Release := (a.lanes.map (laneRels a)).flatten

/-- The lanes of a step read and write its place in ascending order: a lane finds what stood there, and what the lanes before it that have written left
(R168, R301). Then what those that have written release stays at the place. -/
def stepSync (d : Dev) (a : Acc) (n : Nat) (rs : List Release) (wrote : Nat → Bool) : Dev :=
  let rels := fun (p : Nat × Clock) => if wrote p.1 then laneRels a p else []
  let own := (a.lanes.map rels).flatten
  let d := if a.lanes.any fun p => wrote p.1 then leaveRels d a.space a.pa n own fun l => l ++ own else d
  if !a.sync then d else (a.lanes.foldl (fun q p => (readLane a q.2 q.1 p.1, q.2 ++ rels p)) (d, rs)).1

/-- A lane's value as a load of a type writes it, and the type it is written at (R127, R156). -/
def loadVal (t : Ty) (x : Nat) : DWord × Ty :=
  let v := BitVec.ofNat 64 x
  if t.isFloat then (v, t)
  else if t.wid < 32 then (if t.signed then sext v t.wid else v, .n32)
  else (v, t)

/-- Write a loaded value to its destination. -/
def writeDest (d : Dev) (a : Acc) (ln x : Nat) : Dev :=
  let v := loadVal a.ty x
  match a.dest with
  | .none => d
  | .v i _ hi => setSquad d a.sq fun s => s.write ln (.v (BitVec.ofNat 6 i) false false hi) v.2 v.1
  | .w i _ => writeW d a.grp a.sq i a.ty v.1

/-- A FENCE's place is reached (R170, R300): what happens before a release is visible at its scope, an acquire takes what earlier
synchronising reads found. -/
def performFence (d : Dev) (i : Nat) (a : Acc) : Dev :=
  let d := match a.rel with
    | some s => publish d a.clock s
    | none => d
  let d := a.lanes.foldl (fun d p => match a.acq with
    | some s => takeRels d a.sq a.grp p.1 s (laneOf d a.sq p.1).seen
    | none => d) d
  { d with accs := fdel d.accs i }

/-- FENCEs and TLSIGs that nothing holds any more are performed, claims that nothing holds fall, and an ended squad whose accesses are complete
is released. -/
def settle (d : Dev) (sq : Nat) : Dev :=
  (fun d => releaseSquad (settleClaims (settleSignals d) sq) sq) (d.accs.foldl (fun d p => if p.2.isFence && accReady d p.1 p.2 then performFence d p.1 p.2 else d) d)

/-- An access is complete. -/
def dropAcc (d : Dev) (i : Nat) (a : Acc) : Dev := settle { d with accs := fdel d.accs i } a.sq

/-- The report of an access that fails after its lane has exited (R315, R318). -/
def reportLane (d : Dev) (a : Acc) (ln : Nat) : Dev :=
  let g := groupOf d a.grp
  report d (a.core / 7) g.vmid
    { kind := 1, cause := 0x15, exited := !g.killed, killed := g.killed, gpidx := g.idx, sqidx := (squadOf d a.sq).sqidx.toNat, lane := ln,
      pc := (fgetD a.rege ln 0).toNat, tval := a.va, ctx := (squadOf d a.sq).ctx }

/-- A cause that a lane takes once it stands at an access's depth (R315). -/
def holdCause (d : Dev) (a : Acc) (ln : Nat) (code : BitVec 8) : Dev :=
  setLane d a.sq ln fun l => { l with imps := l.imps ++ [⟨a.depth, code, tvAddr a.va⟩] }

/-- Lanes whose access met an uncorrectable error take it at its word (R48, R169, R319); one that has gone on is taken back there, one that stands at another
depth by then takes it once it stands at the access's again, and of one that has exited it is reported. DESIGN CHOICE, log 8. -/
def lateTrap (d : Dev) (a : Acc) : Dev :=
  a.lanes.foldl (fun d p =>
    match fget (squadOf d a.sq).lanes p.1 with
    | none => reportLane d a p.1
    | some l => if l.depth = a.depth then trapTo d a.sq p.1 0x0D (tvAddr a.va) a.pc a.hdr false false else holdCause d a p.1 0x0D) d

/-- Every lane of an access still stands right behind it. -/
def unmoved (d : Dev) (a : Acc) : Bool :=
  a.lanes.all fun p => match fget (squadOf d a.sq).lanes p.1 with
    | some l => l.seq == fgetD a.seqs p.1 0
    | none => false

/-- An access without some of its lanes. -/
def Acc.without (a : Acc) (lns : List Nat) : Acc :=
  let cut := fun {β : Type} (m : FMap β) => m.filter fun p => !lns.contains p.1
  { a with
    lanes := cut a.lanes, seqs := cut a.seqs, rege := cut a.rege, frel := cut a.frel
    op := match a.op with
      | .atom op ret xs => .atom op ret (cut xs)
      | .cas xs => .cas (cut xs)
      | .rbexp xs => .rbexp (cut xs)
      | .rbadd xs => .rbadd (cut xs)
      | .stsa xs => .stsa (cut xs)
      | .ret xs => .ret (cut xs)
      | o => o }

/-- The TLSIGs of a lane that wait for a failed store complete as failed, and no party acquires what they were to release (R175, R315). DESIGN CHOICE, log 8. -/
def loseSignals (d : Dev) (i : Nat) (a : Acc) : Dev :=
  d.cmds.foldl (fun d p =>
    match p.2.kind with
    | .tlsig _ =>
      if i < p.1 && p.2.sq == a.sq && (fkeys a.lanes).contains p.2.lane then completeCmd (setCmd d p.1 fun c => { c with vc := [] }) p.1 true else d
    | _ => d) d

/-- After a store of some lanes has failed, no later release of those lanes is performed: an access that they share with others goes on without them, and
what they release by an earlier FENCE is lost (R315). -/
def loseReleases (d : Dev) (i : Nat) (a : Acc) : Dev :=
  let lns := fkeys a.lanes
  { d with accs := d.accs.filterMap fun q =>
      if q.2.sq != a.sq || q.1 ≤ i then some q
      else
        let b := if q.2.rel.isSome then q.2.without lns else { q.2 with frel := q.2.frel.filter fun r => !lns.contains r.1 }
        if b.lanes.isEmpty then none else some (q.1, b) }

/-- The outstanding accesses of the same instruction that share a lane with this one. -/
def partsOfAcc (d : Dev) (a : Acc) : List Nat :=
  (d.accs.filter fun p => p.2.sq == a.sq && p.2.uid == a.uid && p.2.sameLane a).map (·.1)

/-- No part of the lanes' accesses has been performed yet. -/
def whole (d : Dev) (a : Acc) : Bool := (partsOfAcc d a).length == a.parts

/-- No part of the lanes' accesses is performed any more; what the other lanes of the instruction write is no longer all of its line (R315, R319). -/
def dropParts (d : Dev) (a : Acc) : Dev :=
  { d with accs := ((partsOfAcc d a).foldl fdel d.accs).map fun p => (p.1, if a.sameLine p.2 then { p.2 with full := false } else p.2) }

/-- An error met when a store or atomic without return is performed (R315): nothing of it is written, and it is held for a live lane, reported for one that has
exited; a release of the lane that waits for it is not performed. -/
def impreciseFault (d : Dev) (i : Nat) (a : Acc) : Dev :=
  let d := a.lanes.foldl (fun d p =>
    match fget (squadOf d a.sq).lanes p.1 with
    | some _ => setLane (holdCause d a p.1 0x15) a.sq p.1 fun l => { l with frel := [] }
    | none => reportLane d a p.1) (dropParts d a)
  settle (loseSignals (loseReleases d i a) i a) a.sq

/-! ### Loads and stores -/

/-- A load's data arrives (R39, R159). -/
def performLoad (d : Dev) (i : Nat) (a : Acc) : Dev :=
  let rs := relsAt d a.space a.pa a.len
  let r := readAt d a
  let d := a.lanes.foldl (fun d p => writeDest d a p.1 (leNat r.2)) r.1
  dropAcc (readSync d a rs) i a

/-- A store is performed (R160). -/
def performStore (d : Dev) (i : Nat) (a : Acc) (bs : List (Option Byte)) : Dev :=
  let d := match a.rel with
    | some s => publish d a.clock s
    | none => d
  let own := ownRels a
  let d := leaveRels (writeAt d a bs) a.space a.pa a.len own fun _ => own
  dropAcc (if a.hash then hashWrite d a.grp a.va (a.own.map some) else d) i a

/-! ### Atomics (R167, R168) -/

/-- The new value of a step from the old one and an operand (R167). -/
def atomNew (op : AtomOp) (t : Ty) (o b : DWord) : DWord :=
  match op with
  | .add => if t.isFloat then (addTy t o b).1 else lowBits (o + b) t.wid
  | .min => if t.isFloat then (minmaxTy t false o b).1 else if intVal t b < intVal t o then b else o
  | .max => if t.isFloat then (minmaxTy t true o b).1 else if intVal t o < intVal t b then b else o
  | .and => o &&& b
  | .or => o ||| b
  | .xor => o ^^^ b
  | .exch => b
  | .inc => if b.toNat ≤ o.toNat then 0 else o + 1
  | .dec => if o = 0 || b.toNat < o.toNat then b else o - 1

/-- A step in ascending lane order: the value left and each lane's old value. -/
def foldStep (f : DWord → DWord → DWord) : DWord → FMap DWord → DWord × FMap DWord
  | o, [] => (o, [])
  | o, (ln, b) :: t =>
    let r := foldStep f (f o b) t
    (r.1, (ln, o) :: r.2)

/-- A CAS step in ascending lane order: the value left, each lane's old value, and whether any lane wrote. -/
def casStep : DWord → FMap (DWord × DWord) → DWord × FMap DWord × Bool
  | o, [] => (o, [], false)
  | o, (ln, c, n) :: t =>
    let r := casStep (if o = c then n else o) t
    (r.1, (ln, o) :: r.2.1, o == c || r.2.2)

/-- A fold of additions into a marked set, in ascending lane order (R413). -/
def foldBins (t : Ty) : BinSet → FMap DWord → BinSet × FMap DWord
  | b, [] => (b, [])
  | b, (ln, x) :: l =>
    let r := foldBins t (binAdd b (decTy t x.toNat)) l
    (r.1, (ln, (binRes b t).1) :: r.2)

/-- Write the bytes of a bin set; only a binned write leaves the mark, and sets it (R412). -/
def putBins (d : Dev) (a : Acc) (base : Nat) (b : BinSet) : Dev :=
  let d := b.bytes.zipIdx.foldl (fun d p => if a.pol = .sys then sysPut d (base + p.2) p.1 else l2Put d (base + p.2) p.1) d
  if hostBase ≤ base then d else { d with marks := sadd d.marks (base / 64) }

/-- The bin set at a place, as a reader at a policy sees it. -/
def binsAt (d : Dev) (pol : Pol) (base : Nat) : BinSet :=
  binSetOf (bytesAt (fun x => if pol = .sys then memRead d.mem x else l2Byte d x) base 64)

/-- After a step: the old values wait for the registers, or the access is complete. -/
def stepDone (d : Dev) (i : Nat) (a : Acc) (ret : Bool) (olds : FMap DWord) : Dev :=
  if ret then
    settle { d with accs := fput d.accs i { a with op := .ret olds, len := 0, rel := none, acq := none, sync := false } } a.sq
  else dropAcc d i a

/-- The value, the old values, and what is written where a step is applied to plain bytes. -/
def applyStep (d : Dev) (a : Acc) (new : DWord) (wrote : Bool) : Dev :=
  if !wrote then d
  else
    let bs := (natLe new.toNat a.len).map some
    let d := writeAt d a bs
    if a.hash then hashWrite d a.grp a.va bs else d

/-- The lanes of a CAS step whose new value was written: those that found the value they compare with. -/
def casWrote (xs : FMap (DWord × DWord)) (olds : FMap DWord) (ln : Nat) : Bool :=
  match fget xs ln, fget olds ln with
  | some x, some o => o == x.1
  | _, _ => false

/-- An atomic step is applied (R168, R308). A fold into a marked set hashes as its final value what the set then gives (R399, R413). DESIGN CHOICE, log 33. -/
def performAtomic (d : Dev) (i : Nat) (a : Acc) : Dev :=
  let rs := relsAt d a.space a.pa a.len
  let d := match a.rel with
    | some s => publish d a.clock s
    | none => d
  let r := readAt d a
  let o := BitVec.ofNat 64 (leNat r.2)
  let d := r.1
  let base := a.pa / 64 * 64
  let fin := fun (d : Dev) (ret : Bool) (olds : FMap DWord) (wrote : Nat → Bool) =>
    let d := match watchFor d (squadOf d a.sq) a.va with
      | some (k, w) => if w.mode = .record then recordStep d k (squadOf d a.sq).sqidx.toNat else d
      | none => d
    stepDone (stepSync d a a.len rs wrote) i a ret olds
  let bins := fun (d : Dev) (f : BinSet → BinSet) =>
    let d := if a.space = 0 then putBins d a a.pa (f (binsAt d a.pol a.pa)) else d
    dropAcc (stepSync d a 36 rs fun _ => true) i a
  match a.op with
  | .atom op ret xs =>
    if a.space = 0 && op = .add && a.ty.isFloat && shas d.marks (a.pa / 64) then
      let f := foldBins a.ty (binsAt d a.pol base) xs
      let d := putBins d a base f.1
      fin (if a.hash then hashWrite d a.grp a.va ((natLe (binRes f.1 a.ty).1.toNat a.len).map some) else d) ret f.2 fun _ => true
    else
      let f := foldStep (atomNew op a.ty) o xs
      fin (applyStep d a f.1 true) ret f.2 fun _ => true
  | .cas xs =>
    let f := casStep o xs
    fin (applyStep d a f.1 f.2.2) (a.dest != .none) f.2.1 (casWrote xs f.2.1)
  | .stsa xs =>
    let f := foldStep (atomNew .add a.ty) o xs
    dropAcc (stepSync (writeAt d a ((natLe f.1.toNat a.len).map some)) a a.len rs fun _ => true) i a
  | .rbexp xs => bins d fun b => xs.foldl (fun b p => binExp b (decTy a.ty p.2.toNat)) b
  | .rbadd xs => bins d fun b => xs.foldl (fun b p => binAdd b (decTy a.ty p.2.toNat)) b
  | _ => d

/-- The old values of a step arrive in the lanes' registers (R39). -/
def performRet (d : Dev) (i : Nat) (a : Acc) (xs : FMap DWord) : Dev :=
  dropAcc (xs.foldl (fun d p => writeDest d a p.1 p.2.toNat) d) i a

/-- The watched steps of a lane are taken in its order, and those of one instruction in ascending address order (R398, R415). -/
def stepTurn (d : Dev) (i : Nat) (a : Acc) : Bool :=
  match watchFor d (squadOf d a.sq) a.va with
  | none => true
  | some (k, _) => d.accs.all fun p => i ≤ p.1 || p.2.sq != a.sq || !(p.2.pc == a.pc || p.2.sameLane a) || !p.2.isStep ||
      (match watchFor d (squadOf d a.sq) p.2.va with
        | some (m, _) => m != k
        | none => true)

end Sys2Proof.Machine
end

