-- ==== Sys2Proof/Machine/LoadStore.lean ====
section
/-! DEFINITION. Loads and stores: global, private, scratchpad, uniform; prefetch and cache control (R155 to R165). -/
namespace Sys2Proof.Machine

/-- Bytes of an access. -/
def accBytes (t : Ty) (x4 : Bool) : Nat := if x4 then 16 else t.wid / 8

/-- The lanes of the bundle at hand whose guard holds. -/
def execLanes (d : Dev) (r : Raw) : List Nat :=
  match d.cur with
  | some b => b.lanes.filter fun ln => ((squadOf d b.sq).lane ln).qbit (r.h.grd.toNat % 8) ^^ r.h.grd.getLsbD 3
  | none => []

/-- A memory form of a lane waits while an acquire of the lane is outstanding (R300, R303). -/
def afterAcquire (d : Dev) (e : Env) (ln : Nat) (c : Unit → Chk) : Chk := if acqPending d e.sq ln then .stall else c ()

/-- What an address check gives where it succeeds. -/
def placeOr (r : Except Chk (Nat × Nat)) : Nat × Nat :=
  match r with
  | .ok p => p
  | .error _ => (0, 0)

/-- The check of a global access (R157). -/
def globalChk (need : Need) (pol : Pol) (n : Nat) (reads writes sync sysScope : Bool) (va : Env → Nat → Nat)
    (mid : Dev → Env → Nat → Chk) (d : Dev) (e : Env) (ln : Nat) : Chk :=
  afterAcquire d e ln fun _ =>
    match globalAddr d e ln (va e ln) n need pol sync sysScope with
    | .error c => c
    | .ok p => (mid d e ln).orElse fun _ => lateChk d e.sq ln (issueClock e ln) p.1 p.2 n (va e ln) reads writes sync

/-- No check of level 5. -/
def noMid (_ : Dev) (_ : Env) (_ : Nat) : Chk := .ok

/-- The parts of a load: offset, width, and destination (R156, R159). -/
def loadParts (t : Ty) (x4 : Bool) (d : Opnd) : List (Nat × Ty × Dest) :=
  match d with
  | .v i _ _ h => if x4 then (upto 4).map fun j => (4 * j, Ty.none, Dest.v (i.toNat + j) .none false) else [(0, t, .v i.toNat t h)]
  | .w i _ _ _ => [(0, t, .w i.toNat t)]
  | _ => [(0, t, .none)]

/-- Issue the loads of one lane at a place. -/
def issueLoad (t : Ty) (x4 : Bool) (pol : Pol) (d : Opnd) (f : Acc → Acc) (tag sync : Bool) (va : Nat) (pl : Nat × Nat) (e : Env) (ln : Nat)
    (dv : Dev) : Dev :=
  let ps := loadParts t x4 d
  let dv := ps.foldl (fun dv p =>
    addAcc dv { f (mkAcc dv e ln .load p.2.1 pol (va + p.1) (pl.1, pl.2 + p.1) (p.2.1.wid / 8)) with dest := p.2.2, parts := ps.length }) dv
  if tag then tagLane dv e ln pl.1 pl.2 (accBytes t x4) false sync else dv

/-- One lane's bytes of a store: lane, address as the form names it, place, bytes. -/
structure StoreReq where
  ln : Nat
  va : Nat
  pl : Nat × Nat
  bs : List Byte

/-- A byte that a higher lane of the instruction also writes is left to that lane (R159). -/
def maskStores : List StoreReq → List (StoreReq × List (Option Byte))
  | [] => []
  | r :: t =>
    (r, r.bs.zipIdx.map fun p =>
      if t.any fun q => q.pl.1 == r.pl.1 && decide (q.pl.2 ≤ r.pl.2 + p.2) && decide (r.pl.2 + p.2 < q.pl.2 + q.bs.length) then none
      else some p.1) :: maskStores t

/-- The bytes of a line that the stores of one instruction write (R319). -/
def lineCount (l : List (StoreReq × List (Option Byte))) (line : Nat) : Nat :=
  l.foldl (fun n p => n + ((p.2.zipIdx.filter fun q => q.1.isSome && lineOf (p.1.pl.2 + q.2) == line).length)) 0

/-- Issue the stores of one instruction, each lane's in parts of a width. -/
def issueStores (t : Ty) (pol : Pol) (part : Nat) (f : Acc → Acc) (tag sync : Bool) (rs : List StoreReq) (e : Env) (dv : Dev) : Dev :=
  let ms := maskStores rs
  let dv := claimThread dv e (rs.map (·.ln)) (pol != .l1)
  ms.foldl (fun dv p =>
    let r := p.1
    let parts := (rs.filter fun q => q.ln == r.ln).foldl (fun n q => n + q.bs.length / part) 0
    let full := if r.pl.1 = 0 then lineCount ms (lineOf r.pl.2) = 128 else 4 ≤ r.bs.length
    let dv := (upto (r.bs.length / part)).foldl (fun dv j =>
      addAcc dv { f (mkAcc dv e r.ln (.store ((p.2.drop (part * j)).take part)) t pol (r.va + part * j) (r.pl.1, r.pl.2 + part * j) part)
        with full := full, parts := parts, own := (r.bs.drop (part * j)).take part }) dv
    if tag then tagQuiet dv e r.ln r.pl.1 r.pl.2 r.bs.length true sync else dv) dv

/-- The bytes a store of a lane writes (R156). -/
def storeData (e : Env) (ln : Nat) (t : Ty) (x4 : Bool) (d : Opnd) : List Byte :=
  if x4 then ((readBlock e ln d 4).map fun w => natLe w.toNat 4).flatten else natLe (readOp e ln d t).toNat (t.wid / 8)

/-- LD (R159). -/
def ldAct (t : Ty) (x4 : Bool) (pol : Pol) (d va off : Opnd) (e : Env) (lns : List Nat) (dv : Dev) : Dev :=
  advanceAll (lns.foldl (fun dv ln =>
    let a := vaOf e ln va off
    issueLoad t x4 pol d id true false a (placeOr (globalAddr dv e ln a (accBytes t x4) .r pol false false)) e ln dv) dv) e.sq lns

/-- ST and STREL (R159, R170). -/
def stAct (t : Ty) (x4 : Bool) (pol : Pol) (rel : Option Scope) (d va off : Opnd) (e : Env) (lns : List Nat) (dv : Dev) : Dev :=
  let sync := rel.isSome
  let rs := lns.map fun ln =>
    let a := vaOf e ln va off
    (⟨ln, a, placeOr (globalAddr dv e ln a (accBytes t x4) .w pol sync (rel == some .sys)), storeData e ln t x4 d⟩ : StoreReq)
  let dv := issueStores t pol (if x4 then 4 else t.wid / 8) (fun a => { a with hash := true, rel := rel, sync := sync }) true sync rs e dv
  advanceAll (if sync then endEpochs dv e.sq lns else dv) e.sq lns

/-- The 4-byte parts of a private access at offset a, or its one part: offset within the access, address, width (R162). -/
def privParts (s : Squad) (ln a n : Nat) : List (Nat × Nat × Nat) :=
  let place := fun k => s.privb.toNat + k / 4 * 512 + ln * 4 + k % 4
  if n ≤ 4 then [(0, place a, n)] else (upto (n / 4)).map fun j => (4 * j, place (a + 4 * j), 4)

/-- The check of a private access (R157, R162): alignment and limit come before any translation. -/
def privChk (need : Need) (n : Nat) (a off : Opnd) (d : Dev) (e : Env) (ln : Nat) : Chk :=
  afterAcquire d e ln fun _ =>
    let k := offsetOf e ln a off
    if k % n ≠ 0 then .bad 2 0x03 (BitVec.ofInt 64 k)
    else if k < 0 || (e.s.privl.toNat : Int) < k + n then .bad 5 0x06 (BitVec.ofInt 64 k)
    else firstChk ((privParts e.s ln k.toNat n).map fun p =>
      match privAddr d e ln p.2.1 need with
      | .error c => c
      | .ok pl => if need = .r then poisonChk d e.sq ln pl.1 pl.2 p.2.2 p.2.1 else .ok)

/-- LDP (R162). -/
def ldpAct (t : Ty) (x4 : Bool) (d a off : Opnd) (e : Env) (lns : List Nat) (dv : Dev) : Dev :=
  advanceAll (lns.foldl (fun dv ln =>
    let n := accBytes t x4
    let ps := privParts e.s ln (offsetOf e ln a off).toNat n
    match d with
    | .v i _ _ h => ps.foldl (fun dv p =>
        let ty := if n ≤ 4 then t else Ty.none
        addAcc dv { mkAcc dv e ln .load ty .l1 p.2.1 (placeOr (privAddr dv e ln p.2.1 .r)) p.2.2 with
          dest := .v (i.toNat + p.1 / 4) ty h, parts := ps.length }) dv
    | _ => dv) dv) e.sq lns

/-- STP (R162). -/
def stpAct (t : Ty) (x4 : Bool) (d a off : Opnd) (e : Env) (lns : List Nat) (dv : Dev) : Dev :=
  let n := accBytes t x4
  let rs := (lns.map fun ln =>
    let bs := storeData e ln t x4 d
    (privParts e.s ln (offsetOf e ln a off).toNat n).map fun p =>
      (⟨ln, p.2.1, placeOr (privAddr dv e ln p.2.1 .w), (bs.drop p.1).take p.2.2⟩ : StoreReq)).flatten
  advanceAll (issueStores t .l1 (min n 4) id false false rs e dv) e.sq lns

/-- The check of a scratchpad access (R157, R163). -/
def scratchChk (n : Nat) (reads writes sync : Bool) (a off : Opnd) (mid : Dev → Env → Nat → Chk) (d : Dev) (e : Env) (ln : Nat) : Chk :=
  afterAcquire d e ln fun _ =>
    match scChk e.g (offsetOf e ln a off) n with
    | .error c => c
    | .ok k => (mid d e ln).orElse fun _ => lateChk d e.sq ln (issueClock e ln) 1 (scPlace e.g k) n k reads writes sync

/-- LDS (R163). -/
def ldsAct (t : Ty) (x4 : Bool) (d a off : Opnd) (e : Env) (lns : List Nat) (dv : Dev) : Dev :=
  advanceAll (lns.foldl (fun dv ln =>
    let k := (offsetOf e ln a off).toNat
    issueLoad t x4 .l2 d id true false k (1, scPlace e.g k) e ln dv) dv) e.sq lns

/-- STS (R163). -/
def stsAct (t : Ty) (x4 : Bool) (d a off : Opnd) (e : Env) (lns : List Nat) (dv : Dev) : Dev :=
  let rs := lns.map fun ln =>
    let k := (offsetOf e ln a off).toNat
    (⟨ln, k, (1, scPlace e.g k), storeData e ln t x4 d⟩ : StoreReq)
  advanceAll (issueStores t .l2 (if x4 then 4 else t.wid / 8) id true false rs e dv) e.sq lns

/-- Lanes that name one place, ascending, with what each brings: one step (R163, R168). -/
def stepsOf {β : Type} (l : List (Nat × (Nat × Nat) × β)) : List ((Nat × Nat) × List (Nat × β)) :=
  let keys := l.foldl (fun ks p => if ks.contains p.2.1 then ks else ks ++ [p.2.1]) ([] : List (Nat × Nat))
  keys.map fun k => (k, (l.filter fun p => p.2.1 == k).map fun p => (p.1, p.2.2))

/-- An access of several lanes as one step. -/
def mkStep (d : Dev) (e : Env) (lns : List Nat) (op : AccOp) (ty : Ty) (pol : Pol) (va : Nat) (pl : Nat × Nat) (len : Nat) : Acc :=
  let a := mkAcc d e (lns.headD 0) op ty pol va pl len
  { a with
    lanes := lns.map fun ln => (ln, (laneOf d e.sq ln).vc)
    seqs := lns.map fun ln => (ln, (laneOf d e.sq ln).seq + 1)
    rege := lns.map fun ln => (ln, (laneOf d e.sq ln).rege)
    frel := (lns.map fun ln => (laneOf d e.sq ln).frel.map fun r => (ln, r)).flatten }

/-- The word of a STSA and the squads that have added to it in the epoch (R163): one squad, or more than one as a number no squad has. -/
def stsaMark (g : Group) (word sq : Nat) : Group :=
  { g with stsa := fput g.stsa word (match fget g.stsa word with
      | none => sq
      | some u => if u = sq then sq else 18446744073709551616) }

/-- A word that another squad has added to in the epoch, in deterministic mode at `.f32` (R163): every executing lane takes the cause. -/
def stsaMid (r : Raw) (t : Ty) (a off : Opnd) (d : Dev) (e : Env) (ln : Nat) : Chk :=
  if e.s.det && t == .f32 && (execLanes d r).any fun m =>
      match scChk e.g (offsetOf e m a off) 4 with
      | .ok k => (match fget e.g.stsa (k / 4) with
          | some u => u != e.sq
          | none => false)
      | .error _ => false
  then .bad 5 0x0B (BitVec.ofInt 64 (offsetOf e ln a off)) else .ok

/-- STSA (R163). -/
def stsaAct (t : Ty) (d a off : Opnd) (e : Env) (lns : List Nat) (dv : Dev) : Dev :=
  let k := fun ln => (offsetOf e ln a off).toNat
  let steps := stepsOf (lns.map fun ln => (ln, (k ln, scPlace e.g (k ln)), readOp e ln d t))
  let dv := claimThread dv e lns true
  let dv := steps.foldl (fun dv s =>
    addAcc dv { mkStep dv e (s.2.map (·.1)) (.stsa s.2) t .l2 s.1.1 (1, s.1.2) 4 with sync := true }) dv
  let dv := lns.foldl (fun dv ln => tagQuiet dv e ln 1 (scPlace e.g (k ln)) 4 true true) dv
  let dv := setGroup dv e.s.group fun g => lns.foldl (fun g ln => stsaMark g (k ln / 4) e.sq) g
  advanceAll dv e.sq lns

/-- The check of LDW (R161): the lowest executing lane's address; the single-writer rule in every lane. -/
def ldwChk (r : Raw) (t : Ty) (pol : Pol) (d va off : Opnd) (dv : Dev) (e : Env) (ln : Nat) : Chk :=
  let mid := fun dv (e : Env) (_ : Nat) => wChk e.s.group e.sq dv (wNamed (wIdx d) t)
  if (execLanes dv r).headD 0 = ln then globalChk .r pol (t.wid / 8) true false false false (fun e ln => vaOf e ln va off) mid dv e ln
  else mid dv e ln

/-- LDW (R161): where the lowest executing lane takes part, its load writes the uniform register; this squad is its writer from now on. -/
def ldwAct (r : Raw) (t : Ty) (pol : Pol) (d va off : Opnd) (e : Env) (lns : List Nat) (dv : Dev) : Dev :=
  let ln := (execLanes dv r).headD 0
  if !lns.contains ln then advanceAll dv e.sq lns
  else
    let a := vaOf e ln va off
    let dv := (wNamed (wIdx d) t).foldl (fun dv i => setGroup dv e.s.group fun g => g.setW e.sq i (g.wFor e.sq i)) dv
    advanceAll (issueLoad t false pol d id true false a (placeOr (globalAddr dv e ln a (t.wid / 8) .r pol false false)) e ln dv) e.sq lns

/-- A lane's stores to a line are still outstanding. -/
def linePending (d : Dev) (sq ln pa : Nat) : Bool :=
  d.accs.any fun p => p.2.sq == sq && p.2.space == 0 && lineOf p.2.pa == lineOf pa && p.2.lanes.any fun q => q.1 == ln

/-- The line CCTL acts on, where its address has a translation (R165). -/
def cctlAddr (d : Dev) (e : Env) (ln : Nat) (va off : Opnd) : Dev × Option Nat :=
  match xlatNow d e.core (coreOf d e.core).vmid e.s.asid (vaOf e ln va off) .r ((e.s.lane ln).mode == .u) with
  | (d, .ok pa) => (d, some pa)
  | (d, .error 0x05) =>
    (d, (tlbLookup d e.core (coreOf d e.core).vmid e.s.asid (vaOf e ln va off)).map fun t => t.addr (vaOf e ln va off))
  | (d, .error _) => (d, none)

/-- CCTL on a line waits for the lane's own stores to it (R303). -/
def cctlChk (va off : Opnd) (d : Dev) (e : Env) (ln : Nat) : Chk :=
  match (cctlAddr d e ln va off).2 with
  | some pa => if linePending d e.sq ln pa then .stall else .ok
  | none => .ok

/-- CCTL on the line of each lane (R165). -/
def cctlAct (f : Dev → Nat → Dev) (va off : Opnd) (e : Env) (lns : List Nat) (dv : Dev) : Dev :=
  advanceAll (lns.foldl (fun dv ln =>
    match cctlAddr dv e ln va off with
    | (dv, some pa) => f dv (lineOf pa)
    | (dv, none) => dv) dv) e.sq lns

/-- The cores a CCTL.iinv reaches (R165). -/
def iinvCores (d : Dev) (e : Env) (s : Scope) : Option (List Nat) :=
  match s with
  | .sq => some [e.core]
  | .gp => some (e.g.members.map fun u => (squadOf d u).core)
  | _ => none

/-- Drop a line from instruction fetch caches (R165). -/
def iinvLine (cores : Option (List Nat)) (d : Dev) (line : Nat) : Dev :=
  { d with fetch := d.fetch.filter fun p =>
      !(p.1 % 1152921504606846976 / 32 == line && (match cores with
        | some l => l.contains (p.1 / 1152921504606846976)
        | none => true)) }

/-- Every dirty line of a core's L1 is written to L2: those of its own set, and those of its cluster's fused set that stand in it (R165, R289). -/
def wbAll (d : Dev) (core : Nat) : Dev :=
  d.l1.foldl (fun d p => if l1Core (p.1 % 256) (p.1 / 256) = core && p.2.dirty ≠ 0#128 then l1WriteBack d (p.1 % 256) (p.1 / 256) else d) d

/-- The lane has stores outstanding in its L1. -/
def l1Pending (d : Dev) (sq ln : Nat) : Bool :=
  d.accs.any fun p => p.2.sq == sq && p.2.space == 0 && p.2.pol == .l1 && p.2.lanes.any fun q => q.1 == ln

/-- LD.t.pol vD, va, off (R159) -/
def execLd (h : Hd) (t : Ty) (x4 : Bool) (pol : Pol) (d va off : Opnd) : State → Host.Outcome State Fault Refusal :=
  onDev (issueChk (rawOf (.ld h t x4 pol d va off)) (globalChk .r pol (accBytes t x4) true false false false (fun e ln => vaOf e ln va off) noMid)
    (ldAct t x4 pol d va off))

/-- ST.t.pol vS, va, off (R159) -/
def execSt (h : Hd) (t : Ty) (x4 : Bool) (pol : Pol) (d va off : Opnd) : State → Host.Outcome State Fault Refusal :=
  onDev (issueChk (rawOf (.st h t x4 pol d va off)) (globalChk .w pol (accBytes t x4) false true false false (fun e ln => vaOf e ln va off) noMid)
    (stAct t x4 pol none d va off))

/-- LDP.t (private or scratchpad offset) (R162) -/
def execLdp (h : Hd) (t : Ty) (x4 : Bool) (d a off : Opnd) : State → Host.Outcome State Fault Refusal :=
  onDev (issueChk (rawOf (.ldp h t x4 d a off)) (privChk .r (accBytes t x4) a off) (ldpAct t x4 d a off))

/-- STP.t (private or scratchpad offset) (R162) -/
def execStp (h : Hd) (t : Ty) (x4 : Bool) (d a off : Opnd) : State → Host.Outcome State Fault Refusal :=
  onDev (issueChk (rawOf (.stp h t x4 d a off)) (privChk .w (accBytes t x4) a off) (stpAct t x4 d a off))

/-- LDS.t (private or scratchpad offset) (R163) -/
def execLds (h : Hd) (t : Ty) (x4 : Bool) (d a off : Opnd) : State → Host.Outcome State Fault Refusal :=
  onDev (issueChk (rawOf (.lds h t x4 d a off)) (scratchChk (accBytes t x4) true false false a off noMid) (ldsAct t x4 d a off))

/-- STS.t (private or scratchpad offset) (R163) -/
def execSts (h : Hd) (t : Ty) (x4 : Bool) (d a off : Opnd) : State → Host.Outcome State Fault Refusal :=
  onDev (issueChk (rawOf (.sts h t x4 d a off)) (scratchChk (accBytes t x4) false true false a off noMid) (stsAct t x4 d a off))

/-- STSA.t vS, a, off (R163) -/
def execStsa (h : Hd) (t : Ty) (d a off : Opnd) : State → Host.Outcome State Fault Refusal :=
  onDev (issueChk (rawOf (.stsa h t d a off)) (scratchChk 4 true true true a off (stsaMid (rawOf (.stsa h t d a off)) t a off)) (stsaAct t d a off))

/-- LDW.t.pol wD, va, off (R161) -/
def execLdw (h : Hd) (t : Ty) (pol : Pol) (d va off : Opnd) : State → Host.Outcome State Fault Refusal :=
  onDev (issueChk (rawOf (.ldw h t pol d va off)) (ldwChk (rawOf (.ldw h t pol d va off)) t pol d va off) (ldwAct (rawOf (.ldw h t pol d va off)) t pol d va off))

/-- PREF.pol va, off (R164) -/
def execPref (h : Hd) (pol : Pol) (va off : Opnd) : State → Host.Outcome State Fault Refusal :=
  onDev (issue (rawOf (.pref h pol va off)) (fun e lns dv => advanceAll dv e.sq lns))

/-- CCTL.wb va, off (R165) -/
def execCctlWb (h : Hd) (va off : Opnd) : State → Host.Outcome State Fault Refusal :=
  onDev (issueChk (rawOf (.cctlWb h va off)) (cctlChk va off) (fun e => cctlAct (fun dv line => l1WriteBack dv (l1Set e.s) line) va off e))

/-- CCTL.inv va, off (R165) -/
def execCctlInv (h : Hd) (va off : Opnd) : State → Host.Outcome State Fault Refusal :=
  onDev (issueChk (rawOf (.cctlInv h va off)) (cctlChk va off) (fun e => cctlAct (fun dv line => l1Drop dv (l1Set e.s) line) va off e))

/-- CCTL.iinv.scope va, off (R165) -/
def execCctlIinv (h : Hd) (scope : Scope) (va off : Opnd) : State → Host.Outcome State Fault Refusal :=
  onDev (issueChk (rawOf (.cctlIinv h scope va off)) (cctlChk va off) (fun e lns dv => cctlAct (iinvLine (iinvCores dv e scope)) va off e lns dv))

/-- CCTL.wball (R165) -/
def execCctlWball (h : Hd) : State → Host.Outcome State Fault Refusal :=
  onDev (issueChk (rawOf (.cctlWball h)) (fun dv e ln => if l1Pending dv e.sq ln then .stall else .ok)
    (fun e lns dv => advanceAll (wbAll dv e.core) e.sq lns))

end Sys2Proof.Machine
end

