-- ==== Sys2Proof/Machine/Atomic.lean ====
section
/-! DEFINITION. Atomics and fences (R166 to R171). -/
namespace Sys2Proof.Machine

/-- ATOM, CAS and RED forms that deterministic mode forbids (R171). -/
def detForbids (red : Bool) (op : AtomOp) (t : Ty) (s : Scope) : Bool :=
  if red then
    match s with
    | .dev | .sys => true
    | .gp => t.isFloat && (op == .add || op == .min || op == .max)
    | .sq => false
  else s != .sq

/-- The level-5 check of an atomic (R171). -/
def detMid (bad : Bool) (va : Opnd) (_ : Dev) (e : Env) (ln : Nat) : Chk :=
  if e.s.det && bad then .bad 5 0x0B (tvAddr (readN64 e ln va)) else .ok

/-- The check of an atomic (R157, R288). -/
def atomChk (t : Ty) (pol : Pol) (s : Scope) (bad : Bool) (va : Opnd) : Dev → Env → Nat → Chk :=
  globalChk .rw pol (t.wid / 8) true true true (s == .sys) (fun e ln => readN64 e ln va) (detMid bad va)

/-- A replay gates the steps a squad makes to an address (R401). -/
def gates (d : Dev) (s : Squad) (va : Nat) : Bool :=
  match watchFor d s va with
  | some (_, w) => w.mode == .play
  | none => false

/-- Insert a step, with its address, by that address (R398). -/
def insStep {β : Type} (p : Nat × β) : List (Nat × β) → List (Nat × β)
  | [] => [p]
  | q :: t => if p.1 < q.1 then p :: q :: t else q :: insStep p t

/-- Issue the steps of one atomic instruction (R168): watched steps in ascending address order (R398); those a replay gates hold their lanes
at the word (R401), which in deterministic mode is a point at which the core switches squads (R416). -/
def issueSteps {β : Type} (op : FMap β → AccOp) (t : Ty) (pol : Pol) (scope : Scope) (acq rel : Bool) (d va : Opnd) (x : Env → Nat → β)
    (e : Env) (lns : List Nat) (dv : Dev) : Dev :=
  let place := fun ln => placeOr (globalAddr dv e ln (readN64 e ln va) (t.wid / 8) .rw pol true (scope == .sys))
  let steps := ((stepsOf (lns.map fun ln => (ln, place ln, x e ln))).map fun s => (readN64 e (s.2.headD (0, x e 0)).1 va, s)).foldr insStep []
  let dest : Dest := match d with
    | .v i _ _ h => .v i.toNat t h
    | _ => .none
  let quiet := d == .none
  let dv := if quiet then claimThread dv e lns true else dv
  let dv := steps.foldl (fun dv s =>
    let m := mkStep dv e (s.2.2.map (·.1)) (op s.2.2) t pol s.1 s.2.1 (t.wid / 8)
    addAcc dv { m with
      dest := dest, sync := true, hash := true, gated := gates dv e.s s.1
      acq := if acq then some scope else none, rel := if rel then some scope else none }) dv
  let dv := lns.foldl (fun dv ln => (if quiet then tagQuiet else tagLane) dv e ln (place ln).1 (place ln).2 (t.wid / 8) true true) dv
  let dv := if rel then endEpochs dv e.sq lns else dv
  let held := lns.filter fun ln => gates dv e.s (readN64 e ln va)
  let dv := holdLanes (advanceAll dv e.sq (lns.filter fun ln => !held.contains ln)) e.sq .gate held
  if held.isEmpty then dv else detPass dv e.sq

/-- FENCE (R170): its place in each lane's order; a release or acquire that nothing holds is made at once. -/
def fenceAct (kind : FenceKind) (scope : Scope) (e : Env) (lns : List Nat) (dv : Dev) : Dev :=
  let rel := kind != .acq
  let dv := lns.foldl (fun dv ln =>
    let a := mkAcc dv e ln (.fence kind) .none .l2 0 (0, 0) 0
    let dv := addAcc dv { a with rel := if rel then some scope else none, acq := if kind != .rel then some scope else none }
    if rel then
      setLane dv e.sq ln fun l => { l with frel := l.frel ++ [{ vc := l.vc, scope := scope, sq := e.sq, grp := e.s.group }] }
    else dv) dv
  settle (advanceAll (if rel then endEpochs dv e.sq lns else dv) e.sq lns) e.sq

/-- ATOM.op.t.pol.scope[.ar] vD, va, b (R168) -/
def execAtom (h : Hd) (op : AtomOp) (t : Ty) (pol : Pol) (scope : Scope) (ar : Bool) (d va b : Opnd) : State → Host.Outcome State Fault Refusal :=
  onDev (issueChk (rawOf (.atom h op t pol scope ar d va b)) (atomChk t pol scope (detForbids false op t scope) va)
    (issueSteps (fun xs => .atom op (d != .none) xs) t pol scope ar ar d va fun e ln => readOp e ln b t))

/-- CAS.t.pol.scope[.ar] vD, va, cmp, new (R168) -/
def execCas (h : Hd) (t : Ty) (pol : Pol) (scope : Scope) (ar : Bool) (d va cmp new : Opnd) : State → Host.Outcome State Fault Refusal :=
  onDev (issueChk (rawOf (.cas h t pol scope ar d va cmp new)) (atomChk t pol scope (detForbids false .exch t scope) va)
    (issueSteps (fun xs => .cas xs) t pol scope ar ar d va fun e ln => (readOp e ln cmp t, readOp e ln new t)))

/-- RED.op.t.pol.scope[.rel] va, b (R168) -/
def execRed (h : Hd) (op : AtomOp) (t : Ty) (pol : Pol) (scope : Scope) (rel : Bool) (va b : Opnd) : State → Host.Outcome State Fault Refusal :=
  onDev (issueChk (rawOf (.red h op t pol scope rel va b)) (atomChk t pol scope (detForbids true op t scope) va)
    (issueSteps (fun xs => .atom op false xs) t pol scope false rel .none va fun e ln => readOp e ln b t))

/-- FENCE.kind.scope (R170) -/
def execFence (h : Hd) (kind : FenceKind) (scope : Scope) : State → Host.Outcome State Fault Refusal :=
  onDev (issueChk (rawOf (.fence h kind scope)) (fun dv e ln => if acqPending dv e.sq ln then .stall else .ok) (fenceAct kind scope))

/-- LDACQ.t.pol.scope vD, va, off (R170) -/
def execLdacq (h : Hd) (t : Ty) (pol : Pol) (scope : Scope) (d va off : Opnd) : State → Host.Outcome State Fault Refusal :=
  onDev (issueChk (rawOf (.ldacq h t pol scope d va off)) (globalChk .r pol (t.wid / 8) true false true (scope == .sys) (fun e ln => vaOf e ln va off) noMid) fun e lns dv =>
    advanceAll (lns.foldl (fun dv ln =>
      let a := vaOf e ln va off
      let pl := placeOr (globalAddr dv e ln a (t.wid / 8) .r pol true (scope == .sys))
      issueLoad t false pol d (fun x => { x with sync := true, acq := some scope }) true true a pl e ln dv) dv) e.sq lns)

/-- STREL.t.pol.scope vS, va, off (R170) -/
def execStrel (h : Hd) (t : Ty) (pol : Pol) (scope : Scope) (d va off : Opnd) : State → Host.Outcome State Fault Refusal :=
  onDev (issueChk (rawOf (.strel h t pol scope d va off)) (globalChk .w pol (t.wid / 8) false true true (scope == .sys) (fun e ln => vaOf e ln va off) noMid)
    (stAct t false pol (some scope) d va off))

end Sys2Proof.Machine
end

