-- ==== Sys2Proof/Machine/Control.lean ====
section
/-! DEFINITION. Clause entry and the control forms (R33 to R37, R95 to R105). -/
namespace Sys2Proof.Machine

/-- A lane enters a clause whose header it has executed (R36). -/
def Lane.enterClause (l : Lane) (c : Clause) : Lane :=
  { l.leave with clause := c, pc := l.pc + 12, hofs := 1, reload := false }

/-- Entry into a clause acquires what completed on the flags it waits for (R349). -/
def Squad.acquireFlags (s : Squad) (w : BitVec 12) (tick : Nat) (l : Lane) : Lane :=
  (upto 12).foldl (fun l i => if w.getLsbD i then l.acquire (s.flagDone i).1 tick (s.flagDone i).2 else l) l

/-- A lane is to be held at its mooring at the header it is about to enter (R100). -/
def Lane.atMoor (l : Lane) : Bool := l.depth == 0 && l.moor.v && l.moor.addr == l.pc

/-- The bundle executes a clause header (R36, R100): lanes moored here are held; the others wait until the flags of WAIT are clear, and
enter. -/
def enterClause (c : Clause) (d : Dev) : Dev :=
  match d.cur with
  | none => d
  | some b =>
    let u := b.sq
    let held := b.lanes.filter fun ln => (laneOf d u ln).atMoor
    let go := b.lanes.filter fun ln => !held.contains ln
    let d := if held.isEmpty then d else releaseMoorings (holdLanes d u .moored held) u
    if go.isEmpty then d
    else if !(squadOf d u).waitClear c.wait then holdLanes d u .hold go
    else
      let d := setSquad d u fun s => go.foldl (fun s ln => s.setLane ln fun l => (s.acquireFlags c.wait d.tick l).enterClause c) s
      if c.yp then detPass d u else d

/-- A branch displacement (R96): the literal as a signed 32-bit number. -/
def dispOf : Opnd → Int
  | .lit x => x.toInt
  | _ => 0

/-- The target of a displacement from the instruction at hand (R96), modulo 2^64. -/
def dispTarget (e : Env) (o : Opnd) : Nat := (BitVec.ofInt 64 ((e.pc.toNat : Int) + dispOf o)).toNat

/-- The return address: the next clause's header (R96). -/
def returnAddr (l : Lane) : Pc := l.hdr + BitVec.ofNat 54 (12 * (l.clause.len.toNat + 1))

/-- Each lane transfers on its own (R96). -/
def jumpAct (target : Env → Nat → Nat) (pre : Env → Nat → Squad → Squad) (e : Env) (lns : List Nat) (d : Dev) : Dev :=
  lns.foldl (fun d ln => transfer d e.sq ln (target e ln) (pre e ln)) d

/-- No write before a transfer. -/
def noPre (_ : Env) (_ : Nat) (s : Squad) : Squad := s

/-- The write of a call (R96). -/
def callPre (d : Opnd) (e : Env) (ln : Nat) (s : Squad) : Squad := s.write ln d .n64 ((returnAddr (e.s.lane ln)).setWidth 64)

/-- MEET (R99): a target that is no valid header traps at the MEET; a fault of its fetch has TEPC = TVAL = the address fetched (R47). DEDUCED, log 48. -/
def meetAct (a disp : Opnd) (e : Env) (lns : List Nat) (d : Dev) : Dev :=
  let t := dispTarget e disp
  lns.foldl (fun d ln =>
    if t ≥ 2 ^ 54 then trapAt d e.sq ln 0x01 (tvHeader t)
    else
      match headerAt d (fetcherOf d e.sq ln) t with
      | (d, .bad) => trapAt d e.sq ln 0x01 (tvHeader t)
      | (d, .fault c) => trapTo d e.sq ln c (BitVec.ofNat 64 t) (BitVec.ofNat 54 t) (BitVec.ofNat 54 t) false false
      | (d, .ok _) => setLane d e.sq ln fun l =>
        { l.advance with moor := ⟨BitVec.ofNat 54 t, BitVec.ofNat 4 ((maskOf a).getD 0), true⟩ }) d

/-! ### WAITV (R103 to R105) -/

/-- The line a watch reads, as its level gives it. -/
def watchLine (d : Dev) (pol : Pol) (pa : Nat) : BitVec 1024 :=
  if pol = .sys then (upto 128).foldl (fun x i => lineSet x i (memRead d.mem (pa / 128 * 128 + i))) 0 else l2LineData d (lineOf pa)

/-- The limit a TMO field gives, in ns; 0 for none, and in deterministic mode (R104, R105). -/
def tmoLimit (e : Env) (tmo : BitVec 3) : Nat := if tmo = 0 || e.s.det then 0 else 2 ^ (8 + 2 * tmo.toNat)

/-- The read of a WAITV as an access of its lane. -/
def waitvAcc (d : Dev) (e : Env) (ln : Nat) (t : Ty) (pol : Pol) (va : Nat) (pl : Nat × Nat) : Acc :=
  { mkAcc d e ln .load t pol va pl (t.wid / 8) with sync := true }

/-- The address a WAITV reads, evaluated once (R105). -/
def waitvAddr (va : Opnd) (e : Env) (ln : Nat) : Nat :=
  match (e.s.lane ln).watch with
  | some w => w.va
  | none => readN64 e ln va

/-- The value a WAITV expects, evaluated once (R105). -/
def waitvWant (t : Ty) (x : Opnd) (e : Env) (ln : Nat) : DWord :=
  match (e.s.lane ln).watch with
  | some w => w.want
  | none => readOp e ln x t

/-- The check of WAITV: LD's, and its read waits for the lane's earlier accesses that it may not pass (R303). -/
def waitvChk (t : Ty) (pol : Pol) (va : Opnd) (d : Dev) (e : Env) (ln : Nat) : Chk :=
  (globalChk .r pol (t.wid / 8) true false true (pol == .sys) (waitvAddr va) noMid d e ln).orElse fun _ =>
    let a := waitvAddr va e ln
    if accReady d d.fresh (waitvAcc d e ln t pol a (placeOr (globalAddr d e ln a (t.wid / 8) .r pol true (pol == .sys)))) then .ok else .stall

/-- The index of a predicate operand. -/
def qIdx : Opnd → Nat
  | .q i _ => i.toNat
  | _ => 0

/-- One lane's read of WAITV: it leaves with 1 when the value differs, otherwise it watches the line (R105). -/
def waitvLane (t : Ty) (pol : Pol) (tmo : BitVec 3) (d va x : Opnd) (e : Env) (dv : Dev) (ln : Nat) : Dev :=
  let a := waitvAddr va e ln
  let want := waitvWant t x e ln
  let pl := placeOr (globalAddr dv e ln a (t.wid / 8) .r pol true (pol == .sys))
  let acc := waitvAcc dv e ln t pol a pl
  let rs := relsAt dv pl.1 pl.2 (t.wid / 8)
  let dv := tagLane dv e ln pl.1 pl.2 (t.wid / 8) false true
  let r := readAt dv acc
  let dv := readSync r.1 acc rs
  if BitVec.ofNat 64 (leNat r.2) ≠ want then
    setSquad dv e.sq fun s => (s.write ln d .none 1).setLane ln Lane.advance
  else
    let since := match (e.s.lane ln).watch with
      | some w => w.since
      | none => (clusterOf dv (e.core / 7)).etime
    let w : Watch := ⟨a, want, pl.2, pol, since, tmoLimit e tmo, watchLine dv pol pl.2, qIdx d⟩
    setLane dv e.sq ln fun l => { l with wait := .watch, watch := some w }

/-- WAITV; each wait is a switch point in deterministic mode (R105, R276). -/
def waitvAct (t : Ty) (pol : Pol) (tmo : BitVec 3) (d va x : Opnd) (e : Env) (lns : List Nat) (dv : Dev) : Dev :=
  let dv := lns.foldl (waitvLane t pol tmo d va x e) dv
  if lns.any fun ln => (laneOf dv e.sq ln).wait == .watch then detPass dv e.sq else dv

/-- A WAITV leaves with 0: its limit has expired or its watch is lost (R105). -/
def loseWatch (d : Dev) (u ln : Nat) : Dev :=
  match (laneOf d u ln).watch with
  | none => d
  | some w => settleClaims (setSquad d u fun s => (s.write ln (.q (BitVec.ofNat 3 w.dest) false) .none 0).setLane ln Lane.advance) u

/-- a lane executes a clause header (R33, R36) -/
def execClauseEntry (len : BitVec 4) (waitFor : BitVec 12) (seta setb : FlagSel) (_cls : BitVec 2) (yp : Bool) : State → Host.Outcome State Fault Refusal :=
  onDev (enterClause ⟨waitFor, seta, setb, len, yp⟩)

/-- BRA label (R96) -/
def execBra (h : Hd) (disp : Opnd) : State → Host.Outcome State Fault Refusal :=
  onDev (issue (rawOf (.bra h disp)) (jumpAct (fun e _ => dispTarget e disp) noPre))

/-- BRX va (R96) -/
def execBrx (h : Hd) (va : Opnd) : State → Host.Outcome State Fault Refusal :=
  onDev (issue (rawOf (.brx h va)) (jumpAct (fun e ln => readN64 e ln va) noPre))

/-- CALL vd, label (R96) -/
def execCall (h : Hd) (d disp : Opnd) : State → Host.Outcome State Fault Refusal :=
  onDev (issue (rawOf (.call h d disp)) (jumpAct (fun e _ => dispTarget e disp) (callPre d)))

/-- CALLX vd, va (R96) -/
def execCallx (h : Hd) (d va : Opnd) : State → Host.Outcome State Fault Refusal :=
  onDev (issue (rawOf (.callx h d va)) (jumpAct (fun e ln => readN64 e ln va) (callPre d)))

/-- RET va (R96) -/
def execRet (h : Hd) (va : Opnd) : State → Host.Outcome State Fault Refusal :=
  onDev (issue (rawOf (.ret h va)) (jumpAct (fun e ln => readN64 e ln va) noPre))

/-- EXIT (R97) -/
def execExit (h : Hd) : State → Host.Outcome State Fault Refusal :=
  onDev (issue (rawOf (.exit h)) (fun e lns dv => exitLanes (if (fkeys e.s.lanes).all lns.contains then detPass dv e.sq else dv) e.sq lns))

/-- NOP (R98) -/
def execNop (h : Hd) : State → Host.Outcome State Fault Refusal :=
  onDev (issue (rawOf (.nop h)) (fun e lns dv => advanceAll dv e.sq lns))

/-- YIELD (R98) -/
def execYield (h : Hd) : State → Host.Outcome State Fault Refusal :=
  onDev (issue (rawOf (.yield h)) (fun e lns dv => detPass (advanceAll dv e.sq lns) e.sq))

/-- MEET mA, label (R99) -/
def execMeet (h : Hd) (a disp : Opnd) : State → Host.Outcome State Fault Refusal :=
  onDev (issue (rawOf (.meet h a disp)) (meetAct a disp))

/-- BRK code (R102) -/
def execBrk (h : Hd) (code : Opnd) : State → Host.Outcome State Fault Refusal :=
  onDev (issue (rawOf (.brk h code)) (fun e lns dv => trapAll dv e.sq (lns.map fun ln => (ln, 0x11, (match code with
    | .imm x => x.setWidth 64
    | _ => 0)))))

/-- WAITV.tN.type.pol qD, va, expect (R103-R105) -/
def execWaitv (h : Hd) (t : Ty) (pol : Pol) (tmo : BitVec 3) (d va e : Opnd) : State → Host.Outcome State Fault Refusal :=
  onDev (issueChk (rawOf (.waitv h t pol tmo d va e)) (waitvChk t pol va) (waitvAct t pol tmo d va e))

end Sys2Proof.Machine
end

