-- ==== Sys2Proof/Machine/Binned.lean ====
section
/-! DEFINITION. Reproducible sums (R226 to R230). -/
namespace Sys2Proof.Machine

/-- The bytes of a set that the binned forms read and write (R226). -/
def binBytes : Nat := 36

/-- The check of a binned form (R157, R227): the set's address, then the bytes the form touches. -/
def binChk (need : Need) (pol : Pol) (s : Scope) (writes : Bool) (va : Opnd) (d : Dev) (e : Env) (ln : Nat) : Chk :=
  afterAcquire d e ln fun _ =>
    let a := readN64 e ln va
    match globalAddr d e ln a 64 need pol true (s == .sys) with
    | .error c => c
    | .ok p => lateChk d e.sq ln (issueClock e ln) p.1 p.2 binBytes a true writes true

/-- The place of a lane's set. -/
def binPlace (need : Need) (pol : Pol) (s : Scope) (va : Opnd) (d : Dev) (e : Env) (ln : Nat) : Nat × Nat :=
  placeOr (globalAddr d e ln (readN64 e ln va) 64 need pol true (s == .sys))

/-- Issue RBEXP or RBADD: one step for each set named (R228). -/
def binAct (op : FMap DWord → AccOp) (t : Ty) (pol : Pol) (s : Scope) (va x : Opnd) (e : Env) (lns : List Nat) (dv : Dev) : Dev :=
  let place := binPlace .rw pol s va dv e
  let steps := stepsOf (lns.map fun ln => (ln, place ln, readOp e ln x t))
  let dv := claimThread dv e lns true
  let dv := steps.foldl (fun dv k =>
    addAcc dv { mkStep dv e (k.2.map (·.1)) (op k.2) t pol (readN64 e (k.2.headD (0, 0)).1 va) k.1 64 with sync := true }) dv
  advanceAll (lns.foldl (fun dv ln => tagQuiet dv e ln (place ln).1 (place ln).2 binBytes true true) dv) e.sq lns

/-- The read of RBRES as an access of its lane. -/
def rbresAcc (t : Ty) (pol : Pol) (s : Scope) (va : Opnd) (d : Dev) (e : Env) (ln : Nat) : Acc :=
  { mkAcc d e ln .rbres t pol (readN64 e ln va) (binPlace .r pol s va d e ln) 64 with sync := true }

/-- The check of RBRES: its read waits for the lane's earlier accesses that it may not pass (R303). -/
def rbresChk (t : Ty) (pol : Pol) (s : Scope) (va : Opnd) (d : Dev) (e : Env) (ln : Nat) : Chk :=
  (binChk .r pol s false va d e ln).orElse fun _ => if accReady d d.fresh (rbresAcc t pol s va d e ln) then .ok else .stall

/-- RBRES in one lane: the set is read and its result written, with its flags (R229, R76). -/
def rbresLane (t : Ty) (pol : Pol) (s : Scope) (dst va : Opnd) (e : Env) (d : Dev) (ln : Nat) : Dev :=
  let a := rbresAcc t pol s va d e ln
  let rs := relsAt d a.space a.pa binBytes
  let d := tagLane d e ln a.space a.pa binBytes false true
  let r := readAt d a
  let v := binRes (binSetOf r.2) t
  applyOut (fun _ ln q => ⟨q.write ln dst t v.1, v.2⟩) (fun _ _ q => q) e [ln] (readSync r.1 a rs)

/-- RBEXP.t.pol.scope va, x (R228) -/
def execRbexp (h : Hd) (t : Ty) (pol : Pol) (scope : Scope) (va x : Opnd) : State → Host.Outcome State Fault Refusal :=
  onDev (issueChk (rawOf (.rbexp h t pol scope va x)) (binChk .rw pol scope true va) (binAct .rbexp t pol scope va x))

/-- RBADD.t.pol.scope va, x (R228) -/
def execRbadd (h : Hd) (t : Ty) (pol : Pol) (scope : Scope) (va x : Opnd) : State → Host.Outcome State Fault Refusal :=
  onDev (issueChk (rawOf (.rbadd h t pol scope va x)) (binChk .rw pol scope true va) (binAct .rbadd t pol scope va x))

/-- RBRES.t.pol.scope vD, va (R229) -/
def execRbres (h : Hd) (t : Ty) (pol : Pol) (scope : Scope) (d va : Opnd) : State → Host.Outcome State Fault Refusal :=
  onDev (issueChk (rawOf (.rbres h t pol scope d va)) (rbresChk t pol scope va) (fun e lns dv => lns.foldl (rbresLane t pol scope d va e) dv))

end Sys2Proof.Machine
end

