-- ==== Sys2Proof/Machine/Chain.lean ====
section
/-! DEFINITION. Data on the move: element conversion (R90, R369), transducer tables (R184, R185), shape objects and their chains (R181 to R183,
R367, R368). -/
namespace Sys2Proof.Machine

/-! ### Elements -/

/-- A format code that a copy accepts (R177). -/
def copyFmt (c : Nat) : Bool := [0x01, 0x09, 0x0A, 0x0B, 0x0E].contains c || (decide (32 ≤ c) && c % 8 != 0)

/-- The format of a code. -/
def fmtAt (c : Nat) : Fmt := Fmt.ofCode (BitVec.ofNat 6 c)

/-- Convert one element on the copy path (R90, R369): no flag is raised. -/
def convElem (src dst : Fmt) (rnd : Rnd) (sat : Bool) (c : Nat) : Nat :=
  match dst with
  | .ty .s8 => if src = .ty .s8 then c else ((toIntTy .s8 rnd 0 (decFmt src c)).1.toNat) % 256
  | _ => (roundFmt dst rnd sat 0 (decFmt src c)).1 % 2 ^ dst.wid

/-- The elements of a width in bits that bytes hold, 4-bit ones two to a byte, even first (R178). -/
def elemsOf (w : Nat) (bs : List Byte) : List Nat :=
  if w = 4 then (bs.map fun b => [b.toNat % 16, b.toNat / 16]).flatten
  else (upto (bs.length * 8 / w)).map fun i => fieldAt bs (i * w / 8) (w / 8)

/-- Pair 4-bit elements into bytes; an odd last one leaves bits [7:4] zero (R369). -/
def packNibbles : List Nat → List Byte
  | [] => []
  | [a] => [BitVec.ofNat 8 (a % 16)]
  | a :: b :: t => BitVec.ofNat 8 (a % 16 + 16 * (b % 16)) :: packNibbles t

/-- Elements of a width in bits as bytes. -/
def bytesOfElems (w : Nat) (xs : List Nat) : List Byte :=
  if w = 4 then packNibbles xs else (xs.map fun x => natLe x (w / 8)).flatten

/-- Bytes that n elements of a width take. -/
def packedLen (w n : Nat) : Nat := (n * w + 7) / 8

/-! ### Transducers (R184, R185) -/

/-- NSTATE. -/
def tblStates (t : List Byte) : Nat := fieldAt t 2 2
/-- NCLASS. -/
def tblClasses (t : List Byte) : Nat := fieldAt t 4 1
/-- START. -/
def tblStart (t : List Byte) : Nat := fieldAt t 6 2
/-- ENTRY of a state and an input byte. -/
def tblEntry (t : List Byte) (s : Nat) (b : Byte) : Nat := fieldAt t (272 + 4 * (s * tblClasses t + fieldAt t (16 + b.toNat) 1)) 4
/-- Bytes of a table. -/
def tblSize (t : List Byte) : Nat := 272 + 4 * (tblStates t * tblClasses t)

/-- Where a transducer stands: its state, its position, the bytes emitted, and the status it stopped with. -/
structure Trans where
  s    : Nat
  p    : Nat := 0
  out  : List Byte := []
  stop : Option Nat := none
  deriving DecidableEq, Repr, Inhabited

/-- What an action emits. -/
def tblEmit (e p : Nat) (b : Byte) : List Byte :=
  match nbits e 16 8 with
  | 1 => [b]
  | 2 => [BitVec.ofNat 8 (nbits e 24 8)]
  | 3 => natLe (p % 16777216 + 16777216 * nbits e 24 8) 4
  | _ => []

/-- One transition (R185), with room for a number of bytes. -/
def transStep (t : List Byte) (cap : Nat) (x : Trans) (b : Byte) : Trans :=
  if x.stop.isSome then x
  else
    let e := tblEntry t x.s b
    let o := tblEmit e x.p b
    if nbits e 16 8 = 4 then { x with stop := some 1 }
    else if nbits e 16 8 = 5 then { x with stop := some 0 }
    else if cap < x.out.length + o.length then { x with stop := some 2 }
    else { x with s := e % 1024, p := x.p + 1, out := x.out ++ o }

/-- Run a table over input bytes. -/
def transRun (t : List Byte) (cap s : Nat) (bs : List Byte) : Trans := bs.foldl (transStep t cap) { s := s }

/-- STATUS of a table (R183, R184), but for a full store. ENTRY[15:10], which must be zero, gives status 3, and the entries are looked at once NSTATE and
NCLASS say how many there are. DESIGN CHOICE, log 20. -/
def tblStatus (bs : List Byte) : Nat :=
  let ns := tblStates bs
  let nc := tblClasses bs
  if fieldAt bs 0 2 ≠ 1 then 2
  else if !zeroAt bs 5 1 || !zeroAt bs 8 8 then 3
  else if ns < 1 || 1024 < ns || nc < 1 || 64 < nc || 16384 < ns * nc then 4
  else if (upto (ns * nc)).any fun i => nbits (fieldAt bs (272 + 4 * i) 4) 10 6 != 0 then 3
  else if ns ≤ tblStart bs then 4
  else if (upto 256).any fun i => decide (nc ≤ fieldAt bs (16 + i) 1) then 4
  else if (upto (ns * nc)).any fun i =>
      let e := fieldAt bs (272 + 4 * i) 4
      decide (ns ≤ e % 1024) || decide (5 < nbits e 16 8) then 4
  else 0

/-! ### Handles (R181) -/

/-- The handle of a slot: kind 0 a shape, 1 a table. -/
def handleOf (kind gen slot : Nat) : Nat := kind * 2147483648 + gen * 256 + slot

/-- The live slot a handle names, of a kind. -/
def liveSlot (m : FMap ShapeSlot) (kind h : Nat) : Option ShapeSlot :=
  match fget m (h % 256) with
  | some s => if (s.steps.isSome || s.table.isSome) && h = handleOf kind s.gen.toNat (h % 256) then some s else none
  | none => none

/-- The live table a handle names. -/
def liveTable (d : Dev) (h : Nat) : Option (List Byte) := (liveSlot d.tables 1 h).bind (·.table)
/-- The live shape a handle names in a cluster. -/
def liveShape (d : Dev) (cl h : Nat) : Option (List ShapeStep) := (liveSlot (clusterOf d cl).shapes 0 h).bind (·.steps)

/-- Commands in flight took an object from a slot: of a cluster's shapes, or of the tables. -/
def slotUsed (d : Dev) (kind cl slot : Nat) : Bool :=
  d.cmds.any fun p => p.2.uses != 0 && p.2.uses / 2147483648 == kind && p.2.uses % 256 == slot && (kind == 1 || p.2.core / 7 == cl)

/-- The lowest slot that is free and that no command in flight still uses (R183). -/
def freeSlotOf (d : Dev) (m : FMap ShapeSlot) (n kind cl : Nat) : Option Nat :=
  (upto n).find? fun i =>
    let s := fgetD m i {}
    s.steps.isNone && s.table.isNone && !slotUsed d kind cl i

/-! ### Shape objects (R182) -/

/-- A step of an object's bytes at an offset, where its kind is known; a transduce step holds the table as it is when the object is sealed. DESIGN CHOICE, log 57. -/
def stepAt (d : Dev) (bs : List Byte) (o : Nat) : Option ShapeStep :=
  match fieldAt bs o 1 with
  | 1 => some (.layout (fieldAt bs (o + 1) 1) (fieldAt bs (o + 2) 2) (fieldAt bs (o + 4) 2) (fieldAt bs (o + 6) 4) (fieldAt bs (o + 10) 4)
      (fieldAt bs (o + 14) 1 = 1))
  | 2 => some (.format (BitVec.ofNat 6 (fieldAt bs (o + 1) 1)) (BitVec.ofNat 6 (fieldAt bs (o + 2) 1)) (BitVec.ofNat 2 (fieldAt bs (o + 3) 1))
      (fieldAt bs (o + 4) 1 = 1) (fieldAt bs (o + 5) 1) (fieldAt bs (o + 8) 8))
  | 3 => (liveTable d (fieldAt bs (o + 4) 4)).map .transduce
  | _ => none

/-- The bytes of a step that its kind does not name are zero. -/
def stepZeros (bs : List Byte) (o : Nat) : Bool :=
  match fieldAt bs o 1 with
  | 1 => zeroAt bs (o + 15) 1
  | 2 => zeroAt bs (o + 6) 2
  | 3 => zeroAt bs (o + 1) 3 && zeroAt bs (o + 8) 8
  | _ => true

/-- The fields of a step lie in range (R182, R367). -/
def stepRange (d : Dev) (bs : List Byte) (o : Nat) (last : Bool) : Bool :=
  match fieldAt bs o 1 with
  | 1 =>
    let e := fieldAt bs (o + 1) 1
    let r := fieldAt bs (o + 2) 2
    let c := fieldAt bs (o + 4) 2
    [1, 2, 4].contains e && decide (1 ≤ r) && decide (r ≤ 4096) && decide (1 ≤ c) && decide (c ≤ 4096) &&
      decide (e * c ≤ fieldAt bs (o + 6) 4) && decide (e * c ≤ fieldAt bs (o + 10) 4) && decide (fieldAt bs (o + 14) 1 ≤ 1)
  | 2 =>
    let df := fieldAt bs (o + 2) 1
    let blk := fieldAt bs (o + 5) 1
    let sc := fieldAt bs (o + 8) 8
    copyFmt (fieldAt bs (o + 1) 1) && decide (fieldAt bs (o + 1) 1 < 64) && decide (df < 64) &&
      (if blk = 0 then copyFmt df else [0x0E, 0x0D, 0x01].contains df || (decide (32 ≤ df) && df % 8 != 0)) &&
      decide (fieldAt bs (o + 3) 1 ≤ 3) && decide (fieldAt bs (o + 4) 1 ≤ 1) && decide (blk ≤ 64) &&
      (sc == 0 || (blk != 0 && last && decide (sc < 2 ^ 54)))
  | 3 => (liveTable d (fieldAt bs (o + 4) 4)).isSome
  | _ => false

/-- What a stream's elements are: a format, or untyped units of a width in bits. -/
inductive Elem
  | fmt (f : Fmt)
  | raw (w : Nat)
  deriving DecidableEq, Repr, Inhabited

/-- Width in bits. -/
def Elem.wid : Elem → Nat
  | .fmt f => f.wid
  | .raw w => w

/-- A format step may take elements (R183, R367): of its SFMT, or untyped ones of its width. -/
def Elem.suits (e : Elem) (f : Fmt) : Bool :=
  match e with
  | .fmt g => g == f
  | .raw w => w == f.wid

/-- What a step delivers, from what it receives; nothing is received by the first. -/
def ShapeStep.gives (s : ShapeStep) (e : Option Elem) : Elem :=
  match s with
  | .layout eb _ _ _ _ _ => e.getD (.raw (8 * eb))
  | .format _ df _ _ _ _ => .fmt (Fmt.ofCode df)
  | .transduce _ => .raw 8

/-- Every format step receives what its SFMT names (R183). -/
def chainFits : Option Elem → List ShapeStep → Bool
  | _, [] => true
  | e, s :: t =>
    (match s, e with
      | .format sf _ _ _ _ _, some x => x.suits (Fmt.ofCode sf)
      | _, _ => true) && chainFits (some (s.gives e)) t

/-- STATUS of a shape object (R183), but for a full table, and its steps. -/
def shapeStatus (d : Dev) (bs : List Byte) : Nat × List ShapeStep :=
  let n := fieldAt bs 2 1
  let m := min n 5
  let offs := (upto m).map fun i => 16 + 16 * i
  let steps := offs.filterMap (stepAt d bs)
  if fieldAt bs 0 2 ≠ 1 then (2, [])
  else if !zeroAt bs 3 13 || !zeroAt bs (16 + 16 * m) (16 * (5 - m)) || offs.any (fun o => !stepZeros bs o) then (3, [])
  else if n < 1 || 5 < n || offs.zipIdx.any (fun o => !stepRange d bs o.1 (o.2 + 1 = n)) then (4, [])
  else if !chainFits none steps then (5, [])
  else (0, steps)

/-! ### Chains (R367, R368) -/

/-- What is known of a stream at issue: its elements, and their number unless a transduce step has run. -/
structure Flow where
  elem : Elem
  n    : Option Nat
  deriving DecidableEq, Repr, Inhabited

/-- The number of output rows of a layout, and the bytes of each. -/
def layoutOut (eb rows cols : Nat) (tr : Bool) : Nat × Nat := if tr then (cols, rows * eb) else (rows, cols * eb)

/-- Check a step at issue (R368) and give what it delivers. `fl` is nothing for the first step. -/
def flowStep (len dsp : Nat) (last : Bool) (fl : Option Flow) (s : ShapeStep) : Option Flow :=
  match s, fl with
  | .layout eb rows cols _ _ _, none => if rows * cols * eb = len then some ⟨.raw (8 * eb), some (rows * cols)⟩ else none
  | .layout eb rows cols _ _ _, some f => if f.n = some (rows * cols) && f.elem.wid = 8 * eb then some f else none
  | .format sf df _ _ blk sc, f =>
    if (blk ≠ 0 && !last) || (sc ≠ 0 && (blk = 0 || dsp ≠ 0)) then none
    else match f with
      | none => if len * 8 % (Fmt.ofCode sf).wid ≠ 0 then none else some ⟨.fmt (Fmt.ofCode df), some (len * 8 / (Fmt.ofCode sf).wid)⟩
      | some f => some ⟨.fmt (Fmt.ofCode df), f.n⟩
  | .transduce _, _ => some ⟨.raw 8, none⟩

/-- Check a chain at issue (R368). -/
def flowChain (len dsp : Nat) : Option Flow → List ShapeStep → Option Flow
  | f, [] => f
  | f, s :: t => match flowStep len dsp t.isEmpty f s with
    | some g => flowChain len dsp (some g) t
    | none => none

/-- The chain holds a transduce step. -/
def hasTrans (l : List ShapeStep) : Bool := l.any fun s => match s with
  | .transduce _ => true
  | _ => false

/-- The length L of the destination range (R368). -/
def chainLen (len : Nat) (l : List ShapeStep) (f : Flow) : Nat :=
  if hasTrans l then len
  else match l.getLast?, f.n with
    | some (.layout eb rows cols _ dp tr), _ => ((layoutOut eb rows cols tr).1 - 1) * dp + (layoutOut eb rows cols tr).2
    | some (.format _ _ _ _ blk sc), some n =>
      let e := packedLen f.elem.wid n
      if blk = 0 || sc ≠ 0 then e else (e + 15) / 16 * 16 + (n + blk - 1) / blk
    | _, _ => len

/-- The address and length of each run of source bytes a chain reads, from SRC (R367). -/
def chainRuns (len : Nat) (l : List ShapeStep) : List (Nat × Nat) :=
  match l.head? with
  | some (.layout eb rows cols sp _ _) => (upto rows).map fun r => (r * sp, cols * eb)
  | _ => [(0, len)]

/-- A stream as far as it is known: its elements, whether more of them are to come, and whether the chain stops as failed after them. -/
structure Stream where
  elem : Elem
  xs   : List Nat
  part : Bool := false
  bad  : Bool := false
  scales : List Byte := []
  deriving DecidableEq, Repr, Inhabited

/-- The elements of a list up to the first that is missing. -/
def someRun : List (Option Nat) → List Nat
  | some x :: t => x :: someRun t
  | _ => []

/-- Transpose a row-major matrix, as far as its elements are known. -/
def transpose (rows cols : Nat) (xs : List Nat) : List Nat :=
  someRun ((upto cols).map fun c => (upto rows).map fun r => xs[r * cols + c]?).flatten

/-- Blocks of n elements, the last possibly shorter. -/
def blocksOf (n : Nat) : Nat → List Nat → List (List Nat)
  | 0, _ => []
  | k + 1, xs => if xs.isEmpty then [] else xs.take n :: blocksOf n k (xs.drop n)

/-- The bytes of a stream; a 4-bit element whose byte's other half is still to come waits. -/
def Stream.bytes (x : Stream) : List Byte :=
  bytesOfElems x.elem.wid (if x.part && x.elem.wid = 4 then x.xs.take (x.xs.length / 2 * 2) else x.xs)

/-- One step of a chain; `cap` bounds the output of a transduce step that is last (R367). -/
def runStep (cap : Option Nat) (s : ShapeStep) (x : Stream) : Stream :=
  match s with
  | .layout _ rows cols _ _ tr => { x with xs := if tr then transpose rows cols x.xs else x.xs }
  | .format sf df rnd sat blk _ =>
    let src := Fmt.ofCode sf
    let dst := Fmt.ofCode df
    let mode := Rnd.ofCode (rnd.setWidth 3)
    if blk = 0 then { x with elem := .fmt dst, xs := x.xs.map (convElem src dst mode sat) }
    else
      let n := if x.part then x.xs.length / blk * blk else x.xs.length
      let bl := (blocksOf blk n (x.xs.take n)).map fun b => blockScale dst mode (fun _ => 0) (b.map (decFmt src))
      { x with elem := .fmt dst, xs := (bl.map fun b => b.2.2.map fun p => p.1 % 2 ^ dst.wid).flatten
               scales := bl.map fun b => BitVec.ofNat 8 b.1 }
  | .transduce t =>
    let bs := x.bytes
    let r := transRun t (cap.getD (4 * bs.length + 4)) (tblStart t) bs
    { elem := .raw 8, xs := r.out.map (·.toNat), part := x.part && r.stop.isNone, bad := x.bad || r.stop == some 1 || r.stop == some 2 }

/-- The stream the first step receives from the bytes read, all of them or the first. -/
def streamIn (s : ShapeStep) (bs : List Byte) (part : Bool) : Stream :=
  match s with
  | .layout eb _ _ _ _ _ => { elem := .raw (8 * eb), xs := elemsOf (8 * eb) bs, part := part }
  | .format sf _ _ _ _ _ => { elem := .fmt (Fmt.ofCode sf), xs := elemsOf (Fmt.ofCode sf).wid bs, part := part }
  | .transduce _ => { elem := .raw 8, xs := elemsOf 8 bs, part := part }

/-- Run the steps of a chain. -/
def runSteps (len : Nat) : List ShapeStep → Stream → Stream
  | [], x => x
  | s :: t, x =>
    let elem := match s, x.elem with
      | .format sf _ _ _ _ _, .raw _ => Elem.fmt (Fmt.ofCode sf)
      | _, e => e
    runSteps len t (runStep (if t.isEmpty then some len else none) s { x with elem := elem })

/-- Place bytes over others at an offset. -/
def placeAt (m : List (Option Byte)) (o : Nat) (bs : List Byte) : List (Option Byte) :=
  let m := m ++ List.replicate (o + bs.length - m.length) none
  m.take o ++ bs.map some ++ m.drop (o + bs.length)

/-- What is known of a chain's output: the bytes from DST, the scale bytes of a separate array, whether more is to come, and whether the command then
fails. -/
structure ChainOut where
  out    : List (Option Byte)
  scales : List Byte := []
  part   : Bool := false
  bad    : Bool := false
  deriving DecidableEq, Repr, Inhabited

/-- What a chain writes, from the source bytes read so far (R367). -/
def chainOut (len : Nat) (l : List ShapeStep) (bs : List Byte) (part : Bool) : ChainOut :=
  match l.head? with
  | none => { out := someBytes bs, part := part }
  | some s =>
    let x := runSteps len l (streamIn s bs part)
    let out := x.bytes
    match l.getLast? with
    | some (.layout eb rows cols _ dp tr) =>
      let (n, w) := layoutOut eb rows cols tr
      { out := ((upto n).filter fun r => r * w < out.length).foldl (fun m r => placeAt m (r * dp) ((out.drop (r * w)).take w)) []
        part := x.part, bad := x.bad }
    | some (.format _ _ _ _ blk sc) =>
      let m := if blk = 0 || sc ≠ 0 || x.part then someBytes out else placeAt (someBytes out) ((out.length + 15) / 16 * 16) x.scales
      if hasTrans l && len < m.length then { out := m.take len, bad := true }
      else { out := m, scales := if sc ≠ 0 && !x.part then x.scales else [], part := x.part, bad := x.bad }
    | _ => { out := someBytes out, part := x.part, bad := x.bad }

/-- The source bytes a chain needs, of those at hand: fewer than all where a transduce step ends the input. -/
def chainNeeds (len : Nat) (l : List ShapeStep) (bs : List Byte) : Nat :=
  if hasTrans l then ((upto bs.length).find? fun k => !(chainOut len l (bs.take k) true).part).getD bs.length else bs.length

/-- The separate scale array of a chain (R367). -/
def chainScAddr (l : List ShapeStep) : Nat :=
  match l.getLast? with
  | some (.format _ _ _ _ _ sc) => sc
  | _ => 0

end Sys2Proof.Machine
end

