-- ==== Sys2Proof/Machine/Records.lean ====
section
/-! DEFINITION. Records that a form reads at once as `.l2` loads of its lane (R157, R183, R184, R187, R195). -/
namespace Sys2Proof.Machine

/-- Where a part of a range lies. -/
def recPlace (pol : Pol) (d : Dev) (e : Env) (ln va : Nat) : Except Chk (Nat × Nat) := globalAddr d e ln va 1 .r pol false false

/-- The access that reads a part. -/
def recAcc (pol : Pol) (d : Dev) (e : Env) (ln : Nat) (p : Nat × Nat) : Acc :=
  mkAcc d e ln .load .none pol p.1 (placeOr (recPlace pol d e ln p.1)) p.2

/-- The check of one part: its cause, or a wait for the lane's earlier accesses or for room in L1. What a ray fetches is not ordered with other threads and
carries no tag (R298). -/
def partChk (ray : Bool) (pol : Pol) (d : Dev) (e : Env) (ln : Nat) (p : Nat × Nat) : Chk :=
  match recPlace pol d e ln p.1 with
  | .error c => c
  | .ok pl =>
    let a := recAcc pol d e ln p
    (if ray then poisonChk d e.sq ln pl.1 pl.2 p.2 p.1 else lateChk d e.sq ln (issueClock e ln) pl.1 pl.2 p.2 p.1 true false false).orElse fun _ =>
      if accReady d d.fresh a && accFits d a then .ok else .stall

/-- The check of a read of n bytes at a policy, at an address that must be a multiple of `align` (R157). -/
def rangeChk (ray : Bool) (pol : Pol) (n align va : Nat) (d : Dev) (e : Env) (ln : Nat) : Chk :=
  afterAcquire d e ln fun _ =>
    if va % align ≠ 0 then .bad 2 0x03 (tvAddr va) else firstChk ((partsOf va n).map (partChk ray pol d e ln))

/-- Read a range whose check has passed, with a tag for each part. The lanes of one instruction together may name more lines than an L1 has room for: the lines that come later take the
place of others. -/
def readTagged (tag : Dev → Env → Nat → Nat → Nat → Nat → Bool → Bool → Dev) (pol : Pol) (d : Dev) (e : Env) (ln va n : Nat) : Dev × List Byte :=
  (partsOf va n).foldl (fun r p =>
    let a := recAcc pol r.1 e ln p
    let x := readAt (if pol = .l1 && a.space = 0 then l1Make r.1 a.set (lineOf a.pa) else r.1) a
    (tag x.1 e ln a.space a.pa p.2 false false, r.2 ++ x.2)) (d, [])

/-- Read a range as accesses of its lane; what a ray fetches carries no tag. -/
def rangeRead (ray : Bool) (pol : Pol) (d : Dev) (e : Env) (ln va n : Nat) : Dev × List Byte :=
  readTagged (if ray then fun d _ _ _ _ _ _ _ => d else tagLane) pol d e ln va n

/-- The check of a record of n bytes, read as `.l2` loads. -/
def recordChk (n align va : Nat) : Dev → Env → Nat → Chk := rangeChk false .l2 n align va

/-- Read a record whose check has passed. -/
def recordRead (d : Dev) (e : Env) (ln va n : Nat) : Dev × List Byte := rangeRead false .l2 d e ln va n

/-- Read the record of an engine or matrix form: where a flag counts its completion the read is an access that the flag releases (R39, R349). -/
def cmdRead (d : Dev) (e : Env) (ln va n : Nat) : Dev × List Byte := readTagged tagQuiet .l2 (claimThread d e [ln] true) e ln va n

end Sys2Proof.Machine
end

