-- ==== Sys2Proof/Machine/Arrays.lean ====
section
/-! DEFINITION. Matrix arrays: berths (R191 to R196, R350, R355), the checks and the issue of matrix commands (R197 to R203), and what the arrays
and the dot arrays add (R87 to R89, R200, R320, R347, R356). -/
namespace Sys2Proof.Machine

/-! ### Berth records (R191 to R193) -/

/-- FMT. -/
def brFmt (r : List Byte) : Nat := fieldAt r 12 1
/-- BLK. -/
def brBlk (r : List Byte) : Nat := fieldAt r 13 1
/-- FLAGS.EF. -/
def brEf (r : List Byte) : Bool := fieldAt r 14 1 % 2 == 1
/-- K. -/
def brK (r : List Byte) : Nat := fieldAt r 16 2
/-- SCOFF. -/
def brScoff (r : List Byte) : Nat := fieldAt r 20 4
/-- RESID. -/
def brResid (r : List Byte) : Nat := fieldAt r 24 8
/-- KEY. -/
def brKey (r : List Byte) : Nat := fieldAt r 48 4
/-- The four DUP entries. -/
def brDup (r : List Byte) : List Nat := (upto 4).map fun i => fieldAt r (32 + 4 * i) 4
/-- The valid entries of DUP: c and d. -/
def dupPairs (r : List Byte) : List (Nat × Nat) := (brDup r).filterMap fun x => if nbits x 31 1 = 1 then some (x % 4096, nbits x 16 12) else none
/-- Element width w. -/
def brWid (r : List Byte) : Nat := (fmtAt (brFmt r)).wid
/-- E: the bytes of one row's or column's elements (R192). -/
def brE (r : List Byte) : Nat := (brK r * brWid r + 7) / 8
/-- P: E rounded up to a multiple of 16. -/
def brP (r : List Byte) : Nat := (brE r + 15) / 16 * 16
/-- NB: the number of blocks. -/
def brNB (r : List Byte) : Nat := (brK r + brBlk r - 1) / brBlk r

/-- The element formats of a berth. -/
def berthFmt (c : Nat) : Bool := [0x0E, 0x0D, 0x01, 0x09, 0x0A].contains c || (decide (0x21 ≤ c) && decide (c ≤ 0x3F) && c % 8 != 0)

/-- The fields of a record lie in range (R191). -/
def brRange (r : List Byte) : Bool :=
  let lim := if brSide r = 0 then 1048576 else 8192
  let al := if brSide r = 0 then 4096 else 128
  decide (brSide r ≤ 1) && decide (brArray r ≤ 1) && brBase r % al == 0 && decide (brBase r < lim) && brSize r % al == 0 && brSize r != 0 &&
    decide (brBase r + brSize r ≤ lim) && berthFmt (brFmt r) && decide (brBlk r ≤ 64) && (brBlk r == 0 || brWid r != 16) &&
    decide (1 ≤ brK r) && decide (brK r ≤ 4096) && (brBlk r != 0 || brScoff r == 0) &&
    (if brEf r then brResid r % 128 == 0 && decide (brResid r < 2 ^ 54) else brResid r == 0)

/-- Sizes and duplication map are consistent (R193). -/
def brFits (r : List Byte) : Bool :=
  let el := if brSide r = 0 then 256 * brP r else brE r
  let sc := if brSide r = 0 then 256 * brNB r else brNB r
  (if brBlk r = 0 then decide (el ≤ brSize r) else decide (el ≤ brScoff r) && decide (brScoff r + sc ≤ brSize r)) &&
    (dupPairs r).all (fun p => decide (p.1 < brK r) && decide (p.2 < brK r) && p.1 != p.2) && decide ((dupPairs r).map (·.2)).Nodup

/-- What the record says that must be zero is (R191). -/
def brZeros (r : List Byte) : Bool :=
  decide (fieldAt r 14 1 < 2) && zeroAt r 15 1 && zeroAt r 18 2 && zeroAt r 52 12 &&
    (brDup r).all fun x => nbits x 12 4 == 0 && nbits x 28 3 == 0

/-- The handle of a berth slot (R194). -/
def berthHandle (b : Berth) (i : Nat) : Nat := 0x40000000 + b.gen.toNat * 256 + i
/-- The slots of an array (R350). -/
def arraySlots (arr : Nat) : List Nat := (upto 16).map fun i => arr * 16 + i

/-- The group holds the live berth that a handle names (R194, R199). -/
def heldBerth (d : Dev) (cl gid h : Nat) : Option Berth :=
  let b := berthOf d cl (h % 256)
  if h % 256 < 32 && b.state = .live && h = berthHandle b (h % 256) && shas b.holders gid then some b else none

/-- STATUS of BERTH (R195): the status, the slot it names, and whether a berth is created there. -/
def berthStatus (d : Dev) (cl : Nat) (r : List Byte) : Nat × Nat × Bool :=
  let slots := arraySlots 0 ++ arraySlots 1
  if fieldAt r 0 2 ≠ 1 then (2, 0, false)
  else if !brZeros r then (3, 0, false)
  else if !brRange r || !brFits r then (4, 0, false)
  else match (if brKey r = 0 then none
      else slots.find? fun i => (berthOf d cl i).state == .live && brKey (berthOf d cl i).record == brKey r) with
    | some i => if (berthOf d cl i).record = r then (1, i, false) else (5, 0, false)
    | none =>
      if (arraySlots (brArray r)).any fun i =>
          let b := berthOf d cl i
          b.state != .free && brSide b.record == brSide r && decide (brBase b.record < brBase r + brSize r) &&
            decide (brBase r < brBase b.record + brSize b.record) then (5, 0, false)
      else match (arraySlots (brArray r)).find? fun i => (berthOf d cl i).state == .free with
        | none => (6, 0, false)
        | some i => (0, i, true)

/-- Create or join a berth for a group (R195): the machine and the value of FD. -/
def makeBerth (d : Dev) (cl gid : Nat) (r : List Byte) : Dev × Nat :=
  match berthStatus d cl r with
  | (st, i, new) =>
    if 2 ≤ st then (d, st * 4294967296)
    else
      let d := setBerth (if new then zeroBerth d cl r else d) cl i fun b =>
        if new then { b with state := .live, record := r, holders := [gid] } else { b with holders := sadd b.holders gid }
      (d, berthHandle (berthOf d cl i) i + st * 4294967296)

/-! ### Matrix commands: checks (R199, R202, R203) -/

/-- Bytes of a tile. -/
def tileLen : Nat := 262144

/-- The array of a matrix command. -/
def CmdKind.array : CmdKind → Option Nat
  | .mma _ _ _ ha _ => some (ha % 256 / 16)
  | .mzero _ arr => some arr
  | _ => none

/-- The tiles a matrix command names: offset and length. -/
def CmdKind.tiles : CmdKind → List (Nat × Nat)
  | .mma true dOff cOff _ _ => [(dOff, tileLen), (cOff, tileLen)]
  | .mma false _ cOff _ _ => [(cOff, tileLen)]
  | .mzero off _ => [(off, tileLen)]
  | .lmm cOff _ _ _ _ _ => [(cOff, 4096)]
  | _ => []

/-- Two ranges meet. -/
def rangesMeet (a b : Nat × Nat) : Bool := decide (a.1 < b.1 + b.2) && decide (b.1 < a.1 + a.2)

/-- Commands run on different units: arrays, or the samplers of different cores. -/
def otherUnit (k : CmdKind) (core : Nat) (c : Cmd) : Bool :=
  match k.array, c.kind.array with
  | some a, some b => a != b
  | none, none => c.core != core
  | _, _ => true

/-- The first tile that overlaps a tile of a command of the group outstanding on another unit, in deterministic mode (R199, R408). -/
def detTile (d : Dev) (gid core : Nat) (k : CmdKind) : Option Nat :=
  (k.tiles.find? fun t => d.cmds.any fun p => p.2.grp == gid && otherUnit k core p.2 && p.2.kind.tiles.any (rangesMeet t)).map (·.1)

/-- Alignment and range of tiles (R199, checks 1 and 2): TVAL names the first that fails, D before C. DESIGN CHOICE, log 47. -/
def tileChk (g : Group) (ts : List (Nat × Nat)) : Chk :=
  match ts.find? fun t => t.1 % 128 != 0 with
  | some t => .bad 2 0x03 (tvAddr t.1)
  | none => match ts.find? fun t => decide (scrOf g < t.1 + t.2) with
    | some t => .bad 5 0x07 (tvAddr t.1)
    | none => .ok

/-- The berths of MMA and MMAD (R199, check 3). -/
def berthChk (d : Dev) (cl gid ha hb : Nat) : Chk :=
  match heldBerth d cl gid ha with
  | none => .bad 5 0x13 (tvAddr ha)
  | some a =>
    if brSide a.record ≠ 0 then .bad 5 0x13 (tvAddr ha)
    else match heldBerth d cl gid hb with
      | none => .bad 5 0x13 (tvAddr hb)
      | some b =>
        if brSide b.record = 1 && brArray b.record = brArray a.record && brK b.record = brK a.record && brBlk b.record = brBlk a.record &&
            brWid b.record = brWid a.record then .ok
        else .bad 5 0x13 (tvAddr hb)

/-- The checks of R199 for a command of a group, from a core, in deterministic mode or not. -/
def matrixChk (d : Dev) (gid core : Nat) (det : Bool) (k : CmdKind) : Chk :=
  let g := groupOf d gid
  (tileChk g k.tiles).orElse fun _ =>
  (match k with
    | .mma true dOff cOff _ _ => if dOff ≠ cOff && rangesMeet (dOff, tileLen) (cOff, tileLen) then Chk.bad 5 0x07 (tvAddr dOff) else Chk.ok
    | _ => .ok).orElse fun _ =>
  (match k with
    | .mma _ _ _ ha hb => berthChk d (core / 7) gid ha hb
    | _ => .ok).orElse fun _ =>
  (if det then match detTile d gid core k with
    | some t => .bad 5 0x0B (tvAddr t)
    | none => Chk.ok
  else .ok)

/-! ### Matrix commands: issue (R198, R201) -/

/-- The commands of an array, in queue order. -/
def arrayQueue (d : Dev) (cl arr : Nat) : List (Nat × Cmd) := d.cmds.filter fun p => p.2.core / 7 == cl && p.2.kind.array == some arr

/-- An LMM. -/
def CmdKind.isLmm : CmdKind → Bool
  | .lmm _ _ _ _ _ _ => true
  | _ => false

/-- The LMMs of a core's sampler, in queue order. -/
def lmmQueue (d : Dev) (core : Nat) : List (Nat × Cmd) := d.cmds.filter fun p => p.2.core == core && p.2.kind.isLmm

/-- The queue a matrix command goes to is full (R198). -/
def matrixFull (d : Dev) (core : Nat) (k : CmdKind) : Bool :=
  match k.array with
  | some a => decide (16 ≤ (arrayQueue d (core / 7) a).length)
  | none => decide (16 ≤ (lmmQueue d core).length)

/-- What a matrix command does to a tile: where it lies, whether it is written, and whether that is an accumulation, which is synchronising (R298). -/
structure TileAcc where
  off   : Nat
  len   : Nat
  write : Bool
  sync  : Bool
  deriving DecidableEq, Repr, Inhabited

/-- The tile accesses of a matrix command (R200, R202, R298): MMAD copies its C tile, MZERO writes its tile, and the others accumulate. DEDUCED, log 15. -/
def CmdKind.tileAccs : CmdKind → List TileAcc
  | .mma true dOff cOff _ _ => ⟨dOff, tileLen, true, false⟩ :: (if dOff = cOff then [] else [⟨cOff, tileLen, false, false⟩])
  | .mma false _ cOff _ _ => [⟨cOff, tileLen, true, true⟩]
  | .mzero off _ => [⟨off, tileLen, true, false⟩]
  | .lmm cOff _ _ _ _ _ => [⟨cOff, 4096, true, true⟩]
  | _ => []

/-- A tile access of a lane's command races with an access that is tagged (R163, R201, R306). -/
def tileRace (d : Dev) (sq ln : Nat) (vc : Clock) (g : Group) (ts : List TileAcc) : Chk :=
  ts.foldl (fun c t => c.orElse fun _ => raceChk d (tileOwner sq ln) vc 1 (scPlace g t.off) t.len t.off t.write t.sync) .ok

/-- Tag the tile accesses of a lane's command (R163, R201, R306). -/
def tagTiles (d : Dev) (i sq ln : Nat) (g : Group) (ts : List TileAcc) : Dev :=
  ts.foldl (fun d t => tagAccess d (if t.write then tileTid i sq ln else cmdTid i sq ln) cmdEpoch 1 (scPlace g t.off) t.len t.write t.sync) d

/-- The scratchpad ranges an LMM reads. -/
def CmdKind.reads : CmdKind → List (Nat × Nat)
  | .lmm _ aOff bOff k fa _ => let q := (packedLen (fmtAt fa).wid k + 3) / 4 * 4; [(aOff, 32 * q), (bOff, 32 * q)]
  | _ => []

/-- Send a matrix command to its unit (R198): its tiles are tagged as accesses of its issuing lane. -/
def addMatrix (d : Dev) (c : Cmd) (t : Option Nat) : Dev :=
  let i := d.fresh
  let g := groupOf d c.grp
  let d := tagTiles (addCmd d c t) i c.sq c.lane g c.kind.tileAccs
  c.kind.reads.foldl (fun d r => tagAccess d (cmdTid i c.sq c.lane) cmdEpoch 1 (scPlace g r.1) r.2 false false) d

/-! ### Sums (R87 to R89, R200) -/

/-- A byte of an operand store. -/
def opByte (d : Dev) (cl side off : Nat) : Byte := fgetD d.opbuf (opKey cl side off) 0

/-- Where byte y of row or column x of a berth lies in CPY's space (R192). -/
def berthOff (r : List Byte) (x y : Nat) : Nat :=
  if brSide r = 0 then brArray r * 1048576 + brBase r + x * brP r + y else brArray r * 2097152 + x * 8192 + brBase r + y
/-- Where the scale of block b of row or column x lies (R192). -/
def scaleOff (r : List Byte) (x b : Nat) : Nat :=
  if brSide r = 0 then brArray r * 1048576 + brBase r + brScoff r + x * brNB r + b
  else brArray r * 2097152 + x * 8192 + brBase r + brScoff r + b

/-- The code of element k among packed elements of a width, from a reader of bytes. -/
def elemCode (f : Nat → Byte) (w k : Nat) : Nat :=
  if w = 4 then (f (k / 2)).toNat / (if k % 2 = 0 then 1 else 16) % 16
  else bytesNat f (k * w / 8) (w / 8)

/-- Aval or Bval: element k of row or column x with its block's scale (R200). -/
def berthVal (d : Dev) (cl : Nat) (r : List Byte) (x k : Nat) : FV :=
  let v := decFmt (fmtAt (brFmt r)) (elemCode (fun y => opByte d cl (brSide r) (berthOff r x y)) (brWid r) k)
  if brBlk r = 0 then v
  else
    let s := (opByte d cl (brSide r) (scaleOff r x (k / brBlk r))).toNat
    if s = 255 then .nan false else scaleFV v ((s : Int) - 127)

/-- ia or ib: the element read at index k under a map (R200). -/
def mapped (r : List Byte) (k : Nat) : Nat :=
  match (dupPairs r).find? fun p => p.2 == k with
  | some p => p.1
  | none => k

/-- The block sum of element (i, j) (R200). -/
def kbSum (d : Dev) (cl : Nat) (a b : List Byte) (lo hi i j : Nat) : Nat :=
  blockSum ((upto (hi - lo)).map fun n =>
    mulFV (berthVal d cl a i (mapped b (lo + n))) (berthVal d cl b j (mapped a (lo + n))))

/-- kb: the length of a K-block (R200). -/
def kbLen (r : List Byte) : Nat := if brBlk r = 0 then 64 else brBlk r

/-- A word of scratchpad. -/
def scWord (d : Dev) (a : Nat) : Nat := bytesNat (fun x => fgetD d.scratch x 0) a 4

/-- Add a block sum to a word of scratchpad (R89). -/
def bankAdd (d : Dev) (a s : Nat) : Dev :=
  { d with scratch := putScratch d.scratch a (someBytes (natLe (addTy .f32 (BitVec.ofNat 64 (scWord d a)) (BitVec.ofNat 64 s)).1.toNat 4)) }

/-- Add sums to the words of a tile from an address. Where one is poisoned (R320), the adds of this block that were performed before it was met
stand. DESIGN CHOICE, log 10. -/
def tileAdd (d : Dev) (a n : Nat) (sum : Nat → Nat) : Dev × Option Nat :=
  match (upto n).find? fun w => shas d.scPoison (a / 4 + w) with
  | none => ((upto n).foldl (fun r w => bankAdd r (a + 4 * w) (sum w)) d, none)
  | some p => ((upto n).foldl (fun r w =>
      if shas d.scPoison (a / 4 + w) || Config.pick d.tick w 2 = 0 then r else bankAdd r (a + 4 * w) (sum w)) d, some p)

/-- The 128-byte units of an operand store that hold the bytes of a K-block of a berth. -/
def berthUnits (cl : Nat) (r : List Byte) (ks : List Nat) : List Nat :=
  (upto 256).flatMap fun x => ks.flatMap fun k =>
    opKey cl (brSide r) (berthOff r x (k * brWid r / 8)) / 128 ::
      (if brBlk r = 0 then [] else [opKey cl (brSide r) (scaleOff r x (k / brBlk r)) / 128])

/-- A poisoned unit among the bytes of a K-block of a berth (R320). -/
def berthPoison (d : Dev) (cl : Nat) (r : List Byte) (ks : List Nat) : Bool := (berthUnits cl r ks).any (shas d.bPoison)

/-- The one of some places that an error names, which the black box records; one that the command does not read stands for the first it does (R319, R323).
DEDUCED, log 35. -/
def errPlace (l : List Nat) (k : Nat) : Nat := (l.find? (· == k)).getD (l.headD 0)

/-- The words of a group's scratchpad from an offset, and the word of a cluster's that an error names. -/
def tileWords (g : Group) (off n : Nat) : List Nat := (upto n).map (scPlace g off / 4 + ·)
def scIndex (cl : Nat) (e : ErrAt) : Nat := scAddr cl 0 / 4 + e.index.toNat

/-- The array codes of scratchpad and of the B-stores (R323). -/
def scratchArray : BitVec 8 := 4
def bStoreArray : BitVec 8 := 8

/-- A copy of a tile, poison and all (R319, R356). -/
def tileCopy (d : Dev) (src dst : Nat) : Dev :=
  let ps := (upto (tileLen / 4)).filter fun w => shas d.scPoison (src / 4 + w)
  let scratch := putScratch d.scratch dst ((upto tileLen).map fun i => some (fgetD d.scratch (src + i) 0))
  let clear := d.scPoison.filter fun k => decide (k < dst / 4) || decide (dst / 4 + tileLen / 4 ≤ k)
  { d with scratch := scratch, scPoison := ps.foldl (fun m w => sadd m (dst / 4 + w)) clear }

end Sys2Proof.Machine
end

