-- ==== Sys2Proof/Machine/Copy.lean ====
section
/-! DEFINITION. CPY: its descriptor and checks (R176, R177, R368), its issue (R178, R180), the chunks a copy engine writes (R179, R364, R365, R367,
R369), and follow-ons (R180). -/
namespace Sys2Proof.Machine

/-! ### The descriptor (R176) -/

/-- The fields of a copy's descriptor. -/
structure Copy where
  src  : Nat
  dst  : Nat
  len  : Nat
  ssp  : Nat
  dsp  : Nat
  sfmt : Nat
  dfmt : Nat
  rnd  : Nat
  sat  : Bool
  fmma : Bool
  spol : Nat
  dpol : Nat
  shp  : Nat
  rest : Bool
  deriving DecidableEq, Repr, Inhabited

/-- The fields of a block of words. -/
def copyOf (ds : List Word) : Copy :=
  let w := fun i => (ds.getD i 0).toNat
  let c := w 5
  { src := w 0 + 4294967296 * w 1, dst := w 2 + 4294967296 * w 3, len := w 4, ssp := nbits c 0 2, dsp := nbits c 2 2
    sfmt := nbits c 4 6, dfmt := nbits c 10 6, rnd := nbits c 16 3, sat := nbits c 19 1 = 1, fmma := nbits c 20 1 = 1
    spol := nbits c 21 2, dpol := nbits c 23 2, shp := w 6, rest := nbits c 25 7 = 0 && w 7 = 0 }

/-- The source policy. -/
def Copy.srcPol (c : Copy) : Pol := if c.spol = 1 then .sys else .l2
/-- The destination policy. -/
def Copy.dstPol (c : Copy) : Pol := if c.dpol = 1 then .sys else if c.dpol = 2 then .str else .l2
/-- Width in bits of a source element; a byte copy's is 8. -/
def Copy.sw (c : Copy) : Nat := if c.sfmt = 0 then 8 else (fmtAt c.sfmt).wid
/-- Width in bits of a destination element. -/
def Copy.dw (c : Copy) : Nat := if c.dfmt = 0 then 8 else (fmtAt c.dfmt).wid
/-- Source elements of a plain copy. -/
def Copy.elems (c : Copy) : Nat := c.len * 8 / c.sw

/-- The steps of the live shape a copy names; none for a plain copy. -/
def Copy.chain (c : Copy) (d : Dev) (cl : Nat) : List ShapeStep := if c.shp = 0 then [] else (liveShape d cl c.shp).getD []

/-- The destination length L (R178, R368). -/
def Copy.dstLen (c : Copy) (l : List ShapeStep) : Nat :=
  if l.isEmpty then (if c.sfmt = 0 then c.len else packedLen c.dw c.elems)
  else match flowChain c.len c.dsp none l with
    | some f => chainLen c.len l f
    | none => c.len

/-- The length of the source range. -/
def Copy.srcLen (c : Copy) (l : List ShapeStep) : Nat := (chainRuns c.len l).foldl (fun m r => max m (r.1 + r.2)) 0

/-- A reserved field or value (R177, check 1) in the first eight words. -/
def Copy.bad (c : Copy) : Bool :=
  decide (2 ≤ c.ssp) || decide (4 ≤ c.rnd) || decide (2 ≤ c.spol) || decide (3 ≤ c.dpol) || !c.rest ||
    ((c.sfmt == 0) != (c.dfmt == 0)) || (c.sfmt != 0 && !(copyFmt c.sfmt && copyFmt c.dfmt)) || (c.shp != 0 && c.sfmt != 0)

/-- The index of a register block. -/
def blockIdx : Opnd → Nat
  | .v i _ _ _ => i.toNat
  | .w i _ _ _ => i.toNat
  | _ => 0

/-- The follow-on word of a block of sixteen. -/
def followWord (ds : List Word) : BitVec 96 := ds.getD 10 0 ++ (ds.getD 9 0 ++ ds.getD 8 0)

/-- A follow-on word as a matrix command: its w indices. -/
def followOf (x : BitVec 96) : Option (Bool × List Nat) :=
  let h : Opnd → Nat := blockIdx
  match decodeBody x with
  | .ok (.mma hd _ _ c a b) => if hd = ⟨0, 0⟩ then some (false, [h c, h a, h b]) else none
  | .ok (.mmad hd _ _ dd a b c) => if hd = ⟨0, 0⟩ then some (true, [h dd, h a, h b, h c]) else none
  | _ => none

/-- The follow-on names w registers the group has (R106, R177). -/
def followOk (g : Group) (ds : List Word) : Bool :=
  (((ds.drop 11).take 5).all (· == 0)) && match followOf (followWord ds) with
    | some (_, ws) => ws.all fun i => decide (i < g.unif)
    | none => false

/-- The rows beyond the slot's eight that a descriptor of sixteen words takes. -/
def extraRows (fa : Opnd) : List Nat :=
  match fa with
  | .v i _ _ _ => (upto 8).map (i.toNat + 8 + ·)
  | _ => []

/-- The operand names w registers beyond UNIF among its sixteen. -/
def extraBad (g : Group) (fa : Opnd) : Bool :=
  match fa with
  | .w i _ _ _ => decide (g.unif < i.toNat + 16)
  | _ => false

/-! ### Checks at issue (R177, R189, R306, R368) -/

/-- Every byte of an operand-store range lies in one berth that the group holds (R177, check 5). -/
def rangeHeld (d : Dev) (cl gid side off n : Nat) : Bool :=
  let per := if side = 0 then 1048576 else 8192
  let starts := (upto (n / per + 2)).map fun k => max off ((off / per + k) * per)
  let ends := starts.map fun s => min (off + n) ((s / per + 1) * per) - 1
  (arraySlots 0 ++ arraySlots 1).any fun i =>
    let b := berthOf d cl i
    b.state == .live && shas b.holders gid && brSide b.record == side &&
      (starts.zip ends).all fun p => decide (off + n ≤ p.1) || (inBerth b.record p.1 && inBerth b.record p.2)

/-- A race of a global range with what its pages hold at issue (R189, R306). -/
def globalRace (d : Dev) (c : Cmd) (e : Env) (ln va n : Nat) (wr : Bool) (pol : Pol) : Chk :=
  (partsOf va n).foldl (fun k p => k.orElse fun _ =>
    match (engXlat d c p.1 (if wr then .w else .r) pol).2 with
    | .ok pl => lateChk d e.sq ln (issueClock e ln) pl.1 pl.2 p.2 p.1 false wr false
    | .error _ => .ok) .ok

/-- A race of a range in a space of CPY. -/
def rangeRace (d : Dev) (c : Cmd) (e : Env) (ln sp a n : Nat) (wr : Bool) (pol : Pol) : Chk :=
  if sp = 0 then globalRace d c e ln a n wr pol
  else if sp = 1 then lateChk d e.sq ln (issueClock e ln) 1 (scPlace e.g a) n a false wr false
  else .ok

/-- Tag a global range for a command at an epoch. -/
def tagGlobal (d : Dev) (t ep : Nat) (c : Cmd) (va n : Nat) (wr : Bool) (pol : Pol) : Dev :=
  (partsOf va n).foldl (fun d p =>
    match (engXlat d c p.1 (if wr then .w else .r) pol).2 with
    | .ok pl => tagAccess d t ep pl.1 pl.2 p.2 wr false
    | .error _ => d) d

/-- Tag a range in a space of CPY at an epoch. -/
def tagRange (d : Dev) (t ep : Nat) (c : Cmd) (sp a n : Nat) (wr : Bool) (pol : Pol) : Dev :=
  if sp = 0 then tagGlobal d t ep c a n wr pol
  else if sp = 1 then tagAccess d t ep 1 (scPlace (groupOf d c.grp) a) n wr false
  else d

/-- Tag a run of a destination, from an offset, by the 128-byte steps of its write pointer (R175, R179). -/
def tagSteps (d : Dev) (t : Nat) (c : Cmd) (sp a : Nat) (pol : Pol) (run : Nat × Nat) : Dev :=
  (partsOf run.1 run.2).foldl (fun d p => tagRange d t (p.1 / 128 + 1) c sp (a + p.1) p.2 true pol) d

/-! ### What a copy reads and writes (R178, R189, R367) -/

/-- Read from a copy's source. -/
def copySrc (d : Dev) (c : Cmd) (cp : Copy) (off n : Nat) : Dev × Except (Cause × Nat) (List Byte) :=
  if cp.ssp = 1 then (d, scRead d (groupOf d c.grp) (cp.src + off) n) else engRead d c cp.srcPol (cp.src + off) n

/-- The source range that follows the first k bytes of a chain's runs, within one line. -/
def nextPart (src : Nat) : Nat → List (Nat × Nat) → Option (Nat × Nat)
  | _, [] => none
  | k, r :: t => if k < r.2 then some (r.1 + k, min (r.2 - k) (128 - (src + r.1 + k) % 128)) else nextPart src (k - r.2) t

/-- The bytes in runs. -/
def runTotal (l : List (Nat × Nat)) : Nat := l.foldl (fun n r => n + r.2) 0

/-- The first k bytes of runs. -/
def takeRuns : Nat → List (Nat × Nat) → List (Nat × Nat)
  | _, [] => []
  | k, r :: t => if k = 0 then [] else (r.1, min k r.2) :: takeRuns (k - r.2) t

/-- The runs of bytes that are there, from an offset. -/
def knownRuns : Nat → List (Option Byte) → List (Nat × Nat)
  | _, [] => []
  | k, none :: t => knownRuns (k + 1) t
  | k, some _ :: t => match knownRuns (k + 1) t with
    | (a, n) :: r => if a = k + 1 then (k, n + 1) :: r else (k, 1) :: (a, n) :: r
    | [] => [(k, 1)]

/-- A chain's source as memory stands, up to a part that cannot be read. -/
def readAll (d : Dev) (c : Cmd) (cp : Copy) (l : List ShapeStep) : Nat → List Byte → List Byte
  | 0, bs => bs
  | n + 1, bs => match nextPart cp.src bs.length (chainRuns cp.len l) with
    | none => bs
    | some r => match (copySrc d c cp r.1 r.2).2 with
      | .ok ys => readAll d c cp l n (bs ++ ys)
      | .error _ => bs

/-- What a copy reads and writes: runs from SRC, runs from DST, and bytes of a separate scale array. -/
structure Reach where
  src    : List (Nat × Nat)
  dst    : List (Nat × Nat)
  scales : Nat := 0
  deriving DecidableEq, Repr, Inhabited

/-- The bytes a copy reads and writes (R189, R306): where a transduce step decides how far it goes, as a run over memory as it stands at the issue goes.
DEDUCED, log 52. -/
def copyReach (d : Dev) (c : Cmd) (cp : Copy) (l : List ShapeStep) : Reach :=
  if l.isEmpty then ⟨[(0, cp.len)], [(0, c.total)], 0⟩
  else
    let runs := chainRuns cp.len l
    let m := runTotal runs
    let bs := if hasTrans l then readAll (publish d c.vc .dev) c cp l m [] else List.replicate m 0
    let o := chainOut cp.len l bs (decide (bs.length < m))
    ⟨takeRuns (chainNeeds cp.len l bs) runs, knownRuns 0 o.out, o.scales.length⟩

/-- The w registers a follow-on or an engine program names, as the group's squads read them. -/
def wValues (d : Dev) (c : Cmd) (ws : List Nat) : List Nat := ws.map fun i => ((groupOf d c.grp).wFor c.sq i).toNat

/-- A matrix command of w values: FD, FA, FB and, for MMAD, FC. -/
def mmaKind (mmad : Bool) (xs : List Nat) : CmdKind :=
  if mmad then .mma true (xs.getD 0 0) (xs.getD 3 0) (xs.getD 1 0) (xs.getD 2 0) else .mma false 0 (xs.getD 0 0) (xs.getD 1 0) (xs.getD 2 0)

/-- The tile accesses of a copy's follow-on by the w registers as they stand at the copy's issue, where its tiles are its group's (R180, R189). DEDUCED,
log 15. -/
def followAccs (d : Dev) (c : Cmd) (ds : List Word) : List TileAcc :=
  match followOf (followWord ds) with
  | some (mmad, ws) =>
    let k := mmaKind mmad (wValues d c ws)
    match tileChk (groupOf d c.grp) k.tiles with
    | .ok => k.tileAccs
    | _ => []
  | none => []

/-- The command a lane's copy becomes. -/
def cpyCmd (d : Dev) (e : Env) (ln : Nat) (ds : List Word) : Cmd :=
  let cp := copyOf ds
  let l := cp.chain d (e.core / 7)
  { mkCmd d e ln (.cpy ds l) with total := cp.dstLen l, uses := cp.shp }

/-- Checks 3 to 6 of R177, then those of R368, and the race check, which for a chain with a transduce step waits until what the lane did before is performed,
and which covers the follow-on's tiles. An empty range is within an allocation that its offset does not pass, and touches no berth. DESIGN CHOICE, log 11. -/
def copyChk (d : Dev) (e : Env) (ln : Nat) (ds : List Word) (ill : Chk) : Chk :=
  let c := copyOf ds
  let cl := e.core / 7
  let l := c.chain d cl
  let n := c.dstLen l
  let m := c.srcLen l
  let scr := scrOf e.g
  if c.src % max 1 (c.sw / 8) ≠ 0 then .bad 2 0x03 (tvAddr c.src)
  else if c.dsp < 2 && c.dst % max 1 (c.dw / 8) ≠ 0 then .bad 2 0x03 (tvAddr c.dst)
  else if c.len % max 1 (c.sw / 8) ≠ 0 then .bad 2 0x03 (tvAddr (if Config.pick d.tick ln 2 = 0 then c.src else c.len))
  else if c.ssp = 1 && scr < c.src + m then .bad 5 0x07 (tvAddr c.src)
  else if c.dsp = 1 && scr < c.dst + n then .bad 5 0x07 (tvAddr c.dst)
  else if 2 ≤ c.dsp && n ≠ 0 && !rangeHeld d cl e.s.group (c.dsp - 2) c.dst n then .bad 5 0x13 (tvAddr c.dst)
  else if c.shp ≠ 0 && (liveShape d cl c.shp).isNone then .bad 5 0x16 (tvAddr c.shp)
  else if c.shp ≠ 0 && (flowChain c.len c.dsp none l).isNone then ill
  else if hasTrans l && !quiet d (issueClock e ln) then .stall
  else
    let k := cpyCmd d e ln ds
    let x := copyReach d k c l
    let race := fun sp a wr pol (r : Chk) (q : Nat × Nat) => r.orElse fun _ => rangeRace d k e ln sp (a + q.1) q.2 wr pol
    (x.src.foldl (race c.ssp c.src false c.srcPol) .ok).orElse fun _ =>
    (x.dst.foldl (race c.dsp c.dst true c.dstPol) .ok).orElse fun _ =>
    (rangeRace d k e ln 0 (chainScAddr l) x.scales true c.dstPol).orElse fun _ =>
      if c.fmma then tileRace d e.sq ln (issueClock e ln) e.g (followAccs d k ds) else .ok

/-- An outstanding load is still to write one of the rows of a lane. -/
def rowsPending (d : Dev) (u ln : Nat) (rows : List Nat) : Bool :=
  d.accs.any fun p => p.2.sq == u && (p.2.lanes.any fun q => q.1 == ln) && p.2.dest.vRows.any rows.contains

/-- The check of CPY (R177): a descriptor of sixteen words takes eight more registers, checked as the slot's are. -/
def cpyChk (fa : Opnd) (d : Dev) (e : Env) (ln : Nat) : Chk :=
  let ill := Chk.bad 1 0x01 (tvField 4 fa.desc)
  let c := copyOf (readBlock e ln fa 8)
  if c.bad then ill
  else if !c.fmma then copyChk d e ln (readBlock e ln fa 8) ill
  else if blockIdx fa % 16 ≠ 0 || extraBad e.g fa then ill
  else
    let rows := extraRows fa
    match rowCause d e.s ln rows [] with
    | some (k, i) => .bad 3 k (BitVec.ofNat 64 (rowAddr e.s i))
    | none =>
      if rowsPending d e.sq ln rows then .stall
      else if rows.any e.s.missing then .ok
      else match rowPoison e.s ln rows with
      | some i => .bad 6 0x0D (BitVec.ofNat 64 (rowAddr e.s i))
      | none =>
        let ds := readBlock e ln fa 16
        if !followOk e.g ds then ill else copyChk d e ln ds ill

/-! ### Issue (R172, R178, R180) -/

/-- Copies in a core's copy engine (R172). -/
def copyQueue (d : Dev) (core : Nat) : Nat :=
  (d.cmds.filter fun p => p.2.core == core && (match p.2.kind with
    | .cpy _ _ => true
    | _ => false)).length

/-- A follow-on that stands behind number n of a timeline. -/
def followsOf (d : Dev) (gid t n : Nat) : List (Nat × Cmd) :=
  d.cmds.filter fun p => p.2.grp == gid && p.2.tl == some (t, n + 1) && (match p.2.kind with
    | .follow _ => true
    | _ => false)

/-- The copy engine issues a follow-on whose copy has completed (R180): checked by R199, it goes to its array, once there is room. -/
def issueFollow (d : Dev) (j : Nat) (vc : Clock) : Dev :=
  let c := { cmdOf d j with vc := vc }
  match c.kind with
  | .follow x =>
    match followOf x with
    | none => completeCmd d j true
    | some (mmad, ws) =>
      let k := mmaKind mmad (wValues d c ws)
      match matrixChk d c.grp c.core c.det k with
      | .bad _ cause tv => failCmd d j cause tv.toNat false
      | _ =>
        if matrixFull d c.core k then setCmd d j fun _ => { c with state := .running 0 }
        else
          let i := d.fresh
          let d := { bump d with cmds := fput (fdel d.cmds j) i { c with kind := k, state := .queued, vc := vcJoin c.vc (ownClock j c) } }
          tagTiles d i c.sq c.lane (groupOf d c.grp) k.tileAccs
  | _ => d

/-- Follow-ons that wait for room at an array are tried again. -/
def retryFollows (d : Dev) : Dev :=
  d.cmds.foldl (fun d p => match p.2.kind, p.2.state with
    | .follow _, .running _ => issueFollow d p.1 p.2.vc
    | _, _ => d) d

/-- A copy completes; its follow-on is issued, or fails with it (R180). -/
def finishCopy (d : Dev) (i : Nat) (bad : Bool) : Dev :=
  let c := cmdOf d i
  let d := completeCmd d i bad
  match c.tl with
  | none => d
  | some (t, n) =>
    (followsOf d c.grp t n).foldl (fun d p =>
      if bad || (groupOf d c.grp).killed then completeCmd d p.1 true else issueFollow d p.1 (cmdClock i c)) d

/-- A copy fails on a fault (R179). -/
def failCopy (d : Dev) (i cause va : Nat) : Dev :=
  let c := cmdOf d i
  let d := failCmd d i cause va (cause == 0x0D)
  match c.tl with
  | none => d
  | some (t, n) => (followsOf d c.grp t n).foldl (fun d p => completeCmd d p.1 true) d

/-- Send a copy to its engine (R178): what it reads and writes is tagged, its follow-on takes the next number and its tiles are tagged too, and one of length 0 completes at once where
what the lane did before is performed, otherwise once it is (R172). DEDUCED, log 11. -/
def addCopy (d : Dev) (c : Cmd) (ds : List Word) (t : Nat) : Dev :=
  let i := d.fresh
  let cp := copyOf ds
  let l := cp.chain d (c.core / 7)
  let tid := cmdTid i c.sq c.lane
  let x := copyReach d c cp l
  let d := addCmd d c (some t)
  let d := x.src.foldl (fun d r => tagRange d tid cmdEpoch c cp.ssp (cp.src + r.1) r.2 false cp.srcPol) d
  let d := x.dst.foldl (tagSteps · tid c cp.dsp cp.dst cp.dstPol ·) d
  let d := tagGlobal d tid cmdEpoch c (chainScAddr l) x.scales true cp.dstPol
  let d := if cp.fmma then tagTiles (addCmd d { c with kind := .follow (followWord ds), claim := none, uses := 0 } (some t)) d.fresh c.sq c.lane
    (groupOf d c.grp) (followAccs d c ds) else d
  if cp.len = 0 && quiet d c.vc then finishCopy (publish d c.vc .dev) i false else d

/-! ### Chunks (R179, R367, R369) -/

/-- Write to a copy's destination. -/
def copyDst (d : Dev) (c : Cmd) (cp : Copy) (off : Nat) (bs : List (Option Byte)) : Dev × Except (Cause × Nat) Unit :=
  match cp.dsp with
  | 0 => engWrite d c cp.dstPol (cp.dst + off) bs
  | 1 => (scWrite d (groupOf d c.grp) (cp.dst + off) bs, .ok ())
  | _ => (opWrite d (c.core / 7) (cp.dsp - 2) (cp.dst + off) bs, .ok ())

/-- A plain copy's destination lies above its source and meets it (R178). -/
def Copy.overlaps (c : Copy) : Bool := c.ssp == c.dsp && c.sfmt == 0 && c.shp == 0 && decide (c.src < c.dst) && decide (c.dst < c.src + c.len)

/-- The source byte at i as it was before the command, where the copy has already written there (R178). -/
def beforeByte (c : Cmd) (cp : Copy) (i : Nat) (cur : Byte) : Byte :=
  if cp.dst - cp.src ≤ i then ((c.buf[i - (cp.dst - cp.src)]?).getD none).getD cur else cur

/-- A byte of an overlapping copy: the source byte as it was, or what a byte-by-byte forward copy leaves (R178). DESIGN CHOICE, log 11. -/
def overlapByte (d : Dev) (c : Cmd) (cp : Copy) (i : Nat) (cur : Byte) : Byte :=
  let was := beforeByte c cp i cur
  if Config.pick d.tick i 2 = 0 then was
  else match (copySrc d c cp (i % (cp.dst - cp.src)) 1).2 with
    | .ok [b] => b
    | _ => was

/-- What bytes [p, q) of a plain copy's destination become. -/
def plainChunk (d : Dev) (c : Cmd) (cp : Copy) (p q : Nat) : Dev × Except (Cause × Nat) (List Byte) :=
  if cp.sfmt = 0 then
    match copySrc d c cp p (q - p) with
    | (d, .ok bs) => (d, .ok (if cp.overlaps then bs.zipIdx.map fun x => overlapByte d c cp (p + x.2) x.1 else bs))
    | r => r
  else
    let e0 := p * 8 / cp.dw
    let e1 := if q = c.total then cp.elems else q * 8 / cp.dw
    let s0 := e0 * cp.sw / 8
    match copySrc d c cp s0 ((e1 * cp.sw + 7) / 8 - s0) with
    | (d, .ok bs) =>
      let xs := (elemsOf cp.sw bs).take (e1 - e0)
      (d, .ok (bytesOfElems cp.dw (xs.map (convElem (fmtAt cp.sfmt) (fmtAt cp.dfmt) (Rnd.ofCode (BitVec.ofNat 3 cp.rnd)) cp.sat))))
    | r => r

/-- The bytes of the destination that an overlapping copy is about to write, where they are still to be read as its source. -/
def savedBytes (d : Dev) (c : Cmd) (cp : Copy) (p q : Nat) : Dev × Except (Cause × Nat) (List (Option Byte)) :=
  let delta := cp.dst - cp.src
  let n := min q (cp.len - delta) - p
  match copySrc d c cp (delta + p) n with
  | (d, .ok bs) => (d, .ok (someBytes bs ++ List.replicate (q - p - n) none))
  | (d, .error e) => (d, .error e)

/-- A command meets a fault at a position: no translation halts it there, anything else fails it (R179, R365). A retry that finds the same address without a
translation has not resumed: the command stays halted since when it was. -/
def cmdFault (d : Dev) (i pos : Nat) (since : Option Nat) (e : Cause × Nat) (fail : Dev → Dev) : Dev :=
  if e.1 = 0x04 then
    let now := (clusterOf d ((cmdOf d i).core / 7)).etime
    setCmd d i fun c => { c with state := .halted pos (if c.hva = e.2 then since.getD now else now), hva := e.2, last := now, kick := false }
  else fail d

/-- The write pointer once pos bytes are written (R179, R368). -/
def wpAt (elem total pos : Nat) : Nat := if total ≤ pos then elem else if elem ≤ pos then (elem - 1) / 128 * 128 else pos / 128 * 128

/-- Bytes [p, q) of a chain's output are written: those of the elements, then those of the scale array. Nothing is written where either meets a fault. -/
def chainChunk (d : Dev) (c : Cmd) (cp : Copy) (l : List ShapeStep) (o : ChainOut) (p q : Nat) : Dev × Except (Cause × Nat) Unit :=
  let elem := o.out.length
  let bs := ((o.out ++ someBytes o.scales).drop p).take (q - p)
  let sa := chainScAddr l + (max p elem - elem)
  match (if q ≤ elem then (d, .ok ()) else engProbe d c cp.dstPol sa (bs.drop (elem - p))) with
  | (d, .error e) => (d, .error e)
  | (d, .ok _) => match copyDst d c cp p (bs.take (elem - p)) with
    | (d, .ok _) => if q ≤ elem then (d, .ok ()) else engWrite d c cp.dstPol sa (bs.drop (elem - p))
    | r => r

/-- Where a command stands. -/
def Cmd.pos (c : Cmd) : Nat :=
  match c.state with
  | .queued => 0
  | .running p => p
  | .halted p _ => p

/-- After a chunk: the write pointer moves, and the last one completes the command (R179). -/
def afterChunk (d : Dev) (i elem total pos : Nat) (bad : Bool) : Dev :=
  let d := setCmd d i fun c => { c with state := .running pos, wp := wpAt elem total pos }
  if pos < total then d else finishCopy d i bad

/-- Where a copy reads next: from its source, at the chunk it stands at. -/
def srcNext (c : Cmd) (cp : Copy) (l : List ShapeStep) : Nat :=
  if l.isEmpty then min (if cp.sfmt = 0 then c.pos else c.pos * 8 / cp.dw * cp.sw / 8) cp.len
  else ((nextPart cp.src c.src.length (chainRuns cp.len l)).map (·.1)).getD 0

/-- A shaped copy goes on (R179, R367): it reads the next part of its source while the bytes of its next chunk are not known, and writes that chunk once they
are. A fault of either stops it there, with what is below its write pointer written. -/
def chainTurn (d : Dev) (i : Nat) (c : Cmd) (cp : Copy) (l : List ShapeStep) (fault : Dev → Nat → Cause × Nat → Dev) : Dev :=
  let runs := chainRuns cp.len l
  let o := chainOut cp.len l c.src (decide (c.src.length < runTotal runs))
  let p := c.pos
  match (if o.part && decide (o.out.length < p + 128) then nextPart cp.src c.src.length runs else none) with
  | some r => match copySrc d c cp r.1 r.2 with
    | (d, .error e) => fault d p e
    | (d, .ok bs) => setCmd d i fun c => { c with state := .running p, src := c.src ++ bs }
  | none =>
    let total := if o.part then p + 129 else o.out.length + o.scales.length
    let q := min (p + 128) total
    match chainChunk d c cp l o p q with
    | (d, .error e) => fault d p e
    | (d, .ok _) => afterChunk d i (if o.part then total else o.out.length) total q o.bad

/-- A copy goes on by one unit: it writes its next chunk, or reads a part of a shaped one's source. -/
def copyChunk (d : Dev) (i : Nat) (since : Option Nat) : Dev :=
  let c := cmdOf d i
  match c.kind with
  | .cpy ds l =>
    let cp := copyOf ds
    let fault := fun d pos e => cmdFault d i pos since e fun d => failCopy d i e.1 e.2
    if l.isEmpty then
      let p := c.pos
      let q := min (p + 128) c.total
      match plainChunk d c cp p q with
      | (d, .error e) => fault d p e
      | (d, .ok bs) =>
        match (if cp.overlaps then savedBytes d c cp p q else (d, .ok [])) with
        | (d, .error e) => fault d p e
        | (d, .ok old) =>
          match copyDst d c cp p (someBytes bs) with
          | (d, .error e) => fault d p e
          | (d, .ok _) => afterChunk (setCmd d i fun c => { c with buf := c.buf ++ old }) i c.total c.total q false
    else chainTurn d i c cp l fault
  | _ => d

/-- The place a command reads next is poisoned (R319). -/
def poisonSrc (d : Dev) (c : Cmd) (sp a : Nat) (pol : Pol) : Dev :=
  if sp = 1 then { d with scPoison := sadd d.scPoison (scPlace (groupOf d c.grp) a / 4) }
  else match (engXlat d c a .r pol).2 with
    | .ok (0, pa) => poisonLine d pa
    | _ => d

/-- A command of a killed group stops here (R364), or a pre-emption holds it here (R392): copies at 4 KiB chunks. -/
def atUnit (c : Cmd) : Bool := c.state == .queued || c.pos % 4096 == 0

/-- An event of a copy: it runs once the accesses released to it are performed (R172). -/
def copyEvent (d : Dev) (i : Nat) (err : MemErr) (since : Option Nat) : Dev :=
  match fget d.cmds i with
  | none => d
  | some c =>
    match c.kind with
    | .cpy ds l =>
      let cp := copyOf ds
      if !quiet d c.vc then d
      else if (groupOf d c.grp).killed && atUnit c then finishCopy (publish d c.vc .dev) i true
      else if cmdStopped d c && atUnit c then d
      else
        let d := noteErr (publish d c.vc .dev) c.core err
        if errBad err then
          let a := cp.src + srcNext c cp l
          match err with
          | .poison _ => failCopy (poisonSrc d c cp.ssp a cp.srcPol) i 0x0D a
          | .fatal _ => d
          | _ => failCopy d i 0x0D a
        else copyChunk d i since
    | _ => d

end Sys2Proof.Machine
end

