-- ==== Sys2Proof/Machine/Membership.lean ====
section
/-! DEFINITION. Groups, barriers, tickets, masks and votes (R94, R106 to R115). -/
namespace Sys2Proof.Machine

/-- GJOIN and GLEAVE in deterministic mode (R111, R407). -/
def detBar (_ : Dev) (e : Env) (_ : Nat) : Chk := if e.s.det then .bad 5 0x0B 0 else .ok

/-- Write one value in every participant and go on. -/
def writeAll (o : Opnd) (t : Ty) (x : DWord) (e : Env) (lns : List Nat) (d : Dev) : Dev :=
  setSquad d e.sq fun s => lns.foldl (fun s ln => (s.write ln o t x).setLane ln Lane.advance) s

/-- Write Q[7] in every participant and go on. -/
def writeQ7 (b : Bool) (e : Env) (lns : List Nat) (d : Dev) : Dev :=
  setSquad d e.sq fun s => lns.foldl (fun s ln => s.setLane ln fun l => (l.setQ 7 b).advance) s

/-- The number of an upper core's cluster, none on a lower core. -/
def upperOf (core : Nat) : Option Nat := if core % 7 = 6 then some (core / 7) else none

/-- The immediate of an operand. -/
def immOf : Opnd → Nat
  | .imm x => x.toNat
  | _ => 0

/-! ### GJOIN and GLEAVE (R107, R108) -/

/-- The live group a GJOIN finds: its key, work item, cluster and kind of core (R106, R107). Squads of no work item find each other's
groups within one ASID and VMID. DESIGN CHOICE, log 50. -/
def findKey (d : Dev) (g : Group) (key : Nat) : Option (Nat × Group) :=
  d.groups.find? fun p => p.2.key == some key && p.2.item == g.item && p.2.cluster == g.cluster && p.2.upper == g.upper &&
    p.2.state == .live && p.2.asid == g.asid && p.2.vmid == g.vmid

/-- The group a GJOIN creates (R107): it takes its allocation when it can (R291). -/
def joinGroup (d : Dev) (e : Env) (n key : Nat) : Group :=
  { item := e.g.item, idx := key, cap := n, key := some key, unif := e.s.kern.unif, scr := e.s.kern.scr
    base := scAlloc d e.g.cluster e.s.kern.scr, cluster := e.g.cluster, upper := e.g.upper, kh := e.s.kh, asid := e.g.asid, vmid := e.g.vmid }

/-- A squad becomes a member of a group: it is expected from each barrier's next phase on (R110). The squad that makes the group, and so
finds no other member, is expected in phase 0 at once. DEDUCED, log 50. -/
def memberJoin (g : Group) (u : Nat) : Group :=
  { g with
    members := sadd g.members u, joined := g.joined + 1
    bars := if g.members.isEmpty then g.bars else (upto 16).foldl (fun m b =>
      let x := fgetD m b {}
      fput m b { x with late := sadd x.late u }) g.bars }

/-- The group a GJOIN is for: one found by its key, or a new one. A squad whose own group is the one found leaves it for a new group with
that key and count of joiners, for its own is dissolved (R107). DESIGN CHOICE, log 50. -/
def joinTarget (d : Dev) (e : Env) (n key : Nat) : Dev × Nat × Group :=
  let add := fun (d : Dev) (g : Group) => (bump { d with groups := fput d.groups d.fresh g }, d.fresh, g)
  match findKey d e.g key with
  | none => add d (joinGroup d e n key)
  | some (i, g) =>
    if i = e.s.group && g.cap = n && 1 < n then
      add (setGroup d i fun g => { g with key := none }) { joinGroup d e n key with joined := g.joined }
    else (d, i, g)

/-- GJOIN once its instance is complete: the squad's logical group index is the new group's (R107). -/
def gjoinDone (dst cnt key : Opnd) (e : Env) (lns : List Nat) (d : Dev) : Dev :=
  let n := readN32 e (lns.headD 0) cnt
  let k := readN32 e (lns.headD 0) key
  let fail := writeAll dst .n32 0xFFFFFFFF e lns
  if e.g.members.any (· != e.sq) || n < 1 || 576 < n then fail d
  else
    let p := joinTarget d e n k
    if p.2.2.cap ≠ n || n ≤ p.2.2.members.length then fail d
    else if p.2.2.base.isNone then holdLanes p.1 e.sq .hold lns
    else
      let d := leaveGroup p.1 e.sq
      let d := setSquad (setGroup d p.2.1 fun g => memberJoin g e.sq) e.sq fun s =>
        { s with group := p.2.1, arr := [], gpidx := BitVec.ofNat 32 p.2.2.idx }
      writeAll dst .n32 (BitVec.ofNat 64 p.2.2.joined) e lns d

/-- GLEAVE once its instance is complete (R108). -/
def gleaveDone (e : Env) (lns : List Nat) (d : Dev) : Dev :=
  let d := leaveGroup d e.sq
  let d := newGroup d e.sq { item := e.g.item, idx := e.g.idx, unif := e.s.kern.unif, scr := 0, base := some 0, cluster := e.g.cluster
                             upper := e.g.upper, kh := e.g.kh, asid := e.g.asid, vmid := e.g.vmid }
  advanceAll d e.sq lns

/-! ### Barriers (R109 to R111) -/

/-- The return of a wait on a phase: an acquire at `.gp` of the completed phase (R111). -/
def barReturn (b : Nat) (e : Env) (lns : List Nat) (d : Dev) : Dev :=
  let c := ((groupOf d e.s.group).bar b).done
  setSquad d e.sq fun s => lns.foldl (fun s ln => s.setLane ln fun l => (l.acquire c d.tick true).advance)
    { s with form := none }

/-- Record an arrival (R109): a release at `.gp` of what the squad did (R111); a complete phase advances. -/
def barArrive (b : Nat) (e : Env) (lns : List Nat) (d : Dev) : Dev :=
  let c := squadClock d e.sq
  let p := ((groupOf d e.s.group).bar b).phase
  let d := setGroup (publish d c .gp) e.s.group fun g =>
    let x := g.bar b
    (g.setBar b { x with arr := sadd x.arr e.sq, vc := vcJoin x.vc c }).completePhase b
  endEpochs (setSquad d e.sq fun s => { s with arr := fput s.arr b p }) e.sq lns

/-- The phase of the squad's last arrival is not complete. -/
def barBusy (b : Nat) (e : Env) (d : Dev) : Bool :=
  match fget (squadOf d e.sq).arr b with
  | some p => ((groupOf d e.s.group).bar b).phase ≤ p
  | none => false

/-- The phase a wait is for: that of the squad's last arrival. -/
def barAwait (b : Nat) (e : Env) (d : Dev) : Await := .bar e.s.group b ((fget (squadOf d e.sq).arr b).getD 0)

/-- GARV (R109): it waits for an earlier arrival's phase, then until what the squad did is performed (R111). Its wait is no parking event
(R266). -/
def garvDone (b : Nat) (e : Env) (lns : List Nat) (d : Dev) : Dev :=
  if barBusy b e d then detPass (holdLanes d e.sq .hold lns) e.sq
  else if !quiet d (squadClock d e.sq) then holdLanes d e.sq .hold lns
  else advanceAll (barArrive b e lns d) e.sq lns

/-- GWAIT (R109). -/
def gwaitDone (b : Nat) (e : Env) (lns : List Nat) (d : Dev) : Dev :=
  if barBusy b e d then parkLanes d e.sq (.park (barAwait b e d)) lns
  else if (fget (squadOf d e.sq).arr b).isNone then detPass (advanceAll d e.sq lns) e.sq
  else detPass (barReturn b e lns d) e.sq

/-- GBAR (R109): one that was stopped after its arrival does not arrive again (R375). -/
def gbarDone (b : Nat) (e : Env) (lns : List Nat) (d : Dev) : Dev :=
  match (squadOf d e.sq).form with
  | some (.arrived pc b' _) =>
    if pc = e.pc && b' = b then gwaitDone b e lns d
    else gbarFirst d
  | _ => gbarFirst d
where
  gbarFirst (d : Dev) : Dev :=
    if barBusy b e d then parkLanes d e.sq (.park (barAwait b e d)) lns
    else if !quiet d (squadClock d e.sq) then holdLanes d e.sq .hold lns
    else
      let p := ((groupOf d e.s.group).bar b).phase
      gwaitDone b e lns (setSquad (barArrive b e lns d) e.sq fun s => { s with form := some (.arrived e.pc b p) })

/-! ### Tickets (R112, R389) -/

/-- The ticket as a group finds it; a group of no work item reads no poison. -/
def ticketOf (d : Dev) (g : Group) (t : Nat) : Ticket :=
  match g.item with
  | none => {}
  | some i => (itemOf d i).ticket t

/-- Return from a ticket's wait: Q7 takes the poison, an acquire at `.dev`. -/
def ticketReturn (t : Nat) (e : Env) (lns : List Nat) (d : Dev) : Dev :=
  let k := ticketOf d e.g t
  writeQ7 k.poison e lns (setSquad d e.sq fun s => lns.foldl (fun s ln => s.setLane ln fun l => l.acquire k.vc d.tick true) s)

/-- TKWAIT (R112). -/
def tkwaitDone (t : Nat) (e : Env) (lns : List Nat) (d : Dev) : Dev :=
  if ticketOpen d e.g t then ticketReturn t e lns d else parkLanes d e.sq (.park (.ticket e.s.group t)) lns

/-- The waiting part of TKPASS is over: the acquire of TKWAIT, with q7 left alone, as R376 and R377 need. DEDUCED, log 32. -/
def ticketTake (t : Nat) (e : Env) (lns : List Nat) (d : Dev) : Dev :=
  let k := ticketOf d e.g t
  setSquad d e.sq fun s => lns.foldl (fun s ln => s.setLane ln fun l => (l.acquire k.vc d.tick true).advance) s

/-- TKPASS (R112): a release at `.dev`. -/
def tkpassDone (t : Nat) (e : Env) (lns : List Nat) (d : Dev) : Dev :=
  let g := groupOf d e.s.group
  if g.ticketed && shas g.passed t then advanceAll d e.sq lns
  else if !ticketOpen d g t then parkLanes d e.sq (.park (.ticket e.s.group t)) lns
  else match g.item with
    | none => ticketReturn t e lns d
    | some i =>
      let c := squadClock d e.sq
      if !g.ticketed then ticketReturn t e lns d
      else if !quiet d c then holdLanes d e.sq .hold lns
      else
        let d := ticketTake t e lns (publish d c .dev)
        let c := squadClock d e.sq
        let d := setGroup d e.s.group fun g => { g with passed := sadd g.passed t }
        endEpochs (setTicket d i t fun k => { k with ctr := g.idx + 1, vc := vcJoin k.vc c }) e.sq lns

/-! ### Masks and votes (R113 to R115) -/

/-- The 128-bit set of a list of lanes. -/
def laneSet (l : List Nat) : BitVec 128 := l.foldl (fun m ln => m ||| 1#128 <<< ln) 0

/-- Word p of a mask. -/
def maskWord (m : BitVec 128) (p : Nat) : DWord := (m.extractLsb' (32 * p) 32).setWidth 64

/-- A mask with word p replaced. -/
def setMaskWord (m : BitVec 128) (p : Nat) (x : Word) : BitVec 128 :=
  (m &&& ~~~((0xFFFFFFFF#128) <<< (32 * p))) ||| (x.setWidth 128 <<< (32 * p))

/-- The mask register of an operand. -/
def mIdx (o : Opnd) : Nat := (maskOf o).getD 0

/-- VOTE's result over its participants (R115). -/
def voteOf (op : VoteOp) (xs : List Bool) : Bool :=
  match op with
  | .any => xs.any id
  | .all => xs.all id
  | .uni => xs.all id || xs.all (!·)

/-- BALLOT over its participants (R115). -/
def ballotDone (d a part : Opnd) (e : Env) (lns : List Nat) (dv : Dev) : Dev :=
  let b := laneSet (lns.filter fun ln => readQ e ln a)
  match d with
  | .m i => writeMask (advanceAll dv e.sq lns) e.sq i.toNat b
  | _ => writeAll d .n32 (maskWord b (immOf part)) e lns dv

/-- GJOIN vD, count, key (R107) -/
def execGjoin (h : Hd) (d cnt key : Opnd) : State → Host.Outcome State Fault Refusal :=
  onDev (issueGather (rawOf (.gjoin h d cnt key)) .none detBar (gjoinDone d cnt key))

/-- GLEAVE (R108) -/
def execGleave (h : Hd) : State → Host.Outcome State Fault Refusal :=
  onDev (issueGather (rawOf (.gleave h)) .none detBar gleaveDone)

/-- GBAR b (R109) -/
def execGbar (h : Hd) (b : Opnd) : State → Host.Outcome State Fault Refusal :=
  onDev (issueGather (rawOf (.gbar h b)) .none (fun _ _ _ => .ok) (gbarDone (immOf b)))

/-- GARV b (R109) -/
def execGarv (h : Hd) (b : Opnd) : State → Host.Outcome State Fault Refusal :=
  onDev (issueGather (rawOf (.garv h b)) .none (fun _ _ _ => .ok) (garvDone (immOf b)))

/-- GWAIT b (R109) -/
def execGwait (h : Hd) (b : Opnd) : State → Host.Outcome State Fault Refusal :=
  onDev (issueGather (rawOf (.gwait h b)) .none (fun _ _ _ => .ok) (gwaitDone (immOf b)))

/-- TKWAIT t (R112) -/
def execTkwait (h : Hd) (tk : Opnd) : State → Host.Outcome State Fault Refusal :=
  onDev (issueGather (rawOf (.tkwait h tk)) .none (fun _ _ _ => .ok) (tkwaitDone (immOf tk)))

/-- TKPASS t (R112) -/
def execTkpass (h : Hd) (tk : Opnd) : State → Host.Outcome State Fault Refusal :=
  onDev (issueGather (rawOf (.tkpass h tk)) .none (fun _ _ _ => .ok) (tkpassDone (immOf tk)))

/-- MJOIN mA (R115) -/
def execMjoin (h : Hd) (a : Opnd) : State → Host.Outcome State Fault Refusal :=
  onDev (issue (rawOf (.mjoin h a)) (fun e lns dv => writeMask (advanceAll dv e.sq lns) e.sq (mIdx a) (e.s.mask (mIdx a) ||| laneSet lns)))

/-- MLEAVE mA (R115) -/
def execMleave (h : Hd) (a : Opnd) : State → Host.Outcome State Fault Refusal :=
  onDev (issue (rawOf (.mleave h a)) (fun e lns dv => writeMask (advanceAll dv e.sq lns) e.sq (mIdx a) (e.s.mask (mIdx a) &&& ~~~(laneSet lns))))

/-- MWAIT mA (R115) -/
def execMwait (h : Hd) (a : Opnd) : State → Host.Outcome State Fault Refusal :=
  onDev (issueGather (rawOf (.mwait h a)) a (fun _ _ _ => .ok) (fun e lns dv => advanceAll dv e.sq lns))

/-- MGET vD, mA, part (R115) -/
def execMget (h : Hd) (d a part : Opnd) : State → Host.Outcome State Fault Refusal :=
  onDev (issue (rawOf (.mget h d a part)) (fun e lns dv => writeAll d .n32 (maskWord (e.s.mask (mIdx a)) (immOf part)) e lns dv))

/-- MSET mD, part, value (R115) -/
def execMset (h : Hd) (d part x : Opnd) : State → Host.Outcome State Fault Refusal :=
  onDev (issue (rawOf (.mset h d part x)) (fun e lns dv => writeMask (advanceAll dv e.sq lns) e.sq (mIdx d)
    (setMaskWord (e.s.mask (mIdx d)) (immOf part) (BitVec.ofNat 32 (readN32 e (lns.headD 0) x)))))

/-- VOTE.op qD, qA, mC (R115) -/
def execVote (h : Hd) (op : VoteOp) (d a mc : Opnd) : State → Host.Outcome State Fault Refusal :=
  onDev (issueGather (rawOf (.vote h op d a mc)) mc (fun _ _ _ => .ok) (fun e lns => writeAll d .none
    (if voteOf op (lns.map fun ln => readQ e ln a) then 1 else 0) e lns))

/-- BALLOT mD or vD (R115) -/
def execBallot (h : Hd) (d a part mc : Opnd) : State → Host.Outcome State Fault Refusal :=
  onDev (issueGather (rawOf (.ballot h d a part mc)) mc (fun _ _ _ => .ok) (ballotDone d a part))

end Sys2Proof.Machine
end

