-- ==== Sys2Proof/Machine/Quay.lean ====
section
/-! DEFINITION. Quays (R221 to R225, R425, R426). -/
namespace Sys2Proof.Machine

/-- Change a direction. -/
def setQuay (d : Dev) (k : Nat) (f : Quay → Quay) : Dev := { d with quays := fput d.quays k (f (quayOf d k)) }
/-- The number of a direction: of lower core n of a cluster, up or down. -/
def quayKey (cl n : Nat) (down : Bool) : Nat := cl * 16 + n * 2 + (if down then 1 else 0)

/-- A port a core has (R221). -/
def portOk (core port : Nat) : Bool := if core % 7 = 6 then decide (port < 6) else port == 0
/-- The lower core at the other end, or at this one. -/
def portCore (core port : Nat) : Nat := if core % 7 = 6 then port else core % 7
/-- The direction in which a core sends on a port. -/
def quayOut (core port : Nat) : Nat := quayKey (core / 7) (portCore core port) (core % 7 == 6)
/-- The direction from which a core receives on a port. -/
def quayIn (core port : Nat) : Nat := quayKey (core / 7) (portCore core port) (core % 7 != 6)

/-- A wake event reaches an upper core (R421, R428): a gated core wakes, one on its way there wakes as soon as it is gated. -/
def wakeUpper (d : Dev) (cl : Nat) : Dev :=
  setCluster d cl fun c =>
    match c.gate with
    | .gated => { c with gate := .waking }
    | .powered | .waking => c
    | _ => { c with wake := true }

/-- The run of a kernel that a squad belongs to, as R225 counts it: its work item, or its kernel. DEDUCED, log 29. -/
def kernelRun (e : Env) : Nat :=
  match e.g.item with
  | some i => 2 * i + 1
  | none => 2 * e.s.kh

/-- Another squad of the run already sends, or receives, on the direction (R225). -/
def secondSquad (e : Env) (m : FMap Nat) : Bool :=
  e.s.det && match fget m (kernelRun e) with
    | some u => u != e.sq
    | none => false

/-- The checks of QYSEND and QYRECV: the port, then R225. -/
def quayChk (slot : Nat) (port : Opnd) (users : Dev → Env → FMap Nat) (d : Dev) (e : Env) (_ : Nat) : Chk :=
  if !portOk e.core (immOf port) then .bad 1 0x01 (tvField slot port.desc)
  else if secondSquad e (users d e) then .bad 5 0x0B 0
  else .ok

/-- A new entry: the participants' words, 0 for every other lane (R222). -/
def quayEntry (x : Opnd) (e : Env) (lns : List Nat) : FMap Word :=
  lns.foldl (fun m ln => fset 0 m ln ((readOp e ln x .n32).setWidth 32)) []

/-- In deterministic mode the first squad to reach a form on a direction is the one its run has there (R225). -/
def takeSide (e : Env) (m : FMap Nat) : FMap Nat := if e.s.det then fput m (kernelRun e) e.sq else m

/-- QYSEND once its instance is complete (R222, R426, R428): a release of what the squad did. -/
def qysendDone (x port : Opnd) (e : Env) (lns : List Nat) (d : Dev) : Dev :=
  let k := quayOut e.core (immOf port)
  let d := setQuay d k fun q => { q with detSend := takeSide e q.detSend }
  let q := quayOf d k
  let c := squadClock d e.sq
  let park := fun d => parkLanes d e.sq (.park (.send k)) lns
  if 64 ≤ q.entries.length then park d
  else if quayUp k && (clusterOf d (e.core / 7)).gate != .powered then park (wakeUpper d (e.core / 7))
  else if q.spilled ≠ 0 then park d
  else if !quiet d c then holdLanes d e.sq .hold lns
  else
    let opens := q.entries.isEmpty && openersGone d q
    let d := setQuay (publish d c .dev) k fun q => { q with
      entries := q.entries ++ [{ words := quayEntry x e lns, vc := c }]
      openers := if opens then [e.sq] else sadd q.openers e.sq
      orphan := !opens && q.orphan }
    advanceAll (endEpochs d e.sq (fkeys (squadOf d e.sq).lanes)) e.sq lns

/-- QYRECV once its instance is complete (R222, R224). -/
def qyrecvDone (dst port : Opnd) (e : Env) (lns : List Nat) (d : Dev) : Dev :=
  let k := quayIn e.core (immOf port)
  let d := setQuay d k fun q => { q with detRecv := takeSide e q.detRecv }
  let q := quayOf d k
  let park := parkLanes d e.sq (.park (.recv k)) lns
  if q.spilled ≠ 0 then park
  else match q.entries with
  | [] =>
    if q.orphan || (!q.openers.isEmpty && openersGone d q) then
      trapAll d e.sq (lns.map fun ln => (ln, 0x0E, BitVec.ofNat 64 (immOf port)))
    else park
  | h :: t =>
    let d := setQuay d k fun q => { q with entries := t, recvBy := some e.sq }
    setSquad d e.sq fun s => lns.foldl (fun s ln =>
      (s.write ln dst .n32 ((fgetD h.words ln 0).setWidth 64)).setLane ln fun l => (l.acquire h.vc d.tick true).advance) s

/-- The snapshot QYFREE writes (R223). -/
def quayFree (d : Dev) (core port : Nat) : DWord :=
  BitVec.ofNat 64 (64 - (quayOf d (quayOut core port)).entries.length + 256 * (quayOf d (quayIn core port)).entries.length)

/-- QYSEND vS, port (R222) -/
def execQysend (h : Hd) (x port : Opnd) : State → Host.Outcome State Fault Refusal :=
  onDev (issueGather (rawOf (.qysend h x port)) .none (quayChk 5 port fun dv e => (quayOf dv (quayOut e.core (immOf port))).detSend)
    (qysendDone x port))

/-- QYRECV vD, port (R222) -/
def execQyrecv (h : Hd) (d port : Opnd) : State → Host.Outcome State Fault Refusal :=
  onDev (issueGather (rawOf (.qyrecv h d port)) .none (quayChk 4 port fun dv e => (quayOf dv (quayIn e.core (immOf port))).detRecv)
    (qyrecvDone d port))

/-- QYFREE vD, port (R223) -/
def execQyfree (h : Hd) (d port : Opnd) : State → Host.Outcome State Fault Refusal :=
  onDev (issueChk (rawOf (.qyfree h d port)) (quayChk 4 port fun _ _ => []) (fun e lns dv => writeAll d .n32 (quayFree dv e.core (immOf port)) e lns dv))

end Sys2Proof.Machine
end

