-- ==== Sys2Proof/Machine/Queues.lean ====
section
/-! DEFINITION. Queues: their descriptors (R378, R379), shards and acceptance (R381 to R383), admission (R386), kernel descriptors (R59, R385). -/
namespace Sys2Proof.Machine

/-! ### Descriptors (R378, R379) -/

/-- A power of two between two numbers. -/
def pow2In (n lo hi : Nat) : Bool := decide (lo ≤ n) && decide (n ≤ hi) && (upto 20).any fun i => n == 2 ^ i

/-- The fields of a descriptor (R378). -/
def qdescOf (bs : List Byte) : QDesc :=
  { enable := fieldAt bs 0 1, mode := fieldAt bs 1 1, qflags := BitVec.ofNat 8 (fieldAt bs 2 1), home := fieldAt bs 3 1, cap := fieldAt bs 4 4
    ring := fieldAt bs 8 8, ctrl := fieldAt bs 16 8, cpool := fieldAt bs 24 8, ppool := fieldAt bs 32 8, nslot := fieldAt bs 40 4
    quantum := fieldAt bs 44 4, seed := BitVec.ofNat 32 (fieldAt bs 48 4), pstride := fieldAt bs 52 4, dbgpool := fieldAt bs 56 8 }

/-- QFLAGS.DBG. -/
def QDesc.dbg (q : QDesc) : Bool := q.qflags.getLsbD 0

/-- Every field is in range (R378); the two pools are fields of the launch modes. DEDUCED, log 26. -/
def QDesc.inRange (q : QDesc) : Bool :=
  decide (q.enable ≤ 3) && decide (q.mode ≤ 2) && decide (q.qflags.toNat < 4) && (decide (q.home < 24) || q.home == 0xFF) &&
  pow2In q.cap 16 4096 && q.ring % 4096 == 0 && q.ctrl % 64 == 0 &&
  (q.mode == 0 || (q.cpool % 65536 == 0 && q.ppool % 65536 == 0)) && decide (1 ≤ q.nslot) && decide (q.nslot ≤ 1048576) && q.pstride % 65536 == 0 &&
  (if q.dbg then q.dbgpool % 65536 == 0 else q.dbgpool == 0)

/-- The copy a queue engine holds once a descriptor has changed (R379): while ENABLE is nonzero only ENABLE, QFLAGS, QUANTUM and SEED change,
and the other fields, which are ignored, are not looked at; a field out of range closes the queue. DEDUCED, log 26. -/
def latch (old new : QDesc) : QDesc :=
  if old.enable ≠ 0 && new.enable ≠ 0 then
    let q := { old with enable := new.enable, qflags := new.qflags, quantum := new.quantum, seed := new.seed }
    if q.enable ≤ 3 && q.qflags.toNat < 4 then q else { q with ok := false, enable := 0 }
  else if new.inRange then { new with ok := true } else { new with ok := false, enable := 0 }

/-- The number of queue q of the address space of a core and an ASID (R187, R188). -/
def queueIdx (d : Dev) (vmid : BitVec 12) (asid : BitVec 16) (q : Nat) : Option Nat :=
  if q < 256 then (astFind d vmid asid).map fun e => e.idx * 256 + q else none

/-- The queue a lane names, where it is configured. -/
def openQueue (d : Dev) (e : Env) (q : Nat) : Option Nat :=
  match queueIdx d (coreOf d e.core).vmid e.s.asid q with
  | some k => if (queueOf d k).d.configured then some k else none
  | none => none

/-! ### Shards (R382, R383) -/

/-- Insert before the first entry that a condition admits. -/
def insBefore {β : Type} (p : β → Bool) (x : β) : List β → List β
  | [] => [x]
  | y :: t => if p y then x :: y :: t else y :: insBefore p x t

/-- Add an entry to a shard in order of PRIO, then SEQ (R382). -/
def shardAdd (d : Dev) (k c : Nat) (s : Shard) : Dev :=
  let it := itemOf d s.item
  setShard d k c (insBefore (fun x => decide ((itemOf d x.item).prio < it.prio) ||
    ((itemOf d x.item).prio == it.prio && decide (it.seq < (itemOf d x.item).seq))) s (shardOf d k c))

/-- Add an entry behind every waiting item of its PRIO (R393). -/
def shardBehind (d : Dev) (k c : Nat) (s : Shard) : Dev :=
  let it := itemOf d s.item
  setShard d k c (insBefore (fun x => decide ((itemOf d x.item).prio < it.prio)) s (shardOf d k c))

/-- The runs of groups of a launch item, first and end (R383). -/
def runsOf (g : Nat) : List (Nat × Nat) :=
  let m := min g 24
  (upto m).map fun i => (i * (g / m) + min i (g % m), (i + 1) * (g / m) + min (i + 1) (g % m))

/-- The lowest index of the least number of a list. -/
def argMin (l : List Nat) : Nat :=
  (l.zipIdx.foldl (fun (b : Nat × Nat) p => if p.1 < b.1 then p else b) (l.headD 0, 0)).2

/-- The shards n entries go to, one after the other, with the depth each finds (R382): HOME, the issuing cluster, or the one with the fewest
items. -/
def shardsFor (d : Dev) (k : Nat) (src : Option Nat) (n : Nat) : List (Nat × Nat) :=
  let home := (queueOf d k).d.home
  ((upto n).foldl (fun (r : List (Nat × Nat) × List Nat) _ =>
    let c := if home < 24 then home else src.getD (argMin r.2)
    (r.1 ++ [(c, r.2.getD c 0)], r.2.set c (r.2.getD c 0 + 1))) ([], (upto 24).map fun c => (heldEntries d k c).length)).1

/-- The queues that hold entries in a cluster. -/
def queuesAt (d : Dev) (c : Nat) : List Nat := (d.shards.filter fun p => p.1 % 24 == c && !p.2.isEmpty).map fun p => p.1 / 24

/-! ### Acceptance (R381) -/

/-- The entries an item makes. -/
def entryCount (launch : Bool) (bs : List Byte) : Nat := if launch then min (fieldAt bs 8 4) 24 else 1

/-- A launch item breaks R62 (R381, reason 4). -/
def malformed (bs : List Byte) : Bool :=
  fieldAt bs 0 8 % 64 != 0 || fieldAt bs 8 4 == 0 || fieldAt bs 12 2 == 0 || decide (576 < fieldAt bs 12 2) ||
  decide (18014398509481984 ≤ fieldAt bs 16 8) || !zeroAt bs 30 2 || !zeroAt bs 40 24

/-- The reason an item is rejected, 0 when it is accepted (R381). -/
def offerReason (d : Dev) (k : Nat) (src : Option Nat) (whole : Bool) (bs : List Byte) : Nat :=
  let q := (queueOf d k).d
  let launch := q.mode ≠ 0
  if !whole then 1
  else if !q.configured || q.enable = 3 then 3
  else if (shardsFor d k src (entryCount launch bs)).any fun p => decide (q.cap ≤ p.2) then 2
  else if launch && malformed bs then 4
  else if launch && ((q.mode = 2 && decide (96 < fieldAt bs 12 2)) || decide (q.nslot < fieldAt bs 12 2)) then 5
  else 0

/-- Accept an item: it is split and its entries go to shards (R381 to R383). -/
def acceptItem (d : Dev) (k : Nat) (src : Option Nat) (bs : List Byte) (vc : Clock) : Dev :=
  let q := queueOf d k
  let launch : Bool := decide (q.d.mode ≠ 0)
  let i := d.fresh
  let it : Item := { entry := k / 256, queue := k % 256, seq := q.accepted + 1, bytes := bs, launch := launch, from_ := vc, vc := vc }
  let dests := (shardsFor d k src (entryCount launch bs)).map (·.1)
  let runs := if launch then runsOf it.groups else [(0, 0)]
  let d := bump { setQueue d k fun q => { q with accepted := q.accepted + 1 } with items := fput d.items i it }
  let d := (dests.zip runs).foldl (fun d p =>
    shardAdd d k p.1 { item := i, next := it.gbase + p.2.1, last := it.gbase + p.2.2 }) d
  ctrlWrite d k vc

/-- Offer an item to a queue (R381). -/
def offerItem (d : Dev) (k : Nat) (src : Option Nat) (whole : Bool) (bs : List Byte) (vc : Clock) : Dev × Bool :=
  match offerReason d k src whole bs with
  | 0 => (acceptItem d k src bs vc, true)
  | r => (rejectItem d k r, false)

/-! ### Admission (R386, R433) -/

/-- What the power controller holds for a cluster. -/
def pcluOf (p : Power) (c : Nat) : PCluster := fgetD p.clu c {}
/-- A rail. -/
def railOf (p : Power) (r : Nat) : Rail := fgetD p.rails r (railReset r)

/-- A cluster's sums in the control interval of its ETIME: E starts again at 0 with each interval of 2,000 ns (R386). -/
def Cluster.inInterval (c : Cluster) : Cluster :=
  if c.etime < c.eStart + 2000 then c else { c with e := 0, eStart := c.etime / 2000 * 2000 }

/-- A task passes admission in a cluster (R386); at a thermal limit the budgets are 0 and without exemption (R435). -/
def admits (p : Power) (cl : Nat) (c : Cluster) (energy peak : Nat) : Bool :=
  let b := pcluOf p cl
  let ec := if b.cut then 0 else b.ebud.toNat
  let ic := if b.cut then 0 else (railOf p cl).ilim - b.ires.toNat
  (decide (c.inInterval.e + energy ≤ ec) || (!b.cut && c.inInterval.e == 0)) && (decide (c.p + peak ≤ ic) || (!b.cut && c.p == 0))

/-- An admitted task's figures are added (R386). -/
def chargeItem (d : Dev) (cl energy peak : Nat) : Dev :=
  setCluster d cl fun c => { c.inInterval with e := c.inInterval.e + energy, p := c.p + peak }

/-! ### Kernels (R59, R385) -/

/-- What a descriptor gives (R59). -/
def kernOf (bs : List Byte) : Kern :=
  { entry := BitVec.ofNat 64 (fieldAt bs 0 8), priv := fieldAt bs 12 4, scr := fieldAt bs 16 4, unif := fieldAt bs 20 2
    gsq := fieldAt bs 22 2, energy := fieldAt bs 24 4, peak := fieldAt bs 28 2, ext := fieldAt bs 30 1 % 2 == 1, det := fieldAt bs 30 1 / 2 % 2 == 1 }

/-- A descriptor keeps R59: KFLAGS bits beyond EXT and DET must be 0, an ENTRY that is not a multiple of 4, which no clause header's address is, is left for
the first fetch to meet, and any CODELEN passes and bounds nothing. DESIGN CHOICE, log 53. -/
def kernOk (bs : List Byte) : Bool :=
  let k := kernOf bs
  decide (k.entry.toNat < 2 ^ 54) && k.priv % 4 == 0 && decide (k.priv ≤ 262144) && k.scr % 128 == 0 && decide (k.scr ≤ 8388608) &&
  decide (k.unif ≤ 1024) && decide (1 ≤ k.gsq) && decide (k.gsq ≤ 576) && decide (fieldAt bs 30 1 < 4) && zeroAt bs 31 33

/-- The private range of one squad of a kernel (R282). -/
def privRange (priv : Nat) : Nat := 512 * ((priv + 3) / 4)

end Sys2Proof.Machine
end

