-- ==== Sys2Proof/Machine/Preempt.lean ====
section
/-! DEFINITION. Pre-emption, resumption and kill (R391 to R394), quay spills (R420, R427), and what a queue's ENABLE does when it changes (R379). -/
namespace Sys2Proof.Machine

/-! ### Quay spills and refills (R420, R421, R427) -/

/-- QSPILL of a squad: on chip, or in its context's image where that is present (R259, R261, R429). -/
def qspillOf (d : Dev) (s : Squad) : Option Nat :=
  if s.onChip then some s.qspill.toNat
  else match ctxPage d s with
    | (d, some pa) => some (bytesNat (l2Byte d) (pa + 56) 8)
    | (_, none) => none

/-- An area holds the entries of another direction: an area serves one (R427). -/
def areaTaken (d : Dev) (k : Nat) (ar : BitVec 12 × BitVec 16 × Nat) : Bool :=
  d.quays.any fun p => p.1 != k && p.2.spilled != 0 && p.2.area == some ar

/-- The receiving squad of a direction, and where its entries go (R420, R427): none where a gate request is refused. -/
def spillArea (d : Dev) (k : Nat) : Option (BitVec 12 × BitVec 16 × Nat) :=
  match (quayOf d k).recvBy with
  | none => none
  | some u =>
    if squadGone d u then none
    else
      let s := squadOf d u
      match qspillOf d s with
      | none => none
      | some a =>
        if a = 0 || a % 32768 ≠ 0 || !xlatOk d (168 + k / 16) s.vmid s.asid a .w false || areaTaken d k (s.vmid, s.asid, a) then none
        else some (s.vmid, s.asid, a)

/-- Write the entries of a direction to an area, in order from the head (R420, R427). -/
def spillQuay (d : Dev) (k : Nat) (ar : BitVec 12 × BitVec 16 × Nat) : Dev :=
  match xlatNow d (168 + k / 16) ar.1 ar.2.1 ar.2.2 .w false with
  | (d, .error _) => d
  | (d, .ok pa) =>
    let q := quayOf d k
    let d := q.entries.zipIdx.foldl (fun d p => writeRow d (pa + 512 * p.2) fun l => fgetD p.1.words l 0) d
    setQuay d k fun q => { q with
      entries := q.entries.map fun x => { x with words := [] }, spilled := q.entries.length, area := some ar }

/-- Discard a poisoned entry: it is reported with KIND 6 (R320, R318). -/
def discardEntry (d : Dev) (k va : Nat) : Dev :=
  let s := squadOf d ((quayOf d k).recvBy.getD 0)
  report d (k / 16) s.vmid { kind := 6, cause := 0x0D, poison := true, gpidx := s.gpidx.toNat, sqidx := s.sqidx.toNat, tval := va, ctx := s.ctx }

/-- Read the spilled entries of a direction back, in order (R421); none while their page has no translation. -/
def refillQuay (d : Dev) (k : Nat) : Option Dev :=
  let q := quayOf d k
  match q.area with
  | none => some d
  | some ar =>
    match xlatNow d (168 + k / 16) ar.1 ar.2.1 ar.2.2 .r false with
    | (_, .error _) => none
    | (d, .ok pa) =>
      let r := q.entries.zipIdx.foldl (fun (r : Dev × List QEntry) p =>
        let a := pa + 512 * p.2
        if (upto 4).any fun j => poisoned r.1 (a + 128 * j) then (discardEntry r.1 k (ar.2.2 + 512 * p.2), r.2)
        else (r.1, r.2 ++ [{ p.1 with words := ctxRow r.1 pa p.2 }])) (d, [])
      some (setQuay r.1 k fun q => { q with entries := r.2, spilled := 0, area := none })

/-! ### Items and what they hold -/

/-- The groups an item has work in. -/
def itemGroups (d : Dev) (i : Nat) : List (Nat × Group) := d.groups.filter fun p => (itemOf d i).uses i p.2
/-- Those in clusters of a set. -/
def groupsAt (d : Dev) (i : Nat) (cs : NSet) : List (Nat × Group) := (itemGroups d i).filter fun p => shas cs p.2.cluster
/-- The squads of an item's groups in clusters of a set. -/
def squadsAt (d : Dev) (i : Nat) (cs : NSet) : List Nat := ((groupsAt d i cs).map fun p => p.2.members).flatten

/-- The clusters that hold a sub-item of an item, in a shard or placed (R392). -/
def itemClusters (d : Dev) (i : Nat) : List Nat :=
  (upto 24).filter fun c => (shardOf d (itemOf d i).qk c).any (fun s => s.item == i) || (itemGroups d i).any fun p => p.2.cluster == c

/-- Take an item's entries out of every shard. -/
def unshard (d : Dev) (i : Nat) : Dev :=
  let k := (itemOf d i).qk
  (upto 24).foldl (fun d c =>
    let l := shardOf d k c
    if l.any fun s => s.item == i then setShard d k c (l.filter fun s => s.item != i) else d) d

/-- An item's sub-items take their place behind every waiting item of their PRIO in clusters (R393). -/
def requeue (d : Dev) (i : Nat) (cs : NSet) : Dev :=
  let k := (itemOf d i).qk
  cs.foldl (fun d c =>
    let l := shardOf d k c
    let mine := l.filter fun s => s.item == i
    if mine.isEmpty then d else mine.foldl (fun d s => shardBehind d k c s) (setShard d k c (l.filter fun s => s.item != i))) d

/-- A placed sub-item waits again for its turn in clusters where it has groups (R393). -/
def awaitTurn (d : Dev) (i : Nat) (cs : NSet) : Dev :=
  let k := (itemOf d i).qk
  cs.foldl (fun d c =>
    if !(groupsAt d i [c]).isEmpty && !(shardOf d k c).any (fun s => s.item == i) then
      shardBehind d k c { item := i, begun := true }
    else d) d

/-! ### Kill (R394) -/

/-- A squad has faulted: it stands halted, or one of its lanes in a handler (R224). DEDUCED, log 29. -/
def faulted (s : Squad) : Bool := s.stop == .halt || s.stop == .fatal || s.state == .held || s.lanes.any fun p => p.2.depth != 0

/-- A killed squad ends without running further; its accepted sampler requests write their registers, and its steps that wait at a gate end with it. -/
def killSquad (d : Dev) (u : Nat) : Dev :=
  let s := squadOf d u
  if s.state = .ended then d
  else
    let d := (fkeys s.lanes).foldl (fun d ln => reportImps d u ln true) d
    let d := joinItem d s.group (joinClocks d u (fkeys s.lanes))
    endSquad { d with accs := d.accs.filter fun p => !(p.2.gated && p.2.sq == u) } u

/-- A group is killed (R394): its squads end, its work ends by R364, its tickets pass with poison, and a direction that a faulted one of its
squads opened has an orphaned receiver (R224). A group that a GJOIN made and that still waits for scratchpad has no squad, and goes at once. -/
def killGroup (d : Dev) (gid : Nat) : Dev :=
  let ms := (groupOf d gid).members
  let bad := ms.filter fun u => faulted (squadOf d u)
  let d := setGroup d gid fun g => { g with killed := true }
  let d := { d with quays := d.quays.map fun p => (p.1, if p.2.openers.any bad.contains then { p.2 with orphan := true } else p.2) }
  let d := settleSignals (ms.foldl killSquad d)
  if ms.isEmpty && (groupOf d gid).state = .live then dissolve d gid else d

/-- A kill takes effect in clusters: the groups of the item placed there are killed, and those not yet placed are discarded with it; of a worker item, the group
of the squad that took it (R379, R394). -/
def killPlaced (d : Dev) (i : Nat) (cs : NSet) : Dev :=
  let d := unshard (setItem d i fun it => { it with
    kill := true, stopping := it.stopping.filter (!shas cs ·), stopped := it.stopped.filter (!shas cs ·) }) i
  let d := ctrlWrite d (itemOf d i).qk []
  let d := (upto 4).foldl (fun d t => setTicket d i t id) d
  itemCheck ((groupsAt d i cs).foldl (fun d p => killGroup d p.1) d) i

/-- A kill of the whole item takes effect. -/
def applyKill (d : Dev) (i : Nat) : Dev := killPlaced (setItem d i fun it => { it with killed := true }) i (upto 24)

/-- Discard a queued item, counted in REJECTED (R379). -/
def discardItem (d : Dev) (i reason : Nat) : Dev :=
  let k := (itemOf d i).qk
  rejectItem { unshard d i with items := fdel d.items i } k reason

/-- A step that a kill of the item waits for is under way: a pre-emption or a kernel load (R394). -/
def midStep (d : Dev) (i : Nat) : Bool := !(itemOf d i).stopping.isEmpty || d.clusters.any fun p => p.2.loading == some i

/-- Kill an item: at once, or when its pre-emption or its kernel load ends (R394). A worker item that no squad has taken is discarded. -/
def killItem (d : Dev) (i : Nat) : Dev :=
  let it := itemOf d i
  if it.killed || it.killReq then d
  else if !it.launch && it.runner.isNone then ctrlWrite { unshard d i with items := fdel d.items i } it.qk []
  else
    let d := setItem d i fun it => { it with killReq := true }
    if midStep d i then d else applyKill d i

/-- A cluster that is reset kills an item's groups on it, at once or when the item's pre-emption or kernel load ends (R394, R444). -/
def killItemAt (d : Dev) (c i : Nat) : Dev :=
  if midStep d i then setItem d i fun it => { it with killAt := sadd it.killAt c } else killPlaced d i [c]

/-! ### Pre-emption and resumption (R391 to R393) -/

/-- A pre-empted item resumes in clusters (R393). -/
def resumeItem (d : Dev) (i : Nat) (cs : NSet) (behind : Bool) : Dev :=
  let gs := groupsAt d i cs
  let d := setItem d i fun it => { it with
    stopped := it.stopped.filter fun c => !shas cs c
    firstAt := it.firstAt.map fun p => (p.1, if shas cs p.1 then (clusterOf d p.1).etime else p.2) }
  let d := gs.foldl (fun d p => unstop d p.1) d
  if behind then requeue d i cs else d

/-- Where the causes of an item have all ended it resumes; one that is to be killed or discarded is. -/
def settleItem (d : Dev) (i : Nat) (behind : Bool) : Dev :=
  let it := itemOf d i
  if midStep d i then d
  else if it.killReq && !it.killed then applyKill d i
  else if it.dropReq && !it.kill then discardItem d i 3
  else
    let d := if it.killAt.isEmpty then d else killPlaced (setItem d i fun it => { it with killAt := [] }) i it.killAt
    let it := itemOf d i
    let cs := it.stopped.filter fun c => !it.causedAt c
    if cs.isEmpty then d else resumeItem d i cs behind

/-- A command stands at the unit where its engine stops (R392). -/
def stoppedAt (c : Cmd) : Bool :=
  match c.kind with
  | .cpy _ _ => atUnit c
  | .mzero _ _ => c.state == .queued
  | .lmm .. => c.buf.isEmpty
  | _ => true

/-- Every engine that holds work of an item in the clusters where it is being pre-empted has acknowledged (R392). -/
def acknowledged (d : Dev) (i : Nat) : Bool :=
  let cs := (itemOf d i).stopping
  ((squadsAt d i cs).all fun u => (squadOf d u).state != .ready || (squadOf d u).res == .out) &&
  (d.cmds.all fun p => !(groupsAt d i cs).any (fun g => g.1 == p.2.grp) || stoppedAt p.2)

/-- The quay entries that wait for squads of a pre-empted item are spilled to their contexts (R392). -/
def spillFor (d : Dev) (us : List Nat) : Dev :=
  d.quays.foldl (fun d p =>
    if p.2.entries.isEmpty || p.2.spilled ≠ 0 || !(p.2.recvBy.any us.contains) then d
    else match spillArea d p.1 with
      | some a => spillQuay d p.1 a
      | none => d) d

/-- A pre-emption is counted: PREEMPTED rises, released with what the stopped squads did, and event 0x09 is recorded (R380, R392). -/
def countPreempt (d : Dev) (i : Nat) (vc : Clock) : Dev :=
  let it := itemOf d i
  let d := outside (ctrlWrite (setQueue d it.qk fun q => { q with preempted := q.preempted + 1 }) it.qk vc) vc
  (itemClusters d i).foldl (fun d c => blackBox d c 9 7 (BitVec.ofNat 64 (it.seq % 4294967296))) d

/-- A pre-emption completes, counted once for the item however many clusters join it later (R392, R393). A sub-item that its
quantum stopped waits for its turn. -/
def collectItem (d : Dev) (i : Nat) : Dev :=
  let cs := (itemOf d i).stopping
  let us := squadsAt d i cs
  let vc := us.foldl (fun c u => vcJoin c (squadClock d u)) (itemOf d i).vc
  let first := (itemOf d i).stopped.isEmpty
  let d := spillFor (setItem d i fun it => { it with stopping := [], stopped := sunion it.stopped cs }) us
  let d := if first then countPreempt d i vc else d
  let ts := cs.filter fun c => shas (itemOf d i).quant c
  settleItem (requeue (awaitTurn d i ts) i ts) i true

/-- A pre-emption of an item starts in clusters: placement stops there, and the squads stop at their next instruction (R392). DEDUCED, log 29. -/
def startPreempt (d : Dev) (i : Nat) (cs : NSet) : Dev :=
  let d := setItem d i fun it => { it with stopping := sunion it.stopping cs }
  let d := (squadsAt d i cs).foldl (fun d u => setSquad d u fun s =>
    if s.state = .ready && s.stop = .none then { s with stop := .preempt, res := if s.res = .in_ then .writing else s.res } else s) d
  if (groupsAt d i (itemOf d i).stopping).isEmpty then collectItem d i else d

/-- A cause to pre-empt an item in clusters arrives (R391, R393): the item stops where it has not stopped already. -/
def addCause (d : Dev) (i : Nat) (cs : NSet) (f : Item → Item) : Dev :=
  let d := setItem d i f
  let it := itemOf d i
  let new := cs.filter fun c => !it.haltedAt c
  if new.isEmpty || it.killed || it.killReq || it.dropReq then d else startPreempt d i new

/-- A cause ends (R393). -/
def endCause (d : Dev) (i : Nat) (f : Item → Item) : Dev := settleItem (setItem d i f) i true

/-! ### A change of ENABLE (R379) -/

/-- The items of a queue. -/
def queueItems (d : Dev) (k : Nat) : List Nat := (d.items.filter fun p => p.2.qk == k).map (·.1)

/-- ENABLE 3: what is queued is discarded, once a kernel load or pre-emption under way has ended; what runs is killed. -/
def abortItem (d : Dev) (i : Nat) : Dev :=
  match fget d.items i with
  | none => d
  | some it =>
    if it.running then killItem d i
    else if it.killed || it.killReq then d
    else if midStep d i then setItem d i fun it => { it with dropReq := true }
    else discardItem d i 3

/-- A waiting DEQ is to return without an item (R188). -/
def deqEnd (d : Dev) (u : Nat) : Dev :=
  match (squadOf d u).form with
  | some (.deqWait pc _ _ _ _ _) =>
    let d := setSquad d u fun s => { s with form := some (.deqDone pc false []) }
    if (squadOf d u).core % 7 = 6 then wakeUpper d ((squadOf d u).core / 7) else d
  | _ => d

/-- The squads that wait in a DEQ on a queue. -/
def deqWaiters (d : Dev) (k : Nat) : List Nat :=
  (d.squads.filter fun p => match p.2.form with
    | some (.deqWait _ q _ _ _ _) => q == k
    | _ => false).map (·.1)

/-- ENABLE has changed. -/
def enableChange (d : Dev) (k old new : Nat) : Dev :=
  let its := queueItems d k
  let d := if (new = 0 && old ≠ 0) || (new = 3 && old ≠ 3) then (deqWaiters d k).foldl deqEnd d else d
  let d := if old = 2 && new < 2 then its.foldl (fun d i =>
      if (itemOf d i).ens then endCause d i fun it => { it with ens := false } else d) d else d
  if new = 2 && old ≠ 2 then its.foldl (fun d i =>
      if (itemOf d i).running then addCause d i (upto 24) fun it => { it with ens := true } else d) d
  else if new = 3 && old ≠ 3 then its.foldl abortItem d
  else d

/-- A queue engine's copy of a descriptor follows memory (R379). One that cannot be read stays as it is held, such as one in the peer aperture, which a read
at another policy than `.sys` may not reach (R288). DEDUCED, log 26. -/
def syncQueue (e : AstEntry) (d : Dev) (q : Nat) : Dev :=
  match walkPage d e.vmid e.asid (e.qtab + 64 * q) with
  | .error _ => d
  | .ok l =>
    if isPeer (e.qtab + 64 * q) then d else
    let pa := (l.tlb 0 e.vmid e.asid).addr (e.qtab + 64 * q)
    let k := e.idx * 256 + q
    let old := (queueOf d k).d
    let new := latch old (qdescOf (bytesAt (l2Byte d) pa 64))
    if poisoned d pa || new = old then d
    else enableChange (setQueue d k fun x => { x with d := new }) k old.enable new.enable

/-- Every queue engine's copies follow memory. -/
def syncQueues (d : Dev) : Dev := d.host.ast.foldl (fun d e => (upto 256).foldl (syncQueue e) d) d

end Sys2Proof.Machine
end

