-- ==== Sys2Proof/Machine/Launch.lean ====
section
/-! DEFINITION. Work items: ENQ and DEQ (R187, R188), placement (R383, R384), kernel loads (R385), admission intervals (R386), delivery (R387),
balancing (R388), quanta and collected pre-emptions (R391, R392), aperture writes (R381, R442). -/
namespace Sys2Proof.Machine

/-! ### ENQ (R187) -/

/-- The check of ENQ: the item's bytes as a `.l2` load, the queue, then that the lane's earlier accesses are performed (R301). -/
def enqChk (qn va : Opnd) (d : Dev) (e : Env) (ln : Nat) : Chk :=
  let c := if pairReadable e ln va then recordChk 64 64 (readN64 e ln va) d e ln else .ok
  if c.rank ≤ 4 then c
  else if (openQueue d e (readN32 e ln qn)).isNone then .bad 4 0x05 (BitVec.ofNat 64 (readN32 e ln qn))
  else c.orElse fun _ => if quiet d (issueClock e ln) then .ok else .stall

/-- One lane's ENQ. -/
def enqLane (dst qn va : Opnd) (e : Env) (d : Dev) (ln : Nat) : Dev :=
  match openQueue d e (readN32 e ln qn) with
  | none => trapAt d e.sq ln 0x05 (BitVec.ofNat 64 (readN32 e ln qn))
  | some k =>
    let r := cmdRead d e ln (readN64 e ln va) 64
    let vc := issueClock e ln
    let p := offerItem (publish r.1 vc .dev) k (some (e.core / 7)) true r.2 vc
    endEpochs (setSquad p.1 e.sq fun s => (s.write ln dst .none (if p.2 then 1 else 0)).setLane ln Lane.advance) e.sq [ln]

/-! ### DEQ (R188, R375, R387) -/

/-- The limit of a DEQ (R104). -/
def deqLimit (tmo : BitVec 3) : Nat := if tmo = 0 then 0 else 2 ^ (8 + 2 * tmo.toNat)

/-- DEQ returns: with an item, whose registers and Q7 stand already, or with Q7 := 0. -/
def deqReturn (got : Bool) (e : Env) (lns : List Nat) (d : Dev) : Dev :=
  let d := setSquad d e.sq fun s => { s with form := none }
  detPass (if got then advanceAll d e.sq lns else writeQ7 false e lns d) e.sq

/-- A DEQ's first completion: the squad's last task has ended (R386); it begins to wait. -/
def deqFirst (tmo : BitVec 3) (dst : Opnd) (q : Nat) (e : Env) (lns : List Nat) (d : Dev) : Dev :=
  let d := endTask d e.sq
  let bad := trapAll d e.sq (lns.map fun ln => (ln, 0x05, BitVec.ofNat 64 q))
  match openQueue d e q with
  | none => bad
  | some k =>
    if (queueOf d k).d.mode ≠ 0 then bad
    else if (queueOf d k).d.enable = 3 then deqReturn false e lns d
    else
      let c := clusterOf d (e.core / 7)
      let d := setCluster d (e.core / 7) fun c => { c with queueOrder := c.queueOrder + 1 }
      parkLanes (setSquad d e.sq fun s => { s with form := some (.deqWait e.pc k c.etime (deqLimit tmo) c.queueOrder (wIdx dst)) }) e.sq (.park .item) lns

/-- DEQ once its instance is complete: it goes on from where it stopped (R375). -/
def deqDone (tmo : BitVec 3) (dst qn : Opnd) (e : Env) (lns : List Nat) (d : Dev) : Dev :=
  let first := deqFirst tmo dst (readN32 e (lns.headD 0) qn) e lns d
  match (squadOf d e.sq).form with
  | some (.deqDone pc got _) => if pc = e.pc then deqReturn got e lns d else first
  | some (.deqBad pc reg) =>
    if pc = e.pc then trapAll (setSquad d e.sq fun s => { s with form := none }) e.sq (lns.map fun ln => (ln, 0x0A, BitVec.ofNat 64 reg)) else first
  | some (.deqWait pc k since limit _ _) =>
    if pc ≠ e.pc then first
    else if deqOver d (e.core / 7) k since limit then deqReturn false e lns d
    else parkLanes d e.sq (.park .item) lns
  | _ => first

/-- The squad waits in a DEQ on a queue, in a cluster, and its limit has not expired: the order of its wait. -/
def deqOrder (d : Dev) (cl k : Nat) (s : Squad) : Option Nat :=
  if s.core / 7 ≠ cl || s.state ≠ .ready || s.stop ≠ .none then none
  else match s.form with
    | some (.deqWait _ q since limit o _) => if q = k && !deqOver d cl k since limit then some o else none
    | _ => none

/-- The squad that is served first: by PRIO, then in the order in which their instances completed (R387). -/
def firstWaiter (d : Dev) (cl k : Nat) : Option Nat :=
  (d.squads.foldl (fun (b : Option (Nat × Nat × Nat)) p =>
    match deqOrder d cl k p.2 with
    | none => b
    | some o => match b with
      | some (_, pr, o') => if pr < p.2.prio || (pr == p.2.prio && o < o') then some (p.1, p.2.prio, o) else b
      | none => some (p.1, p.2.prio, o)) none).map (·.1)

/-- The first item of a shard that nothing holds back. -/
def firstItem (d : Dev) (k cl : Nat) : Option Shard := (shardOf d k cl).find? fun s => !(itemOf d s.item).haltedAt cl && !s.begun

/-- The bits of word j of a lane's record that set predicate 7 (R260). -/
def q7Word (j : Nat) : Word := BitVec.ofNat 32 (packBits [(66, 1)] / 2 ^ (32 * j))

/-- The participants of a squad's DEQ on chip: the lanes that wait in it or, after a stop, those that come back to its word (R375). -/
def Squad.deqLanes (s : Squad) (pc : Pc) : List Nat :=
  let ps := (s.lanes.filter fun p => p.2.wait = .park .item).map (·.1)
  if ps.isEmpty then (s.lanes.filter fun p => p.2.pc == pc).map (·.1) else ps

/-- Those of a squad off chip, where its image is: the lanes whose PC there is the DEQ's (R260). -/
def deqOut (d : Dev) (s : Squad) (pa : Nat) (pc : Pc) : List Nat :=
  (fkeys s.lanes).filter fun ln => (ctxWord d pa 25 ln + 4294967296 * ctxWord d pa 26 ln) % 2 ^ 54 == pc.toNat

/-- The participants of a DEQ whose Q7 is set before its item comes. -/
def deqWas (d : Dev) (u : Nat) (pc : Pc) : NSet :=
  let s := squadOf d u
  if s.onChip then (s.deqLanes pc).filter fun ln => (s.lane ln).qbit 7
  else match ctxPage d s with
    | (_, none) => []
    | (d, some pa) => (deqOut d s pa pc).filter fun ln => BitVec.ofNat 32 (ctxWord d pa 27 ln) &&& q7Word 2 != 0

/-- Q7 of a DEQ's participants says that the item is there, so that what a stop saves holds it (R375): in the squad, or off chip in its image. -/
def deqQ7 (d : Dev) (u : Nat) (pc : Pc) : Dev :=
  let s := squadOf d u
  if s.onChip then setSquad d u fun s => (s.deqLanes pc).foldl (fun s ln => s.setLane ln fun l => l.setQ 7 true) s
  else match ctxPage d s with
    | (d, none) => d
    | (d, some pa) => (deqOut d s pa pc).foldl (fun d ln =>
        l2WriteBytes d (pa + 512 * 27 + 4 * ln) (natLe (BitVec.ofNat 32 (ctxWord d pa 27 ln) ||| q7Word 2).toNat 4)) d

/-- An item's sixteen words go to the w registers of the squad that takes it, unless the single-writer rule forbids one of them (R123, R188). -/
def deqWrite (d : Dev) (u dst : Nat) (bs : List Byte) : Dev :=
  ((upto 16).map (dst + ·)).zipIdx.foldl (fun d p => writeW d (squadOf d u).group u p.1 .n32 (BitVec.ofNat 64 (fieldAt bs (4 * p.2) 4))) d

/-- An item is admitted and delivered (R386, R387): an acquire of what its producer released. Where the squad may not write the registers, it takes no item and
its lanes take the cause of R123. DEDUCED, log 27. -/
def deliver (p : Power) (d : Dev) (cl k : Nat) : Dev :=
  if (queueOf d k).d.enable ≠ 1 || (clusterOf d cl).fatal then d
  else match firstWaiter d cl k, firstItem d k cl with
  | some u, some s =>
    let it := itemOf d s.item
    if !admits p cl (clusterOf d cl) it.energy it.peak then d
    else match (squadOf d u).form with
    | some (.deqWait pc _ _ _ _ dst) =>
      let wake := fun (d : Dev) => if (squadOf d u).core % 7 = 6 then wakeUpper d cl else d
      match wChk (squadOf d u).group u d ((upto 16).map (dst + ·)) with
      | .bad _ _ tv => wake (setSquad d u fun q => { q with form := some (.deqBad pc tv.toNat) })
      | _ =>
        let d := chargeItem (unshard d s.item) cl it.energy it.peak
        let d := ctrlWrite (setItem d s.item fun x => { x with runner := some u, firstAt := fput x.firstAt cl (clusterOf d cl).etime }) k []
        let was := deqWas d u pc
        let d := deqQ7 (deqWrite d u dst it.bytes) u pc
        wake (setSquad d u fun q => { q with
          deqTask := some (cl, it.peak), form := some (.deqDone pc true was)
          lanes := q.lanes.map fun l => (l.1, l.2.acquire it.from_ d.tick true) })
    | _ => d
  | _, _ => d

/-- A DEQ's limit expires (R188). -/
def deqExpire (d : Dev) (u : Nat) : Dev :=
  match (squadOf d u).form with
  | some (.deqWait _ _ since limit _ _) =>
    let cl := (squadOf d u).core / 7
    if limit = 0 || (clusterOf d cl).etime < since + limit then d
    else
      deqEnd d u
  | _ => d

/-! ### Placement (R383, R384) -/

/-- The free resident slots of a core (R383). -/
def freeSlots (d : Dev) (core : Nat) : Nat := 96 - (d.squads.filter fun p => p.2.core == core && p.2.res != .out).length

/-- The cores a group may use. -/
def launchCores (cl mode : Nat) : List Nat := if mode = 2 then [7 * cl + 6] else (upto 6).map (7 * cl + ·)

/-- A core while squads are placed one by one: its number, free slots and free extension rows. -/
abbrev Room := Nat × Nat × Nat

/-- The core that takes the next squad (R384): of those with room, the one with the most free slots, the lowest on a tie. -/
def nextCore (ext : Bool) (l : List Room) : Option Room :=
  (l.filter fun r => decide (0 < r.2.1) && (!ext || decide (32 ≤ r.2.2))).foldl (fun b r => match b with
    | none => some r
    | some x => if x.2.1 < r.2.1 then some r else b) none

/-- The cores of n squads, one by one; none where one finds no room. -/
def coresFor (ext : Bool) : Nat → List Room → Option (List Nat)
  | 0, _ => some []
  | n + 1, l => match nextCore ext l with
    | none => none
    | some r =>
      let l := l.map fun x => if x.1 = r.1 then (x.1, x.2.1 - 1, if ext then x.2.2 - 32 else x.2.2) else x
      (coresFor ext n l).map fun t => r.1 :: t

/-- The lowest free pool slots. -/
def freePool (q : Queue) (n : Nat) : List Nat := ((upto (min q.d.nslot (q.used.length + n))).filter fun i => !shas q.used i).take n

/-- A squad of a launched group, resident on its core (R384). Of a logical index of 2^32 or more, SQIDX and GPIDX hold the low 32 bits. DESIGN CHOICE, log 58. -/
def launchSquad (ast : AstEntry) (k : Nat) (it : Item) (kern : Kern) (gid n : Nat) (d : Dev) (x : Nat × Nat × Nat) : Dev :=
  let q := (queueOf d k).d
  let (s, core, slot) := x
  let u := d.fresh
  let sqidx := BitVec.ofNat 32 (n * it.gsq + s)
  let row := fun (w : Word) => ({ words := (upto 128).foldl (fun m ln => fset 0 m ln w) [], dirty := true } : Row)
  let args : DWord := BitVec.ofNat 64 it.args
  let sq : Squad :=
    { ctx := q.cpool + 65536 * slot, asid := ast.asid, vmid := ast.vmid, state := .ready, res := .in_, onChip := true, core := core
      prio := it.prio, ext := kern.ext, det := it.det, dbg := q.dbg, fuse := it.fuse && core % 7 != 6, kh := it.khandle, kern := kern
      sqidx := sqidx, gpidx := BitVec.ofNat 32 n, privb := BitVec.ofNat 64 (q.ppool + q.pstride * slot), privl := BitVec.ofNat 32 kern.priv
      age := d.ages + 1, rwr := 3, rows := [(0, row (args.setWidth 32)), (1, row ((args >>> 32).setWidth 32))]
      lanes := (freshLanes u (BitVec.ofNat 54 kern.entry.toNat) .u (q.seed + sqidx)).map fun l => (l.1, l.2.acquire it.from_ d.tick true), group := gid, slot := some (k / 256, k % 256, slot)
      debug := some (q.dbgpool + 8388608 * slot) }
  let d := if kern.ext then setCore d core fun c => { c with xpool := c.xpool - 32 } else d
  let d := setQueue d k fun q => { q with used := sadd q.used slot }
  setGroup { bump d with squads := fput d.squads u sq, ages := d.ages + 1 } gid fun g => { g with members := sadd g.members u }

/-- The register files have room for the two rows that each squad of a group starts with (R262, R384). DEDUCED, log 22. -/
def rowsFree (d : Dev) (cores : List Nat) : Bool := cores.all fun c => decide (rowsHeld d c + 2 * cores.count c ≤ 4096)

/-- Place a group once every condition of R383 holds; otherwise nothing happens. -/
def placeNextGroup (p : Power) (d : Dev) (cl k : Nat) (e : Shard) (ast : AstEntry) (kern : Kern) : Dev :=
  let q := queueOf d k
  let it := itemOf d e.item
  let rooms := (launchCores cl q.d.mode).map fun c => ((c, freeSlots d c, (coreOf d c).xpool) : Room)
  let slots := freePool q it.gsq
  if q.d.mode = 2 && (clusterOf d cl).gate != .powered then wakeUpper d cl
  else match coresFor kern.ext it.gsq rooms, scAlloc d cl kern.scr with
  | some cores, some base =>
    if slots.length < it.gsq || !admits p cl (clusterOf d cl) it.energy it.peak || !rowsFree d cores then d
    else
      let gid := d.fresh
      let g : Group :=
        { item := some e.item, idx := e.next, cap := it.gsq, joined := it.gsq, unif := kern.unif, scr := kern.scr, base := some base, cluster := cl
          upper := if q.d.mode = 2 then some cl else none, ticketed := true, kh := it.khandle, asid := ast.asid, vmid := ast.vmid, peak := it.peak }
      let d := chargeItem (scZero { bump d with groups := fput d.groups gid g } cl base kern.scr) cl it.energy it.peak
      let d := ((upto it.gsq).zip (cores.zip slots)).foldl (launchSquad ast k it kern gid e.next) d
      let d := setItem d e.item fun it => { it with
        placed := sadd it.placed e.next
        firstAt := if (fget it.firstAt cl).isSome then it.firstAt else fput it.firstAt cl (clusterOf d cl).etime }
      let l := shardOf d k cl
      let e' := { e with next := e.next + 1, begun := true }
      ctrlWrite (setShard d k cl (if e'.next = e.last then l.erase e else l.map fun x => if x = e then e' else x)) k []
  | _, _ => d

/-- A sub-item is discarded with reason 5, counted in REJECTED (R381, R385). DEDUCED, log 28. -/
def discardSub (d : Dev) (k cl : Nat) (e : Shard) : Dev :=
  itemCheck (rejectItem (setShard d k cl ((shardOf d k cl).erase e)) k 5) e.item

/-- The first sub-item of a shard that is not passed over; one whose quantum cause waits for its turn counts (R383, R393). -/
def frontOf (d : Dev) (k cl : Nat) : Option Shard :=
  (shardOf d k cl).find? fun s => !(itemOf d s.item).haltedAt cl || (shas (itemOf d s.item).stopped cl && shas (itemOf d s.item).quant cl)

/-- The launch unit acts on the first sub-item of a queue's shard: its turn comes, its kernel is loaded, or its next group is placed. -/
def launchNext (p : Power) (d : Dev) (cl k : Nat) : Dev :=
  match frontOf d k cl, astAt d (k / 256) with
  | some e, some ast =>
    let it := itemOf d e.item
    if it.haltedAt cl then
      settleItem (setItem d e.item fun it => { it with quant := sdel it.quant cl }) e.item false
    else if e.last ≤ e.next then itemCheck (setShard d k cl ((shardOf d k cl).erase e)) e.item
    else
      let key := it.khandle
      match fget (clusterOf d cl).kernels key with
      | none =>
        setItem (setCluster d cl fun c => { c with loading := some e.item }) e.item fun it => { it with
          firstAt := if (fget it.firstAt cl).isSome then it.firstAt else fput it.firstAt cl (clusterOf d cl).etime }
      | some (kern, _) =>
        if !e.begun && decide ((queueOf d k).d.pstride < privRange kern.priv) then discardSub d k cl e
        else placeNextGroup p (setCluster d cl fun c => { c with kernels := fput c.kernels key (kern, d.tick) }) cl k e ast kern
  | _, _ => d

/-- GROUP_PLACEMENT: the launch unit of a cluster takes a queue whose shard holds launch work, or a worker item whose turn comes again. DESIGN CHOICE, log 10. -/
def placeNext (p : Power) (d : Dev) (cl : Nat) : Dev :=
  if (clusterOf d cl).fatal || (clusterOf d cl).loading.isSome then d
  else
    let ks := (queuesAt d cl).filter fun k => ((queueOf d k).d.mode != 0 || (frontOf d k cl).any (·.begun)) && (queueOf d k).d.ok && (queueOf d k).d.enable == 1
    match ks[Config.pick d.tick 1 ks.length % ks.length]? with
    | some k => launchNext p d cl k
    | none => d

/-! ### Kernel loads (R385) -/

/-- A present kernel is in use by a live squad of the cluster. -/
def kernUsed (d : Dev) (cl key : Nat) : Bool :=
  d.squads.any fun p => p.2.core / 7 == cl && p.2.state != .ended && p.2.kh == key

/-- The kernel table with room for one more: the least recently used entry that nothing uses goes; none where every one is in use. -/
def kernRoom (d : Dev) (cl : Nat) : Option (FMap (Kern × Nat)) :=
  let m := (clusterOf d cl).kernels
  if m.length < 64 then some m
  else match (m.filter fun p => !kernUsed d cl p.1).foldl (fun (b : Option (Nat × Nat)) p => match b with
      | some x => if p.2.2 < x.2 then some (p.1, p.2.2) else b
      | none => some (p.1, p.2.2)) none with
    | some x => some (fdel m x.1)
    | none => none

/-- KERNEL_LOAD_COMPLETE: the control processor has read and checked the descriptor; a descriptor it cannot read fails the check. -/
def kernelLoaded (d : Dev) (cl : Nat) : Dev :=
  match (clusterOf d cl).loading with
  | none => d
  | some i =>
    let it := itemOf d i
    let k := it.qk
    let stop := fun d => setCluster d cl fun c => { c with loading := none }
    match fget d.items i, astAt d it.entry with
    | some _, some ast =>
      let r := readNow d (168 + cl) ast.vmid ast.asid it.khandle 64 false
      let bs := match r.2 with
        | .ok bs => if kernOk bs then some bs else none
        | .error _ => none
      match bs with
      | none =>
        let d := stop r.1
        let d := match (shardOf d k cl).find? fun s => s.item == i with
          | some e => discardSub d k cl e
          | none => d
        settleItem d i true
      | some bs => match kernRoom r.1 cl with
        | none => d
        | some m =>
          let d := setCluster (stop r.1) cl fun c => { c with kernels := fput m it.khandle (kernOf bs, d.tick) }
          settleItem (blackBox d cl 0xA 7 (BitVec.ofNat 64 (it.khandle % 2 ^ 54))) i true
    | _, _ => stop d

/-! ### Intervals, balancing, quanta -/

/-- A control interval of 2 µs starts (R386). -/
def admissionInterval (d : Dev) (cl : Nat) : Dev :=
  let c := clusterOf d cl
  if c.etime < c.eStart + 2000 then d else setCluster d cl fun c => { c with e := 0, eStart := c.etime / 2000 * 2000 }

/-- Items a shard may give away (R388). -/
def movable (d : Dev) (s : Shard) : Bool := !(itemOf d s.item).det && !s.begun

/-- Balance one queue's shard with a neighbour's (R388). -/
def balanceWith (c : Nat) (d : Dev) (p : Nat × Nat) : Dev :=
  let (k, n) := p
  let own := shardOf d k c
  let diff := (heldEntries d k c).length - (heldEntries d k n).length
  if (queueOf d k).d.home < 24 || diff ≤ (clusterOf d c).balthr.toNat then d
  else
    let go := ((own.reverse.filter (movable d)).take (diff / 2)).reverse
    go.foldl (fun d s => shardAdd d k n s) (setShard d k c (own.filter fun s => !go.contains s))

/-- QUEUE_BALANCING of a cluster (R388). -/
def balance (d : Dev) (c : Nat) : Dev :=
  (queuesAt d c).foldl (fun d k => [(k, (c + 1) % 24), (k, (c + 23) % 24)].foldl (balanceWith c) d) d

/-- A cluster has too few free squad slots for an item's groups. -/
def slotsShort (d : Dev) (k cl i : Nat) : Bool :=
  decide (((launchCores cl (queueOf d k).d.mode).map (freeSlots d)).foldl (· + ·) 0 < (itemOf d i).gsq)

/-- A launch item of at least the PRIO of item i is blocked in a cluster's shard of a queue for want of squad slots (R391): its own, or those of a sub-item
before it, which may be i's. -/
def blockedIn (d : Dev) (i cl k : Nat) : Bool :=
  let l := (shardOf d k cl).filter fun s => !(itemOf d s.item).haltedAt cl && decide (s.next < s.last)
  l.zipIdx.any fun p => p.1.item != i && decide ((itemOf d i).prio ≤ (itemOf d p.1.item).prio) &&
    (l.take (p.2 + 1)).any fun s => slotsShort d k cl s.item

/-- In a shard of some queue that a cluster holds. DEDUCED, log 29. -/
def blockedFor (d : Dev) (cl i : Nat) : Bool := (queuesAt d cl).any (blockedIn d i cl)

/-- QUANTUM_EXPIRY (R391): the item, a worker item like a launch item, is pre-empted on the cluster that it has held for its quantum, its kernel's load included (R395). DEDUCED, log 29. -/
def quantumExpire (d : Dev) (i cl : Nat) : Dev :=
  match fget d.items i with
  | none => d
  | some it =>
    let q := (queueOf d it.qk).d
    match fget it.firstAt cl with
    | none => d
    | some t =>
      if q.qflags.getLsbD 1 && q.quantum ≠ 0 && !it.haltedAt cl && t + 1000 * q.quantum ≤ (clusterOf d cl).etime &&
          (clusterOf d cl).loading.isNone && shas (itemClusters d i) cl && blockedFor d cl i then
        addCause d i [cl] fun it => { it with quant := sadd it.quant cl }
      else d

/-- PREEMPTION_COLLECTED (R392). -/
def collect (d : Dev) (i : Nat) : Dev := if !(itemOf d i).stopping.isEmpty && acknowledged d i then collectItem d i else d

/-- APERTURE_WRITE (R381, R442): a write for an entry that is not valid, or beyond ASTN, is dropped. -/
def aperture (d : Dev) (entry queue : Nat) (whole : Bool) (bs : List Byte) : Dev :=
  if (astAt d entry).isNone || 256 ≤ queue then d
  else (offerItem d (entry * 256 + queue) none (whole && bs.length == 64) bs d.host.vc).1

/-- An effect that reads the power controller. -/
def onBoth (f : Power → Dev → Dev) (s : State) : Host.Outcome State Fault Refusal := .next { s with dev := f s.power s.dev }

/-- ENQ qD, queue, va (R187) -/
def execEnq (h : Hd) (d qn va : Opnd) : State → Host.Outcome State Fault Refusal :=
  onDev (issueChk (rawOf (.enq h d qn va)) (enqChk qn va) (fun e lns dv => lns.foldl (enqLane d qn va e) dv))

/-- DEQ.tN wD, queue (R188) -/
def execDeq (h : Hd) (tmo : BitVec 3) (d qn : Opnd) : State → Host.Outcome State Fault Refusal :=
  onDev (issueGather (rawOf (.deq h tmo d qn)) .none (fun _ _ _ => .ok) (deqDone tmo d qn))

/-- an admitted item is delivered to a waiting DEQ (R387) -/
def execDeqItemDelivery (cluster : Nat) (queue : Nat) : State → Host.Outcome State Fault Refusal :=
  onBoth (fun p dv => deliver p dv cluster queue)

/-- the TMO limit of a DEQ expires (R188) -/
def execDeqTimeout (sq : Nat) : State → Host.Outcome State Fault Refusal :=
  onDev (fun dv => deqExpire dv sq)

/-- the host writes an item to an aperture (R381) -/
def execApertureWrite (entry : Nat) (queue : Nat) (whole : Bool) (bytes : List Byte) : State → Host.Outcome State Fault Refusal :=
  onDev (fun dv => aperture dv entry queue whole bytes)

/-- the launch unit places the next group (R383) -/
def execGroupPlacement (cluster : Nat) : State → Host.Outcome State Fault Refusal :=
  onBoth (fun p dv => placeNext p dv cluster)

/-- a kernel load completes (R385) -/
def execKernelLoadComplete (cluster : Nat) : State → Host.Outcome State Fault Refusal :=
  onDev (fun dv => kernelLoaded dv cluster)

/-- a 2 us control interval starts (R386) -/
def execAdmissionInterval (cluster : Nat) : State → Host.Outcome State Fault Refusal :=
  onDev (fun dv => Machine.admissionInterval dv cluster)

/-- a queue engine balances with its neighbours (R388) -/
def execQueueBalancing (cluster : Nat) : State → Host.Outcome State Fault Refusal :=
  onDev (fun dv => balance dv cluster)

/-- the quantum of an item runs out (R391) -/
def execQuantumExpiry (item : Nat) (cluster : Nat) : State → Host.Outcome State Fault Refusal :=
  onDev (fun dv => quantumExpire dv item cluster)

/-- the collector has every acknowledgement (R392) -/
def execPreemptionCollected (item : Nat) : State → Host.Outcome State Fault Refusal :=
  onDev (fun dv => collect dv item)

end Sys2Proof.Machine
end

