-- ==== Sys2Proof/Machine/Engine.lean ====
section
/-! DEFINITION. Engine forms: timelines, copies, forks, shapes and transducers (R172 to R186, R363 to R373), and the events of copy engines and
transducer lanes. -/
namespace Sys2Proof.Machine

/-- The timeline an operand names. -/
def tlIdx : Opnd → Nat
  | .imm x => x.toNat
  | _ => 0

/-- A lane has issued a command (R172): it writes the number, its epoch ends, and it goes on. -/
def afterIssue (dst : Opnd) (n : Nat) (e : Env) (ln : Nat) (d : Dev) : Dev :=
  endEpochs (setSquad d e.sq fun s => (s.write ln dst .n64 (BitVec.ofNat 64 n)).setLane ln Lane.advance) e.sq [ln]

/-- The number the next command of a timeline takes. -/
def nextNumber (d : Dev) (gid t : Nat) : Nat := ((groupOf d gid).tl t).issued + 1

/-! ### CPY and TLSIG (R175 to R178) -/

/-- One lane's CPY: it waits while its engine's queue is full, or while a row of its descriptor is being filled (R172, R263). -/
def cpyLane (fa dst : Opnd) (t : Nat) (e : Env) (d : Dev) (ln : Nat) : Dev :=
  let wide := (copyOf (readBlock e ln fa 8)).fmma
  let gone := if wide then (extraRows fa).filter e.s.missing else []
  if !gone.isEmpty then startFills (holdLanes d e.sq .hold [ln]) e.sq [ln] gone
  else if 64 ≤ copyQueue d e.core then holdLanes d e.sq .hold [ln]
  else
    let ds := readBlock e ln fa (if wide then 16 else 8)
    let n := nextNumber d e.s.group t
    afterIssue dst n e ln (addCopy d (cpyCmd d e ln ds) ds t)

/-- TLSIG (R175). -/
def tlsigAct (scope : Scope) (dst : Opnd) (t : Nat) (e : Env) (lns : List Nat) (d : Dev) : Dev :=
  settleSignals (lns.foldl (fun d ln =>
    let n := nextNumber d e.s.group t
    afterIssue dst n e ln (addCmd d (mkCmd d e ln (.tlsig scope)) (some t))) d)

/-! ### Waits on timelines (R175) -/

/-- A wait of a lane ends: it writes its predicate, acquires, and goes on. -/
def waitDone (dst : Opnd) (b : Bool) (vc : Clock) (e : Env) (ln : Nat) (d : Dev) : Dev :=
  setSquad d e.sq fun s => (s.write ln dst .none (if b then 1 else 0)).setLane ln fun l => (l.acquire vc d.tick true).advance

/-- Lanes whose wait is over leave, the others park (R175, R266). -/
def waitLanes (dst : Opnd) (val : Dev → Nat → Option (Bool × Clock)) (on : Nat → Await) (e : Env) (lns : List Nat) (d : Dev) : Dev :=
  let wait := lns.filter fun ln => (val d ln).isNone
  let d := lns.foldl (fun d ln => match val d ln with
    | some (b, vc) => waitDone dst b vc e ln d
    | none => d) d
  if wait.isEmpty then d else detPass (wait.foldl (fun d ln => holdLanes d e.sq (.park (on ln)) [ln]) d) e.sq

/-- The counter TLREAD reads. -/
def tlCtr (tl : Timeline) (c : TlCtr) : Nat :=
  match c with
  | .done => tl.done
  | .issued => tl.issued
  | .fail => tl.fail

/-! ### Forks (R186) -/

/-- The keys of the sequencers a set names, with the number of each one's entry. -/
def forkSet (core set : Nat) : List (Nat × Nat) :=
  (if set % 2 = 1 then [(10 + core % 7, 0)] else []) ++ ((upto 3).filter fun i => set.testBit (i + 1)).map fun i => (i + 1, i + 1)

/-- The entry of a sequencer. -/
def forkEntry (e : Env) (ent : Opnd) (i : Nat) : Nat :=
  (pairOf (e.g.wFor e.sq (blockIdx ent + 2 * i)) (e.g.wFor e.sq (blockIdx ent + 2 * i + 1))).toNat

/-- Every entry must be the address of a clause header, or the lane takes the cause when it issues FORK. DESIGN CHOICE, log 56. -/
def forkChk (set ent : Opnd) (d : Dev) (e : Env) (ln : Nat) : Chk :=
  (forkSet e.core (tlIdx set)).foldl (fun c p => c.orElse fun _ =>
    let a := forkEntry e ent p.2
    if a ≥ 2 ^ 54 then .bad 1 0x01 (tvHeader a)
    else match (headerAt d (fetcherOf d e.sq ln) a).2 with
      | .ok _ => .ok
      | .bad => .bad 1 0x01 (tvHeader a)
      | .fault k => .bad 3 k (tvAddr a)) .ok

/-- One lane's FORK: it waits until every sequencer it names is free. -/
def forkLane (dst set ent : Opnd) (e : Env) (d : Dev) (ln : Nat) : Dev :=
  let cl := e.core / 7
  let fs := forkSet e.core (tlIdx set)
  if fs.any fun p => (fget (clusterOf d cl).seqs p.1).isSome then holdLanes d e.sq .hold [ln]
  else
    let n := (groupOf d e.s.group).nfork + 1
    let l := e.s.lane ln
    let q := fun (i : Nat) =>
      ({ fork := n, grp := e.s.group, sq := e.sq, lane := ln, core := e.core, asid := e.s.asid, vmid := (coreOf d e.core).vmid
         priv := l.mode != .u, pc := BitVec.ofNat 54 (forkEntry e ent i), hdr := BitVec.ofNat 54 (forkEntry e ent i), vc := l.vc } : Sequencer)
    let d := setCluster d cl fun c => { c with seqs := fs.foldl (fun m p => fput m p.1 (q p.2)) c.seqs }
    let d := setGroup d e.s.group fun g => { g with nfork := n, forks := fput g.forks n { left := fs.length } }
    afterIssue dst n e ln d

/-! ### Shapes and tables (R181 to R184) -/

/-- One lane's SHAPE (R183). -/
def shapeLane (dst va : Opnd) (e : Env) (d : Dev) (ln : Nat) : Dev :=
  let cl := e.core / 7
  match cmdRead d e ln (readN64 e ln va) 96 with
  | (d, bs) =>
    let fin := fun (d : Dev) (x : Nat) =>
      setSquad d e.sq fun s => (s.write ln dst .n64 (BitVec.ofNat 64 x)).setLane ln Lane.advance
    match shapeStatus d bs with
    | (0, steps) =>
      match freeSlotOf d (clusterOf d cl).shapes 256 0 cl with
      | none => fin d 4294967296
      | some i =>
        let s := fgetD (clusterOf d cl).shapes i {}
        fin (setCluster d cl fun c => { c with shapes := fput c.shapes i { s with steps := some steps } }) (handleOf 0 s.gen.toNat i)
    | (st, _) => fin d (st * 4294967296)

/-- The bytes XTBL reads: the classes, and the entries where their number is in range. -/
def tblReadLen (bs : List Byte) : Nat :=
  if fieldAt bs 0 2 = 1 && decide (tblStates bs ≤ 1024) && decide (tblClasses bs ≤ 64) && decide (tblStates bs * tblClasses bs ≤ 16384) then tblSize bs
  else 272

/-- The check of XTBL: the fixed part is read first. -/
def xtblChk (va : Opnd) (d : Dev) (e : Env) (ln : Nat) : Chk :=
  let a := readN64 e ln va
  (recordChk 272 1 a d e ln).orElse fun _ => recordChk (tblReadLen (recordRead d e ln a 272).2) 1 a d e ln

/-- One lane's XTBL (R184, R371). -/
def xtblLane (dst va : Opnd) (e : Env) (d : Dev) (ln : Nat) : Dev :=
  let a := readN64 e ln va
  match cmdRead d e ln a (tblReadLen (recordRead d e ln a 272).2) with
  | (d, bs) =>
    let fin := fun (d : Dev) (x : Nat) =>
      setSquad d e.sq fun s => (s.write ln dst .n64 (BitVec.ofNat 64 x)).setLane ln Lane.advance
    let held := d.tables.foldl (fun n p => n + (p.2.table.map List.length).getD 0) 0
    match tblStatus bs with
    | 0 =>
      match (if 2097152 < held + bs.length then none else freeSlotOf d d.tables 64 1 0) with
      | none => fin d 4294967296
      | some i =>
        let s := fgetD d.tables i {}
        fin { d with tables := fput d.tables i { s with table := some bs } } (handleOf 1 s.gen.toNat i)
    | st => fin d (st * 4294967296)

/-- The handle names a live shape of the cluster, or a live table. -/
def liveHandle (d : Dev) (cl h : Nat) : Bool := (liveShape d cl h).isSome || (liveTable d h).isSome

/-- One lane's SHDROP (R183). -/
def shdropLane (hd : Opnd) (e : Env) (d : Dev) (ln : Nat) : Dev :=
  let cl := e.core / 7
  let h := readN32 e ln hd
  if !liveHandle d cl h then trapAt d e.sq ln 0x16 (tvAddr h)
  else
    let free := fun (m : FMap ShapeSlot) => fmod m (h % 256) fun s => ({ gen := nextGen s.gen } : ShapeSlot)
    let d := if h < 2147483648 then setCluster d cl fun c => { c with shapes := free c.shapes } else { d with tables := free d.tables }
    advanceAll d e.sq [ln]

/-! ### XFORM (R185, R371) -/

/-- The word of a transducer command's descriptor. -/
def xw (ds : List Word) (i : Nat) : Nat := (ds.getD i 0).toNat
/-- IN. -/
def xIn (ds : List Word) : Nat := xw ds 2 + 4294967296 * xw ds 3
/-- OUT. -/
def xOut (ds : List Word) : Nat := xw ds 5 + 4294967296 * xw ds 6

/-- Transducer commands in a cluster's queue (R172). -/
def transQueue (d : Dev) (cl : Nat) : Nat :=
  (d.cmds.filter fun p => p.2.core / 7 == cl && (match p.2.kind with
    | .xform _ _ => true
    | _ => false)).length

/-- The command a lane's XFORM becomes. -/
def xformCmd (d : Dev) (e : Env) (ln : Nat) (ds : List Word) : Cmd :=
  { mkCmd d e ln (.xform ds ((liveTable d (xw ds 0)).getD [])) with uses := xw ds 0 }

/-- Where a transducer lane stands: state, position, bytes emitted, and why it stopped: a status, or a fault with its address. -/
structure XRun where
  s    : Nat
  p    : Nat := 0
  n    : Nat := 0
  stop : Option Nat := none
  err  : Option (Cause × Nat) := none
  deriving DecidableEq, Repr, Inhabited

/-- Follow one transition for a command (R185). -/
def xformStep (t : List Byte) (ds : List Word) (c : Cmd) (tid : Nat) (d : Dev) (x : XRun) : Dev × XRun :=
  if x.stop.isSome || x.err.isSome then (d, x)
  else if xw ds 4 ≤ x.p then (d, { x with stop := some 0 })
  else match engRead d c .l2 (xIn ds + x.p) 1 with
    | (d, .error e) => (d, { x with err := some e })
    | (d, .ok bs) =>
      let e := tblEntry t x.s (bs.headD 0)
      let o := tblEmit e x.p (bs.headD 0)
      if nbits e 16 8 = 4 then (d, { x with stop := some 1 })
      else if nbits e 16 8 = 5 then (d, { x with stop := some 0 })
      else if xw ds 7 < 16 + x.n + o.length then (d, { x with stop := some 2 })
      else match engWrite d c .l2 (xOut ds + 16 + x.n) (someBytes o) with
        | (d, .error e) => (d, { x with err := some e })
        | (d, .ok _) =>
          (tagGlobal d tid cmdEpoch c (xOut ds + 16 + x.n) o.length true .l2, { x with s := e % 1024, p := x.p + 1, n := x.n + o.length })

/-- Follow transitions until the command stops or meets a fault. -/
def xformRun (t : List Byte) (ds : List Word) (c : Cmd) (tid : Nat) : Nat → Dev × XRun → Dev × XRun
  | 0, r => r
  | k + 1, r => xformRun t ds c tid k (xformStep t ds c tid r.1 r.2)

/-- Where a transducer command starts, or goes on (R185, R373). -/
def xformAt (c : Cmd) (t : List Byte) (ds : List Word) : XRun :=
  { s := c.aux.getD 0 (if nbits (xw ds 1) 10 1 = 1 then xw ds 1 % 1024 else tblStart t), p := c.aux.getD 1 0, n := c.aux.getD 2 0 }

/-- How far a transducer command would go over memory as it stands at its issue (R189, R306): the input bytes it reads, the output bytes after the record, and
whether it writes its record. DEDUCED, log 52. -/
def xformReach (d : Dev) (c : Cmd) (t : List Byte) (ds : List Word) : Nat × Nat × Bool :=
  let r := (xformRun t ds c 0 (xw ds 4 + 1) (publish d c.vc .dev, xformAt c t ds)).2
  (min (xw ds 4) (r.p + 1), r.n, r.err.all fun e => e.1 == 0x04)

/-- The ranges an XFORM reads and writes: address, length, and whether it is written. -/
def xformRanges (d : Dev) (c : Cmd) (t : List Byte) (ds : List Word) : List (Nat × Nat × Bool) :=
  let r := xformReach d c t ds
  [(xIn ds, r.1, false), (xOut ds + 16, r.2.1, true), (xOut ds, if r.2.2 then 16 else 0, true)]

/-- The check of XFORM: reserved bits, OUTCAP and the initial state, which must be one of the table's, OUT's alignment, the handle, and, once what the lane did
before is performed, races. DESIGN CHOICE, log 52. -/
def xformChk (fa : Opnd) (d : Dev) (e : Env) (ln : Nat) : Chk :=
  let ds := readBlock e ln fa 8
  let ill := Chk.bad 1 0x01 (tvField 4 fa.desc)
  if xw ds 1 / 2048 ≠ 0 || xw ds 7 < 16 then ill
  else if xOut ds % 16 ≠ 0 then .bad 2 0x03 (tvAddr (xOut ds))
  else match liveTable d (xw ds 0) with
  | none => .bad 5 0x16 (tvAddr (xw ds 0))
  | some t =>
    if nbits (xw ds 1) 10 1 = 1 && tblStates t ≤ xw ds 1 % 1024 then ill
    else if !quiet d (issueClock e ln) then .stall
    else
      let c := xformCmd d e ln ds
      (xformRanges d c t ds).foldl (fun k r => k.orElse fun _ => globalRace d c e ln r.1 r.2.1 r.2.2 .l2) .ok

/-- Send a transducer command to its queue: what it reads and writes is tagged. -/
def addXform (d : Dev) (c : Cmd) (ds : List Word) (t : Nat) : Dev :=
  let tid := cmdTid d.fresh c.sq c.lane
  (xformRanges d c ((liveTable d (xw ds 0)).getD []) ds).foldl (fun d r => tagGlobal d tid cmdEpoch c r.1 r.2.1 r.2.2 .l2) (addCmd d c (some t))

/-- One lane's XFORM. -/
def xformLane (fa dst : Opnd) (t : Nat) (e : Env) (d : Dev) (ln : Nat) : Dev :=
  if 64 ≤ transQueue d (e.core / 7) then holdLanes d e.sq .hold [ln]
  else
    let ds := readBlock e ln fa 8
    let n := nextNumber d e.s.group t
    afterIssue dst n e ln (addXform d (xformCmd d e ln ds) ds t)

/-- The result record (R185). -/
def xformRecord (x : XRun) : List Byte :=
  natLe x.n 4 ++ natLe x.p 4 ++ natLe x.s 2 ++ natLe (x.stop.getD 0) 1 ++ natLe 0 5

/-- A transducer lane follows one transition of a command, and saves where it stands (R373); one that stops or meets a fault leaves that to the event. -/
def xformTurn (d : Dev) (i : Nat) : Dev :=
  match fget d.cmds i with
  | none => d
  | some c =>
    match c.kind, c.state with
    | _, .halted _ _ => d
    | .xform ds t, _ =>
      if !quiet d c.vc || (groupOf d c.grp).killed || cmdStopped d c then d
      else
        let r := xformStep t ds c (cmdTid i c.sq c.lane) (publish d c.vc .dev) (xformAt c t ds)
        if r.2.stop.isSome || r.2.err.isSome then d else setCmd r.1 i fun c => { c with aux := [r.2.s, r.2.p, r.2.n] }
    | _, _ => d

/-- A transducer command runs to its end, or to a fault (R179, R185, R364). One that has gone on since it halted is newly halted (R365). -/
def xformEvent (d : Dev) (i : Nat) (err : MemErr) (since : Option Nat) : Dev :=
  match fget d.cmds i with
  | none => d
  | some c =>
    match c.kind with
    | .xform ds t =>
      if !quiet d c.vc then d
      else if (groupOf d c.grp).killed then completeCmd (publish d c.vc .dev) i true
      else if cmdStopped d c then d
      else
        let d := noteErr (publish d c.vc .dev) c.core err
        let x := xformAt c t ds
        if errBad err then
          match err with
          | .poison _ => failCmd (poisonSrc d c 0 (xIn ds + x.p) .l2) i 0x0D (xIn ds + x.p) true
          | .fatal _ => d
          | _ => failCmd d i 0x0D (xIn ds + x.p) false
        else
          let r := xformRun t ds c (cmdTid i c.sq c.lane) (xw ds 4 + 1) (d, x)
          let d := setCmd r.1 i fun c => { c with aux := [r.2.s, r.2.p, r.2.n] }
          let fault := fun d e => cmdFault d i 0 (if r.2.p = x.p then since else none) e fun d => failCmd d i e.1 e.2 (e.1 == 0x0D)
          match r.2.err with
          | some e => fault d e
          | none =>
            match engWrite d c .l2 (xOut ds) (someBytes (xformRecord r.2)) with
            | (d, .error e) => fault d e
            | (d, .ok _) => completeCmd d i false
    | _ => d

/-! ### Halted commands (R365) -/

/-- A halted command retries its walk where a TLBINV has completed since, or 4,096 ns have passed. -/
def retryCmd (d : Dev) (i : Nat) : Dev :=
  match fget d.cmds i with
  | none => d
  | some c =>
    match c.state with
    | .halted p since =>
      if !(c.kick || decide (c.last + 4096 ≤ (clusterOf d (c.core / 7)).etime)) then d
      else if cmdStopped d c && atUnit c then d
      else
        let d := setCmd d i fun c => { c with state := .running p, kick := false }
        match c.kind with
        | .xform _ _ => xformEvent d i .none (some since)
        | _ => copyEvent d i .none (some since)
    | _ => d

/-- A command of a draining group that has stayed halted for 2^20 ns fails. DEDUCED, log 40. -/
def haltTimeout (d : Dev) (i : Nat) : Dev :=
  match fget d.cmds i with
  | none => d
  | some c =>
    match c.state with
    | .halted _ since =>
      if (groupOf d c.grp).state = .draining && since + 1048576 ≤ (clusterOf d (c.core / 7)).etime then failCopy d i 0x04 c.hva else d
    | _ => d

/-- A command is halted: only a retry moves it. -/
def Cmd.isHalted (c : Cmd) : Bool :=
  match c.state with
  | .halted _ _ => true
  | _ => false

/-- CPY vD, desc, tl (R176-R180) -/
def execCpy (h : Hd) (d desc tl : Opnd) : State → Host.Outcome State Fault Refusal :=
  onDev (issueChk (rawOf (.cpy h d desc tl)) (cpyChk desc) (fun e lns dv => lns.foldl (cpyLane desc d (tlIdx tl) e) dv))

/-- TLSIG.scope vD, tl (R175) -/
def execTlsig (h : Hd) (scope : Scope) (d tl : Opnd) : State → Host.Outcome State Fault Refusal :=
  onDev (issue (rawOf (.tlsig h scope d tl)) (tlsigAct scope d (tlIdx tl)))

/-- TLWAIT.scope qD, tl, n (R175) -/
def execTlwait (h : Hd) (scope : Scope) (d tl n : Opnd) : State → Host.Outcome State Fault Refusal :=
  onDev (issue (rawOf (.tlwait h scope d tl n)) (fun e lns dv =>
    waitLanes d (fun dv ln => tlwaitVal ((groupOf dv e.s.group).tl (tlIdx tl)) (readN64 e ln n))
      (fun ln => .line e.s.group (tlIdx tl) (readN64 e ln n)) e lns dv))

/-- TLREAD.ctr vD, tl (R175) -/
def execTlread (h : Hd) (ctr : TlCtr) (d tl : Opnd) : State → Host.Outcome State Fault Refusal :=
  onDev (issue (rawOf (.tlread h ctr d tl)) (fun e lns dv => writeAll d .n64 (BitVec.ofNat 64 (tlCtr ((groupOf dv e.s.group).tl (tlIdx tl)) ctr)) e lns dv))

/-- WPWAIT qD, tl, cmd, bytes (R175) -/
def execWpwait (h : Hd) (d tl cmd nb : Opnd) : State → Host.Outcome State Fault Refusal :=
  onDev (issue (rawOf (.wpwait h d tl cmd nb)) (fun e lns dv =>
    waitLanes d (fun dv ln => wpwaitVal dv e.s.group (tlIdx tl) (readN64 e ln cmd) (readN32 e ln nb))
      (fun ln => .bytes e.s.group (tlIdx tl) (readN64 e ln cmd) (readN32 e ln nb)) e lns dv))

/-- FORK vD, set, entries (R186) -/
def execFork (h : Hd) (d set ent : Opnd) : State → Host.Outcome State Fault Refusal :=
  onDev (issueChk (rawOf (.fork h d set ent)) (forkChk set ent) (fun e lns dv => lns.foldl (forkLane d set ent e) dv))

/-- RDV qD, fork (R186) -/
def execRdv (h : Hd) (d fk : Opnd) : State → Host.Outcome State Fault Refusal :=
  onDev (issue (rawOf (.rdv h d fk)) (fun e lns dv => waitLanes d (fun dv ln => rdvVal dv e.s.group (readN64 e ln fk))
      (fun ln => .fork e.s.group (readN64 e ln fk)) e lns dv))

/-- SHAPE vD, va (R183) -/
def execShape (h : Hd) (d va : Opnd) : State → Host.Outcome State Fault Refusal :=
  onDev (issueChk (rawOf (.shape h d va)) (fun dv e ln => recordChk 96 1 (readN64 e ln va) dv e ln) (fun e lns dv => lns.foldl (shapeLane d va e) dv))

/-- SHDROP h (R183) -/
def execShdrop (h : Hd) (hd : Opnd) : State → Host.Outcome State Fault Refusal :=
  onDev (issueChk (rawOf (.shdrop h hd)) (fun dv e ln =>
      if liveHandle dv (e.core / 7) (readN32 e ln hd) then .ok else .bad 5 0x16 (tvAddr (readN32 e ln hd)))
    (fun e lns dv => lns.foldl (shdropLane hd e) dv))

/-- XTBL vD, va (R184) -/
def execXtbl (h : Hd) (d va : Opnd) : State → Host.Outcome State Fault Refusal :=
  onDev (issueChk (rawOf (.xtbl h d va)) (xtblChk va) (fun e lns dv => lns.foldl (xtblLane d va e) dv))

/-- XFORM vD, desc, tl (R185) -/
def execXform (h : Hd) (d desc tl : Opnd) : State → Host.Outcome State Fault Refusal :=
  onDev (issueChk (rawOf (.xform h d desc tl)) (xformChk desc) (fun e lns dv => lns.foldl (xformLane desc d (tlIdx tl) e) dv))

/-- a chunk of a destination is written (R179) -/
def execCpyChunkWritten (cmd : Nat) (err : MemErr) : State → Host.Outcome State Fault Refusal :=
  onDev (fun dv => if (cmdOf dv cmd).isHalted then dv else copyEvent dv cmd err none)

/-- a halted command retries its walk (R365) -/
def execHaltedCommandRetry (cmd : Nat) : State → Host.Outcome State Fault Refusal :=
  onDev (fun dv => retryCmd dv cmd)

/-- a halted command of a draining group fails (R365) -/
def execHaltedCommandTimeout (cmd : Nat) : State → Host.Outcome State Fault Refusal :=
  onDev (fun dv => haltTimeout dv cmd)

/-- a transducer command completes (R371) -/
def execTransducerCommandComplete (cmd : Nat) (err : MemErr) : State → Host.Outcome State Fault Refusal :=
  onDev (fun dv => if (cmdOf dv cmd).isHalted then dv else xformEvent dv cmd err none)

end Sys2Proof.Machine
end

