-- ==== Sys2Proof/Machine/Matrix.lean ====
section
/-! DEFINITION. Berths and matrix commands (R191 to R203), and the events of matrix arrays and dot arrays (R346, R347, R355, R356). -/
namespace Sys2Proof.Machine

/-- One lane's BERTH (R195). -/
def berthLane (dst va : Opnd) (e : Env) (d : Dev) (ln : Nat) : Dev :=
  match cmdRead d e ln (readN64 e ln va) 64 with
  | (d, r) =>
    let b := makeBerth d (e.core / 7) e.s.group r
    setSquad b.1 e.sq fun s => (s.write ln dst .n64 (BitVec.ofNat 64 b.2)).setLane ln Lane.advance

/-- One lane's UNBERTH (R196): a berth with no holder left and no command naming it ends. -/
def unberthLane (hd : Opnd) (e : Env) (d : Dev) (ln : Nat) : Dev :=
  let cl := e.core / 7
  let h := readN32 e ln hd
  if (heldBerth d cl e.s.group h).isNone then trapAt d e.sq ln 0x13 (tvAddr h)
  else advanceAll (endBerth (setBerth d cl (h % 256) fun b => b.release e.s.group) cl (h % 256)) e.sq [ln]

/-- The check of a matrix command that a lane issues (R199, R202, R203, R306). -/
def matrixLaneChk (k : Env → Nat → CmdKind) (pre : Env → Nat → Chk) (d : Dev) (e : Env) (ln : Nat) : Chk :=
  (pre e ln).orElse fun _ => (matrixChk d e.s.group e.core e.s.det (k e ln)).orElse fun _ =>
  (tileRace d e.sq ln (issueClock e ln) e.g (k e ln).tileAccs).orElse fun _ =>
    (k e ln).reads.foldl (fun c r => c.orElse fun _ => lateChk d e.sq ln (issueClock e ln) 1 (scPlace e.g r.1) r.2 r.1 false false false) .ok

/-- One lane's matrix command: it waits while its unit's queue is full (R198). -/
def matrixLane (k : Env → Nat → CmdKind) (t : Option Nat) (e : Env) (d : Dev) (ln : Nat) : Dev :=
  if matrixFull d e.core (k e ln) then holdLanes d e.sq .hold [ln]
  else afterIssue .none 0 e ln (addMatrix d (mkCmd d e ln (k e ln)) t)

/-- The timeline of a matrix command (R197). -/
def tlOf (v : Bool) (t : BitVec 4) : Option Nat := if v then some t.toNat else none

/-- No check before those of R199. -/
def noPreChk (_ : Env) (_ : Nat) : Chk := .ok

/-- The parameters of LMM (R203). -/
def lmmKind (c p : Opnd) (e : Env) (ln : Nat) : CmdKind :=
  let w := fun i => (e.g.wFor e.sq (blockIdx p + i)).toNat
  .lmm (readN32 e ln c) (w 0) (w 1) (w 2) (nbits (w 3) 0 6) (nbits (w 3) 6 6)

/-- The element formats of LMM. -/
def lmmFmt (c : Nat) : Bool := [0x0E, 0x0D, 0x01].contains c || (decide (32 ≤ c) && c % 8 != 0)

/-- LMM's own checks (R203): formats and K, then alignment and range of C, A and B. A K that is not from 1 to 1,024 is illegal, as a reserved format is, and TVAL names
the first of C, A and B that fails. DESIGN CHOICE, logs 47 and 59. -/
def lmmPre (c p : Opnd) (e : Env) (ln : Nat) : Chk :=
  let r := (e.g.wFor e.sq (blockIdx p + 3)).toNat
  match lmmKind c p e ln with
  | .lmm cO aO bO k fa fb =>
    if r / 4096 ≠ 0 || !lmmFmt fa || !lmmFmt fb || (fmtAt fa).wid ≠ (fmtAt fb).wid || k < 1 || 1024 < k then .bad 1 0x01 (tvField 4 p.desc)
    else if cO % 128 ≠ 0 then .bad 2 0x03 (tvAddr cO)
    else if aO % 4 ≠ 0 then .bad 2 0x03 (tvAddr aO)
    else if bO % 4 ≠ 0 then .bad 2 0x03 (tvAddr bO)
    else match ((cO, 4096) :: (lmmKind c p e ln).reads).find? fun t => decide (scrOf e.g < t.1 + t.2) with
      | some t => .bad 5 0x07 (tvAddr t.1)
      | none => .ok
  | _ => .ok

/-! ### What the arrays do (R200, R201, R320, R356, R359, R364) -/

/-- A matrix command completes, and a follow-on may now find room. -/
def finishMatrix (d : Dev) (i : Nat) (bad : Bool) : Dev := retryFollows (completeCmd d i bad)

/-- A matrix command meets poison (R320). -/
def poisonMatrix (d : Dev) (i tval : Nat) : Dev := retryFollows (failCmd d i 0x0D tval true)

/-- The commands of a unit that no pre-emption stops. -/
def runnable (d : Dev) (l : List (Nat × Cmd)) : List (Nat × Cmd) := l.filter fun p => !cmdStopped d p.2

/-- The command a unit is running. -/
def unitRunning (d : Dev) (l : List (Nat × Cmd)) : Option (Nat × Cmd) := (runnable d l).find? fun p => p.2.state != .queued

/-- An array takes its next command (R356): MZERO is performed whole, MMAD copies its tile. -/
def arrayStart (d : Dev) (cl arr : Nat) : Dev :=
  let l := arrayQueue d cl arr
  if (unitRunning d l).isSome then d
  else match (runnable d l).head? with
  | none => d
  | some (i, c) =>
    let g := groupOf d c.grp
    if !quiet d c.vc then d
    else
      let d := publish d c.vc .dev
      if g.killed then finishMatrix d i true
      else match c.kind with
      | .mzero off _ => finishMatrix (scWrite d g off (List.replicate tileLen (some 0))) i false
      | .mma true dO cO _ _ =>
        setCmd (if dO = cO then d else tileCopy d (scPlace g cO) (scPlace g dO)) i fun c => { c with state := .running 0 }
      | _ => setCmd d i fun c => { c with state := .running 0 }

/-- The sums of one K-block are added (R200, R356); a command whose group has been killed stops between two of them (R364, R366). An uncorrectable error
poisons the unit or tile word that it names, and the command fails as on meeting it (R319, R320). DEDUCED, log 35. -/
def kblock (d : Dev) (cl : Nat) (i : Nat) (c : Cmd) (err : MemErr) : Dev :=
  match c.kind with
  | .mma mmad dO cO ha hb =>
    let g := groupOf d c.grp
    let a := (berthOf d cl (ha % 256)).record
    let b := (berthOf d cl (hb % 256)).record
    let kb := kbLen a
    let lo := c.pos * kb
    let hi := min (brK a) (lo + kb)
    let ks := (upto (hi - lo)).map (lo + ·)
    let off := if mmad then dO else cO
    let ka := ks.map (mapped b)
    let kbs := ks.map (mapped a)
    let unit := fun (side : Nat) (r : List Byte) (ks : List Nat) (e : ErrAt) =>
      errPlace (berthUnits cl r ks) (opKey cl side (brArray r * (1048576 * (side + 1)) + 128 * e.index.toNat) / 128)
    if g.killed then finishMatrix d i true
    else
      let d := noteErr d c.core err
      let d := match err with
        | .poison e =>
          if e.array = scratchArray then { d with scPoison := sadd d.scPoison (errPlace (tileWords g off 65536) (scIndex cl e)) }
          else if e.array = bStoreArray then { d with bPoison := sadd d.bPoison (unit 1 b kbs e) }
          else { d with bPoison := sadd d.bPoison (unit 0 a ka e) }
        | _ => d
      match err with
      | .fatal _ => d
      | _ =>
        if berthPoison d cl a ka then poisonMatrix d i ha
        else if berthPoison d cl b kbs then poisonMatrix d i hb
        else match tileAdd d (scPlace g off) 65536 fun w => kbSum d cl a b lo hi (w / 256) (w % 256) with
          | (d, some p) => poisonMatrix d i (off + 4 * p)
          | (d, none) => if brK a ≤ hi then finishMatrix d i false else setCmd d i fun c => { c with state := .running (c.pos + 1) }
  | _ => d

/-- The bytes of one row or column of A or B that a pass reads: the first, from the row's start, and how many (R203, R347). -/
def lmmSlice (f k pos : Nat) : Nat × Nat :=
  let w := (fmtAt f).wid
  (pos * 32 * w / 8, (min k (pos * 32 + 32) * w + 7) / 8 - pos * 32 * w / 8)

/-- Element k of row or column x of an LMM operand, from the bytes its pass has read: those of A, then those of B (R203, R347). -/
def lmmVal (buf : List (Option Byte)) (sl : Nat × Nat) (side f x k : Nat) : FV :=
  decFmt (fmtAt f) (elemCode (fun y => (buf.getD ((32 * side + x) * sl.2 + (y - sl.1)) none).getD 0) (fmtAt f).wid k)

/-- A pass of an LMM starts: the array reads its slices of A and B as they stand (R347). -/
def lmmStart (d : Dev) (i : Nat) (c : Cmd) : Dev :=
  match c.kind with
  | .lmm _ aO bO k fa _ =>
    let g := groupOf d c.grp
    let q := (packedLen (fmtAt fa).wid k + 3) / 4 * 4
    let sl := lmmSlice fa k c.pos
    if g.killed then completeCmd d i true
    else
      let got := ((upto 32).map (aO + · * q) ++ (upto 32).map (bO + · * q)).map fun o => scRead d g (o + sl.1) sl.2
      match got.findSome? fun r => match r with
          | .error e => some e.2
          | .ok _ => none with
      | some o => failCmd d i 0x0D o true
      | none => setCmd d i fun c => { c with
          state := .running c.pos, buf := (got.map fun r => match r with
            | .ok bs => bs.map some
            | .error _ => []).flatten }
  | _ => d

/-- A pass of an LMM ends: its sums are added to C (R203, R347). A killed group's command stops there (R364). -/
def lmmEnd (d : Dev) (i : Nat) (c : Cmd) (err : MemErr) : Dev :=
  match c.kind with
  | .lmm cO aO bO k fa fb =>
    let g := groupOf d c.grp
    let sl := lmmSlice fa k c.pos
    let lo := c.pos * 32
    let hi := min k (lo + 32)
    let q := (packedLen (fmtAt fa).wid k + 3) / 4 * 4
    let read := ((upto 32).map (aO + · * q) ++ (upto 32).map (bO + · * q)).flatMap fun o => tileWords g (o + sl.1) ((sl.2 + 3) / 4)
    let tile := tileWords g cO 1024
    let d := noteErr d c.core err
    match err with
    | .fatal _ => d
    | .poison e =>
      let w := errPlace (read ++ tile) (scIndex (c.core / 7) e)
      failCmd { d with scPoison := sadd d.scPoison w } i 0x0D (4 * w - scPlace g 0) true
    | _ =>
      match tileAdd d (scPlace g cO) 1024 fun w =>
          blockSum ((upto (hi - lo)).map fun n => mulFV (lmmVal c.buf sl 0 fa (w / 32) (lo + n)) (lmmVal c.buf sl 1 fb (w % 32) (lo + n))) with
      | (d, some p) => failCmd d i 0x0D (cO + 4 * p) true
      | (d, none) => if k ≤ hi || g.killed then completeCmd d i g.killed
          else setCmd d i fun c => { c with state := .running (c.pos + 1), buf := [] }
  | _ => d

/-- A core's sampler, at its reset value where it is not listed. -/
def samplerOf (d : Dev) (k : Nat) : Sampler := fgetD d.samplers k {}
/-- Change a sampler. -/
def setSampler (d : Dev) (k : Nat) (f : Sampler → Sampler) : Dev := { d with samplers := fput d.samplers k (f (samplerOf d k)) }

/-- BERTH vD, va (R195) -/
def execBerth (h : Hd) (d va : Opnd) : State → Host.Outcome State Fault Refusal :=
  onDev (issueChk (rawOf (.berth h d va)) (fun dv e ln => recordChk 64 64 (readN64 e ln va) dv e ln) (fun e lns dv => lns.foldl (berthLane d va e) dv))

/-- UNBERTH h (R196) -/
def execUnberth (h : Hd) (hd : Opnd) : State → Host.Outcome State Fault Refusal :=
  onDev (issueChk (rawOf (.unberth h hd)) (fun dv e ln =>
      if (heldBerth dv (e.core / 7) e.s.group (readN32 e ln hd)).isSome then .ok else .bad 5 0x13 (tvAddr (readN32 e ln hd)))
    (fun e lns dv => lns.foldl (unberthLane hd e) dv))

/-- MMA[.tlN] wC, wA, wB (R200) -/
def execMma (h : Hd) (tlv : Bool) (tl : BitVec 4) (c a b : Opnd) : State → Host.Outcome State Fault Refusal :=
  onDev (issueChk (rawOf (.mma h tlv tl c a b)) (matrixLaneChk (fun e ln => .mma false 0 (readN32 e ln c) (readN32 e ln a) (readN32 e ln b)) noPreChk)
    (fun e lns dv => lns.foldl (matrixLane (fun e ln => .mma false 0 (readN32 e ln c) (readN32 e ln a) (readN32 e ln b)) (tlOf tlv tl) e) dv))

/-- MMAD[.tlN] wD, wA, wB, wC (R200) -/
def execMmad (h : Hd) (tlv : Bool) (tl : BitVec 4) (dd a b c : Opnd) : State → Host.Outcome State Fault Refusal :=
  onDev (issueChk (rawOf (.mmad h tlv tl dd a b c)) (matrixLaneChk (fun e ln => .mma true (readN32 e ln dd) (readN32 e ln c) (readN32 e ln a) (readN32 e ln b)) noPreChk)
    (fun e lns dv => lns.foldl
      (matrixLane (fun e ln => .mma true (readN32 e ln dd) (readN32 e ln c) (readN32 e ln a) (readN32 e ln b)) (tlOf tlv tl) e) dv))

/-- MZERO[.tlN].aM wC (R202) -/
def execMzero (h : Hd) (tlv : Bool) (tl : BitVec 4) (arr : Bool) (c : Opnd) : State → Host.Outcome State Fault Refusal :=
  onDev (issueChk (rawOf (.mzero h tlv tl arr c)) (matrixLaneChk (fun e ln => .mzero (readN32 e ln c) (if arr then 1 else 0)) noPreChk)
    (fun e lns dv => lns.foldl (matrixLane (fun e ln => .mzero (readN32 e ln c) (if arr then 1 else 0)) (tlOf tlv tl) e) dv))

/-- LMM[.tlN] wC, wP (R203) -/
def execLmm (h : Hd) (tlv : Bool) (tl : BitVec 4) (c p : Opnd) : State → Host.Outcome State Fault Refusal :=
  onDev (issueChk (rawOf (.lmm h tlv tl c p)) (matrixLaneChk (lmmKind c p) (lmmPre c p)) (fun e lns dv => lns.foldl (matrixLane (lmmKind c p) (tlOf tlv tl) e) dv))

/-- a berth with no holder and no command ends (R355) -/
def execBerthEnd (cluster : Nat) (slot : Nat) : State → Host.Outcome State Fault Refusal :=
  onDev (fun dv => endBerth dv cluster slot)

/-- an array takes its next command (R356) -/
def execMatrixCommandStart (cluster : Nat) (arr : Nat) : State → Host.Outcome State Fault Refusal :=
  onDev (fun dv => arrayStart dv cluster arr)

/-- the sums of one K-block are added (R356) -/
def execMatrixKblockComplete (cluster : Nat) (arr : Nat) (err : MemErr) : State → Host.Outcome State Fault Refusal :=
  onDev (fun dv =>
    match unitRunning dv (arrayQueue dv cluster arr) with
    | some (i, c) => kblock dv cluster i c err
    | none => dv)

end Sys2Proof.Machine
end

