-- ==== Sys2Proof/Machine/Turns.lean ====
section
/-! DEFINITION. Which bundle issues, and how it gets its word (R269, R276, R277, R34, R36, R37, R45 to R47). -/
namespace Sys2Proof.Machine

/-- A lane may try its word now: one that waits for an event, a gather or its mooring only once that is over, or to take a held cause at its boundary (R266,
R315). -/
def laneTries (d : Dev) (u ln : Nat) (l : Lane) : Bool :=
  match l.wait with
  | .walk w => match fget d.walks w with
    | some k => k.res.isSome
    | none => true
  | .sample _ => false
  | _ => laneReady d u ln l

/-- An upper core issues only while it is powered (R428). -/
def Cluster.gateOpen (c : Cluster) (core : Nat) : Bool := core != 6 || c.gate == .powered

/-- A squad may issue: it is Ready and in its core, nothing stops it but a lane's own SQPARK that waits for its status, and its cluster
has had no fatal error (R243, R266, R321). -/
def mayIssue (d : Dev) (u : Nat) (s : Squad) : Bool :=
  s.state == .ready && s.res == .in_ && !(clusterOf d (s.core / 7)).fatal && (clusterOf d (s.core / 7)).gateOpen (s.core % 7) &&
    (match s.stop with
      | .none => true
      | .park sq _ _ => sq == u
      | _ => false)

/-- Lanes stand at one word in one mode at one depth (R269). -/
def together (a b : Lane) : Bool := a.pc == b.pc && a.mode == b.mode && a.depth == b.depth && a.hofs == b.hofs

/-- In deterministic mode only the running squad of a work item issues on a core (R276); where none is set, the lowest. -/
def detTurn (d : Dev) (u : Nat) (s : Squad) : Bool :=
  match s.det, (groupOf d s.group).item with
  | true, some i =>
    let l := detPeers d s i
    match fget (coreOf d s.core).detRun i with
    | some r => if l.any fun p => p.1 == r then r == u else (lowestIdx l fun _ => true).map (·.1) == some u
    | none => (lowestIdx l fun _ => true).map (·.1) == some u
  | _, _ => true

/-- The lane whose path runs in deterministic mode: the lowest able one of the bundle that was running while it has any, and otherwise the lowest
able lane (R277). DEDUCED, log 42. -/
def detLead (d : Dev) (u : Nat) : Option Nat :=
  let s := squadOf d u
  let able := fkeys (s.lanes.filter fun p => laneReady d u p.1 p.2)
  (able.filter fun ln => s.path.contains ln).head? <|> able.head?

/-- The bundle that holds the first lane asked for, with all that stand at its word and can issue, since splits at one word merge (R269); in deterministic
mode the bundle of the lane that leads, once none of its lanes waits on translation or for texels any more (R277). -/
def formBundle (d : Dev) (u : Nat) (ask : List Nat) : List Nat :=
  let s := squadOf d u
  let live := fkeys (s.lanes.filter fun p => laneTries d u p.1 p.2 && (match s.stop with
    | .park _ ln _ => p.1 == ln
    | _ => true))
  match if s.det then detLead d u else ask.find? live.contains with
  | none => []
  | some a =>
    let same := fun ln => together (s.lane a) (s.lane ln)
    if s.det && s.lanes.any (fun p => same p.1 && laneReady d u p.1 p.2 && !laneTries d u p.1 p.2) then [] else live.filter same

/-- The lanes of the bundle that runs in deterministic mode (R277). -/
def pathTaken (d : Dev) (u : Nat) (lns : List Nat) : Dev := if (squadOf d u).det then setSquad d u fun s => { s with path := lns } else d

/-- A lane takes its held imprecise cause: TEPC = THDR = REGE (R247, R315). -/
def takeImprecise (u : Nat) (d : Dev) (ln : Nat) : Dev :=
  let l := laneOf d u ln
  match l.due with
  | none => d
  | some i => trapTo (setLane d u ln fun l => { l with imps := l.imps.erase i }) u ln i.code.toNat i.tval l.rege l.rege false true

/-- Trap every lane of a list with one cause. -/
def trapLanes (d : Dev) (u : Nat) (lns : List Nat) (c : Cause) (tv : DWord) : Dev :=
  settleClaims (trapAll d u (lns.map fun ln => (ln, c, tv))) u

/-- TVAL of a word that is no instruction (R46). A literal that is missing where the form requires one fails before the slots and names MOD; of several
descriptors that fail in the word itself one is named, before any that fails only against the squad's state. DESIGN CHOICE, log 47. -/
def badTval (d : Dev) (b : Bad) : DWord :=
  match b with
  | .opc => 0
  | .mod => tvField 1 0
  | .lit => tvField 1 0
  | .hnt => tvField 2 0
  | .slots vs => pickSlot d.tick 0 ((vs.filter fun v => !v.ok).map fun v => (v.code.toNat, v.desc))

/-- A bundle reaches a word that is no instruction: each lane whose guard holds traps, the others go on (R13, R45). A flag selection with no valid flag comes
before a descriptor that fails. -/
def badWord (d : Dev) (u : Nat) (lns : List Nat) (x : BitVec 96) (b : Bad) : Dev :=
  let s := squadOf d u
  let g := wbits x 10 4
  let go := lns.filter fun ln => (s.lane ln).qbit (g.toNat % 8) ^^ g.getLsbD 3
  let noFlag := fun ln =>
    let c := (s.lane ln).clause
    (wbits x 16 2 == 1#2 && !c.seta.valid) || (wbits x 16 2 == 2#2 && !c.setb.valid)
  let tv := fun ln => match b with
    | .slots _ => if noFlag ln then badTval d .hnt else badTval d b
    | _ => badTval d b
  settleClaims (trapAll (advanceAll d u (lns.filter fun ln => !go.contains ln)) u (go.map fun ln => (ln, 0x01, tv ln))) u

/-- What a bundle does at its turn: an instruction to execute with the bundle at hand, or an effect that is done. -/
inductive Ready
  | run (i : Instr) (d : Dev)
  | done (d : Dev)

/-- Lanes that resume after reactivation read their header again (R37); a fault of that fetch has TEPC = TVAL = the header's address (R47). -/
def reloadClause (d : Dev) (u : Nat) (lns : List Nat) : Except Dev Dev :=
  match lns with
  | [] => .ok d
  | a :: _ =>
    let l := laneOf d u a
    if l.hofs = 0 then .ok (setSquad d u fun s => lns.foldl (fun s ln => s.setLane ln fun l => { l with reload := false }) s)
    else
      let h := l.hdr.toNat
      let tv : DWord := tvHeader h
      match headerAt d (fetcherOf d u a) h with
      | (d, .fault c) => .error (settleClaims (lns.foldl (fun d ln => trapTo d u ln c (BitVec.ofNat 64 h) l.hdr l.hdr false false) d) u)
      | (d, .bad) => .error (trapLanes d u lns 0x01 tv)
      | (d, .ok i) =>
        let cl := clauseOf i
        if cl.len < l.hofs then .error (trapLanes d u lns 0x01 tv)
        else .ok (setSquad d u fun s =>
          lns.foldl (fun s ln => s.setLane ln fun l => { l with reload := false, clause := cl, recheck := true }) s)

/-- Get a bundle's word: the header of a clause it enters (R34), or the instruction at its PC (R45, R47). -/
def fetchFor (d : Dev) (u : Nat) (lns : List Nat) (a : Nat) : Ready :=
  let l := laneOf d u a
  if l.hofs = 0 then
    match headerAt d (fetcherOf d u a) l.pc.toNat with
    | (d, .ok i) => .run i { d with cur := some ⟨u, lns⟩ }
    | (d, .bad) => .done (trapLanes d u lns 0x01 (tvHeader l.pc.toNat))
    | (d, .fault c) => .done (trapLanes d u lns c (l.pc.setWidth 64))
  else
    match fetchInstr d (fetcherOf d u a) l.pc.toNat with
    | (d, .error c) => .done (trapLanes d u lns c (l.pc.setWidth 64))
    | (d, .ok x) =>
      match decodeBody x with
      | .ok i => .run i { d with cur := some ⟨u, lns⟩ }
      | .error b => .done (badWord d u lns x b)

/-- Those of a bundle's lanes that must wait for their clause's WAIT mask again (R37); the others, of the first one's clause, go on. In deterministic mode
the bundle waits for all of them (R277). -/
def waitAgain (d : Dev) (u : Nat) (lns : List Nat) : Dev × List Nat :=
  let s := squadOf d u
  let back := lns.filter fun ln => (s.lane ln).recheck
  if back.isEmpty then (d, lns)
  else
    let late := back.filter fun ln => !s.waitClear (s.lane ln).clause.wait
    let d := setSquad d u fun s => back.foldl (fun s ln => if late.contains ln then s else s.setLane ln fun l => { l with recheck := false }) s
    if !late.isEmpty && s.det then (holdLanes d u .hold lns, [])
    else
      let go := lns.filter fun ln => !late.contains ln
      (holdLanes d u .hold late, go.filter fun ln => (s.lane ln).clause == (s.lane (go.headD 0)).clause)

/-- A bundle's turn: lanes with an imprecise cause take it first (R315), lanes that resume in the middle of a clause find their header and wait for its
flags (R37). -/
def bundleTurn (d : Dev) (u : Nat) (ask : List Nat) : Ready :=
  let s := squadOf d u
  if !mayIssue d u s || !detTurn d u s then .done d
  else
    let lns := formBundle d u ask
    match lns with
    | [] => .done (if canRun d u then d else detPass d u)
    | a :: _ =>
      let d := pathTaken d u lns
      let due := lns.filter fun ln => (s.lane ln).due.isSome
      if !due.isEmpty then .done (settleClaims (due.foldl (takeImprecise u) d) u)
      else match reloadClause d u (lns.filter fun ln => (s.lane ln).reload) with
        | .error d => .done d
        | .ok d =>
          if (s.lane a).hofs = 0 then fetchFor d u lns a
          else match waitAgain d u lns with
            | (d, []) => .done d
            | (d, b :: rest) => fetchFor d u (b :: rest) b

/-- The turn at hand and the machine without it: the next one listed, else the one Config names. DESIGN CHOICE, log 1. -/
def takeTurn (d : Dev) : Turn × Dev :=
  match d.turns with
  | t :: ts => (t, { d with turns := ts, tick := d.tick + 1 })
  | [] => (Config.turn d.tick, { d with tick := d.tick + 1 })

/-! ### Placing an instruction for the next step -/

/-- The address at which an instruction is placed. -/
def placePc : Nat := 65536

/-- Whether placed words begin with a clause header. -/
def placeHeader (w : Nat) : Bool := w % 1024 == 0x3FF

/-- A squad of one lane on core 0, in H mode, that stands at the placed word: at its header, or in a clause of one instruction whose flags
f0 and f1 are selected. It holds its extended block and every register reads +0. -/
def placeSquad (w : Nat) : Squad :=
  { ctx := 131072, asid := 0, vmid := 0, state := .ready, res := .in_, onChip := true, core := 0, ext := true, group := 2,
    privl := 4096, privb := 0x100000,
    lanes := [(0, { pc := BitVec.ofNat 54 (if placeHeader w then placePc else placePc + 12), mode := .h,
                    hofs := if placeHeader w then 0 else 1,
                    clause := { len := 1, seta := ⟨true, 0⟩, setb := ⟨true, 1⟩ }, vc := [(tidOf 1 0, 1)] })] }

/-- The group of that squad. -/
def placeGroup : Group :=
  { members := [1], cap := 1, unif := 1024, scr := 4096, base := some 0, tls := [], state := .live }

/-- A word of a timing class (R43), for the body that a placed header's CLS must match (R34): NOP, IMUL, IMUL64 and IDIV. -/
def placeBody (cls : Nat) : Nat :=
  if cls = 0 then 0xE000E000E000E00000000006
  else if cls = 1 then 0xE00000000000000001C00083
  else if cls = 2 then 0xE00000000000000002000091
  else 0xE00000000000000000C00087

/-- Put a word's 32-bit parts in core 0's fetch cache. -/
def putFetch (m : FMap Word) (a w : Nat) : FMap Word :=
  (upto 3).foldl (fun m i => fput m (fetchKey 0 (a + 4 * i)) (BitVec.ofNat 32 (w / 2 ^ (32 * i)))) m

/-- Place the bits of an instruction where the next step fetches: in core 0's fetch cache, at a page that its translation buffer holds as
executable, with a squad at that word and the squad's turn next. Behind a header stands a body of its length and class, which its entry checks. DESIGN CHOICE, log 6. -/
def placeWord (d : Dev) (w : Nat) : Dev :=
  let a := if placeHeader w then placePc else placePc + 12
  let f := putFetch d.fetch a w
  { d with
    fetch := if placeHeader w then (upto (w / 1024 % 16)).foldl (fun m i => putFetch m (a + 12 + 12 * i) (placeBody (w / 2 ^ 54 % 4))) f else f
    tlb := fput d.tlb d.fresh ⟨0, 0, 0, 65536, 65536, 65536, true, true, true, false, false⟩
    fresh := d.fresh + 4
    squads := fput d.squads 1 (placeSquad w)
    groups := fput d.groups 2 placeGroup
    turns := .issue 1 [0] :: d.turns }

end Sys2Proof.Machine
end

