-- ==== Sys2Proof/Machine/Sequencer.lean ====
section
/-! DEFINITION. Fork sequencers: the words of an engine program and what each does (R186, R364, R392). -/
namespace Sys2Proof.Machine

/-- What a sequencer's word does to it: it goes on, goes to a header, waits, ends, or faults. -/
inductive SeqRes
  | next (d : Dev)
  | jump (d : Dev) (pc : Nat)
  | wait (d : Dev)
  | stop (d : Dev)
  | fault (d : Dev) (c : Cause) (tv : Nat)

/-- Who fetches for a sequencer. -/
def Sequencer.fetcher (q : Sequencer) : Fetcher := ⟨q.core, q.vmid, q.asid, !q.priv⟩

/-- A sequencer's squad is one of a deterministic work item. -/
def seqDet (d : Dev) (q : Sequencer) : Bool :=
  (squadOf d q.sq).det || match (groupOf d q.grp).item with
    | some i => (itemOf d i).det
    | none => false

/-- A sequencer as the one lane that issues its commands (R186). -/
def seqEnv (d : Dev) (q : Sequencer) : Env :=
  { sq := q.sq, g := groupOf d q.grp, core := q.core, tick := d.tick, pc := q.pc
    s := { asid := q.asid, vmid := q.vmid, core := q.core, group := q.grp, det := seqDet d q
           sqidx := (squadOf d q.sq).sqidx, ctx := (squadOf d q.sq).ctx
           lanes := [(q.lane, { mode := if q.priv then .s else .u, pc := q.pc, vc := q.vc })] } }

/-- An operand of an engine program (R186). -/
def seqOpnd : Opnd → Bool
  | .w _ _ _ _ | .imm _ | .lit _ | .none => true
  | _ => false

/-- A form of an engine program. -/
def seqForm : Form → Bool
  | .bra | .nop | .exit | .cpy | .tlsig | .tlwait | .wpwait | .xform | .mma | .mmad | .mzero => true
  | _ => false

/-- A form whose FD is a source: that of MZERO is the w register that R197 gives it. DESIGN CHOICE, log 56. -/
def seqFdSource : Form → Bool
  | .mma | .mmad | .mzero => true
  | _ => false

/-- A word may stand in an engine program (R186), and names w registers that the group has (R106). -/
def seqWordOk (e : Env) (r : Raw) : Bool :=
  seqForm r.form && r.h.grd == 0 && (slotsOf r).all (fun p => seqOpnd p.2.1 && !slotIllegal e.s e.g p.2.1 p.2.2) &&
    (seqFdSource r.form || r.fd == .none)

/-- A check of a command decides whether a sequencer may issue it. -/
def seqChecked (d : Dev) (c : Chk) (go : SeqRes) : SeqRes :=
  match c with
  | .ok => go
  | .bad _ cause tv => .fault d cause tv.toNat
  | _ => .wait d

/-- A matrix command of a sequencer: it is on no timeline (R198). -/
def seqMatrix (d : Dev) (e : Env) (k ln : Nat) (kind : CmdKind) : SeqRes :=
  seqChecked d (matrixLaneChk (fun _ _ => kind) noPreChk d e ln)
    (if matrixFull d e.core kind then .wait d else .next (addMatrix d { mkCmd d e ln kind with seqr := some k } none))

/-- A wait of a sequencer: what it waits for is acquired (R175). -/
def seqWait (d : Dev) (cl k : Nat) (v : Option (Bool × Clock)) : SeqRes :=
  match v with
  | some (_, vc) => .next (setCluster d cl fun c => { c with seqs := fmod c.seqs k fun q => { q with vc := vcJoin q.vc vc } })
  | none => .wait d

/-- A word of an engine program. -/
def seqWord (d : Dev) (cl k : Nat) (e : Env) (ln : Nat) (i : Instr) : SeqRes :=
  match i with
  | .nop _ => .next d
  | .exit _ => .stop d
  | .bra _ disp => .jump d (dispTarget e disp)
  | .cpy _ _ desc tl => seqChecked d (cpyChk desc d e ln)
      (if 64 ≤ copyQueue d e.core then .wait d
      else
        let ds := readBlock e ln desc (if (copyOf (readBlock e ln desc 8)).fmma then 16 else 8)
        .next (addCopy d { cpyCmd d e ln ds with seqr := some k } ds (tlIdx tl)))
  | .tlsig _ sc _ tl => .next (settleSignals (addCmd d { mkCmd d e ln (.tlsig sc) with seqr := some k } (some (tlIdx tl))))
  | .tlwait _ _ _ tl n => seqWait d cl k (tlwaitVal (e.g.tl (tlIdx tl)) (readN64 e ln n))
  | .wpwait _ _ tl c nb => seqWait d cl k (wpwaitVal d e.s.group (tlIdx tl) (readN64 e ln c) (readN32 e ln nb))
  | .xform _ _ desc tl => seqChecked d (xformChk desc d e ln)
      (if 64 ≤ transQueue d cl then .wait d
      else
        let ds := readBlock e ln desc 8
        .next (addXform d { xformCmd d e ln ds with seqr := some k } ds (tlIdx tl)))
  | .mma _ _ _ c a b => seqMatrix d e k ln (.mma false 0 (readN32 e ln c) (readN32 e ln a) (readN32 e ln b))
  | .mmad _ _ _ dd a b c => seqMatrix d e k ln (.mma true (readN32 e ln dd) (readN32 e ln c) (readN32 e ln a) (readN32 e ln b))
  | .mzero _ _ _ arr c => seqMatrix d e k ln (.mzero (readN32 e ln c) (if arr then 1 else 0))
  | _ => .fault d 0x01 0

/-- Change a sequencer. -/
def setSeq (d : Dev) (cl k : Nat) (f : Sequencer → Sequencer) : Dev := setCluster d cl fun c => { c with seqs := fmod c.seqs k f }

/-- A sequencer goes to an address, which must be a clause header; there it waits for no flag, and its words release none. DESIGN CHOICE, log 56. -/
def seqGoto (d : Dev) (cl k : Nat) (q : Sequencer) (a : Nat) : Dev :=
  if a ≥ 2 ^ 54 then seqFault d cl k 0x01 (tvHeader a).toNat
  else match headerAt d q.fetcher a with
  | (d, .fault c) => seqFault d cl k c a
  | (d, .bad) => seqFault d cl k 0x01 (tvHeader a).toNat
  | (d, .ok i) => setSeq d cl k fun q => { q with pc := BitVec.ofNat 54 (a + 12), hdr := BitVec.ofNat 54 a, left := (clauseOf i).len.toNat, wait := false }

/-- The word after a sequencer's: within its clause, or the next header. -/
def seqAdvance (q : Sequencer) : Sequencer := { q with pc := q.pc + 12, left := q.left - 1, wait := false }

/-- A sequencer issues its next word, unless the pre-emption or the kill of its group stops it (R186, R364, R392). -/
def seqTurn (d : Dev) (cl k : Nat) : Dev :=
  match fget (clusterOf d cl).seqs k with
  | none => d
  | some q =>
    let g := groupOf d q.grp
    if q.quit.isSome || (clusterOf d cl).fatal then d
    else if g.killed then seqEnd d cl k true
    else if groupHalted d q.grp then d
    else if q.left = 0 then seqGoto d cl k q q.pc.toNat
    else match fetchInstr d q.fetcher q.pc.toNat with
    | (d, .error c) => seqFault d cl k c q.pc.toNat
    | (d, .ok x) =>
      match decodeBody x with
      | .error b => seqFault d cl k 0x01 (badTval d b).toNat
      | .ok i =>
        let e := seqEnv d q
        if !seqWordOk e (rawOf i) then seqFault d cl k 0x01 0
        else match seqWord d cl k e q.lane i with
        | .next d => setSeq d cl k seqAdvance
        | .jump d a => seqGoto d cl k q a
        | .wait d => setSeq d cl k fun q => { q with wait := true }
        | .stop d => seqEnd d cl k false
        | .fault d c tv => seqFault d cl k c tv

end Sys2Proof.Machine
end

