-- ==== Sys2Proof/Machine/Sampler.lean ====
section
/-! DEFINITION. The sampler (R204 to R216, R325 to R346): headers, footprints, filtering and the perceptron, header copies, texel lines and the weight
cache, and their events. -/
namespace Sys2Proof.Machine

/-! ### Headers (R205 to R208) -/

/-- MODE. -/
def hdMode (b : List Byte) : Nat := fieldAt b 2 1
/-- WIDTH, or GW. -/
def hdWidth (b : List Byte) : Nat := fieldAt b 4 2
/-- HEIGHT, or GH. -/
def hdHeight (b : List Byte) : Nat := fieldAt b 6 2
/-- LAYERS. -/
def hdLayers (b : List Byte) : Nat := fieldAt b 8 2
/-- LEVELS. -/
def hdLevels (b : List Byte) : Nat := fieldAt b 10 1
/-- FILT. -/
def hdFilt (b : List Byte) (i : Nat) : Bool := nbits (fieldAt b 11 1) i 1 == 1
/-- WRAP: byte 12 of a conventional header, byte 9 of a neural one. -/
def hdWrap (b : List Byte) : Nat := fieldAt b (if hdMode b = 0 then 12 else 9) 1
/-- VERSION. -/
def hdVersion (b : List Byte) : Nat := fieldAt b 14 2
/-- BASE. -/
def hdBase (b : List Byte) : Nat := fieldAt b 16 8
/-- WBASE. -/
def hdWbase (b : List Byte) : Nat := fieldAt b 24 8
/-- NFEAT. -/
def hdFeat (b : List Byte) : Nat := fieldAt b 8 1
/-- NL. -/
def hdNl (b : List Byte) : Nat := fieldAt b 32 1
/-- N of a layer. -/
def hdN (b : List Byte) (i : Nat) : Nat := fieldAt b (33 + i) 1
/-- WSCALE of a layer. -/
def hdWscale (b : List Byte) (l : Nat) : Nat := fieldAt b (36 + l) 1
/-- A format byte of a header. -/
def hdFmt (b : List Byte) (i : Nat) : Fmt := fmtAt (fieldAt b i 1)

/-- A binary8 code. -/
def isB8 (c : Nat) : Bool := decide (32 ≤ c) && decide (c < 64) && c % 8 != 0
/-- WRAP holds no reserved value. -/
def wrapOk (w : Nat) : Bool := w % 4 != 3 && w / 4 % 4 != 3 && w / 16 == 0
/-- A field lies in a range. -/
def inRange (x lo hi : Nat) : Bool := decide (lo ≤ x) && decide (x ≤ hi)

/-- A conventional header obeys R205. -/
def hdConv (b : List Byte) : Bool :=
  fieldAt b 0 2 == 1 && hdMode b == 0 && inRange (fieldAt b 3 1) 1 5 && inRange (hdWidth b) 1 16384 && inRange (hdHeight b) 1 16384 &&
    inRange (hdLayers b) 1 2048 && inRange (hdLevels b) 1 15 && decide (fieldAt b 11 1 < 4) && wrapOk (hdWrap b) && zeroAt b 13 1 &&
    hdBase b % 16 == 0 && zeroAt b 36 28

/-- A neural header obeys R206. -/
def hdNeural (b : List Byte) : Bool :=
  let nl := hdNl b
  fieldAt b 0 2 == 1 && hdMode b == 1 && isB8 (fieldAt b 3 1) && inRange (hdWidth b) 1 16384 && inRange (hdHeight b) 1 16384 &&
    inRange (hdFeat b) 1 8 && wrapOk (hdWrap b) && ([10, 11].all fun i => fieldAt b i 1 == 0x0E || isB8 (fieldAt b i 1)) &&
    decide (fieldAt b 12 1 ≤ 1) && decide (fieldAt b 13 1 ≤ 2) && hdWbase b % 128 == 0 && inRange nl 1 3 && hdN b 0 == hdFeat b &&
    ((upto 4).all fun i => if i ≤ nl then inRange (hdN b i) 1 32 else hdN b i == 0) && decide (hdN b nl ≤ 4) &&
    ((upto 4).all fun l => l ≤ nl || hdWscale b l == 0) && zeroAt b 40 24

/-- A header serves a kind of request (R207, R332). -/
def hdOk (k : SKind) (b : List Byte) : Bool :=
  match k with
  | .smpn | .pin => hdNeural b
  | .unpin => hdConv b || hdNeural b
  | _ => hdConv b

/-- TB of a texel format (R208). -/
def texelBytes (b : List Byte) : Nat :=
  match fieldAt b 3 1 with
  | 1 => 4
  | 2 => 8
  | 3 => 16
  | 4 => 2
  | _ => 4

/-- The four channels of a texel (R208). -/
def texelCodes (b : List Byte) (t : List Byte) : List Word :=
  let w := fun (x : DWord) => x.setWidth 32
  let half := fun (i : Nat) => w (convertTy .f16 .f32 .rne false 0 (BitVec.ofNat 64 (fieldAt t (2 * i) 2))).1
  match fieldAt b 3 1 with
  | 1 => (upto 4).map fun i => if fieldAt t i 1 = 0 then 0 else w (ratRound .f32 .rne false false (fieldAt t i 1, 255)).1
  | 2 => (upto 4).map half
  | 3 => (upto 4).map fun i => BitVec.ofNat 32 (fieldAt t (4 * i) 4)
  | 4 => [half 0, 0, 0, 0x3F800000]
  | _ => [BitVec.ofNat 32 (fieldAt t 0 4), 0, 0, 0x3F800000]

/-! ### Coordinates (R209, R211) -/

/-- The value of an f32 word. -/
def fvOf (w : Word) : FV := decTy .f32 w.toNat
/-- A whole number as a value. -/
def intFV (k : Int) : FV := .fin (decide (k < 0)) k.natAbs 0
/-- A coordinate, 0 where it is NaN or infinite. -/
def coordOf (w : Word) : FV :=
  match fvOf w with
  | .fin n m e => .fin n m e
  | _ => .fin false 0 0
/-- Round to f32 by RNE. -/
def round32 (sat : Bool) (x : FV) : FV := decTy .f32 (roundTy .f32 .rne sat 0 x).1.toNat
/-- floor of a finite value. -/
def floorFV : FV → Int
  | .fin n m e => (roundInt .rdn 0 n m e).1
  | _ => 0
/-- An exact sum. -/
def addFV (a b : FV) : FV := (sumFV .rne [some a, some b]).1
/-- An exact product, NaN where it is invalid. -/
def prodFV (a b : FV) : FV := (mulFV a b).getD (.nan false)

/-- Wrap (R209). -/
def wrapIdx (i : Int) (n m : Nat) : Nat :=
  match m with
  | 0 => (i % (n : Int)).toNat
  | 1 => (min (max i 0) ((n : Int) - 1)).toNat
  | _ =>
    let j := (i % (2 * (n : Int))).toNat
    if j < n then j else 2 * n - 1 - j

/-- Near (R209). -/
def nearIdx (s : Word) (n m : Nat) : Nat := wrapIdx (floorFV (round32 true (prodFV (coordOf s) (intFV n)))) n m

/-- Axis (R209). -/
def axisOf (s : Word) (n m : Nat) : Nat × Nat × FV :=
  let x := round32 true (addFV (prodFV (coordOf s) (intFV n)) (.fin true 1 (-1)))
  let x0 := floorFV x
  (wrapIdx x0 n m, wrapIdx (x0 + 1) n m, addFV x (intFV (-x0)))

/-- Lerp (R209), of f32 words. -/
def lerp (a b : Word) (f : FV) : Word :=
  (roundTy .f32 .rne false 0 (addFV (fvOf a) (prodFV f (addFV (fvOf b) (negFV (fvOf a)))))).1.setWidth 32

/-- The bilinear blend of four words. -/
def bilerp (fx fy : FV) (t : List Word) : Word :=
  lerp (lerp (t.getD 0 0) (t.getD 1 0) fx) (lerp (t.getD 2 0) (t.getD 3 0) fx) fy

/-- An input word of a lane. -/
def SReq.input (r : SReq) (ln i : Nat) : Word := (fgetD r.lanes ln []).getD i 0

/-- The difference of a coordinate across a quad (R211): of the first pair of lanes that both participate. -/
def quadDiff (r : SReq) (c : Nat) (ps : List (Nat × Nat)) : FV :=
  match ps.find? fun p => (fget r.lanes (4 * r.quad + p.1)).isSome && (fget r.lanes (4 * r.quad + p.2)).isSome with
  | some p => round32 false (addFV (fvOf (r.input (4 * r.quad + p.2) c)) (negFV (fvOf (r.input (4 * r.quad + p.1) c))))
  | none => .fin false 0 0

/-- The magnitude of a value. -/
def absFV : FV → FV
  | .fin _ m e => .fin false m e
  | .inf _ => .inf false
  | x => x

/-- The larger of two values, a number before NaN (R142). -/
def maxFV (a b : FV) : FV := if a.isNan then b else if b.isNan then a else if cmpFV a b < 0 then b else a

/-- LodOf (R211). -/
def lodOf (r : SReq) (b : List Byte) : FV :=
  let w := intFV (hdWidth b)
  let h := intFV (hdHeight b)
  let term := fun (c : Nat) (ps : List (Nat × Nat)) (k : FV) => round32 false (prodFV (absFV (quadDiff r c ps)) k)
  let xs : List (Nat × Nat) := [(0, 1), (2, 3)]
  let ys : List (Nat × Nat) := [(0, 2), (1, 3)]
  let m := maxFV (maxFV (term 0 xs w) (term 1 xs h)) (maxFV (term 0 ys w) (term 1 ys h))
  decTy .f32 (flg2Val false m).1.toNat

/-- A level of detail clamped to the header's levels; NaN gives 0 (R210). -/
def clampLod (b : List Byte) (x : FV) : FV :=
  let top := intFV ((hdLevels b : Int) - 1)
  if x.isNan || cmpFV x (intFV 0) < 0 then intFV 0 else if cmpFV top x < 0 then top else x

/-- lam of a lane (R210). -/
def lamOf (r : SReq) (b : List Byte) (ln : Nat) : FV :=
  clampLod b (match r.kind with
    | .smpl => fvOf (r.input ln 3)
    | _ => lodOf r b)

/-! ### Footprints (R205, R206, R210, R212) -/

/-- Wl and Hl. -/
def levelW (b : List Byte) (l : Nat) : Nat := max 1 (hdWidth b / 2 ^ l)
/-- Hl. -/
def levelH (b : List Byte) (l : Nat) : Nat := max 1 (hdHeight b / 2 ^ l)

/-- The layer of a lane (R210). -/
def layerOf (b : List Byte) (w : Word) : Nat :=
  let top : Int := hdLayers b - 1
  if hdLayers b = 1 then 0
  else match fvOf w with
    | .nan _ => 0
    | .inf n => if n then 0 else top.toNat
    | .fin n m e => (min (max (roundInt .rne 0 n m e).1 0) top).toNat

/-- Where a texel lies (R205), modulo 2^64. -/
def texelAddr (b : List Byte) (a l x y : Nat) : Nat :=
  (hdBase b + l * fieldAt b 28 4 + a * fieldAt b 32 4 + y * max (texelBytes b) (fieldAt b 24 4 / 2 ^ l) + x * texelBytes b) % 2 ^ 64

/-- Both axes at a level. -/
def axesAt (r : SReq) (b : List Byte) (ln l : Nat) : (Nat × Nat × FV) × (Nat × Nat × FV) :=
  (axisOf (r.input ln 0) (levelW b l) (hdWrap b % 4), axisOf (r.input ln 1) (levelH b l) (hdWrap b / 4 % 4))

/-- The four points of a bilinear sample, in the order of R210. -/
def quadPts (p : (Nat × Nat × FV) × (Nat × Nat × FV)) : List (Nat × Nat) :=
  [(p.1.1, p.2.1), (p.1.2.1, p.2.1), (p.1.1, p.2.2.1), (p.1.2.1, p.2.2.1)]

/-- The points of Sample at a level (R210). -/
def samplePts (r : SReq) (b : List Byte) (ln l : Nat) : List (Nat × Nat) :=
  if hdFilt b 0 then quadPts (axesAt r b ln l)
  else [(nearIdx (r.input ln 0) (levelW b l) (hdWrap b % 4), nearIdx (r.input ln 1) (levelH b l) (hdWrap b / 4 % 4))]

/-- floor (x * 2^16) of a fraction. -/
def frac16 (x : FV) : Nat := (floorFV (scaleFV x 16)).toNat

/-- l0 and g of a level of detail. -/
def lodParts (x : FV) : Nat × FV := ((floorFV x).toNat, addFV x (intFV (-(floorFV x))))

/-- The levels SMP and SMPL sample (R210). -/
def levelsOf (r : SReq) (b : List Byte) (ln : Nat) : List Nat :=
  let lam := lamOf r b ln
  if hdFilt b 1 then [(lodParts lam).1, min ((lodParts lam).1 + 1) (hdLevels b - 1)]
  else [(floorFV (addFV lam (.fin false 1 (-1)))).toNat]

/-- The texel SMPS reads: its level and place (R210). -/
def smpsPoint (r : SReq) (b : List Byte) (ln : Nat) : Nat × Nat × Nat :=
  let ctr := pairOf (r.input ln 4) (r.input ln 5)
  let d := (mix (r.input ln 3) 0 ctr).toNat
  let e := (mix (r.input ln 3) 1 ctr).toNat
  let lam := lamOf r b ln
  let p := lodParts lam
  let l := if hdFilt b 1 then (if e % 65536 < frac16 p.2 then p.1 + 1 else p.1) else (floorFV (addFV lam (.fin false 1 (-1)))).toNat
  let q := axesAt r b ln l
  (l, if d % 65536 < frac16 q.1.2.2 then q.1.2.1 else q.1.1, if d / 65536 < frac16 q.2.2.2 then q.2.2.1 else q.2.1)

/-- The axes of a latent grid. -/
def gridAxes (r : SReq) (b : List Byte) (ln : Nat) : (Nat × Nat × FV) × (Nat × Nat × FV) :=
  (axisOf (r.input ln 0) (hdWidth b) (hdWrap b % 4), axisOf (r.input ln 1) (hdHeight b) (hdWrap b / 4 % 4))

/-- The ranges a lane's footprint names, in order (R210, R212, R333). -/
def footprint (r : SReq) (b : List Byte) (ln : Nat) : List (Nat × Nat) :=
  let a := layerOf b (r.input ln 2)
  let tex := fun (l : Nat) (p : Nat × Nat) => (texelAddr b a l p.1 p.2, texelBytes b)
  match r.kind with
  | .smp | .smpl => ((levelsOf r b ln).map fun l => (samplePts r b ln l).map (tex l)).flatten
  | .smpg _ => (quadPts (axesAt r b ln 0)).map (tex 0)
  | .smps => let p := smpsPoint r b ln; [tex p.1 p.2]
  | .smpn => (quadPts (gridAxes r b ln)).map fun p => ((hdBase b + (p.2 * hdWidth b + p.1) * hdFeat b) % 2 ^ 64, hdFeat b)
  | _ => []

/-- The lines of a range. -/
def linesIn (p : Nat × Nat) : List Nat := (upto ((p.1 % 128 + p.2 + 127) / 128)).map fun i => p.1 / 128 + i

/-- The lines a request needs. -/
def SReq.need (r : SReq) : List Nat :=
  match r.copy with
  | some b => (((fkeys r.lanes).map fun ln => ((footprint r b ln).map linesIn).flatten).flatten).eraseDups
  | none => []

/-- A line is found, or is known to fault. -/
def SReq.hasLine (r : SReq) (l : Nat) : Bool := (fget r.lines l).isSome || (fget r.bads l).isSome

/-- The bytes of a range from the lines found. -/
def SReq.bytes (r : SReq) (p : Nat × Nat) : List Byte :=
  (upto p.2).map fun i => (fgetD r.lines ((p.1 + i) / 128) []).getD ((p.1 + i) % 128) 0

/-! ### Results (R210, R212) -/

/-- The channel-wise blend of texels at a level. -/
def sampleOut (r : SReq) (b : List Byte) (ln l : Nat) (ts : List (List Word)) : List Word :=
  if hdFilt b 0 then
    let p := axesAt r b ln l
    (upto 4).map fun c => bilerp p.1.2.2 p.2.2.2 (ts.map fun t => t.getD c 0)
  else ts.getD 0 []

/-- What a conventional form writes (R210). -/
def texOut (r : SReq) (b : List Byte) (ln : Nat) : List Word :=
  let ts := (footprint r b ln).map fun p => texelCodes b (r.bytes p)
  match r.kind with
  | .smpg ch => ts.map fun t => t.getD ch 0
  | .smps => ts.getD 0 []
  | _ =>
    match levelsOf r b ln with
    | [l0, l1] =>
      let k := ts.length / 2
      let x := sampleOut r b ln l0 (ts.take k)
      let y := sampleOut r b ln l1 (ts.drop k)
      (upto 4).map fun c => lerp (x.getD c 0) (y.getD c 0) (lodParts (lamOf r b ln)).2
    | l :: _ => sampleOut r b ln l ts
    | [] => []

/-- Bytes of a layer's weights, padded (R325). -/
def wArea (b : List Byte) (l : Nat) : Nat := ((hdN b l * hdN b (l - 1) * (hdFmt b 11).wid + 7) / 8 + 15) / 16 * 16
/-- Bytes of a layer's biases, padded (R325). -/
def bArea (b : List Byte) (l : Nat) : Nat := (2 * hdN b l + 15) / 16 * 16
/-- Where layer l lies from WBASE; past the last layer, the length of the range (R325). -/
def layerOff (b : List Byte) (l : Nat) : Nat := (upto (l - 1)).foldl (fun n i => n + wArea b (i + 1) + bArea b (i + 1)) 0
/-- The length of the weight range. -/
def weightLen (b : List Byte) : Nat := layerOff b (hdNl b + 1)

/-- A weight with its layer's scale (R212). -/
def weightVal (b w : List Byte) (l o i : Nat) : FV :=
  let v := decFmt (hdFmt b 11) (elemCode (fun y => w.getD (layerOff b l + y) 0) (hdFmt b 11).wid (o * hdN b (l - 1) + i))
  if hdWscale b l = 255 then .nan false else scaleFV v ((hdWscale b l : Int) - 127)

/-- Output o of a layer before its activation (R212). -/
def neuron (b w : List Byte) (l : Nat) (ins : List FV) (o : Nat) : Word :=
  let sm := blockSum ((upto (hdN b (l - 1))).map fun i => mulFV (weightVal b w l o i) (ins.getD i (intFV 0)))
  let bias := decTy .f16 (fieldAt w (layerOff b l + wArea b l + 2 * o) 2)
  (sumRound .f32 .rne false 0 [some (decTy .f32 sm), some bias]).1.setWidth 32

/-- Convert to the dot array's input format (R212). -/
def toInput (b : List Byte) (x : FV) : FV := decFmt (hdFmt b 10) (roundFmt (hdFmt b 10) .rne true 0 x).1

/-- The hidden activation (R212). -/
def activate (b : List Byte) (y : Word) : FV :=
  let v := fvOf y
  if fieldAt b 12 1 = 1 && !v.isNan && (v.neg || v.isZero) then .fin false 0 0 else v

/-- Clamp to [0, 1]; NaN gives +0. -/
def clamp01 (y : Word) : Word :=
  let v := fvOf y
  if v.isNan || cmpFV v (intFV 0) ≤ 0 then 0 else if 0 ≤ cmpFV v (intFV 1) then 0x3F800000 else y

/-- Map (R212). -/
def mapOut (b : List Byte) (y : Word) : Word :=
  match fieldAt b 13 1 with
  | 0 => y
  | 1 => clamp01 y
  | _ => clamp01 ((sumRound .f32 .rne false 0 [mulFV (fvOf y) (.fin false 1 (-1)), some (.fin false 1 (-1))]).1.setWidth 32)

/-- The hidden layers below the last. -/
def hidden (b w : List Byte) (ins : List FV) (l : Nat) : List FV :=
  (upto (hdN b l)).map fun o => toInput b (activate b (neuron b w l ins o))

/-- What SMPN writes (R212). -/
def neuralOut (r : SReq) (b w : List Byte) (ln : Nat) : List Word :=
  let cells := (footprint r b ln).map r.bytes
  let p := gridAxes r b ln
  let feat := fun (i : Nat) => cells.map fun c => (roundTy .f32 .rne false 0 (decFmt (hdFmt b 3) (fieldAt c i 1))).1.setWidth 32
  let ins := (upto (hdFeat b)).map fun i => toInput b (fvOf (bilerp p.1.2.2 p.2.2.2 (feat i)))
  let top := hdNl b
  let ins := (upto (top - 1)).foldl (fun x i => hidden b w x (i + 1)) ins
  (upto 4).map fun o => if o < hdN b top then mapOut b (neuron b w top ins o) else 0

/-! ### The caches (R331, R334 to R340) -/

/-- A header in an address space. -/
def hdrKey (vmid : BitVec 12) (asid : BitVec 16) (va : Nat) : Nat := (vmid.toNat * 65536 + asid.toNat) * 18446744073709551616 + va
/-- The address of a header. -/
def keyVa (k : Nat) : Nat := k % 18446744073709551616

/-- A sampler as the reader of its fetches (R213): at `.l2`, in its squad's address space. -/
def fetchCmd (core : Nat) (user : Bool) (key : Nat) : Cmd :=
  { (default : Cmd) with core := core, priv := !user, asid := BitVec.ofNat 16 (key / 18446744073709551616)
                         vmid := BitVec.ofNat 12 (key / 1208925819614629174706176) }

/-- Read for a request. -/
def smpRead (d : Dev) (core : Nat) (user : Bool) (key va n : Nat) : Dev × Except (Cause × Nat) (List Byte) :=
  engRead d (fetchCmd core user key) .l2 va n

/-- What a fetch meets is recorded; an uncorrectable error leaves its line poisoned (R319). -/
def smpErr (d : Dev) (core : Nat) (user : Bool) (key va : Nat) (err : MemErr) : Dev :=
  match err with
  | .poison _ => poisonSrc (noteErr d core err) (fetchCmd core user key) 0 va .l2
  | _ => noteErr d core err

/-- A fetch that is refused gives no data. -/
def smpGot (err : MemErr) (va : Nat) (x : Except (Cause × Nat) (List Byte)) : Except (Cause × Nat) (List Byte) :=
  match err with
  | .refused => .error (0x0D, va)
  | _ => x

/-- The error is fatal to the cluster. -/
def isFatal : MemErr → Bool
  | .fatal _ => true
  | _ => false

/-- Change a request. -/
def setReq (d : Dev) (i : Nat) (f : SReq → SReq) : Dev := { d with reqs := fmod d.reqs i f }

/-- The lanes that still wait for a request. -/
def reqLanes (d : Dev) (i : Nat) (r : SReq) : List Nat :=
  (fkeys r.lanes).filter fun ln => match fget (squadOf d r.sq).lanes ln with
    | some l => l.wait == .sample i
    | none => false

/-- A lane of a request goes on behind its word, or, of a squad that was killed meanwhile, ends there (R392, R394). -/
def Squad.goOn (s : Squad) (ln : Nat) : Squad :=
  if (fget s.lanes ln).isSome then s.setLane ln Lane.advance else { s with exited := fmod s.exited ln Lane.advance }

/-- Log what a request has given lanes, as part of the instruction that made it (R250, R396). -/
def undoReq (r : SReq) (lns : List Nat) (wrows : NSet) (wpred : Bool) (before after : Dev) : Dev :=
  let a := squadOf before r.sq
  let b := squadOf after r.sq
  let moved := lns.filter fun ln => (b.lane ln).seq != (a.lane ln).seq && decide ((b.lane ln).depth ≤ (a.lane ln).depth)
  if !a.dbg || !b.dbg || (moved.isEmpty && !b.undo.any fun y => y.id == r.uid) then after
  else undoAdd after r.sq { id := r.uid, lanes := moved.map fun ln => (ln, a.lane ln), rows := rowChanges a b lns, wrows := wrows, wpred := wpred }

/-- A request ends: each waiting lane goes on by an effect. -/
def endReq (d : Dev) (i : Nat) (wpred : Bool) (f : Nat → Dev → Dev) : Dev :=
  match fget d.reqs i with
  | none => d
  | some r =>
    let lns := reqLanes d i r
    settle (undoReq r lns [] wpred d (lns.foldl (fun d ln => f ln d) { d with reqs := fdel d.reqs i })) r.sq

/-- Every executing lane of a request traps (R207, R213). -/
def trapReq (d : Dev) (i : Nat) (c : Cause) (tv : DWord) : Dev :=
  match fget d.reqs i with
  | none => d
  | some r => endReq d i false fun ln d => trapAt d r.sq ln c tv

/-- The key used least recently among those that may go. -/
def leastUsed (l : List (Nat × Nat)) : Option Nat :=
  (l.foldl (fun m p => match m with
    | none => some p
    | some q => if p.2 < q.2 then some p else some q) none).map (·.1)

/-- Keep a header copy, replacing the least recently used of 64 (R334). -/
def keepHdr (d : Dev) (core key : Nat) (bs : List Byte) : Dev :=
  setSampler d core fun s =>
    let m := if s.hdrs.length < 64 || (fget s.hdrs key).isSome then s.hdrs
      else match leastUsed (s.hdrs.map fun p => (p.1, p.2.used)) with
        | some k => fdel s.hdrs k
        | none => s.hdrs
    { s with hdrs := fput m key ⟨bs, d.tick⟩ }

/-- The texel lines of a sampler: header, line, last use. -/
def heldLines (s : Sampler) : List (Nat × Nat × Nat) := (s.lines.map fun p => p.2.map fun q => (p.1, q.1, q.2.used)).flatten

/-- A request in the queue of a core still needs a held line. -/
def lineNeeded (d : Dev) (core hdr line : Nat) : Bool := d.reqs.any fun p => p.2.core == core && p.2.hdr == hdr && p.2.need.contains line

/-- Room for one more line fill: the lines kept once the least recently used that no request needs is evicted, or none where all are needed or 64 fills
are in flight (R331, R336). A line in fill has its place. -/
def roomForLine (d : Dev) (core : Nat) : Option (FMap (FMap SLine)) :=
  let s := samplerOf d core
  let held := heldLines s
  if 64 ≤ s.fills.length then none
  else if held.length + s.fills.length < 512 then some s.lines
  else
    let free := held.filter fun x => !lineNeeded d core x.1 x.2.1
    match free.foldl (fun m x => match m with
        | none => some x
        | some y => if x.2.2 < y.2.2 then some x else some y) (none : Option (Nat × Nat × Nat)) with
    | some x => some (fset [] s.lines x.1 (fdel (fgetD s.lines x.1 []) x.2.1))
    | none => none

/-- Lines of an entry (R331). -/
def WEntry.len (w : WEntry) : Nat := (weightLen w.copy + 127) / 128
/-- The entry is in fill. -/
def WEntry.filling (w : WEntry) : Bool := w.bytes.isNone
/-- Lines of entries. -/
def entryLines (l : FMap WEntry) : Nat := l.foldl (fun n p => n + p.2.len) 0

/-- Evict entries until n lines and an entry are free (R338). -/
def evictFor (n : Nat) : Nat → FMap WEntry → Option (FMap WEntry)
  | 0, _ => none
  | k + 1, ws =>
    if entryLines ws + n ≤ 512 && ws.length < 64 then some ws
    else
      let idle := ws.filter fun p => !p.2.filling
      match (idle.find? fun p => p.2.stale).map (·.1) <|>
          leastUsed ((idle.filter fun p => p.2.pins == 0).map fun p => (p.1, p.2.used)) with
      | some v => evictFor n k (fdel ws v)
      | none => none

/-- Pinning an entry is refused (R215, R339). -/
def pinFull (s : Sampler) (w : WEntry) : Bool :=
  w.stale || w.pins == 255 || (w.pins == 0 && decide (256 < entryLines (s.weights.filter fun p => p.2.pins != 0) + w.len))

/-- A WCPIN ends (R215, R339): one more pin and 1, or 0. -/
def finishPin (d : Dev) (i : Nat) (r : SReq) (k : Nat) : Dev :=
  let s := samplerOf d r.core
  let ok := !r.stale && match fget s.weights k with
    | some w => !pinFull s w
    | none => false
  let d := if ok then setSampler d r.core fun s => { s with weights := fmod s.weights k fun w => { w with pins := w.pins + 1, used := d.tick } } else d
  endReq d i (r.dst != .none) fun ln d => setSquad d r.sq fun s => (s.write ln r.dst .none (if ok then 1 else 0)).setLane ln Lane.advance

/-- A WCUNP ends (R215). -/
def finishUnpin (d : Dev) (i : Nat) (r : SReq) (b : List Byte) : Dev :=
  let d := setSampler d r.core fun s => { s with weights := s.weights.map fun p =>
    (p.1, if p.2.hdr = r.hdr && p.2.ver = hdVersion b && !p.2.stale then { p.2 with pins := p.2.pins - 1 } else p.2) }
  endReq d i false fun ln d => advanceAll d r.sq [ln]

/-- The entry of a pennant that a request may use or wait on (R335, R337, R340): a stale one only in its fill, for a request of before the HDRINV. -/
def entryFor (s : Sampler) (r : SReq) (b : List Byte) : Option (Nat × WEntry) :=
  s.weights.find? fun p => p.2.hdr == r.hdr && p.2.ver == hdVersion b && (!p.2.stale || (r.stale && p.2.filling))

/-- The cause a lane takes of those its fetches met (R213, R313, R333): of the lowest level, and of one level the first, a range of the footprint after
the other. -/
def laneCause (r : SReq) (b : List Byte) (ln : Nat) : Option (Cause × Nat) :=
  let own := ((footprint r b ln).map fun p => (linesIn p).filterMap fun l => (fget r.bads l).map fun c => (c, p.1)).flatten
  let all := own ++ r.wbad.toList
  let rank := fun (c : Cause) => if c = 0x04 then 3 else if c = 0x05 then 4 else 6
  all.foldl (fun m x => match m with
    | none => some x
    | some y => if rank x.1 < rank y.1 then some x else some y) none

/-- Every fetch of a request has ended. -/
def SReq.done (r : SReq) : Bool :=
  r.copy.isSome && r.need.all r.hasLine && (r.kind != .smpn || r.wts.isSome || r.wbad.isSome)

/-- Once every fetch of a request has ended, those of its lanes that met a cause trap, and the others go on: the registers they are to receive are pending
from then on (R16, R213, R332, R333). DEDUCED, log 34. -/
def releaseReq (d : Dev) (i : Nat) : Dev :=
  match fget d.reqs i with
  | none => d
  | some r =>
    match r.copy with
    | none => d
    | some b =>
      if !r.held || !r.done || r.kind == .pin then d
      else
        let bad := (fkeys r.lanes).filter fun ln => (laneCause r b ln).isSome
        let good := (fkeys r.lanes).filter fun ln => !bad.contains ln
        let at_ := reqLanes d i r
        let d1 := if good.isEmpty then { d with reqs := fdel d.reqs i }
          else setReq d i fun r => { r with held := false, outs := good, claims := r.claims.filter fun p => good.contains p.1 }
        let d1 := (at_.filter bad.contains).foldl (fun d ln => match laneCause r b ln with
          | some (c, va) => trapAt d r.sq ln c (tvAddr va)
          | none => d) d1
        let d1 := setSquad d1 r.sq fun s => (good.filter fun ln => at_.contains ln || (fget s.lanes ln).isNone).foldl Squad.goOn s
        settle (undoReq r at_ (r.rows.foldl sadd []) false d d1) r.sq

/-- Stage 4 (R332, R337): the weight entry is found, joined in its fill, or a fill is started once a slot and lines are free. -/
def stageWeights (d : Dev) (i : Nat) : Dev :=
  match fget d.reqs i with
  | none => d
  | some r =>
    match r.copy with
    | none => d
    | some b =>
      if !(r.kind == .smpn || r.kind == .pin) || r.entry.isSome || r.wts.isSome || r.wbad.isSome || !r.need.all r.hasLine then d
      else
        let s := samplerOf d r.core
        match entryFor s r b with
        | some (k, w) =>
          let d := setSampler d r.core fun s => { s with weights := fmod s.weights k fun w => { w with used := d.tick } }
          match w.bytes with
          | some x => if r.kind = .pin then finishPin d i r k else setReq d i fun r => { r with wts := some x }
          | none => setReq d i fun r => { r with entry := some k }
        | none =>
          if 8 ≤ (s.weights.filter fun p => p.2.filling).length then d
          else match evictFor ((weightLen b + 127) / 128) 66 s.weights with
          | none => d
          | some ws =>
            let k := d.fresh
            let w : WEntry := { hdr := r.hdr, ver := hdVersion b, copy := b, user := r.user, stale := r.stale, used := d.tick }
            setReq (setSampler (bump d) r.core fun s => { s with weights := fput ws k w }) i fun r => { r with entry := some k }

/-- Start the fill of a line that a request needs, unless one in flight serves it, a slot or a place is not free, or it has the line (R331, R336, R340). -/
def startLine (i : Nat) (d : Dev) (l : Nat) : Dev :=
  match fget d.reqs i with
  | none => d
  | some r =>
    let s := samplerOf d r.core
    if r.hasLine l || s.fills.any fun f => f.hdr == r.hdr && f.line == l && (!f.stale || r.stale) then d
    else match roomForLine d r.core with
      | some m => setSampler d r.core fun s => { s with lines := m, fills := s.fills ++ [{ hdr := r.hdr, line := l, user := r.user }] }
      | none => d

/-- Stage 3 (R332): lines that the texel cache holds under the header are taken, the others' fills start; then stage 4. -/
def stageLines (d : Dev) (i : Nat) : Dev :=
  match fget d.reqs i with
  | none => d
  | some r =>
    let held := fgetD (samplerOf d r.core).lines r.hdr []
    let got := r.need.filterMap fun l => if r.hasLine l then none else (fget held l).map fun x => (l, x.bytes)
    let d := setSampler d r.core fun s => { s with lines := fset [] s.lines r.hdr (got.foldl (fun m x => fmod m x.1 fun y => { y with used := d.tick }) held) }
    let d := setReq d i fun r => { r with lines := got.foldl (fun m x => fput m x.1 x.2) r.lines }
    releaseReq (stageWeights (r.need.foldl (startLine i) d) i) i

/-- A request has its header copy (R332, stage 1). -/
def gotHeader (d : Dev) (i : Nat) (b : List Byte) : Dev :=
  match fget d.reqs i with
  | none => d
  | some r =>
    if !hdOk r.kind b then trapReq d i 0x01 (tvField 4 r.desc)
    else if r.kind = .unpin then finishUnpin d i r b
    else stageLines (setReq d i fun r => { r with copy := some b }) i

/-- A request starts (R332): its lanes wait for it at the word. -/
def startReq (d : Dev) (e : Env) (kind : SKind) (dst hdr : Opnd) (lns : List Nat) (input : Nat → List Word) : Dev :=
  let i := d.fresh
  let l := e.s.lane (lns.headD 0)
  let va := readN64 e (lns.headD 0) hdr
  let r : SReq :=
    { kind := kind, sq := e.sq, core := e.core, user := l.mode == .u, quad := lns.headD 0 / 4, lanes := lns.map fun ln => (ln, input ln)
      dst := dst, desc := hdr.desc, hdr := hdrKey (coreOf d e.core).vmid e.s.asid va, outs := lns.foldl sadd [], uid := d.tick
      claims := lns.filterMap fun ln => ((squadOf d e.sq).lane ln).claim.map fun c => (ln, c) }
  let d := holdLanes (bump { d with reqs := fput d.reqs i r }) e.sq (.sample i) lns
  match fget (samplerOf d e.core).hdrs r.hdr with
  | some h => gotHeader (setSampler d e.core fun s => { s with hdrs := fmod s.hdrs r.hdr fun x => { x with used := d.tick } }) i h.bytes
  | none => d

/-! ### The forms -/

/-- A header address must be a multiple of 64 (R207). -/
def hdrChk (hdr : Opnd) (_ : Dev) (e : Env) (ln : Nat) : Chk :=
  let a := readN64 e ln hdr
  if a % 64 ≠ 0 then .bad 2 0x03 (tvAddr a) else .ok

/-- The quads of lanes, ascending. -/
def quadsOf (lns : List Nat) : List Nat := (lns.map (· / 4)).eraseDups

/-- The lanes of a quad. -/
def inQuad (q : Nat) (lns : List Nat) : List Nat := lns.filter fun ln => ln / 4 == q

/-- Quads in a core's request queue (R331). -/
def queued (d : Dev) (core : Nat) : Nat := (d.reqs.filter fun p => p.2.core == core && p.2.kind != .pin && p.2.kind != .unpin).length

/-- A bundle's quads are accepted in ascending order, where the request queue can take them (R332). -/
def acceptQuads (go : Nat → List Nat → Dev → Dev) (e : Env) (lns : List Nat) (d : Dev) : Dev :=
  if 256 < queued d e.core + (quadsOf lns).length then holdLanes d e.sq .hold lns
  else (quadsOf lns).foldl (fun d q => go q (inQuad q lns) d) d

/-- A form that does not gather: the bundle's lanes of a quad are one quad of it. -/
def quadAct (kind : SKind) (dst hdr : Opnd) (input : Env → Nat → List Word) (e : Env) (lns : List Nat) (d : Dev) : Dev :=
  acceptQuads (fun _ ls d => startReq d e kind dst hdr ls (input e)) e lns d

/-- Lanes of a gathering sampler form whose guard fails arrive at their quads (R92, R211). -/
def quadFails (lns : List Nat) (d : Dev) : Dev := (quadsOf lns).foldl (fun d q => gatherFails (some (16 + q)) (inQuad q lns) d) d

/-- A form that gathers the lanes of each quad (R211). -/
def quadGather (kind : SKind) (dst hdr : Opnd) (input : Env → Nat → List Word) (e : Env) (lns : List Nat) (d : Dev) : Dev :=
  acceptQuads (fun q ls d =>
    gatherAct (some (16 + q)) (fun e ls d => startReq d e kind dst hdr ls (input e)) { e with s := squadOf d e.sq } ls d) e lns d

/-- Each lane's WCPIN or WCUNP, in ascending lane order (R339). -/
def pinAct (kind : SKind) (dst hdr : Opnd) (e : Env) (lns : List Nat) (d : Dev) : Dev :=
  lns.foldl (fun d ln => startReq d e kind dst hdr [ln] fun _ => []) d

/-- HDRINV is forbidden in deterministic mode (R216). -/
def hdrinvChk (hdr : Opnd) (d : Dev) (e : Env) (ln : Nat) : Chk :=
  (hdrChk hdr d e ln).orElse fun _ => if e.s.det then .bad 5 0x0B 0 else .ok

/-- One lane's HDRINV goes to every sampler of the device (R214). -/
def hdrinvLane (hdr : Opnd) (e : Env) (d : Dev) (ln : Nat) : Dev :=
  let k := hdrKey (coreOf d e.core).vmid e.s.asid (readN64 e ln hdr)
  afterIssue .none 0 e ln (addCmd d (mkCmd d e ln (.hdrinv k (upto 168))) none)

/-! ### Events -/

/-- The requests of a core under a header that a condition picks, in order. -/
def reqsUnder (d : Dev) (core hdr : Nat) (p : SReq → Bool) : List (Nat × SReq) :=
  d.reqs.filter fun x => x.2.core == core && x.2.hdr == hdr && p x.2

/-- Change what has been read of a header that is being read. -/
def setParts (d : Dev) (core hdr : Nat) (m : FMap (List Byte)) : Dev :=
  setSampler d core fun s => { s with hreads := fset [] s.hreads hdr m }

/-- One 8-byte part of a header being read is read, in one piece (R326). -/
def headerPart (d : Dev) (core hdr part : Nat) : Dev :=
  match reqsUnder d core hdr fun r => r.copy.isNone with
  | [] => d
  | (_, r) :: _ =>
    let m := fgetD (samplerOf d core).hreads hdr []
    if 8 ≤ part || (fget m part).isSome then d
    else match smpRead d core r.user hdr (keyVa hdr + 8 * part) 8 with
      | (d, .ok bs) => setParts d core hdr (fput m part bs)
      | (d, .error _) => d

/-- A header as its parts were read, those not read yet as they stand (R326). -/
def headerBytes (m : FMap (List Byte)) (now : List Byte) : List Byte :=
  ((upto 8).map fun k => fgetD m k ((now.drop (8 * k)).take 8)).flatten

/-- The last part of a header read arrives (R213, R326, R332, R334). -/
def headerRead (d : Dev) (core hdr : Nat) (err : MemErr) : Dev :=
  match reqsUnder d core hdr fun r => r.copy.isNone with
  | [] => d
  | (i, r) :: rest =>
    let va := keyVa hdr
    let d := smpErr d core r.user hdr va err
    if isFatal err then d
    else
      let m := fgetD (samplerOf d core).hreads hdr []
      let d := setParts d core hdr []
      ((i, r) :: rest).foldl (fun d x =>
        match smpRead d core x.2.user hdr va 64 with
        | (d, y) => match smpGot err va y with
          | .ok now => let bs := headerBytes m now; gotHeader (keepHdr d core hdr bs) x.1 bs
          | .error c => trapReq d x.1 c.1 (tvAddr va)) d

/-- Requests of a core that waited for a fill slot, a place or a line try again (R336, R337). -/
def retryReqs (d : Dev) (core : Nat) : Dev := d.reqs.foldl (fun d x => if x.2.core = core && x.2.copy.isSome then stageLines d x.1 else d) d

/-- The fill of a texel or latent line ends (R213, R326, R336): the line serves the requests that wait for it, and stays unless an HDRINV has made the
fill stale, which serves only requests of before it. DEDUCED, log 34. -/
def lineFill (d : Dev) (core hdr line : Nat) (err : MemErr) : Dev :=
  match (samplerOf d core).fills.find? fun f => f.hdr == hdr && f.line == line with
  | none => d
  | some f =>
    let d := smpErr d core f.user hdr (128 * line) err
    if isFatal err then d
    else
      let d := setSampler d core fun s => { s with fills := s.fills.erase f }
      let all := reqsUnder d core hdr fun r => r.need.contains line && !r.hasLine line && (!f.stale || r.stale)
      let d := all.foldl (fun d x =>
        match smpRead d core x.2.user hdr (128 * line) 128 with
        | (d, y) => match smpGot err (128 * line) y with
          | .ok bs =>
            let d := if f.stale then d
              else setSampler d core fun s => { s with lines := fput s.lines hdr (fput (fgetD s.lines hdr []) line ⟨bs, d.tick⟩) }
            setReq d x.1 fun r => { r with lines := fput r.lines line bs }
          | .error c => setReq d x.1 fun r => { r with bads := fput r.bads line c.1 }) d
      retryReqs d core

/-- The requests of a core that wait on a fill. -/
def fillWaiters (d : Dev) (core k : Nat) : List (Nat × SReq) := d.reqs.filter fun x => x.2.core == core && x.2.entry == some k

/-- The bytes of a line of a weight range. -/
def weightPart (w : WEntry) (line : Nat) : Nat × Nat := (hdWbase w.copy + 128 * line, min 128 (weightLen w.copy - 128 * line))

/-- One line of a weight fill is read as it stands (R326, R328). -/
def weightLine (d : Dev) (core k line : Nat) : Dev :=
  match fget (samplerOf d core).weights k with
  | none => d
  | some w =>
    if !w.filling || w.len ≤ line || (fget w.got line).isSome then d
    else match smpRead d core w.user w.hdr (weightPart w line).1 (weightPart w line).2 with
      | (d, .ok bs) => setSampler d core fun s => { s with weights := fmod s.weights k fun w => { w with got := fput w.got line bs } }
      | (d, .error _) => d

/-- A weight range as its lines were read, those not read yet as they stand (R326). -/
def weightBytes (w : WEntry) (now : List Byte) : List Byte :=
  ((upto w.len).map fun n => fgetD w.got n ((now.drop (128 * n)).take (weightPart w n).2)).flatten

/-- The last line of a weight fill arrives (R213, R337, R340). -/
def weightFill (d : Dev) (core k : Nat) (err : MemErr) : Dev :=
  match fget (samplerOf d core).weights k with
  | none => d
  | some w =>
    if !w.filling then d
    else
      let va := hdWbase w.copy
      let d := smpErr d core w.user w.hdr va err
      if isFatal err then d
      else
        let all := fillWaiters d core k
        let drop := fun (d : Dev) => setSampler d core fun s => { s with weights := fdel s.weights k }
        let x := smpRead d core w.user w.hdr va (weightLen w.copy)
        match smpGot err va x.2 with
        | .error c =>
          retryReqs (all.foldl (fun d y => if y.2.kind = .pin then trapReq d y.1 c.1 (tvAddr c.2)
            else setReq d y.1 fun r => { r with entry := none, wbad := some c }) (drop x.1)) core
        | .ok now =>
          let bs := weightBytes w now
          let d := setSampler x.1 core fun s => { s with weights := fmod s.weights k fun w => { w with bytes := some bs, got := [], used := d.tick } }
          let d := all.foldl (fun d y => if y.2.kind = .pin then finishPin d y.1 y.2 k
            else setReq d y.1 fun r => { r with entry := none, wts := some bs }) d
          retryReqs (if w.stale then drop d else d) core

/-! ### The dot array (R346, R347) -/

/-- An LMM's pass is in flight. -/
def Cmd.inPass (c : Cmd) : Bool := !c.buf.isEmpty

/-- The LMM of a core's queue that its dot array is at, or takes up next: one whose pass is in flight, else the first that no pre-emption stops. -/
def lmmHead (d : Dev) (core : Nat) : Option (Nat × Cmd) :=
  let l := lmmQueue d core
  (l.find? fun p => p.2.inPass) <|> ((runnable d l).head?.bind fun p => if quiet d p.2.vc then some p else none)

/-- An SMPN quad is ready for the dot array. -/
def smpnReady (d : Dev) (core : Nat) : Bool := d.reqs.any fun p => p.2.core == core && p.2.kind == .smpn && !p.2.held

/-- The dot array is not free for SMPN passes: an LMM pass is in flight, or one that has waited its limit goes first (R346). -/
def lmmFirst (d : Dev) (core : Nat) : Bool :=
  match lmmHead d core with
  | some (_, c) => c.inPass || (samplerOf d core).lmmWait
  | none => false

/-- A pass of the LMM at the head of the queue starts, unless an SMPN pass is ready and the LMM has not waited its limit (R346). -/
def passStart (d : Dev) (core : Nat) : Dev :=
  match lmmHead d core with
  | some (i, c) => if c.inPass || (smpnReady d core && !(samplerOf d core).lmmWait) then d else lmmStart d i c
  | none => d

/-- A dot array ends a pass of the LMM at the head of its queue; one that had not started starts now (R346, R347). -/
def dotPass (d : Dev) (core : Nat) (err : MemErr) : Dev :=
  let d := passStart d core
  match lmmHead d core with
  | some (i, c) => if c.inPass then lmmEnd (setSampler d core fun s => { s with lmmWait := false }) i c err else d
  | none => d

/-- A quad writes its results (R210, R212, R213, R332). -/
def quadDone (d : Dev) (i : Nat) : Dev :=
  match fget d.reqs i with
  | none => d
  | some r =>
    match r.copy with
    | none => d
    | some b =>
      if r.held || (r.kind = .smpn && lmmFirst d r.core) then d
      else
        let out := fun ln => if r.kind = .smpn then neuralOut r b (r.wts.getD []) ln else texOut r b ln
        let d1 := setSquad { d with reqs := fdel d.reqs i } r.sq fun s => r.outs.foldl (fun s ln => s.writeBlock ln r.dst (out ln)) s
        retryReqs (settle (undoReq r r.outs (r.rows.foldl sadd []) false d d1) r.sq) r.core

/-- An HDRINV reaches the sampler of a core (R214, R340); a WCPIN in flight pins nothing any more, whatever it still waits for (R341). -/
def hdrinvCore (d : Dev) (i core : Nat) : Dev :=
  match fget d.cmds i with
  | none => d
  | some c =>
    match c.kind with
    | .hdrinv h todo =>
      if !shas todo core || !quiet d c.vc then d
      else
        let d := publish d c.vc .dev
        let d := setSampler d core fun s =>
          { s with
            hdrs := fdel s.hdrs h, hreads := fdel s.hreads h, lines := fdel s.lines h
            fills := s.fills.map fun f => if f.hdr = h then { f with stale := true } else f
            weights := s.weights.filterMap fun p =>
              if p.2.hdr ≠ h then some p else if p.2.filling then some (p.1, { p.2 with stale := true, pins := 0 }) else none }
        let d := { d with reqs := d.reqs.map fun p =>
          (p.1, if p.2.core = core && p.2.hdr = h && (p.2.copy.isSome || p.2.kind == .pin) then { p.2 with stale := true } else p.2) }
        retryReqs (setCmd d i fun c => { c with kind := .hdrinv h (sdel todo core) }) core
    | _ => d

/-- Every sampler has acted on an HDRINV (R214). -/
def hdrinvEnd (d : Dev) (i : Nat) : Dev :=
  match (cmdOf d i).kind with
  | .hdrinv _ todo => if todo.isEmpty then completeCmd d i false else d
  | _ => d

/-- SMP vD, hdr, crd (R210) -/
def execSmp (h : Hd) (d hdr crd : Opnd) : State → Host.Outcome State Fault Refusal :=
  onDev (issueWith (rawOf (.smp h d hdr crd)) quadFails (hdrChk hdr) (quadGather .smp d hdr fun e ln => readBlock e ln crd 3))

/-- SMPL vD, hdr, crd (R210) -/
def execSmpl (h : Hd) (d hdr crd lod : Opnd) : State → Host.Outcome State Fault Refusal :=
  onDev (issueChk (rawOf (.smpl h d hdr crd lod)) (hdrChk hdr) (quadAct .smpl d hdr fun e ln => readBlock e ln crd 3 ++ [BitVec.ofNat 32 (readN32 e ln lod)]))

/-- SMPG vD, hdr, crd (R210) -/
def execSmpg (h : Hd) (d hdr crd ch : Opnd) : State → Host.Outcome State Fault Refusal :=
  onDev (issueChk (rawOf (.smpg h d hdr crd ch)) (hdrChk hdr) (quadAct (.smpg (tlIdx ch)) d hdr fun e ln => readBlock e ln crd 3))

/-- SMPS vD, hdr, crd (R210) -/
def execSmps (h : Hd) (d hdr crd seed : Opnd) : State → Host.Outcome State Fault Refusal :=
  onDev (issueWith (rawOf (.smps h d hdr crd seed)) quadFails (hdrChk hdr) (quadGather .smps d hdr fun e ln => readBlock e ln crd 3 ++ readBlock e ln seed 3))

/-- SMPN vD, hdr, crd (R212) -/
def execSmpn (h : Hd) (d hdr crd : Opnd) : State → Host.Outcome State Fault Refusal :=
  onDev (issueChk (rawOf (.smpn h d hdr crd)) (hdrChk hdr) (quadAct .smpn d hdr fun e ln => readBlock e ln crd 2))

/-- HDRINV hdr (R214) -/
def execHdrinv (h : Hd) (hdr : Opnd) : State → Host.Outcome State Fault Refusal :=
  onDev (issueChk (rawOf (.hdrinv h hdr)) (hdrinvChk hdr) (fun e lns dv => lns.foldl (hdrinvLane hdr e) dv))

/-- WCPIN qD, hdr (R215) -/
def execWcpin (h : Hd) (d hdr : Opnd) : State → Host.Outcome State Fault Refusal :=
  onDev (issueChk (rawOf (.wcpin h d hdr)) (hdrChk hdr) (pinAct .pin d hdr))

/-- WCUNP hdr (R215) -/
def execWcunp (h : Hd) (hdr : Opnd) : State → Host.Outcome State Fault Refusal :=
  onDev (issueChk (rawOf (.wcunp h hdr)) (hdrChk hdr) (pinAct .unpin .none hdr))

/-- every sampler has acted on an HDRINV (R214) -/
def execHdrinvComplete (hid : Nat) : State → Host.Outcome State Fault Refusal :=
  onDev (fun dv => hdrinvEnd dv hid)

/-- a header read arrives (R334) -/
def execSamplerHeaderReadComplete (core : Nat) (hdr : Nat) (err : MemErr) : State → Host.Outcome State Fault Refusal :=
  onDev (fun dv => headerRead dv core hdr err)

/-- a texel or latent line arrives (R336) -/
def execTexelFillComplete (core : Nat) (hdr : Nat) (line : Nat) (err : MemErr) : State → Host.Outcome State Fault Refusal :=
  onDev (fun dv => lineFill dv core hdr line err)

/-- the last line of a weight fill arrives (R337) -/
def execWeightFillComplete (core : Nat) (fill : Nat) (err : MemErr) : State → Host.Outcome State Fault Refusal :=
  onDev (fun dv => weightFill dv core fill err)

/-- a quad writes its results (R332) -/
def execSamplerQuadComplete (req : Nat) : State → Host.Outcome State Fault Refusal :=
  onDev (fun dv => quadDone dv req)

/-- an LMM pass ends (R347) -/
def execLmmPassComplete (core : Nat) (err : MemErr) : State → Host.Outcome State Fault Refusal :=
  onDev (fun dv => dotPass dv core err)

/-- an LMM has waited 256 cluster cycles (R346) -/
def execLmmWaitExpiry (core : Nat) : State → Host.Outcome State Fault Refusal :=
  onDev (fun dv => if (lmmHead dv core).isNone then dv else setSampler dv core fun s => { s with lmmWait := true })

end Sys2Proof.Machine
end

