-- ==== Sys2Proof/Machine/System.lean ====
section
/-! DEFINITION. The system forms (R231 to R250): system calls and returns, contexts, extended registers, regions, translation invalidation, and
stepping backwards. -/
namespace Sys2Proof.Machine

/-! ### System calls (R237) -/

/-- The code of a system call. -/
def callCode : Opnd → DWord
  | .imm x => x.setWidth 64
  | _ => 0

/-- SYSC and HCALL: each lane enters a trap that resumes at the next word, which is its own header after the clause's last. -/
def callAct (hc : Bool) (code : Opnd) (e : Env) (lns : List Nat) (d : Dev) : Dev :=
  lns.foldl (fun d ln =>
    let l := laneOf d e.sq ln
    let epc := l.pc + 12
    trapTo d e.sq ln 0x10 (callCode code) epc (if l.hofs = l.clause.len then epc else l.hdr) hc false) d

/-! ### Contexts (R240 to R244) -/

/-- The squad whose context stands at an address: in the lane's own address space, else in its virtual machine, else in any (R240, R244). DEDUCED, log 30. -/
def ctxFind (d : Dev) (vmid : BitVec 12) (asid : BitVec 16) (ctx : Nat) : Option Nat :=
  let l := d.squads.filter fun p => p.2.ctx == ctx && !p.2.gone
  ((l.find? fun p => p.2.vmid == vmid && p.2.asid == asid) <|> (l.find? fun p => p.2.vmid == vmid) <|> l.head?).map (·.1)

/-- The target of a context form. -/
def ctxTarget (d : Dev) (e : Env) (ctx : Nat) : Option Nat := ctxFind d (coreOf d e.core).vmid e.s.asid ctx

/-- The check of a context form (R244). -/
def ctxChk (ctx : Opnd) (d : Dev) (e : Env) (ln : Nat) : Chk :=
  let a := readN64 e ln ctx
  if a % 65536 ≠ 0 then .bad 2 0x03 (tvAddr a)
  else match ctxTarget d e a with
  | some u => if (e.s.lane ln).mode == .s && (squadOf d u).vmid != (coreOf d e.core).vmid then .bad 4 0x05 (tvAddr a) else .ok
  | none => .ok

/-- A context form writes its status and goes on. -/
def putStatus (dst : Opnd) (st : Nat) (e : Env) (ln : Nat) (d : Dev) : Dev :=
  setSquad d e.sq fun s => (s.write ln dst .n32 (BitVec.ofNat 64 st)).setLane ln Lane.advance

/-- A field of the record is out of range (R241, R242). -/
def recordBad (bs : List Byte) (h : Bool) : Bool :=
  fieldAt bs 0 8 % 64 != 0 || decide (2 ^ 54 ≤ fieldAt bs 8 8) || decide (1048576 ≤ fieldAt bs 20 4) ||
  decide ((if h then 2 else 1) < fieldAt bs 24 1) || fieldAt bs 32 8 % 65536 != 0

/-- The status the record alone gives, 0 for none; FLAGS [7:3] count among the bytes that must be zero. DEDUCED, log 20. -/
def recordStatus (bs : List Byte) (h : Bool) : Nat :=
  if decide (7 < fieldAt bs 26 1) || !zeroAt bs 27 1 || !zeroAt bs 42 22 then 3 else if recordBad bs h then 4 else 0

/-- The ASID a record names belongs to another virtual machine (R244). -/
def otherVm (d : Dev) (vmid : BitVec 12) (asid : BitVec 16) : Bool :=
  (astFind d vmid asid).isNone && d.host.ast.any fun x => x.asid == asid

/-- The ASID of a record. -/
def recAsid (bs : List Byte) : BitVec 16 := BitVec.ofNat 16 (fieldAt bs 40 2)

/-- A live context stands at an address of an address space. -/
def ctxStands (d : Dev) (vmid : BitVec 12) (asid : BitVec 16) (ctx : Nat) : Bool :=
  d.squads.any fun p => p.2.ctx == ctx && p.2.vmid == vmid && p.2.asid == asid && !p.2.gone

/-- The status of a CTXNEW whose record and descriptor have been read (R242). -/
def ctxnewStatus (d : Dev) (vmid : BitVec 12) (bs desc : List Byte) (ctx : Nat) : Nat :=
  if !kernOk desc then 4 else if ctxStands d vmid (recAsid bs) ctx then 6 else 0

/-- Where CTXNEW writes a header, as an `.l2` store at S permission (R242). -/
def headerPage (d : Dev) (core : Nat) (vmid : BitVec 12) (asid : BitVec 16) (ctx : Nat) : Dev × Except Cause Nat := xlatNow d core vmid asid ctx .w false

/-- The check of CTXNEW: alignment, the record, then the address space, the descriptor, and the header's place (R242, R244). -/
def ctxnewChk (ctx rec : Opnd) (d : Dev) (e : Env) (ln : Nat) : Chk :=
  let a := readN64 e ln ctx
  let r := readN64 e ln rec
  let vmid := (coreOf d e.core).vmid
  let h := (e.s.lane ln).mode == .h
  if a % 65536 ≠ 0 then .bad 2 0x03 (tvAddr a)
  else if !pairReadable e ln rec then .ok
  else (recordChk 64 64 r d e ln).orElse fun _ =>
    let p := recordRead d e ln r 64
    if recordStatus p.2 h ≠ 0 then .ok
    else
      let kh := fieldAt p.2 0 8
      (firstChk [if !h && otherVm d vmid (recAsid p.2) then .bad 4 0x05 (tvAddr a) else .ok, recordChk 64 64 kh d e ln]).orElse fun _ =>
        if ctxnewStatus d vmid p.2 (recordRead p.1 e ln kh 64).2 a ≠ 0 then .ok
        else match (headerPage d e.core vmid (recAsid p.2) a).2 with
        | .ok _ => .ok
        | .error c => .bad (if c = 0x05 then 4 else walkLvl c) c (tvAddr a)

/-- Make the squad and the group of its own that a record describes, and write its header (R242). -/
def makeSquad (d : Dev) (core : Nat) (vmid : BitVec 12) (ctx : Nat) (bs : List Byte) (kern : Kern) : Dev :=
  let u := d.fresh
  let gid := d.fresh + 1
  let asid := recAsid bs
  let start := if fieldAt bs 8 8 = 0 then kern.entry.toNat else fieldAt bs 8 8
  let mode : Mode := modeOf (BitVec.ofNat 2 (fieldAt bs 24 1))
  let ext := fieldAt bs 26 1 % 2 == 1
  let s : Squad :=
    { ctx := ctx, asid := asid, vmid := vmid, core := core, prio := fieldAt bs 25 1, ext := ext, wantExt := ext
      det := nbits (fieldAt bs 26 1) 1 1 == 1, dbg := nbits (fieldAt bs 26 1) 2 1 == 1, kh := fieldAt bs 0 8, kern := kern
      sqidx := BitVec.ofNat 32 (fieldAt bs 20 4), gpidx := BitVec.ofNat 32 (fieldAt bs 16 4), privb := BitVec.ofNat 64 (fieldAt bs 32 8)
      privl := BitVec.ofNat 32 kern.priv, age := d.ages + 1, group := gid, unrun := true
      lanes := freshLanes u (BitVec.ofNat 54 start) mode (BitVec.ofNat 32 (fieldAt bs 28 4)) }
  let g : Group :=
    { idx := fieldAt bs 16 4, members := [u], unif := kern.unif, scr := kern.scr, cluster := core / 7, upper := upperOf core, kh := fieldAt bs 0 8
      asid := asid, vmid := vmid }
  let d := { d with squads := fput d.squads u s, groups := fput d.groups gid g, fresh := d.fresh + 2, ages := d.ages + 1 }
  match headerPage d core vmid asid ctx with
  | (d, .ok pa) => writeHeader d s .created pa
  | (d, .error _) => d

/-- One lane's CTXNEW. -/
def ctxnewLane (dst ctx rec : Opnd) (e : Env) (d : Dev) (ln : Nat) : Dev :=
  let a := readN64 e ln ctx
  let vmid := (coreOf d e.core).vmid
  let p := recordRead d e ln (readN64 e ln rec) 64
  match recordStatus p.2 ((e.s.lane ln).mode == .h) with
  | 0 =>
    let q := recordRead p.1 e ln (fieldAt p.2 0 8) 64
    match ctxnewStatus q.1 vmid p.2 q.2 a with
    | 0 => putStatus dst 0 e ln (makeSquad q.1 e.core vmid a p.2 (kernOf q.2))
    | st => putStatus dst st e ln q.1
  | st => putStatus dst st e ln p.1

/-- The watches of a squad that leaves its core are lost: each waiting lane writes 0 and leaves (R105). -/
def loseWatches (d : Dev) (u : Nat) : Dev :=
  let lns := fkeys ((squadOf d u).lanes.filter fun p => p.2.watch.isSome)
  logLanes d (lns.foldl (fun d ln => loseWatch d u ln) d) u lns

/-! ### Extended blocks (R245, R246) -/

/-- A squad without its extended rows, under the zero rule (R246, R265). -/
def Squad.clearExt (s : Squad) : Squad :=
  { s with rwr := s.rwr &&& 0xFFFFFFFF#64, rows := s.rows.filter fun p => p.1 < 32, fills := s.fills.filter fun p => p.1 < 32 }

/-- A squad takes 32 rows as its extended block, under the zero rule (R245, R265); in the image of a squad that is off chip their RWR bits are cleared too. -/
def grantExt (d : Dev) (u : Nat) : Dev :=
  let s := squadOf d u
  let d := setSquad (setCore d s.home fun k => { k with xpool := k.xpool - 32 }) u fun s => { s.clearExt with ext := true, wantExt := false }
  if s.onChip then d
  else match ctxPage d s with
    | (d, some pa) => l2WriteBytes d (pa + 84) (natLe 0 4)
    | (d, none) => d

/-- A squad that wants its extended block takes it where its core has the rows and no other squad is served first (R242, R245). -/
def takeExt (d : Dev) (u : Nat) : Dev :=
  if (squadOf d u).wantExt && decide (32 ≤ (coreOf d (squadOf d u).home).xpool) && extFirst d u then grantExt d u else d

/-- A squad of CTXNEW that has never been activated will be on another core than the one it was bound to (R242, R419): its group takes its scratchpad there, and
gives back what it holds in another cluster; extended rows it took go back to their pool, to be taken on the new core. -/
def moveUnrun (d : Dev) (u core : Nat) : Dev :=
  let s := squadOf d u
  let g := groupOf d s.group
  let d := if g.cluster ≠ core / 7 then (match g.base with
    | some b => scForget (scZero d g.cluster b g.scr) g.cluster b g.scr
    | none => d) else d
  let d := setGroup d s.group fun g =>
    { g with base := if g.cluster = core / 7 then g.base else none, cluster := core / 7, upper := upperOf core }
  let back := s.ext && !s.wantExt && s.home != core
  setSquad (if back then setCore d s.home fun k => { k with xpool := k.xpool + 32 } else d) u fun s => { s with
    core := core, wantExt := s.wantExt || back }

/-- SQACT of a Created or Held squad (R243, R419): Ready, bound to a core; one that stands on another core is written back first. A squad that has never been
activated stands on the core it will be activated on (R242). -/
def makeReady (d : Dev) (u core : Nat) : Dev :=
  let s := squadOf d u
  let held := groupHalted d s.group
  let d := if s.onChip then d else writeCState d s .ready
  let d := if s.unrun then moveUnrun d u core else d
  let d := setSquad d u fun s => { s with
    state := .ready, stop := if held then .preempt else .none, bound := some core, since := (clusterOf d (core / 7)).etime, late := false
    res := if !s.onChip then .out else if s.core = core && !held then .in_ else .writing }
  takeExt d u

/-- One lane's SQACT. -/
def sqactLane (dst ctx : Opnd) (e : Env) (d : Dev) (ln : Nat) : Dev :=
  match ctxTarget d e (readN64 e ln ctx) with
  | none => putStatus dst 2 e ln d
  | some u => match (squadOf d u).state with
    | .ready => putStatus dst 1 e ln d
    | .ended => putStatus dst 2 e ln d
    | _ => putStatus dst 0 e ln (makeReady d u e.core)

/-- A resident squad becomes Held where it stands, or written back (R243); none while its loads are outstanding or, where it is written back, its accesses in
L1 (R282), or its page is absent. -/
def parkSquad (d : Dev) (u : Nat) (wb : Bool) : Option Dev :=
  if !loadsDone d u || (wb && l1Out d u) then none
  else if !wb then some (setSquad d u fun s => { s with state := .held, stop := .none })
  else match saveContext (privWriteBack (loseWatches d u) (squadOf d u)) u .held with
    | (d, true) => some (setSquad d u fun s => { s with state := .held, stop := .none, res := .out })
    | (_, false) => none

/-- SQPARK of a squad that is not resident. -/
def parkOut (d : Dev) (u : Nat) (wb : Bool) : Dev :=
  let d := if wb then writeCState (privWriteBack d (squadOf d u)) (squadOf d u) .held else d
  setSquad d u fun s => { s with state := .held, stop := .none }

/-- One lane's SQPARK (R243): it waits until its target is parked; a lane that parks its own squad has its status first, and the squad is written back once the
instruction is done. A lane of the same instruction above the one that parks the target finds it Held. DEDUCED, log 30. -/
def sqparkLane (wb : Bool) (dst ctx : Opnd) (e : Env) (lns : List Nat) (d : Dev) (ln : Nat) : Dev :=
  match ctxTarget d e (readN64 e ln ctx) with
  | none => putStatus dst 2 e ln d
  | some u =>
    let s := squadOf d u
    let wait := setSquad (holdLanes d e.sq .hold [ln]) u fun s => { s with stop := .park e.sq ln wb }
    let try_ := match parkSquad d u wb with
      | none => wait
      | some dp =>
        if u = e.sq then setSquad (putStatus dst 0 e ln d) u fun s => { s with state := .held, stop := .none, res := if wb then .writing else s.res }
        else putStatus dst 0 e ln dp
    let out := if wb && l1Out d u then holdLanes d e.sq .hold [ln] else putStatus dst 0 e ln (parkOut d u wb)
    match s.state with
    | .ended => putStatus dst 2 e ln d
    | .held => putStatus dst 1 e ln d
    | .created => out
    | .ready =>
      if s.res = .out then out
      else match s.stop with
      | .none => if s.res = .in_ then try_ else holdLanes d e.sq .hold [ln]
      | .park v l _ =>
        if v = e.sq && l = ln then try_
        else if v = e.sq && l < ln && lns.contains l then putStatus dst 1 e ln d
        else holdLanes d e.sq .hold [ln]
      | _ => holdLanes d e.sq .hold [ln]

/-- Pinned squads of a core (R243, R278). -/
def pinned (d : Dev) (core : Nat) : Nat := (d.squads.filter fun p => p.2.home == core && p.2.pin && p.2.state != .ended).length

/-- Set or clear a squad's pin, in its image too where that is current (R240); where the image cannot be reached, at its next activation. DEDUCED, log 30. -/
def setPin (d : Dev) (u : Nat) (on : Bool) : Dev :=
  let s := squadOf d u
  let d := setSquad d u fun s => { s with pin := on, pinSet := none }
  if s.onChip then d
  else match ctxPage d s with
    | (d, some pa) =>
      let b := (l2Byte d (pa + 4)).toNat
      l2WriteBytes d (pa + 4) (natLe (b - 8 * nbits b 3 1 + 8 * b2n on) 1)
    | (d, none) => setSquad d u fun s => { s with pinSet := some on }

/-- One lane's CTXPIN (R243). -/
def ctxpinLane (on : Bool) (dst ctx : Opnd) (e : Env) (d : Dev) (ln : Nat) : Dev :=
  match ctxTarget d e (readN64 e ln ctx) with
  | none => putStatus dst 2 e ln d
  | some u =>
    let s := squadOf d u
    if s.state = .ended then putStatus dst 2 e ln d
    else if on && !s.pin && 64 ≤ pinned d s.home then putStatus dst 5 e ln d
    else putStatus dst 0 e ln (setPin d u on)

/-- A context's address is given up (R243). -/
def freeContext (d : Dev) (u : Nat) : Dev := releaseSquad (setSquad d u fun s => { s with gone := true, freed := true }) u

/-- One lane's CTXFREE (R243): it waits while accesses that its squad made in L1 are outstanding, so that the private lines are in L2 when the context is
released (R282). -/
def ctxfreeLane (dst ctx : Opnd) (e : Env) (d : Dev) (ln : Nat) : Dev :=
  match ctxTarget d e (readN64 e ln ctx) with
  | none => putStatus dst 2 e ln d
  | some u =>
    let s := squadOf d u
    if s.state = .ready then putStatus dst 3 e ln d
    else
      let d := if s.state = .ended then d else endSquad ((fkeys s.lanes).foldl (fun d l => reportImps d u l false) d) u
      if (squadOf d u).ending && l1Out d u then holdLanes d e.sq .hold [ln] else putStatus dst 0 e ln (freeContext d u)

/-! ### XACQ and XREL (R245, R246) -/

/-- XACQ (R245). -/
def xacqAct (e : Env) (lns : List Nat) (d : Dev) : Dev :=
  if e.s.ext then advanceAll d e.sq lns
  else if 32 ≤ (coreOf d e.core).xpool && extFirst d e.sq then advanceAll (grantExt d e.sq) e.sq lns
  else parkLanes d e.sq (.park .block) lns

/-- XREL waits for the accesses and sampler requests that will write its rows. -/
def xrelChk (d : Dev) (e : Env) (_ : Nat) : Chk := if (pendRows d e.sq).any fun i => decide (32 ≤ i) then .stall else .ok

/-- XREL (R246). -/
def xrelAct (e : Env) (lns : List Nat) (d : Dev) : Dev :=
  let d := if e.s.ext then setCore d e.core fun k => { k with xpool := k.xpool + 32 } else d
  advanceAll (setSquad d e.sq fun s =>
    if s.ext then { s.clearExt with ext := false } else s) e.sq lns

/-- EXTENSION_BLOCK_GRANT: the first waiting squad of a core takes its block. -/
def extGrant (d : Dev) (core : Nat) : Dev :=
  match d.squads.find? fun p => extWaits core p.2 && extFirst d p.1 with
  | some (u, _) => if 32 ≤ (coreOf d core).xpool then grantExt d u else d
  | none => d

/-! ### Regions (R247) -/

/-- REGN must be the first instruction of its clause. -/
def regnChk (_ : Dev) (e : Env) (ln : Nat) : Chk := if (e.s.lane ln).hofs = 1 then .ok else .bad 1 0x01 0

/-! ### Translation invalidation (R248) -/

/-- What a TLBINV removes. -/
inductive Inv
  | page (va : Nat) (asid : BitVec 16)
  | space (asid : BitVec 16)
  | vm (vmid : BitVec 12)
  | all
  deriving DecidableEq, Repr, Inhabited

/-- A held translation is removed; the first two kinds act in the lane's own virtual machine. -/
def Inv.hits (i : Inv) (vmid : BitVec 12) (t : Tlb) : Bool :=
  match i with
  | .page va a => t.vmid == vmid && t.asid == a && decide (t.va ≤ va) && decide (va < t.va + t.size)
  | .space a => t.vmid == vmid && t.asid == a
  | .vm v => t.vmid == v
  | .all => true

/-- An outstanding access may have used a removed translation: that of the same page of the largest size. DEDUCED, log 30. -/
def Inv.used (i : Inv) (vmid : BitVec 12) (a : Acc) : Bool :=
  !a.isFence && a.space == 0 && match i with
    | .page va x => a.vmid == vmid && a.asid == x && a.va / 1073741824 == va / 1073741824
    | .space x => a.vmid == vmid && a.asid == x
    | .vm x => a.vmid == x
    | .all => true

/-- Steps that wait at a gate and used a removed translation are not performed: their lanes come to their word again and translate anew. DEDUCED, log 30. -/
def regate (d : Dev) (bad : Acc → Bool) : Dev :=
  let hit := d.accs.filter fun p => p.2.gated && bad p.2
  hit.foldl (fun d p => (fkeys p.2.lanes).foldl (fun d ln =>
      setLane d p.2.sq ln fun l => if l.wait = .gate then { l with wait := .run } else l)
    { d with accs := d.accs.filter fun q => !(q.2.gated && q.2.sq == p.2.sq && q.2.sameLane p.2) }) d

/-- One lane's TLBINV: the entries go at once; it returns when nothing that used them, and nothing the lane did before, is outstanding. -/
def tlbinvLane (f : Env → Nat → Inv) (e : Env) (d : Dev) (ln : Nat) : Dev :=
  let i := f e ln
  let vmid := (coreOf d e.core).vmid
  let vc := issueClock e ln
  let d := regate { d with tlb := d.tlb.filter fun p => !i.hits vmid p.2 } (i.used vmid)
  if (d.accs.any fun p => i.used vmid p.2) || !quiet d vc then holdLanes d e.sq .hold [ln]
  else
    let d := if i = .all then astRefresh d else d
    let d := { d with cmds := d.cmds.map fun p => (p.1, if p.2.isHalted then { p.2 with kick := true } else p.2) }
    advanceAll (endEpochs (publish d vc .dev) e.sq [ln]) e.sq [ln]

/-- The id of a TLBINV must fit (R248). -/
def idChk (n : Nat) (idn : Opnd) (_ : Dev) (e : Env) (ln : Nat) : Chk :=
  if readN32 e ln idn < 2 ^ n then .ok else .bad 1 0x01 (tvField 5 idn.desc)

/-- An id as a number of a width. -/
def idOf (n : Nat) (idn : Opnd) (e : Env) (ln : Nat) : BitVec n := BitVec.ofNat n (readN32 e ln idn)

/-! ### Stepping backwards (R250, R396) -/

/-- The bytes an entry of the log wrote still hold what it wrote. -/
def undoHolds (d : Dev) (x : Undo) : Bool := x.mem.all fun m => l2Byte d m.1 == m.2.2

/-- Dirty L1 copies of the lines that an entry wrote reach L2. -/
def undoFlush (d : Dev) (x : Undo) : Dev :=
  x.mem.foldl (fun d m => (l1SetsOf d (lineOf m.1)).foldl (fun d s => l1WriteBack d s (lineOf m.1)) d) d

/-- Restore an entry's memory at `.l2`. -/
def undoMem (d : Dev) (x : Undo) : Dev :=
  x.mem.foldl (fun d m => (l1SetsOf d (lineOf m.1)).foldl (fun d s => l1Update d s m.1 m.2.1) (l2Write d m.1 m.2.1)) d

/-- Restore a register word of a Held squad: on chip where its row is, else in its context; none of an extended block that it no longer holds (R246, R257). -/
def undoWord (u : Nat) (pa : Option Nat) (d : Dev) (r : Nat × Nat × Word) : Dev :=
  let s := squadOf d u
  if 32 ≤ r.1 && !s.ext then d
  else if s.onChip && (fget s.rows r.1).isSome then setSquad d u fun s => s.setV r.1 r.2.1 r.2.2
  else match pa with
    | some pa => l2WriteBytes d (pa + 0x8000 + 512 * r.1 + 4 * r.2.1) (natLe r.2.2.toNat 4)
    | none => d

/-- Set a lane's place and predicates back. -/
def undoLane (old l : Lane) : Lane := { l with pc := old.pc, hofs := old.hofs, clause := old.clause, q := old.q, recheck := false, wait := .run }

/-- An exited lane is live again: its EXIT is undone. -/
def Squad.revive (s : Squad) (ln : Nat) : Squad :=
  match fget s.exited ln with
  | some l => { s with lanes := fput s.lanes ln l, exited := fdel s.exited ln }
  | none => s

/-- Undo one entry. -/
def undoOne (u : Nat) (pa : Option Nat) (d : Dev) (x : Undo) : Dev :=
  let d := x.rows.foldl (undoWord u pa) (undoMem d x)
  setSquad d u fun s => x.lanes.foldl (fun s p => (s.revive p.1).setLane p.1 (undoLane p.2)) { s with undo := s.undo.dropLast }

/-- Undo up to n entries, most recent first: how many, and the status. -/
def undoMany (u : Nat) (pa : Option Nat) : Nat → Nat → Dev → Dev × Nat × Nat
  | 0, k, d => (d, k, 0)
  | n + 1, k, d =>
    match (squadOf d u).undo.getLast? with
    | none => (d, k, 8)
    | some x =>
      let d := undoFlush d x
      if x.engine then (d, k, 9)
      else if !undoHolds d x then (d, k, 7)
      else undoMany u pa n (k + 1) (undoOne u pa d x)

/-- A squad as its context in memory gives it. -/
def pullSquad (d : Dev) (u pa : Nat) : Dev :=
  let x := bytesNat (l2Byte d) pa 512
  setSquad d u fun s =>
    let t := (squadFrom s x).takeLanes (liveRecs d pa x)
    { t with lanes := t.lanes.map fun p => (p.1, { p.2 with clause := (fgetD (s.lanes ++ s.exited) p.1 {}).clause }) }

/-- STEPB of a Held squad: where its context is current in memory, it is changed there. DEDUCED, log 31. -/
def stepBack (d : Dev) (u n : Nat) : Dev × Nat × Nat :=
  let s := squadOf d u
  match ctxPage d s with
  | (d, none) => undoMany u none n 0 d
  | (d, some pa) =>
    if s.onChip then undoMany u (some pa) n 0 d
    else
      let r := undoMany u (some pa) n 0 (pullSquad d u pa)
      (writeHeader r.1 (squadOf r.1 u) .held pa, r.2)

/-- The check of STEPB: a context in memory is reached through its page, and the target's accesses are performed first. -/
def stepbChk (ctx : Opnd) (d : Dev) (e : Env) (ln : Nat) : Chk :=
  (ctxChk ctx d e ln).orElse fun _ =>
    match ctxTarget d e (readN64 e ln ctx) with
    | some u =>
      let s := squadOf d u
      if s.state ≠ .held then .ok
      else if !s.onChip && (ctxPage d s).2.isNone then .bad 3 0x04 (tvAddr s.ctx)
      else if workOut d u then .stall else .ok
    | none => .ok

/-- One lane's STEPB. -/
def stepbLane (dst ctx n : Opnd) (e : Env) (d : Dev) (ln : Nat) : Dev :=
  match ctxTarget d e (readN64 e ln ctx) with
  | none => putStatus dst 2 e ln d
  | some u => match (squadOf d u).state with
    | .ended => putStatus dst 2 e ln d
    | .held =>
      let r := stepBack d u (readN32 e ln n)
      putStatus dst (r.2.1 * 256 + r.2.2) e ln r.1
    | _ => putStatus dst 3 e ln d

/-- SYSC [code] (R237) -/
def execSysc (h : Hd) (code : Opnd) : State → Host.Outcome State Fault Refusal :=
  onDev (issue (rawOf (.sysc h code)) (callAct false code))

/-- SRET (R238) -/
def execSret (h : Hd) : State → Host.Outcome State Fault Refusal :=
  onDev (issue (rawOf (.sret h)) (fun e lns dv => lns.foldl (fun dv ln => returnFrom dv e.sq ln false) dv))

/-- HCALL [code] (R237) -/
def execHcall (h : Hd) (code : Opnd) : State → Host.Outcome State Fault Refusal :=
  onDev (issue (rawOf (.hcall h code)) (callAct true code))

/-- HRET (R238) -/
def execHret (h : Hd) : State → Host.Outcome State Fault Refusal :=
  onDev (issue (rawOf (.hret h)) (fun e lns dv => lns.foldl (fun dv ln => returnFrom dv e.sq ln true) dv))

/-- CTXNEW vD, ctx, rec (R242) -/
def execCtxnew (h : Hd) (d ctx rec : Opnd) : State → Host.Outcome State Fault Refusal :=
  onDev (issueChk (rawOf (.ctxnew h d ctx rec)) (ctxnewChk ctx rec) (fun e lns dv => lns.foldl (ctxnewLane d ctx rec e) dv))

/-- CTXFREE vD, ctx (R243) -/
def execCtxfree (h : Hd) (d ctx : Opnd) : State → Host.Outcome State Fault Refusal :=
  onDev (issueChk (rawOf (.ctxfree h d ctx)) (ctxChk ctx) (fun e lns dv => lns.foldl (ctxfreeLane d ctx e) dv))

/-- CTXPIN.on vD, ctx (R243) -/
def execCtxpinOn (h : Hd) (d ctx : Opnd) : State → Host.Outcome State Fault Refusal :=
  onDev (issueChk (rawOf (.ctxpinOn h d ctx)) (ctxChk ctx) (fun e lns dv => lns.foldl (ctxpinLane true d ctx e) dv))

/-- CTXPIN.off vD, ctx (R243) -/
def execCtxpinOff (h : Hd) (d ctx : Opnd) : State → Host.Outcome State Fault Refusal :=
  onDev (issueChk (rawOf (.ctxpinOff h d ctx)) (ctxChk ctx) (fun e lns dv => lns.foldl (ctxpinLane false d ctx e) dv))

/-- SQACT vD, ctx (R243) -/
def execSqact (h : Hd) (d ctx : Opnd) : State → Host.Outcome State Fault Refusal :=
  onDev (issueChk (rawOf (.sqact h d ctx)) (ctxChk ctx) (fun e lns dv => lns.foldl (sqactLane d ctx e) dv))

/-- SQPARK[.wb] vD, ctx (R243) -/
def execSqpark (h : Hd) (wb : Bool) (d ctx : Opnd) : State → Host.Outcome State Fault Refusal :=
  onDev (issueChk (rawOf (.sqpark h wb d ctx)) (ctxChk ctx) (fun e lns dv => lns.foldl (sqparkLane wb d ctx e lns) dv))

/-- XACQ (R245) -/
def execXacq (h : Hd) : State → Host.Outcome State Fault Refusal :=
  onDev (issue (rawOf (.xacq h)) xacqAct)

/-- XREL (R246) -/
def execXrel (h : Hd) : State → Host.Outcome State Fault Refusal :=
  onDev (issueChk (rawOf (.xrel h)) xrelChk xrelAct)

/-- REGN (R247) -/
def execRegn (h : Hd) : State → Host.Outcome State Fault Refusal :=
  onDev (issueChk (rawOf (.regn h)) regnChk (fun e lns dv => setSquad dv e.sq fun s => lns.foldl (fun s ln => s.setLane ln fun l =>
    { l.advance with rege := l.hdr, regc := l.regc + 1 }) s))

/-- TLBINV.va va, id (R248) -/
def execTlbinvVa (h : Hd) (va idn : Opnd) : State → Host.Outcome State Fault Refusal :=
  onDev (issueChk (rawOf (.tlbinvVa h va idn)) (idChk 16 idn) (fun e lns dv => lns.foldl (tlbinvLane (fun e ln => .page (readN64 e ln va) (idOf 16 idn e ln)) e) dv))

/-- TLBINV.asid id (R248) -/
def execTlbinvAsid (h : Hd) (idn : Opnd) : State → Host.Outcome State Fault Refusal :=
  onDev (issueChk (rawOf (.tlbinvAsid h idn)) (idChk 16 idn) (fun e lns dv => lns.foldl (tlbinvLane (fun e ln => .space (idOf 16 idn e ln)) e) dv))

/-- TLBINV.vm id (R248) -/
def execTlbinvVm (h : Hd) (idn : Opnd) : State → Host.Outcome State Fault Refusal :=
  onDev (issueChk (rawOf (.tlbinvVm h idn)) (idChk 12 idn) (fun e lns dv => lns.foldl (tlbinvLane (fun e ln => .vm (idOf 12 idn e ln)) e) dv))

/-- TLBINV.all (R248) -/
def execTlbinvAll (h : Hd) : State → Host.Outcome State Fault Refusal :=
  onDev (issue (rawOf (.tlbinvAll h)) (fun e lns dv => lns.foldl (tlbinvLane (fun _ _ => .all) e) dv))

/-- STEPB vD, ctx, n (R250) -/
def execStepb (h : Hd) (d ctx n : Opnd) : State → Host.Outcome State Fault Refusal :=
  onDev (issueChk (rawOf (.stepb h d ctx n)) (stepbChk ctx) (fun e lns dv => lns.foldl (stepbLane d ctx n e) dv))

/-- a waiting squad takes its extended block (R245) -/
def execExtensionBlockGrant (core : Nat) : State → Host.Outcome State Fault Refusal :=
  onDev (fun dv => extGrant dv core)

end Sys2Proof.Machine
end

