-- ==== Sys2Proof/Machine/Replay.lean ====
section
/-! DEFINITION. Recording and replaying the order of atomic steps: ORDCTL (R249, R397, R400) and the gate (R401, R402). -/
namespace Sys2Proof.Machine

/-! ### The descriptor (R249) -/

/-- What an ORDCTL descriptor gives. -/
structure OrdDesc where
  base : Nat
  len  : Nat
  log  : Nat
  cap  : Nat
  slot : Nat
  kh   : Nat
  deriving DecidableEq, Repr, Inhabited

/-- The fields of a descriptor. -/
def ordDesc (bs : List Byte) : OrdDesc :=
  ⟨fieldAt bs 0 8, fieldAt bs 8 8, fieldAt bs 16 8, fieldAt bs 24 4, fieldAt bs 28 1, fieldAt bs 32 8⟩

/-- Every field is in range. -/
def OrdDesc.ok (o : OrdDesc) : Bool :=
  o.base % 128 == 0 && o.len % 128 == 0 && decide (128 ≤ o.len) && decide (o.len ≤ 1073741824) && o.log % 128 == 0 && o.cap % 128 == 0 &&
  decide (o.slot ≤ 15)

/-- Two ranges have a byte in common. -/
def meets (a n b m : Nat) : Bool := decide (a < b + m) && decide (b < a + n)

/-- The slot is armed, or the range overlaps an armed slot's. -/
def ordTaken (d : Dev) (o : OrdDesc) : Bool :=
  d.watches.any fun p => p.1 == o.slot || meets o.base o.len p.2.base p.2.len

/-- A slot as it is armed by a lane. -/
def ordSlot (d : Dev) (e : Env) (o : OrdDesc) (m : WMode) : WatchSlot :=
  { mode := m, base := o.base, len := o.len, log := o.log, cap := o.cap, kh := o.kh, asid := e.s.asid, vmid := (coreOf d e.core).vmid }

/-! ### Reading a log (R397) -/

/-- Read bytes of a log through the arming lane's address space, at S permission. -/
def logRead (d : Dev) (w : WatchSlot) (va n : Nat) : Dev × Option (List Byte) :=
  match readRange d 168 w.vmid w.asid va n false with
  | (d, .ok bs) => (d, some bs)
  | (d, .error _) => (d, none)

/-- The header of a log lets it be replayed. -/
def headOk (w : WatchSlot) (bs : List Byte) : Bool :=
  fieldAt bs 24 1 % 4 == 2 && fieldAt bs 16 8 == w.kh &&
  decide (128 + 128 * ((fieldAt bs 0 8 + 31) / 32) + 16 * fieldAt bs 8 8 ≤ w.cap)

/-- Read a log for a slot: its entries and records; none where it cannot be read or is no finished log of the kernel. -/
def readLog (d : Dev) (w : WatchSlot) : Dev × Option WatchSlot :=
  match logRead d w w.log 128 with
  | (d, none) => (d, none)
  | (d, some h) =>
    if !headOk w h then (d, none)
    else
      let nent := fieldAt h 0 8
      let nchk := fieldAt h 8 8
      match logRead d w (w.log + 128) (4 * nent) with
      | (d, none) => (d, none)
      | (d, some es) => match logRead d w (w.log + w.cap - 16 * nchk) (16 * nchk) with
        | (d, none) => (d, none)
        | (d, some rs) =>
          let ent := fun i => (fieldAt es (4 * i) 4 / 4096, fieldAt es (4 * i) 4 % 4096)
          let rec_ := fun j => (fieldAt rs (16 * (nchk - 1 - j)) 4, fieldAt rs (16 * (nchk - 1 - j) + 4) 4,
            BitVec.ofNat 64 (fieldAt rs (16 * (nchk - 1 - j) + 8) 8))
          (d, some { w with nent := nent, nchk := nchk, ents := (upto nent).map ent, recs := (upto nchk).map rec_ }.atEntry)

/-! ### The ops -/

/-- `.rec` and `.play`: the lowest status that applies, or the slot is armed. DEDUCED, log 33. -/
def ordArm (m : WMode) (bs : List Byte) (d : Dev) (e : Env) : Dev × Nat :=
  let o := ordDesc bs
  let w := ordSlot d e o m
  let arm := fun (d : Dev) (w : WatchSlot) => if ordTaken d o then (d, 5) else ({ d with watches := fput d.watches o.slot w }, 0)
  if !zeroAt bs 29 3 || !zeroAt bs 40 24 then (d, 3)
  else if !o.ok then (d, 4)
  else match m with
  | .record => if o.cap < 256 || meets o.log o.cap o.base o.len then (d, 4) else arm d w
  | _ => match readLog d w with
    | (d, some w) => arm d w
    | (d, none) => (d, 4)

/-- The header of a log as `.off` writes it. -/
def headBytes (w : WatchSlot) : List Byte :=
  natLe w.nent 8 ++ natLe w.nchk 8 ++ natLe w.kh 8 ++ natLe (2 + (if w.ovf then 1 else 0)) 1 ++ natLe 0 103

/-- A recording ends: its last entries, then the header; false where the header cannot be written. -/
def endRecord (d : Dev) (k : Nat) : Dev × Bool :=
  let d := pushEntry d k
  let d := match fget d.watches k with
    | some w => if w.chunk.isEmpty then d else writeChunk d k
    | none => d
  match fget d.watches k with
  | some w => logWrite d w w.log (headBytes w)
  | none => (d, true)

/-- The steps that wait at a slot's gate are performed ungated from here on: their lanes go on. -/
def openGate (d : Dev) (k : Nat) : Dev :=
  ((stepsAt d k).filter fun p => p.2.gated).foldl (fun d p =>
    advanceAll { d with accs := fput d.accs p.1 { p.2 with gated := false } } p.2.sq (fkeys p.2.lanes)) d

/-- `.off`: the slot is disarmed, even where the header cannot be written. DEDUCED, log 33. -/
def ordOff (bs : List Byte) (d : Dev) : Dev × Nat :=
  let k := (ordDesc bs).slot
  if 15 < k then (d, 4)
  else match fget d.watches k with
  | none => (d, 6)
  | some w =>
    let r := if w.mode = .record then endRecord d k else (openGate d k, true)
    ({ r.1 with watches := fdel r.1.watches k }, if r.2 then 0 else 4)

/-- Append a record of a group's hash (R397, R400). -/
def appendRecord (d : Dev) (k gpidx ord : Nat) (h : DWord) : Dev :=
  match fget d.watches k with
  | none => d
  | some w =>
    if w.ovf then d
    else if w.cap < 128 + 128 * w.chunks + 16 * (w.nchk + 1) then setWatch d k fun w => { w with ovf := true }
    else match logWrite d w (w.log + w.cap - 16 * (w.nchk + 1)) (natLe gpidx 4 ++ natLe ord 4 ++ natLe h.toNat 8) with
      | (d, true) => setWatch d k fun w => { w with nchk := w.nchk + 1 }
      | (d, false) => setWatch d k fun w => { w with ovf := true }

/-- What `.chk` does in a lane: a status, or the TVAL of a divergence (R400, R402). -/
def ordChkAct (bs : List Byte) (d : Dev) (e : Env) : Dev × Except Nat Nat :=
  let k := (ordDesc bs).slot
  let g := groupOf d e.s.group
  if 15 < k then (d, .ok 4)
  else match fget d.watches k with
  | none => (d, .ok 6)
  | some w =>
    if g.kh ≠ w.kh then (d, .ok 4)
    else
      let d' := setGroup d e.s.group fun g => { g with chk := g.chk + 1 }
      match w.mode with
      | .record => (appendRecord d' k (g.idx % 4294967296) g.chk g.hash, .ok 0)
      | _ => match w.recs.zipIdx.find? fun r => r.1.1 == g.idx % 4294967296 && r.1.2.1 == g.chk with
        | some r => (d', if r.1.2.2 = g.hash then .ok 0 else .error (w.cap - 16 * (r.2 + 1)))
        | none => (d', .error w.cap)

/-- The check of ORDCTL: its descriptor, then, as a release, that what the lane did is performed (R249, R398, R400). -/
def ordChk (va : Opnd) (d : Dev) (e : Env) (ln : Nat) : Chk :=
  (recordChk 64 64 (readN64 e ln va) d e ln).orElse fun _ => if quiet d (issueClock e ln) then .ok else .stall

/-- One lane's ORDCTL: a release at `.dev`, then the op, then its status. -/
def ordLane (op : List Byte → Dev → Env → Dev × Except Nat Nat) (dst va : Opnd) (e : Env) (d : Dev) (ln : Nat) : Dev :=
  let r := recordRead d e ln (readN64 e ln va) 64
  let d := endEpochs (publish r.1 (issueClock e ln) .dev) e.sq [ln]
  match op r.2 d e with
  | (d, .ok st) => putStatus dst st e ln d
  | (d, .error tv) => diverge d e.sq ln tv

/-- The form of an op that always ends with a status. -/
def withStatus (f : List Byte → Dev → Env → Dev × Nat) (bs : List Byte) (d : Dev) (e : Env) : Dev × Except Nat Nat :=
  let r := f bs d e
  (r.1, .ok r.2)

/-! ### The debug log (R250, R396) -/

/-- The operation writes memory. -/
def AccOp.stores : AccOp → Bool
  | .store _ | .atom .. | .cas _ | .rbexp _ | .rbadd _ | .stsa _ => true
  | .load | .rbres | .fence _ | .ret _ => false

/-- The bytes an access of n bytes writes where memory holds a value: those of a store that it names, none for a CAS whose first compare fails. -/
def AccOp.puts (o : AccOp) (old : DWord) (n : Nat) : List Nat :=
  match o with
  | .store bs => (upto n).filter fun i => (bs.getD i none).isSome
  | .cas xs => if (casStep old xs).2.2 then upto n else []
  | o => if o.stores then upto n else []

/-- Log what an access of a squad whose DBG is set has written: register words, and memory bytes as its level reads them. It belongs to the
instruction that issued it. -/
def undoAcc (a : Acc) (before after : Dev) : Dev :=
  let p := squadOf before a.sq
  let q := squadOf after a.sq
  if !p.dbg || !q.dbg then after
  else
    let lns := fkeys a.lanes
    let rows := rowChanges p q lns
    let old := fun i => loadByte before a.set (a.pa + i) a.pol
    let put := if a.space = 0 then a.op.puts (BitVec.ofNat 64 (bytesNat old 0 a.len)) a.len else []
    let mem := put.map fun i => (a.pa + i, old i, loadByte after a.set (a.pa + i) a.pol)
    let moved := lns.filter fun ln => (q.lane ln).seq != (p.lane ln).seq && decide ((q.lane ln).depth ≤ (p.lane ln).depth)
    let wrows := a.dest.vRows.foldl sadd []
    let wmem := if a.op.stores then lns.foldl sadd [] else []
    if (wrows.isEmpty && wmem.isEmpty && moved.isEmpty) || (moved.isEmpty && !q.undo.any fun y => y.id == a.uid) then after
    else undoAdd after a.sq { id := a.uid, lanes := moved.map fun ln => (ln, p.lane ln), rows := rows, mem := mem, wrows := wrows, wmem := wmem }

/-! ### The gate (R401) -/

/-- A step is performed; lanes that it held at the gate go on. -/
def passGate (d : Dev) (i : Nat) (a : Acc) : Dev :=
  let b := { a with gated := false }
  let d' := if a.gated then advanceAll { d with accs := fput d.accs i b } a.sq (fkeys a.lanes) else d
  undoAcc b d (performAtomic d' i b)

/-- A squad that no entry can name waits at a gate until the slot diverges (R417). -/
def neverCurrent (d : Dev) (p : Nat × Acc) : Bool := decide (1048576 ≤ (squadOf d p.2.sq).sqidx.toNat)

/-- A step that is due is performed: one that meets a replay in its turn, or refused once every entry is used, as are then the steps that wait for squads no
entry can name (R401, R417). -/
def takeStep (d : Dev) (i : Nat) (a : Acc) : Dev :=
  let s := squadOf d a.sq
  match watchFor d s a.va with
  | none => passGate d i a
  | some (k, w) =>
    match w.mode with
    | .play => match gateAt w s.sqidx.toNat with
      | .go => gatePass (passGate d i a) k
      | .wait => d
      | .used tv => divergeSteps d k tv ((stepsAt d k).filter fun p => p.1 == i || neverCurrent d p)
    | _ => passGate d i a

/-- GATED_STEP_RELEASE: a step that waits at a gate is performed in its turn, or refused. -/
def releaseStep (d : Dev) (i : Nat) : Dev :=
  match fget d.accs i with
  | some a => if !a.gated || !accReady d i a || !stepTurn d i a then d else takeStep d i a
  | none => d

/-- ORDCTL op 0 (R249) -/
def execOrdctlRec (h : Hd) (d va : Opnd) : State → Host.Outcome State Fault Refusal :=
  onDev (issueChk (rawOf (.ordctlRec h d va)) (ordChk va) (fun e lns dv => lns.foldl (ordLane (withStatus (ordArm .record)) d va e) dv))

/-- ORDCTL op 1 (R249) -/
def execOrdctlPlay (h : Hd) (d va : Opnd) : State → Host.Outcome State Fault Refusal :=
  onDev (issueChk (rawOf (.ordctlPlay h d va)) (ordChk va) (fun e lns dv => lns.foldl (ordLane (withStatus (ordArm .play)) d va e) dv))

/-- ORDCTL op 2 (R249) -/
def execOrdctlOff (h : Hd) (d va : Opnd) : State → Host.Outcome State Fault Refusal :=
  onDev (issueChk (rawOf (.ordctlOff h d va)) (ordChk va) (fun e lns dv => lns.foldl (ordLane (withStatus fun bs dv _ => ordOff bs dv) d va e) dv))

/-- ORDCTL op 3 (R249) -/
def execOrdctlChk (h : Hd) (d va : Opnd) : State → Host.Outcome State Fault Refusal :=
  onDev (issueChk (rawOf (.ordctlChk h d va)) (ordChk va) (fun e lns dv => lns.foldl (ordLane ordChkAct d va e) dv))

/-- a gated step is performed in its turn (R401) -/
def execGatedStepRelease (acc : Nat) : State → Host.Outcome State Fault Refusal :=
  onDev (fun dv => releaseStep dv acc)

end Sys2Proof.Machine
end

