-- ==== Sys2Proof/Machine/Events.lean ====
section
/-! DEFINITION. What happens to accesses and waits after issue: data returns, stores and steps are performed, walks end, watches wake (R39, R48, R105,
R160, R169, R297, R308, R315). -/
namespace Sys2Proof.Machine

/-! ### Errors (R48, R169, R315, R319) -/

/-- The place of an access is poisoned (R319). -/
def poisonAcc (d : Dev) (a : Acc) : Dev :=
  match a.space with
  | 0 => poisonLine d a.pa
  | 1 => { d with scPoison := sadd d.scPoison (a.pa / 4) }
  | _ => d

/-- An error of an access that keeps it from its data is recorded; an uncorrectable one poisons its place. -/
def markErr (d : Dev) (a : Acc) (err : MemErr) : Dev :=
  match err with
  | .poison _ => poisonAcc (noteErr d a.core err) a
  | _ => noteErr d a.core err

/-- The error is fatal to the cluster (R321). -/
def errFatal : MemErr → Bool
  | .fatal _ => true
  | _ => false

/-- The lanes of an access can still take an error of it where they stand: right behind it, and no part of it has been written. DESIGN CHOICE, log 8. -/
def precise (d : Dev) (a : Acc) : Bool := unmoved d a && whole d a

/-- The place of an access is poisoned (R319). -/
def metPoison (d : Dev) (a : Acc) : Bool := readsPoison d a.space a.pa a.len

/-- The lanes of an access take an uncorrectable error, and no part of it is performed; nor is a release that waits for one without return (R315). -/
def preciseFault (d : Dev) (i : Nat) (a : Acc) : Dev :=
  let d := dropParts d a
  lateTrap (settle (if a.noReturn then loseSignals (loseReleases d i a) i a else d) a.sq) a

/-! ### The events -/

/-- LOAD_DATA_RETURN: a load of what has been poisoned since its issue takes the cause now. -/
def dataReturn (d : Dev) (i : Nat) (err : MemErr) : Dev :=
  match fget d.accs i with
  | none => d
  | some a =>
    match a.op with
    | .load =>
      if !accReady d i a || !accFits d a then d
      else if errFatal err then noteErr d a.core err
      else if metPoison d a then preciseFault (noteErr d a.core err) i a
      else if errBad err then (if precise d a then preciseFault (markErr d a err) i a else d)
      else undoAcc a d (performLoad (noteErr d a.core err) i a)
    | .ret xs => if errBad err then d else undoAcc a d (performRet (noteErr d a.core err) i a xs)
    | _ => d

/-- A step is applied, or its read half meets an error or what has been poisoned: each of its lanes takes the cause (R163, R169). -/
def sliceStep (d : Dev) (i : Nat) (a : Acc) (err : MemErr) : Dev :=
  if a.gated || !accReady d i a || !stepTurn d i a then d
  else if errFatal err then noteErr d a.core err
  else if errBad err || metPoison d a then
    preciseFault (if errBad err then markErr d a err else noteErr d a.core err) i a
  else takeStep (noteErr d a.core err) i a

/-- ATOMIC_STEP_AT_SLICE. -/
def atomicStep (d : Dev) (i : Nat) (err : MemErr) : Dev :=
  match fget d.accs i with
  | some a => if a.isStep then sliceStep d i a err else d
  | none => d

/-- A store reads what it is merged with at L2, or goes to the host or a peer: what can fail once it has been issued (R315). -/
def Acc.mayFail (a : Acc) : Bool := a.space == 2 || (a.space == 0 && (decide (hostBase ≤ a.pa) || (a.pol != .l1 && !a.full)))

/-- STORE_PERFORMED: a store, or an atomic without return. -/
def storeDone (d : Dev) (i : Nat) (err : MemErr) : Dev :=
  match fget d.accs i with
  | none => d
  | some a =>
    match a.op with
    | .store bs =>
      if !accReady d i a || !accFits d a then d
      else if errFatal err then noteErr d a.core err
      else if errBad err then (if a.mayFail && whole d a then impreciseFault (markErr d a err) i a else d)
      else undoAcc a d (performStore (noteErr d a.core err) i a bs)
    | _ => if a.noReturn then sliceStep d i a err else d

/-- IMPRECISE_STORE_FAULT: the host or a peer refuses a write (R315). -/
def storeFault (d : Dev) (i : Nat) : Dev :=
  match fget d.accs i with
  | some a => if a.noReturn && accReady d i a && !a.gated && whole d a && (a.space == 2 || (a.space == 0 && decide (hostBase ≤ a.pa))) then impreciseFault d i a else d
  | none => d

/-- An uncorrectable error in a lane's word of a resident register row, which stands at an index of the register file (R319, R323). -/
def rowError (d : Dev) (u i ln index : Nat) : Dev :=
  let s := squadOf d u
  if ln < 128 && (fget s.rows i).isSome then noteErr (setSquad d u fun s => s.poisonWord i ln) s.core (.poison ⟨5, BitVec.ofNat 52 index⟩) else d

/-- The entries of the page tables that a walk reads (R293). -/
def walkEntries (d : Dev) (va : Nat) : List (Nat × Nat) → Nat → List Nat
  | [], _ => []
  | (sh, n) :: rest, table =>
    let ea := table + 8 * (nbits va sh 64 % n)
    let x := bytesNat (l2Byte d) ea 8
    ea :: (if nbits x 0 2 = 1 then walkEntries d va rest (nbits x 8 44 * 256) else [])

/-- A walk meets an uncorrectable error at one of the entries it reads. DESIGN CHOICE, log 10. -/
def poisonWalk (d : Dev) (w : Walk) : Dev :=
  match astFind d w.vmid w.asid with
  | none => d
  | some e =>
    let l := walkEntries d w.va walkLevels e.l0
    match l[Config.pick d.tick 9 l.length % l.length]? with
    | some a => poisonLine d a
    | none => d

/-- TABLE_WALK_COMPLETE (R297): the translation is held, or the cause waits for the lanes that wait for it. -/
def walkDone (d : Dev) (w : Nat) (err : MemErr) : Dev :=
  match fget d.walks w with
  | none => d
  | some k =>
    let stop := fun d c => sweepWalks { d with walks := fput d.walks w { k with res := some c } }
    if k.res.isSome then d
    else if errFatal err then noteErrAt d k.cluster 7 err
    else if errBad err then
      stop (match err with
        | .poison _ => poisonWalk (noteErrAt d k.cluster 7 err) k
        | _ => d) 0x0D
    else
      let d := noteErrAt d k.cluster 7 err
      match walkPage d k.vmid k.asid k.va with
      | .ok l => { tlbFill d (168 + k.cluster) k.vmid k.asid l with walks := fdel d.walks w }
      | .error c => stop d c

/-- A lane waits in WAITV, and its watch is this. -/
def watchOf (d : Dev) (u ln : Nat) : Option Watch :=
  match fget d.squads u with
  | some s => if (s.lane ln).wait == .watch && s.res == .in_ then (s.lane ln).watch else none
  | none => none

/-- WAITV_LINE_WRITE_WAKE: the lane reads its word again (R105). What a peer writes to its own lines is not the device's to see. -/
def waitvWake (d : Dev) (u ln : Nat) : Dev :=
  match watchOf d u ln with
  | some w => if isPeer w.line || watchLine d w.pol w.line ≠ w.seen then setLane d u ln fun l => { l with wait := .run } else d
  | none => d

/-- WAITV_TIMEOUT (R105). -/
def waitvExpire (d : Dev) (u ln : Nat) : Dev :=
  match watchOf d u ln with
  | some w =>
    if w.limit ≠ 0 && w.since + w.limit ≤ (clusterOf d ((squadOf d u).core / 7)).etime then logLanes d (loseWatch d u ln) u [ln] else d
  | none => d

/-- a written watched line wakes the waiting lane (R105) -/
def execWaitvLineWriteWake (sq : Nat) (lane : Nat) : State → Host.Outcome State Fault Refusal :=
  onDev (fun dv => waitvWake dv sq lane)

/-- the TMO limit of a waiting lane expires (R105) -/
def execWaitvTimeout (sq : Nat) (lane : Nat) : State → Host.Outcome State Fault Refusal :=
  onDev (fun dv => waitvExpire dv sq lane)

/-- the data of a load or returning atomic arrives (R39) -/
def execLoadDataReturn (acc : Nat) (err : MemErr) : State → Host.Outcome State Fault Refusal :=
  onDev (fun dv => dataReturn dv acc err)

/-- a store or atomic without return is performed (R160) -/
def execStorePerformed (acc : Nat) (err : MemErr) : State → Host.Outcome State Fault Refusal :=
  onDev (fun dv => storeDone dv acc err)

/-- a slice applies one atomic step (R308) -/
def execAtomicStepAtSlice (acc : Nat) (err : MemErr) : State → Host.Outcome State Fault Refusal :=
  onDev (fun dv => atomicStep dv acc err)

/-- a store fails when performed (R315) -/
def execImpreciseStoreFault (acc : Nat) : State → Host.Outcome State Fault Refusal :=
  onDev (fun dv => storeFault dv acc)

/-- a table walk ends (R297) -/
def execTableWalkComplete (walk : Nat) (err : MemErr) : State → Host.Outcome State Fault Refusal :=
  onDev (fun dv => walkDone dv walk err)

end Sys2Proof.Machine
end

