-- ==== Sys2Proof/Machine/Residency.lean ====
section
/-! DEFINITION. Residency: register rows (R262 to R265), activation and deactivation (R266 to R268), a core's cycles (R269, R272 to R274),
allocations and drains (R291, R363). -/
namespace Sys2Proof.Machine

/-! ### Register rows (R262 to R264) -/

/-- An outstanding access or sampler request will write a row of a squad. DEDUCED, log 22. -/
def rowPending (d : Dev) (u i : Nat) : Bool := shas (pendRows d u) i

/-- One of the four lines of a row meets an uncorrectable error. DESIGN CHOICE, log 10. -/
def poisonFill (d : Dev) (pa : Nat) (err : MemErr) : Dev :=
  match err with
  | .none | .corrected _ => d
  | _ => poisonLine d (pa + 128 * (Config.pick d.tick 9 4 % 4))

/-- REGISTER_FILL_COMPLETE (R263): a row comes from its context address; the words of a poisoned line are poisoned, and lanes
that wait for the row to write it take the error too (R264). Without a translation the fill ends,
and the lanes that wait take their cause. -/
def fillRow (d : Dev) (u i : Nat) (err : MemErr) : Dev :=
  let s := squadOf d u
  let stop := fun d => setSquad d u fun s => { s with fills := fdel s.fills i, fillFor := fdel s.fillFor i }
  if (fget s.fills i).isNone || !s.onChip then d
  else if errFatal err then noteErr d s.core err
  else if !s.missing i then stop d
  else match xlatNow d s.core s.vmid s.asid (rowAddr s i) .rw false with
  | (d, .error _) => stop d
  | (d, .ok pa) =>
    if 4096 ≤ rowsHeld d s.core then d
    else
      let d := poisonFill (noteErr d s.core err) pa err
      let bad := (upto 128).filter fun ln => poisoned d (pa + 4 * ln)
      let row : Row := { words := ctxRow d pa 0, poison := bad }
      stop (setSquad d u fun s => { s with
        rows := fput s.rows i row
        fillBad := (s.fillBad.filter fun p => (s.lane p.2.1).seq == p.2.2) ++
          ((fgetD s.fillFor i []).filter bad.contains).map fun ln => (i, ln, (s.lane ln).seq) })

/-- REGISTER_ROW_EVICTION (R262): a row leaves the register file, written back where it is dirty; one that an outstanding access will write stays. -/
def evictRow (d : Dev) (u i : Nat) : Dev :=
  let s := squadOf d u
  match fget s.rows i with
  | none => d
  | some r =>
    if !s.onChip || rowPending d u i then d
    else
      let drop := fun d => setSquad d u fun s => { s with rows := fdel s.rows i }
      if !r.dirty then drop d
      else match ctxPage d s with
        | (d, some pa) => drop (writeBackRow d pa i r)
        | (d, none) => d

/-- The word a lane stands at names a row of registers. -/
def stallsOn (d : Dev) (u ln i : Nat) : Bool :=
  let l := laneOf d u ln
  match (fetchInstr d (fetcherOf d u ln) l.pc.toNat).2 with
  | .ok x => match decodeBody x with
    | .ok k => (rowsRead (rawOf k) ++ rowsWritten (rawOf k)).contains i
    | .error _ => false
  | .error _ => false

/-- The fill, outstanding for more than 1,024 cycles, that a held lane stalls on (R266). -/
def staleFill (d : Dev) (u ln : Nat) : Option Nat :=
  let s := squadOf d u
  if (s.lane ln).wait ≠ .hold then none
  else (s.fills.find? fun p => decide (p.2 + 1024 < (coreOf d s.core).cyc) && stallsOn d u ln p.1).map (·.1)

/-- FILL_PARK_TIMEOUT (R266): lanes whose fill is outstanding for more than 1,024 cycles park. -/
def fillPark (d : Dev) (u : Nat) : Dev :=
  (fkeys (squadOf d u).lanes).foldl (fun d' ln => match staleFill d u ln with
    | some i => holdLanes d' u (.park (.fill i)) [ln]
    | none => d') d

/-! ### What a waiting squad awaits (R266) -/

/-- A squad that is not resident does not wait, or something it awaited has occurred (R267). -/
def awake (d : Dev) (u : Nat) : Bool := (squadOf d u).awaits.isEmpty || (squadOf d u).awaits.any (awaitOver d u)

/-- PARKED_SQUAD_WAKE: the lanes of a resident squad whose event has occurred may issue; a squad of a gated upper core wakes it once an event that it waits on
has occurred (R421), and one that does not wait, as SQACT made it Ready, so that it can be activated. DEDUCED, log 54. -/
def wakeSquad (d : Dev) (u : Nat) : Dev :=
  let s := squadOf d u
  if s.state ≠ .ready then d
  else if s.res = .in_ then
    holdLanes d u .run ((fkeys s.lanes).filter fun ln => match (s.lane ln).wait with
      | .park a => awaitOver d u a
      | _ => false)
  else if s.home % 7 = 6 && s.res = .out && s.stop = .none && awake d u then wakeUpper d (s.home / 7)
  else d

/-! ### Activation (R267, R261) -/

/-- A squad may be activated on a core: the one SQACT bound it to, or, where it was launched, its own or another of its cluster's lower cores (R384, R419).
On a core other than the one it stood on there is room for its extended block; its accesses in the L1 it leaves are performed (R282, R290). DEDUCED, log 23. -/
def mayRunOn (d : Dev) (u : Nat) (s : Squad) (core : Nat) : Bool :=
  (match s.bound with
    | some c => c == core
    | none => s.core == core || (s.core / 7 == core / 7 && s.core % 7 != 6 && core % 7 != 6)) &&
  !l1Out d u && (s.core == core || !s.ext || decide (32 ≤ (coreOf d core).xpool))

/-- A squad is eligible for activation on a core (R107, R242, R243, R392). -/
def eligible (d : Dev) (core u : Nat) (s : Squad) : Bool :=
  s.state == .ready && s.res == .out && s.stop == .none && !s.wantExt && (groupOf d s.group).base.isSome && mayRunOn d u s core

/-- Squad a is activated before b (R267). -/
def activatesFirst (d : Dev) (u v : Nat) : Bool :=
  let a := squadOf d u
  let b := squadOf d v
  if awake d u ≠ awake d v then awake d u
  else if a.prio ≠ b.prio then decide (b.prio < a.prio) else decide (a.age < b.age)

/-- The squad that a core activates next: one that has waited too long, or the first in order. -/
def nextSquad (d : Dev) (core : Nat) : Option Nat :=
  let l := d.squads.filter fun p => eligible d core p.1 p.2
  let best := fun (before : Nat → Nat → Bool) (l : List (Nat × Squad)) =>
    (fkeys l).foldl (fun (b : Option Nat) u => match b with
      | some x => if before u x then some u else b
      | none => some u) none
  let late := l.filter fun p => p.2.late
  if late.isEmpty then best (activatesFirst d) l else best (fun a b => decide ((squadOf d a).since < (squadOf d b).since)) late

/-- A squad's header is not there, or fails its check: it is Held, as its image says where the image is there, and reported (R261, R266). DEDUCED, log 17. -/
def refuseSquad (d : Dev) (u kind : Nat) : Dev :=
  let s := squadOf d u
  let d := setSquad (writeCState d s .held) u fun s => { s with state := .held }
  report d (s.core / 7) s.vmid { kind := kind, gpidx := s.gpidx.toNat, sqidx := s.sqidx.toNat, tval := s.ctx, ctx := s.ctx }

/-- An extended block moves with its squad between the pools of two cores. -/
def moveExt (d : Dev) (s : Squad) (core : Nat) : Dev :=
  if s.ext && s.core ≠ core then
    setCore (setCore d s.core fun k => { k with xpool := k.xpool + 32 }) core fun k => { k with xpool := k.xpool - 32 }
  else d

/-- A squad leaves an L1: what it left dirty there is written to L2, and its lanes return no older copy from the L1 that serves it next (R282, R290). -/
def leaveL1 (d : Dev) (u set : Nat) : Dev :=
  let d := d.l1.foldl (fun d p => if p.1 % 256 == set then l1WriteBack d set (p.1 / 256) else d) d
  setSquad d u fun s => { s with lanes := s.lanes.map fun p => (p.1, { p.2 with acq := d.tick }) }

/-- A squad whose image names another kernel has that kernel's descriptor where it can be read (R261). DEDUCED, log 18. -/
def readKern (d : Dev) (u kh : Nat) : Dev :=
  let s := squadOf d u
  if s.kh = kh then d
  else match xlatNow d s.core s.vmid s.asid s.kh .r false with
    | (d, .ok pa) => setSquad d u fun s => { s with kern := kernOf ((upto 64).map fun i => l2Byte d (pa + i)) }
    | (d, .error _) => d

/-- Load a squad into a core (R261, R267, R282); where its image fuses its L1 or no longer does, the other L1 serves it from now on (R286, R290). A core holds at most 64 pinned squads: one more is not pinned any longer (R243, R278). DESIGN CHOICE, log 30. -/
def activateSquad (d : Dev) (u core : Nat) : Dev :=
  let s := squadOf d u
  let old := l1Set s
  match loadContext (if s.core = core then d else leaveL1 d u old) u core with
  | (d, .absent) => refuseSquad d u 5
  | (d, .bad) => refuseSquad d u 4
  | (d, .ok) =>
    let full := decide (64 < pinned d core)
    let d := settleClaims (setSquad (readKern (moveExt d s core) u s.kh) u fun q => { q with
      res := .in_, late := false, awaits := [], unrun := false, fuse := q.fuse && core % 7 != 6, pin := q.pin && !full }) u
    if l1Set (squadOf d u) = old then d else leaveL1 d u old

/-- SQUAD_ACTIVATION: an upper core that is not powered is woken instead (R421). -/
def activateNext (d : Dev) (core : Nat) : Dev :=
  if (clusterOf d (core / 7)).fatal || freeSlots d core = 0 then d
  else match nextSquad d core with
  | none => d
  | some u =>
    if (clusterOf d (core / 7)).gateOpen (core % 7) then activateSquad d u core
    else if awake d u then wakeUpper d (core / 7)
    else d

/-- ACTIVATION_WAIT_TIMEOUT (R267). -/
def waitTooLong (d : Dev) (u : Nat) : Dev :=
  let s := squadOf d u
  if s.state = .ready && s.res = .out && s.since + 1048576 ≤ (clusterOf d (s.home / 7)).etime then setSquad d u fun s => { s with late := true }
  else d

/-! ### Deactivation (R266, R268) -/

/-- A squad's deactivation begins: issue stops. -/
def beginWriting (d : Dev) (u : Nat) : Dev := setSquad d u fun s => { s with res := .writing }

/-- A Parked squad none of whose awaited events has occurred: one whose event has occurred is In, and can issue (R266, R267). -/
def parkedNow (d : Dev) (u : Nat) : Bool :=
  (squadOf d u).parked && (squadOf d u).lanes.all fun p => match laneAwait d u p.1 p.2 with
    | some a => !awaitOver d u a
    | none => p.2.wait == .watch

/-- SQUAD_DEACTIVATION: of the Parked squads of a core that are not pinned and whose pages are present, the one of lowest PRIO, then of largest AGE
(R266, R267). -/
def deactivateNext (d : Dev) (core : Nat) : Dev :=
  let l := d.squads.filter fun p => p.2.core == core && p.2.state == .ready && p.2.res == .in_ && p.2.stop == .none && !p.2.pin && parkedNow d p.1 &&
    (ctxPage d p.2).2.isSome
  match l.foldl (fun (b : Option (Nat × Squad)) p => match b with
    | some x => if p.2.prio < x.2.prio || (p.2.prio == x.2.prio && x.2.age < p.2.age) then some p else b
    | none => some p) none with
  | some (u, _) => beginWriting d u
  | none => d

/-- The lane that parked a squad no longer waits for it. -/
def parkerGone (d : Dev) (v ln : Nat) : Bool := (laneOf d v ln).wait != .hold || (squadOf d v).res != .in_ || (squadOf d v).state != .ready

/-- DEACTIVATION_COMPLETE (R268, R236, R243): once the squad's loads have written their registers, and while its page is present, its watches are
lost (R105) and its context is written; the image of a squad that has ended is written once its page is present (R253). -/
def writeOut (d : Dev) (u : Nat) : Dev :=
  let s := squadOf d u
  if s.state = .ended then releaseSquad d u
  else if !loadsDone d u then d
  else match s.stop, s.res with
  | .fatal, _ => d
  | .park v ln wb, .in_ => if parkerGone d v ln then (parkSquad d u wb).getD d else d
  | stop, .writing =>
    let st := if stop = .halt then CState.held else s.state
    if st = .held && stop = .none && l1Out d u then d
    else match saveContext (if st = .held && stop = .none then privWriteBack (loseWatches d u) (squadOf d u) else loseWatches d u) u st with
    | (_, false) => d
    | (d, true) => setSquad d u fun q => { q with
        state := st, res := .out, stop := if stop = .halt then .none else q.stop, since := (clusterOf d (q.bound.getD q.core / 7)).etime, late := false }
  | _, _ => d

/-! ### A core's cycles (R269, R272 to R274) -/

/-- The step of a rail, withheld cycles included (R431). -/
def railStep (p : Power) (r : Nat) : Nat := (railOf p r).step + (railOf p r).whld

/-- The step a core runs at: the largest of its rails' steps, its cluster's FLOOR and its thermal floor (R431). -/
def coreStep (p : Power) (core : Nat) : Nat :=
  let c := core / 7
  let b := pcluOf p c
  [railStep p (if core % 7 = 6 then 24 + c else c), railStep p 48, railStep p 49, railStep p 50, min b.floor 8, b.thermal].foldl max 0

/-- The slice ratio of a core (R431). -/
def coreRatio (p : Power) (core : Nat) : Nat := 8 + min 8 (coreStep p core)

/-- What a cycle of a class adds to CTIME for each unit of the ratio (R274). -/
def ctimeUnit (c : Nat) : Nat := if c = 0 then 4 else if c = 1 then 5 else if c = 2 then 6 else 8

/-- A core cycle: its class is the highest among the instructions in execute (R272). -/
def coreCycle (n : Nat) (k : Core) : Core :=
  let c := k.exec.foldl (fun m p => if p.2 ≤ 4 then max m p.1 else m) 0
  { k with
    cyc := k.cyc + 1, ctime := k.ctime + ctimeUnit c * n
    exec := k.exec.filterMap fun p => if p.2 ≤ 1 then none else some (p.1, p.2 - 1) }

/-- A bundle of a resident squad of a core can issue (R273), as each turn that rests on it finds before it acts. -/
def canIssue (d : Dev) (core : Nat) : Bool := (coreOf d core).able

/-- A register fill or a row write-back of a core is outstanding (R273). -/
def rowWork (d : Dev) (core : Nat) : Bool := d.squads.any fun p => p.2.core == core && (!p.2.fills.isEmpty || p.2.res == .writing)

/-- Cycles of a running clock; it stops once nothing keeps it going (R273). -/
def coreCycles (n : Nat) (keep : Bool) : Nat → Core → Core
  | 0, k => if k.exec.isEmpty && !keep then { k with clock := false } else k
  | m + 1, k => if k.exec.isEmpty && !keep then { k with clock := false } else coreCycles n keep m (coreCycle n k)

/-- BUNDLE_FORMATION: four core cycles pass (R269). -/
def formBundles (p : Power) (d : Dev) (core : Nat) : Dev :=
  if !(coreOf d core).clock then d
  else setCore d core (coreCycles (coreRatio p core) (canIssue d core || rowWork d core) 4)

/-- CORE_CLOCK_START (R273). -/
def startClock (d : Dev) (core : Nat) : Dev :=
  if canIssue d core || rowWork d core then setCore d core fun k => { k with clock := true } else d

/-! ### Allocations and drains (R291, R363) -/

/-- GROUP_SCRATCHPAD_GRANT (R107, R242, R291): a group that GJOIN made takes its bytes once they are free; a group whose squad CTXNEW made waits until that squad's core is known (R242). -/
def grantScratch (d : Dev) (gid : Nat) : Dev :=
  match fget d.groups gid with
  | some g => match g.base, scAlloc d g.cluster g.scr with
    | none, some b => if g.state = .live && (g.key.isSome || g.members.any (fun u => (squadOf d u).state != .created)) then scZero (setGroup d gid fun g => { g with base := some b }) g.cluster b g.scr else d
    | _, _ => d
  | none => d

/-- a register row fill completes (R263) -/
def execRegisterFillComplete (sq : Nat) (row : Nat) (err : MemErr) : State → Host.Outcome State Fault Refusal :=
  onDev (fun dv => fillRow dv sq row err)

/-- the register file evicts a row (R262) -/
def execRegisterRowEviction (sq : Nat) (row : Nat) : State → Host.Outcome State Fault Refusal :=
  onDev (fun dv => evictRow dv sq row)

/-- a fill outstanding for more than 1,024 cycles (R266) -/
def execFillParkTimeout (sq : Nat) : State → Host.Outcome State Fault Refusal :=
  onDev (fun dv => fillPark dv sq)

/-- an eligible squad is loaded into a free slot (R267) -/
def execSquadActivation (core : Nat) : State → Host.Outcome State Fault Refusal :=
  onDev (fun dv => activateNext dv core)

/-- an eligible squad has been Out for 2^20 ns (R267) -/
def execActivationWaitTimeout (sq : Nat) : State → Host.Outcome State Fault Refusal :=
  onDev (fun dv => waitTooLong dv sq)

/-- an awaited event occurs (R266) -/
def execParkedSquadWake (sq : Nat) : State → Host.Outcome State Fault Refusal :=
  onDev (fun dv => wakeSquad dv sq)

/-- a parked squad is deactivated (R268) -/
def execSquadDeactivation (core : Nat) : State → Host.Outcome State Fault Refusal :=
  onDev (fun dv => deactivateNext dv core)

/-- the write-back of a squad completes (R266) -/
def execDeactivationComplete (sq : Nat) : State → Host.Outcome State Fault Refusal :=
  onDev (fun dv => writeOut dv sq)

/-- four core cycles pass and bundles are formed (R269) -/
def execBundleFormation (core : Nat) : State → Host.Outcome State Fault Refusal :=
  onBoth (fun p dv => formBundles p dv core)

/-- the core clock starts (R273) -/
def execCoreClockStart (core : Nat) : State → Host.Outcome State Fault Refusal :=
  onDev (fun dv => startClock dv core)

/-- a waiting group receives its allocation (R291) -/
def execGroupScratchpadGrant (gid : Nat) : State → Host.Outcome State Fault Refusal :=
  onDev (fun dv => grantScratch dv gid)

/-- the last outstanding work of a draining group ends (R363) -/
def execGroupDrainComplete (gid : Nat) : State → Host.Outcome State Fault Refusal :=
  onDev (fun dv => drainCheck dv gid)

end Sys2Proof.Machine
end

