-- ==== Sys2Proof/Machine/Power.lean ====
section
/-! DEFINITION. Gating of the upper cores (R420, R421, R428), the rails' limiters (R430 to R432), the sensors and what they cause (R434, R435), and the
registers of the power and thermal block (R436). -/
namespace Sys2Proof.Machine

/-! ### Gating (R420, R421, R428, R436) -/

/-- The upper core of a cluster. -/
def upperCore (cl : Nat) : Nat := 7 * cl + 6

/-- A command of a copy engine or of a sampler (R420). -/
def engineWork (c : Cmd) : Bool :=
  match c.kind with
  | .cpy _ _ | .lmm _ _ _ _ _ _ | .follow _ => true
  | _ => false

/-- A core's copy engine and sampler hold work (R420): commands, requests, or a fork sequencer, which runs in the copy engine until it is done (R186). -/
def coreWork (d : Dev) (k : Nat) : Bool :=
  (d.cmds.any fun p => p.2.core == k && engineWork p.2) || (d.reqs.any fun p => p.2.core == k) ||
    (clusterOf d (k / 7)).seqs.any fun p => p.2.core == k && p.2.quit.isNone

/-- A squad of a core has been given something to go on with since it last could not: a lane that may run and has not tried yet, an event that has occurred for a
resident one, or for one that is Out (R423). DEDUCED, log 54. -/
def squadStirs (d : Dev) (u : Nat) (s : Squad) : Bool :=
  s.state == .ready && s.stop == .none &&
    match s.res with
    | .in_ => s.lanes.any fun p => match p.2.wait with
      | .run => true
      | .park _ | .gather | .moored => laneReady d u p.1 p.2
      | _ => false
    | .out => s.awaits.any (awaitOver d u)
    | .writing => false

/-- An upper core is idle (R420). -/
def upperIdle (d : Dev) (cl : Nat) : Bool :=
  let k := upperCore cl
  !canIssue d k && (coreOf d k).exec.isEmpty && !coreWork d k && !d.squads.any fun p => p.2.core == k && squadStirs d p.1 p.2

/-- A gate is requested (R428). -/
def requestGate (d : Dev) (cl : Nat) : Dev :=
  let k := upperCore cl
  if (clusterOf d cl).gate ≠ .powered || !upperIdle d cl then d
  else if d.squads.any fun p => p.2.core == k && p.2.res != .out && p.2.pin then d
  else
    let d := setCluster d cl fun c => { c with gate := .deactivating, wake := false }
    d.squads.foldl (fun d p => if p.2.core = k && p.2.res = .in_ then beginWriting d p.1 else d) d

/-- The controller's own request after 1 µs (R436). -/
def idleGate (d : Dev) (cl : Nat) : Dev :=
  match (clusterOf d cl).idleAt with
  | some t => if t + 1000 ≤ (clusterOf d cl).etime then requestGate d cl else d
  | none => d

/-- The directions from a cluster's lower cores to its upper core. -/
def upDirs (cl : Nat) : List Nat := (upto 6).map fun n => quayKey cl n false

/-- The upward directions whose entries are to be spilled. -/
def toSpill (d : Dev) (cl : Nat) : List Nat :=
  (upDirs cl).filter fun k => !(quayOf d k).entries.isEmpty && (quayOf d k).spilled == 0

/-- Every check of R420 and R427 passes: each direction has its area, no squad receives on two that hold entries, and no area is to serve two. -/
def spillOk (d : Dev) (cl : Nat) : Bool :=
  let l := toSpill d cl
  let rs := ((upDirs cl).filter fun k => !(quayOf d k).entries.isEmpty).map fun k => (quayOf d k).recvBy
  (l.all fun k => (spillArea d k).isSome) && rs.Nodup && (l.map (spillArea d)).Nodup

/-- GATE_WRITEBACK_COMPLETE: every resident squad is written back; the checks pass, and the areas are held, or the request is refused (R428). -/
def gateCheck (d : Dev) (cl : Nat) : Dev :=
  if (clusterOf d cl).gate ≠ .deactivating || d.squads.any (fun p => p.2.core == upperCore cl && p.2.res != .out) then d
  else if spillOk d cl then
    let d := (toSpill d cl).foldl (fun d k => let a := spillArea d k; setQuay d k fun q => { q with area := a }) d
    setCluster d cl fun c => { c with gate := .spilling }
  else setCluster d cl fun c => { c with gate := .powered, wake := false, idleAt := none }

/-- An area can be written. -/
def areaOk (d : Dev) (k : Nat) : Bool :=
  match (quayOf d k).area with
  | some a => xlatOk d (168 + k / 16) a.1 a.2.1 a.2.2 .w false
  | none => false

/-- SPILL_COMPLETE: the entries are in their areas, and the core is Gated; a wake that came meanwhile takes it on at once (R428). -/
def spillDone (d : Dev) (cl : Nat) : Dev :=
  let l := toSpill d cl
  if (clusterOf d cl).gate ≠ .spilling || !l.all (areaOk d) then d
  else
    let d := l.foldl (fun d k => match (quayOf d k).area with
      | some a => spillQuay d k a
      | none => d) d
    setCluster d cl fun c => { c with gate := if c.wake then .waking else .gated, wake := false }

/-- Refill directions; none where a refill waits for its translation. -/
def refillAll (d : Dev) (l : List Nat) : Option Dev :=
  l.foldl (fun (r : Option Dev) k => match r with
    | some d => refillQuay d k
    | none => none) (some d)

/-- The group of the squad that last received on a direction is pre-empted. -/
def recvHalted (d : Dev) (k : Nat) : Bool := (quayOf d k).recvBy.any fun u => groupHalted d (squadOf d u).group

/-- REFILL_COMPLETE (R421): a waking core has its entries back and is Powered; entries that a pre-emption spilled come back once their receiver's item
has resumed (R392, R393). -/
def refillDone (d : Dev) (cl : Nat) : Dev :=
  if (clusterOf d cl).gate = .waking then
    match refillAll d (upDirs cl) with
    | some d => setCluster d cl fun c => { c with gate := .powered, idleAt := none }
    | none => d
  else if (clusterOf d cl).gate = .powered then
    let l := (upto 12).map (cl * 16 + ·)
    (refillAll d (l.filter fun k => (quayOf d k).spilled != 0 && !recvHalted d k)).getD d
  else d

/-! ### Rails (R430 to R432, R437) -/

/-- The least current a rail's code tells apart, in mA (R430). -/
def railLsb (r : Nat) : Nat := if r < 24 then 100 else if r < 48 then 50 else if r = 48 then 250 else if r = 49 then 500 else 100

/-- The estimate of a code by weights and counts (R432). -/
def estimate (ws : List Weight) (ns : List Nat) : Nat :=
  let w := fun j => match ws[j]? with
    | some x => x.w.toNat
    | none => 0
  min 1023 ((w 0 * 256 + (upto 8).foldl (fun n j => n + w (j + 1) * ns.getD j 0) 0) / 65536)

/-- The limiter of a rail takes a code (R431). -/
def limit (x : Rail) (code : Nat) : Rail :=
  if x.ilim < code then
    { x with step := if x.step < 8 then x.step + 1 else 8, whld := if x.step < 8 then x.whld else min 7 (x.whld + 1), quiet := 0 }
  else if code ≤ 15 * x.ilim / 16 then
    if x.quiet + 1 < 8 then { x with quiet := x.quiet + 1 }
    else { x with quiet := 0, whld := x.whld - 1, step := if x.whld = 0 then x.step - 1 else x.step }
  else { x with quiet := 0 }

/-- The cluster whose ring takes a rail's events: its own, and cluster 0 for the rails of the whole device. DEDUCED, log 24. -/
def railRing (r : Nat) : Nat := if r < 48 then r % 24 else 0

/-- DATA of event 0x08 (R437). -/
def railData (r : Nat) (x : Rail) (rise : Bool) : DWord :=
  BitVec.ofNat 64 (packBits [(0, r), (8, x.step), (12, x.whld), (15, x.code), (25, b2n rise)])

/-- The cores that a rail supplies: those of a cluster's lower die, or its upper core (R430). -/
def railCores (r : Nat) : List Nat := if r < 24 then (upto 6).map (7 * r + ·) else if r < 48 then [7 * (r - 24) + 6] else []

/-- What the cores of a rail have counted since its last sample, by j from 1 (R432). -/
def railCounts (d : Dev) (r : Nat) : List Nat :=
  (upto 8).map fun j => (railCores r).foldl (fun n k => n + fgetD (coreOf d k).events (j + 1) 0) 0

/-- The counts of a rail start anew with each sample. -/
def clearCounts (d : Dev) (r : Nat) : Dev := (railCores r).foldl (fun d k => setCore d k fun c => { c with events := [] }) d

/-- RAIL_SAMPLE: a code, or none where the converter reports a fault. -/
def sampleRail (s : State) (r : Nat) (ma : Option Nat) : State :=
  if 51 ≤ r then s
  else
    let ns := railCounts s.dev r
    let x := railOf s.power r
    let y : Rail := match ma with
      | some i => let c := min 1023 (i / railLsb r); { x with code := c, valid := true, est := false, last := c }
      | none =>
        if r < 48 then { x with code := estimate (if r < 24 then s.power.vcl else s.power.vup) ns, valid := false, est := true }
        else { x with code := x.last, valid := false, est := false }
    let z := limit y y.code
    let rise := decide (x.step + x.whld < z.step + z.whld)
    let calm := decide (0 < x.step + x.whld) && z.step + z.whld == 0
    { s with
      power := { s.power with rails := fput s.power.rails r z }
      dev := clearCounts (if rise || calm then blackBox s.dev (railRing r) 8 7 (railData r z rise) else s.dev) r }

/-- A weight clamped to its bounds (R432). -/
def clampWeight (x : Weight) (v : BitVec 16) : Weight := { x with w := BitVec.ofNat 16 (max x.lo.toNat (min x.hi.toNat v.toNat)) }

/-- Write weight j of a set. -/
def writeWeight (ws : List Weight) (j : Nat) (v : BitVec 16) : List Weight := ws.zipIdx.map fun p => if p.2 = j then clampWeight p.1 v else p.1

/-- Write weight j of VCL or VUP. -/
def setWeight (p : Power) (up : Bool) (j : Nat) (v : BitVec 16) : Power :=
  if up then { p with vup := writeWeight p.vup j v } else { p with vcl := writeWeight p.vcl j v }

/-- WEIGHT_REFIT: firmware writes the weights, VCL's nine and then VUP's (R432). -/
def refit (p : Power) (ws : List (BitVec 16)) : Power :=
  ws.zipIdx.foldl (fun p w => if w.2 < 9 then setWeight p false w.2 w.1 else setWeight p true (w.2 - 9) w.1) p

/-! ### Heat (R434, R435) -/

/-- A judged quantity: which (in the order of R434), its pair, its value in quarter degrees, and the cluster of the cores it acts on. -/
structure Heat where
  qty  : Nat
  pair : Nat
  val  : Int
  clu  : Nat
  key  : Nat
  deriving DecidableEq, Repr, Inhabited

/-- The cluster of a pair (R434). -/
def pairCluster (p : Nat) : Nat := if p < 48 then p / 2 else p - 48

/-- A valid sensor's temperature. -/
def tempOf (p : Power) (s : Nat) : Option Int :=
  match fget p.sens s with
  | some x => if x.valid then some x.temp.toInt else none
  | none => none

/-- The valid sensors of a die: pair and temperature. -/
def dieTemps (p : Power) (die : Nat) : List (Nat × Int) :=
  (upto 72).filterMap fun k => (tempOf p (2 * k + die)).map fun t => (k, t)

/-- The lateral difference of a die. -/
def lateral (p : Power) (die : Nat) : List Heat :=
  match dieTemps p die with
  | [] => []
  | h :: t =>
    let hot := t.foldl (fun b x => if b.2 < x.2 then x else b) h
    let cool := t.foldl (fun b x => if x.2 < b.2 then x else b) h
    [⟨3, hot.1, hot.2 - cool.2, pairCluster hot.1, 768 + die⟩]

/-- Every quantity as the sensors stand (R434). -/
def heats (p : Power) : List Heat :=
  ((dieTemps p 0).map fun x => ⟨0, x.1, x.2, pairCluster x.1, x.1⟩) ++
  ((dieTemps p 1).map fun x => ⟨1, x.1, x.2, pairCluster x.1, 256 + x.1⟩) ++
  ((upto 72).filterMap fun k => match tempOf p (2 * k), tempOf p (2 * k + 1) with
    | some a, some b => some ⟨2, k, a - b, pairCluster k, 512 + k⟩
    | _, _ => none) ++
  lateral p 0 ++ lateral p 1

/-- The level a quantity has reached: 0 none, 1 Warn, 2 Limit, 3 Trip; Warn and Trip move with the Limit (R434, R436). DEDUCED, log 24. -/
def levelOf (p : Power) (h : Heat) : Nat :=
  let (lim, w, t) : Nat × Nat × Option Nat := match h.qty with
    | 0 => (p.lower, 5, some 5)
    | 1 => (p.upper, 5, some 5)
    | 2 => (p.vert, 3, none)
    | _ => (p.lat, 3, none)
  let at_ := fun (x : Int) => decide (4 * x ≤ h.val)
  if (match t with
      | some t => at_ ((lim : Int) + t)
      | none => false) then 3
  else if at_ lim then 2
  else if at_ ((lim : Int) - w) then 1
  else 0

/-- DATA of event 0x07 (R437). -/
def heatData (h : Heat) (level : Nat) (onset : Bool) : DWord :=
  BitVec.ofNat 64 (packBits [(0, h.pair), (8, h.qty), (10, level), (12, (BitVec.ofInt 12 h.val).toNat), (24, b2n onset)])

/-- Record the onsets and releases of a sample in the rings of the clusters they concern: first the releases of the quantities of the last sample that are
compared no longer, because a sensor has become invalid, with the value they had. -/
def heatEvents (p : Power) (d : Dev) (l : List (Heat × Nat)) : Dev :=
  let gone := (heats p).filter fun h => !l.any fun x => x.1.key == h.key
  let d := gone.foldl (fun d h =>
    let old := fgetD p.held h.key 0
    if old = 0 then d else blackBox d h.clu 7 7 (heatData h old false)) d
  l.foldl (fun d x =>
    let old := fgetD p.held x.1.key 0
    if old < x.2 then blackBox d x.1.clu 7 7 (heatData x.1 x.2 true)
    else if x.2 < old then blackBox d x.1.clu 7 7 (heatData x.1 old false)
    else d) d

/-- An array idles at a limit: at a vertical limit of an array pair only that array (R435). -/
def idles (a : Nat) (x : Heat × Nat) : Bool := decide (2 ≤ x.2) && (x.1.qty != 2 || decide (48 ≤ x.1.pair) || x.1.pair % 2 == a)

/-- A cluster's response to the quantities that act on it (R435). -/
def respond (l : List (Heat × Nat)) (b : PCluster) : PCluster :=
  let m := l.foldl (fun m x => max m x.2) 0
  { b with
    thermal := if 2 ≤ m then 12 else if m = 1 && b.thermal < 4 then b.thermal + 1 else b.thermal
    cut := decide (2 ≤ m), cool := if m = 0 then b.cool + 1 else 0
    idle0 := l.any (idles 0), idle1 := l.any (idles 1) }

/-- The first quantity at the worst level. -/
def worst (l : List (Heat × Nat)) : Nat × Nat × Nat :=
  l.foldl (fun b x => if b.1 < x.2 then (x.2, x.1.pair, x.1.qty) else b) (0, 0, 0)

/-- What the always-on SRAM keeps of a cluster (R322). -/
def keepRing (c : Cluster) : Cluster := { ring := c.ring, next := c.next, frozen := c.frozen, frozenEv := c.frozenEv }

/-- A device whose rails are without power: nothing of it is left but host memory, and what the always-on rail keeps of its clusters (R322, R435). -/
def unpowered (d : Dev) (kept : FMap Cluster) : Dev :=
  { turns := d.turns, tick := d.tick, fresh := d.fresh, mem := d.mem.filter fun c => hostBase ≤ c.1, clusters := kept }

/-- The thermal trip removes the power of every rail but the always-on one (R435). -/
def tripPower (d : Dev) : Dev := unpowered d (d.clusters.map fun p => (p.1, keepRing p.2))

/-- SENSOR_SAMPLE (R434, R435). -/
def sampleSensors (s : State) (ts : List (Option Int)) : State :=
  let sens : FMap Sensor := (upto 144).map fun k => match ts.getD k none with
    | some t => (k, { temp := BitVec.ofInt 12 t, valid := true })
    | none => (k, { temp := (fgetD s.power.sens k {}).temp, valid := false })
  let p := { s.power with sens := sens }
  let l := (heats p).map fun h => (h, levelOf p h)
  let w := worst l
  let p' := { p with
    held := l.foldl (fun m x => fset 0 m x.1.key x.2) ([] : FMap Nat)
    clu := (upto 24).foldl (fun m c => fput m c (respond (l.filter fun x => x.1.clu == c) (fgetD m c {}))) p.clu
    level := w.1, pair := w.2.1, qty := w.2.2, tripped := p.tripped || w.1 == 3 }
  let d := heatEvents s.power s.dev l
  { s with power := p', dev := if w.1 = 3 then tripPower d else d }

/-- THERMAL_RELEASE (R435): withheld cycles end first; then the thermal floor falls by one step for each sample. DEDUCED, log 24. -/
def coolDown (p : Power) (c : Nat) : Power :=
  let b := pcluOf p c
  if b.cool < 10 || b.thermal = 0 then p
  else { p with clu := fput p.clu c { b with thermal := if 8 < b.thermal then 8 else b.thermal - 1, cool := 9 } }

/-! ### Registers (R436) -/

/-- A THLIM field takes a value that is not above its reset value. -/
def limField (old new rst : Nat) : Nat := if new ≤ rst then new else old

/-- A write of a register of the power and thermal block; read-only fields and offsets of no register are ignored. -/
def writeBlock (p : Power) (off : Nat) (x : Nat) : Power :=
  if off % 4 ≠ 0 then p
  else if off < 8 * 51 then
    if off % 8 = 0 then { p with rails := fput p.rails (off / 8) { railOf p (off / 8) with ilim := nbits x 16 10 } } else p
  else if 0x200 ≤ off && off < 0x2C0 then
    let c := (off - 0x200) / 8
    if off % 8 = 0 then { p with clu := fput p.clu c { pcluOf p c with ebud := BitVec.ofNat 16 x, ires := BitVec.ofNat 10 (nbits x 16 10) } }
    else { p with clu := fput p.clu c { pcluOf p c with floor := min 8 (nbits x 28 4) } }
  else if off = 0x700 then
    { p with
      lower := limField p.lower (nbits x 0 8) 105, upper := limField p.upper (nbits x 8 8) 95
      vert := limField p.vert (nbits x 16 8) 18, lat := limField p.lat (nbits x 24 8) 25 }
  else p

/-- A word of the block as it is read (R436). -/
def blockWord (s : State) (off : Nat) : Option Nat :=
  let p := s.power
  let gates : Gate → Nat := fun | .powered => 0 | .deactivating => 1 | .checking => 2 | .spilling => 3 | .gated => 4 | .waking => 5
  let weight := fun (ws : List Weight) (o : Nat) => (ws[o / 8]?).map fun w => if o % 8 = 0 then w.w.toNat else w.lo.toNat + 65536 * w.hi.toNat
  if off % 4 ≠ 0 then none
  else if off < 408 then
    let x := railOf p (off / 8)
    some (if off % 8 = 0 then packBits [(0, x.code), (10, b2n x.valid), (11, b2n x.est), (16, x.ilim)]
      else packBits [(0, x.step), (4, x.whld), (7, x.quiet)])
  else if 0x200 ≤ off && off < 0x2C0 then
    let c := (off - 0x200) / 8
    let b := pcluOf p c
    some (if off % 8 = 0 then packBits [(0, b.ebud.toNat), (16, b.ires.toNat)]
      else packBits (((upto 7).map fun k => (4 * k, coreRatio p (7 * c + k) - 8)) ++ [(28, min 8 b.floor)]))
  else if 0x400 ≤ off && off < 0x640 then
    let x := fgetD p.sens ((off - 0x400) / 4) {}
    some (packBits [(0, x.temp.toNat), (12, b2n x.valid)])
  else if off = 0x700 then some (packBits [(0, p.lower), (8, p.upper), (16, p.vert), (24, p.lat)])
  else if off = 0x704 then some (packBits [(0, p.level), (2, p.pair), (9, p.qty)])
  else if 0x800 ≤ off && off < 0x848 then weight p.vcl (off - 0x800)
  else if 0x880 ≤ off && off < 0x8C8 then weight p.vup (off - 0x880)
  else if 0x900 ≤ off && off < 0x960 then some (gates (clusterOf s.dev ((off - 0x900) / 4)).gate)
  else none

/-- A write of a word of the block by the host: a weight, a request for a gate, or another register (R436). -/
def blockWrite (s : State) (off x : Nat) : State :=
  if 0x800 ≤ off && off < 0x848 && off % 8 = 0 then { s with power := setWeight s.power false ((off - 0x800) / 8) (BitVec.ofNat 16 x) }
  else if 0x880 ≤ off && off < 0x8C8 && off % 8 = 0 then { s with power := setWeight s.power true ((off - 0x880) / 8) (BitVec.ofNat 16 x) }
  else if 0x900 ≤ off && off < 0x960 && off % 4 = 0 then (if nbits x 8 1 = 1 then { s with dev := requestGate s.dev ((off - 0x900) / 4) } else s)
  else { s with power := writeBlock s.power off x }

/-- A power effect alone. -/
def onPower (f : Power → Power) (s : State) : Host.Outcome State Fault Refusal := .next { s with power := f s.power }

/-- a rail reports its current, and whether its converter works (R431, R432) -/
def execRailSample (rail : Nat) (valid : Bool) (milliamps : Nat) : State → Host.Outcome State Fault Refusal :=
  fun s => .next (sampleRail s rail (if valid then some milliamps else none))

/-- firmware refits the estimate weights (R432) -/
def execWeightRefit (ws : List (BitVec 16)) : State → Host.Outcome State Fault Refusal :=
  onPower (fun p => refit p ws)

/-- the sensors are read (R435) -/
def execSensorSample (temps : List (Option Int)) : State → Host.Outcome State Fault Refusal :=
  fun s => .next (sampleSensors s temps)

/-- withheld cycles end and the thermal floor falls (R435) -/
def execThermalRelease (cluster : Nat) : State → Host.Outcome State Fault Refusal :=
  onPower (fun p => coolDown p cluster)

/-- a gate of an upper core is requested (R420) -/
def execGateReq (cluster : Nat) : State → Host.Outcome State Fault Refusal :=
  onDev (fun dv => requestGate dv cluster)

/-- an upper core has been idle for 1 us (R436) -/
def execIdleGateTimer (cluster : Nat) : State → Host.Outcome State Fault Refusal :=
  onDev (fun dv => idleGate dv cluster)

/-- the squads of a gating core are written back (R428) -/
def execGateWritebackComplete (cluster : Nat) : State → Host.Outcome State Fault Refusal :=
  onDev (fun dv => gateCheck dv cluster)

/-- the last quay entry is spilled (R428) -/
def execSpillComplete (cluster : Nat) : State → Host.Outcome State Fault Refusal :=
  onDev (fun dv => spillDone dv cluster)

/-- the spilled entries are refilled (R421) -/
def execRefillComplete (cluster : Nat) : State → Host.Outcome State Fault Refusal :=
  onDev (fun dv => refillDone dv cluster)

/-- a write of an estimate weight (R432) -/
def execWgtWrite (set : Bool) (j : Nat) (val : BitVec 16) : State → Host.Outcome State Fault Refusal :=
  onPower (fun p => setWeight p set j val)

end Sys2Proof.Machine
end

