-- ==== Sys2Proof/Machine/Host.lean ====
section
/-! DEFINITION. The host, peers and trust: registers and capability records (R436, R440), the mailbox (R444), accesses of the host and of peers (R438, R439, R442,
R443), errors found by no access (R323), attestation (R446), resets and the loss of power (R322, R447). -/
namespace Sys2Proof.Machine

/-! ### Registers (R436, R440, R444) -/

/-- Set n bytes of PAYLOAD. -/
def payloadPut (m : FMap Byte) (off : Nat) (bs : List Byte) : FMap Byte :=
  bs.zipIdx.foldl (fun m p => if off + p.2 < 16384 then fset 0 m (off + p.2) p.1 else m) m

/-- REGISTER_WRITE: registers with a row of their own are written by that row. -/
def writeRegister (s : State) (r : HostReg) (x : DWord) : State :=
  let host := fun f => { s with dev := { s.dev with host := f s.dev.host } }
  match r with
  | .block off => { s with power := writeBlock s.power off (x.toNat % 4294967296) }
  | .astBase => { s with dev := astRefresh { s.dev with host := { s.dev.host with astBase := x } } }
  | .astN => { s with dev := astRefresh { s.dev with host := { s.dev.host with astN := x.setWidth 32 } } }
  | .arg n => if n < 6 then host fun h => { h with args := fset 0 h.args n (x.setWidth 32) } else s
  | .payload off => host fun h => { h with payload := payloadPut h.payload off (natLe x.toNat 4) }

/-! ### Capability records (R440) -/

/-- Where the mailbox, the power and thermal block and the measurement registers stand in BAR0, each behind the one before. DESIGN CHOICE, log 55. -/
def mailboxAt : Nat := 4096 * (1 + Config.gap 8 % 16)
def blockAt : Nat := mailboxAt + 20480 + 4096 * (Config.gap 9 % 16)
def measureAt : Nat := blockAt + 4096 + 4096 * (Config.gap 10 % 16)

/-- The body of a record by its ID (R440). The widths of fields that the spec does not size are four bytes. DESIGN CHOICE, log 55. -/
def capBody (s : State) : Nat → List Byte
  | 1 => natLe 0x0168 4 ++ natLe Config.siliconStep 4 ++ natLe 1 4 ++ natLe (b2n s.trust.failed) 4
  | 2 => natLe s.dev.host.astBase.toNat 8 ++ natLe s.dev.host.astN.toNat 4
  | 3 => natLe mailboxAt 4
  | 4 => natLe blockAt 4
  | 5 => natLe s.dev.host.peerUp.toNat 4
  | _ => (upto 4).flatMap fun i => natLe (measureAt + 64 * i) 4

/-- A record: its header and body (R440). Its VER is 1. DESIGN CHOICE, log 55. -/
def capRecord (s : State) (id next : Nat) : List Byte :=
  let b := capBody s id
  natLe id 2 ++ natLe 1 1 ++ natLe 0 1 ++ natLe next 4 ++ natLe (16 + b.length) 4 ++ natLe 0 4 ++ b

/-- The bytes from one record to the next, a multiple of 16. -/
def capSpan (s : State) (id : Nat) : Nat := (16 + (capBody s id).length + 15) / 16 * 16 + 16 * (Config.gap id % 16)

/-- The list of records from an offset: each names the next, and the last names none. -/
def capList (s : State) : Nat → List Nat → List (Nat × Nat × List Byte)
  | _, [] => []
  | off, id :: rest =>
    (id, off, capRecord s id (if rest.isEmpty then 0 else off + capSpan s id)) :: capList s (off + capSpan s id) rest

/-- The records that are set, from offset 0 on: each with its ID, its offset and its bytes. -/
def capRecords (s : State) : List (Nat × Nat × List Byte) := capList s 0 s.dev.host.caps

/-- The offset of a record. -/
def capAt (s : State) (id : Nat) : Option Nat := ((capRecords s).find? fun r => r.1 == id).map (·.2.1)

/-- The identity record. -/
def identityRecord (s : State) : List Byte := (((capRecords s).find? fun r => r.1 == 1).map (·.2.2)).getD []

/-- A byte of an area that bytes fill from its start, at an offset in it. -/
def byteIn (bs : List Byte) (hole : Byte) (i : Nat) : Byte := bs.getD i hole

/-- The measurement registers. -/
def measures (t : Trust) : List Byte := [t.m0, t.m1, t.m2, t.m3].flatMap fun m => natLe m.toNat 64

/-- The registers of the mailbox below PAYLOAD: CMD, STAT and ARG0 to ARG5 (R444). -/
def mailboxBytes (h : HostRegs) : List Byte :=
  natLe h.cmd.toNat 4 ++ natLe (packBits [(0, b2n h.busy), (8, h.result.toNat)]) 4 ++ (upto 6).flatMap fun i => natLe (fgetD h.args i 0).toNat 4

/-- A byte of BAR0 outside the power and thermal block (R440, R444, R445). -/
def barByte (s : State) (off : Nat) : Byte :=
  let hole := Config.barHole off
  if mailboxAt + 4096 ≤ off && off < mailboxAt + 20480 then fgetD s.dev.host.payload (off - mailboxAt - 4096) 0
  else if mailboxAt ≤ off && off < mailboxAt + 4096 then byteIn (mailboxBytes s.dev.host) hole (off - mailboxAt)
  else if measureAt ≤ off then byteIn (measures s.trust) hole (off - measureAt)
  else match (capRecords s).find? fun r => decide (r.2.1 ≤ off) && decide (off < r.2.1 + r.2.2.length) with
    | some r => byteIn r.2.2 hole (off - r.2.1)
    | none => hole

/-- The offset in the power and thermal block of an offset of BAR0. -/
def inBlock (off : Nat) : Option Nat := if blockAt ≤ off && off < blockAt + 4096 then some (off - blockAt) else none

/-- A read of BAR0: of the power and thermal block only aligned 4-byte words (R436). -/
def barRead (s : State) (off n : Nat) : List Byte :=
  match inBlock off with
  | some o => match if n = 4 then blockWord s o else none with
    | some x => natLe x 4
    | none => (upto n).map fun i => Config.barHole (off + i)
  | none => (upto n).map fun i => barByte s (off + i)

/-! ### The mailbox (R444) -/

/-- A doorbell with a command and its arguments: while BUSY is 1 it is ignored and gives result 1. DEDUCED, log 25. -/
def doorbell (code : Nat) (args : List Nat) (f : Dev → Dev × Nat) (d : Dev) : Dev :=
  if d.host.busy then { d with host := { d.host with result := 1 } }
  else
    let d := { d with host := { d.host with
      cmd := BitVec.ofNat 8 code, args := args.zipIdx.foldl (fun m p => fset 0 m p.2 (BitVec.ofNat 32 p.1)) d.host.args } }
    let r := f d
    { r.1 with host := { r.1.host with result := BitVec.ofNat 8 r.2 } }

/-- A command on a cluster: result 3 for a number above 23. -/
def onCluster (c : Nat) (f : Dev → Dev) (d : Dev) : Dev × Nat := if 23 < c then (d, 3) else (f d, 0)

/-- The bytes of a ring and, behind them, its status word (R322). -/
def ringBytes (c : Cluster) : List Byte :=
  ((upto 256).map fun i => natLe (fgetD c.ring i 0).toNat 16).flatten ++
    natLe (packBits [(0, c.next.toNat), (8, b2n c.frozen), (16, c.frozenEv.toNat)]) 4

/-- Copy a ring into PAYLOAD. -/
def readRing (c : Nat) (d : Dev) : Dev :=
  { d with host := { d.host with payload := payloadPut d.host.payload 0 (ringBytes (clusterOf d c)) } }

/-- The item a command names: by table entry, queue and the low half of its number; a worker item is complete once its task has ended. -/
def itemNamed (d : Dev) (e q : Nat) (seq : BitVec 32) : Option Nat :=
  (d.items.find? fun p => p.2.entry == e && p.2.queue == q && p.2.seq % 4294967296 == seq.toNat).map (·.1)

/-- A command on an item: result 3 for an entry or queue out of range, 2 where it names no item. -/
def onItem (e q : Nat) (seq : BitVec 32) (f : Dev → Nat → Dev) (d : Dev) : Dev × Nat :=
  if d.host.astN.toNat ≤ e || 4096 ≤ e || 256 ≤ q then (d, 3)
  else match itemNamed d e q seq with
    | some i => (f d i, 0)
    | none => (d, 2)

/-- Pre-empt: adds the mailbox cause (R393). -/
def mboxPreempt (d : Dev) (i : Nat) : Dev := if (itemOf d i).mbox then d else addCause d i (upto 24) fun it => { it with mbox := true }

/-- Resume: ends the mailbox cause (R393). -/
def mboxResume (d : Dev) (i : Nat) : Dev := if (itemOf d i).mbox then endCause d i fun it => { it with mbox := false } else d

/-- What a cluster's reset zeroes of its scratchpad: all but the allocations of the groups whose kill waits, which are zeroed when those are freed (R291, R363). -/
def scReset (d : Dev) (c : Nat) : Dev :=
  let kept := d.groups.filterMap fun p => match p.2.base with
    | some b => if p.2.cluster = c && p.2.state = .live then some (b, p.2.scr) else none
    | none => none
  let stays := fun (x : Nat) => decide (x < scAddr c 0) || decide (scAddr c 0 + 8388608 ≤ x) ||
    kept.any fun a => decide (scAddr c a.1 ≤ x) && decide (x < scAddr c a.1 + a.2)
  let tagged := fun (k : Nat) => decide (k < 1152921504606846976) || stays (k - 1152921504606846976)
  { d with
    scratch := d.scratch.filter fun p => stays p.1
    scPoison := d.scPoison.filter fun k => stays (4 * k)
    tags := d.tags.filter fun p => tagged p.1
    rels := d.rels.filter fun p => tagged p.1 }

/-- Cluster reset: every group on the cluster is killed by R394, its scratchpad zeroed, its quays emptied, and a fatal error is over; ring and memory stay. -/
def clusterReset (c : Nat) (d : Dev) : Dev :=
  let d := setCluster d c fun k => { k with fatal := false }
  let its := (d.items.filter fun p => !(groupsAt d p.1 [c]).isEmpty).map (·.1)
  let lone := (d.groups.filter fun p => p.2.cluster == c && !d.items.any fun q => q.2.uses q.1 p.2).map (·.1)
  let d := lone.foldl killGroup (its.foldl (fun d i => killItemAt d c i) d)
  scReset { d with quays := d.quays.filter fun p => p.1 / 16 != c } c

/-- What an attestation report says (R446): the nonce from PAYLOAD, the identity record, and M0 to M3. -/
def reportBody (s : State) : List Byte :=
  ((upto 64).map fun i => fgetD s.dev.host.payload i 0) ++ identityRecord s ++ measures s.trust

/-- The attestation report fills PAYLOAD (R446): what it says, its signature of 4,627 bytes, and the certificate chain of the key. -/
def attest (s : State) : State :=
  let body := reportBody s
  let rep := body ++ (upto 4627).map (Config.signature body) ++ Config.certificates
  { s with dev := doorbell 8 [] (fun d => ({ d with host := { d.host with payload := payloadPut d.host.payload 0 rep } }, 0)) s.dev }

/-! ### Resets and power (R322, R445, R447) -/

/-- The device after its reset sequence: scratchpad and L2 are zeroed, and memory and the rings stay, with the poison and the marks of lines. DEDUCED, log 25. -/
def devReset (d : Dev) : Dev :=
  { turns := d.turns, tick := d.tick, fresh := d.fresh, mem := d.mem, poison := d.poison, marks := d.marks
    clusters := d.clusters.map fun p => (p.1, keepRing p.2) }

/-- An image verifies: its key is the root key whose hash is fused, the key signs it, and its security version is not below the fused counter (R445). -/
def imageOk (m : Image) : Bool :=
  Sha3.sha3 m.key == Config.rootHash && Config.verifies m.key m.code m.sig && decide (Config.fusedVersion ≤ m.version)

/-- Every firmware image verifies (R445). -/
def firmwareOk (tick : Nat) : Bool := (upto 4).all fun i => imageOk (Config.image tick i)

/-- The capability records are set (R447): of a device whose images fail, the identity record, which reports it (R445). -/
def setCaps (bad : Bool) (d : Dev) : Dev := { d with host := { d.host with caps := if bad then [1] else capIds } }

/-- DEVICE_RESET (R447): the images are measured and verified, and a device whose images fail stays in reset. -/
def resetAll (s : State) : State :=
  let bad := !firmwareOk s.dev.tick
  { dev := setCaps bad (devReset s.dev), power := powerReset, trust := { trustAt s.dev.tick with inReset := bad, failed := bad } }

/-- POWER_LOSS: nothing of the module is left but host memory. -/
def losePower (s : State) : State := { s with dev := unpowered s.dev [], trust := { s.trust with power := false } }

/-! ### Accesses of the host and of peers (R439, R443) -/

/-- A host read, at the coherence point. -/
def readByHost (d : Dev) (a n : Nat) : Dev :=
  let d := outsideRead d a n
  { d with host := { d.host with read := bytesAt (memRead d.mem) a n } }

/-- The lines of a range. -/
def linesOf (a n : Nat) : List Nat := if n = 0 then [] else (upto (lineOf (a + n - 1) - lineOf a + 1)).map (lineOf a + ·)

/-- The lines a write covers whole lose their poison (R319). DEDUCED, log 25. -/
def cleanWhole (d : Dev) (a n : Nat) : Dev :=
  { d with poison := (linesOf a n).foldl (fun m l => if a ≤ 128 * l && 128 * l + 128 ≤ a + n then sdel m l else m) d.poison }

/-- The physical line that an address of a sampler's header key lies in, as it is translated now. -/
def keyLine (d : Dev) (key va : Nat) : Option Nat :=
  let vmid := BitVec.ofNat 12 (key / 1208925819614629174706176)
  let asid := BitVec.ofNat 16 (key / 18446744073709551616)
  match walkPage d vmid asid va with
  | .ok l => some (lineOf ((l.tlb 0 vmid asid).addr va))
  | .error _ => none

/-- A sampler without its copies of lines: headers, those being read, texel lines, and weight entries; a fill of weights reads such a line again. -/
def samplerForget (d : Dev) (ls : List Nat) (s : Sampler) : Sampler :=
  let hit := fun (key va : Nat) => (keyLine d key va).any ls.contains
  let part := fun (w : WEntry) (n : Nat) => hit w.hdr (weightPart w n).1
  { s with
    hdrs := s.hdrs.filter fun p => !hit p.1 (keyVa p.1)
    hreads := s.hreads.filter fun p => !hit p.1 (keyVa p.1)
    lines := s.lines.map fun p => (p.1, p.2.filter fun q => !hit p.1 (128 * q.1))
    weights := s.weights.filterMap fun p =>
      if p.2.filling then some (p.1, { p.2 with got := p.2.got.filter fun q => !part p.2 q.1 })
      else if (upto p.2.len).any (part p.2) then none else some p }

/-- Lines leave the samplers and the fetch caches of every core (R439). -/
def forgetLines (d : Dev) (ls : List Nat) : Dev :=
  { d with
    samplers := d.samplers.map fun p => (p.1, samplerForget d ls p.2)
    fetch := d.fetch.filter fun p => !ls.contains (p.1 % 1152921504606846976 / 32) }

/-- A host write: every copy that the device has of its lines leaves it, tags are discarded, and the bytes are written at the coherence point (R307, R439). -/
def writeByHost (d : Dev) (a : Nat) (bs : List Byte) : Dev :=
  let d := (linesOf a bs.length).foldl invalidateLine (forgetLines d (linesOf a bs.length))
  let d := Machine.tagDrop (cleanWhole d a bs.length) a bs.length
  relsSet (sysWriteBytes d a bs) 0 a bs.length fun _ => outsideRel d

/-- Where byte i of a peer's access lies; none where it has no translation here or no permission. -/
def peerPlace (d : Dev) (r : PeerReq) (need : Need) (i : Nat) : Option Nat :=
  match (xlatNow d 168 r.vmid r.asid (r.va.toNat % 2 ^ 41 + i) need (!r.priv)).2 with
  | .ok pa => some pa
  | .error _ => none

/-- Write bytes of a peer at L2, each at its place. -/
def peerWrite (d : Dev) (ps : List Nat) (bs : List Byte) : Dev :=
  (ps.zip bs).foldl (fun d p => relsSet (Machine.tagDrop (l2Write d p.1 p.2) p.1 1) 0 p.1 1 fun _ => outsideRel d) d

/-- A peer's write of a whole line clears its poison (R319). DEDUCED, log 25. -/
def cleanPlaces (d : Dev) (ps : List Nat) : Dev :=
  { d with poison := d.poison.filter fun l => !(upto 128).all fun i => ps.contains (128 * l + i) }

/-- The bytes that answer an access. -/
def reply (d : Dev) (bs : List Byte) : Dev := { d with host := { d.host with read := bs } }

/-- A step of a peer at L2: the old value answers it, and a new one, where there is one, is written (R168, R288); an f32 or f64 `.add` to a marked set is
folded (R413). -/
def peerStep (d : Dev) (ps : List Nat) (t : Ty) (fold : Bool) (x : DWord) (f : DWord → Option DWord) : Dev :=
  let a := ps.headD 0
  let o := BitVec.ofNat 64 (leNat (ps.map (l2Byte d)))
  if fold && shas d.marks (a / 64) then
    let b := binsAt d .l2 (a / 64 * 64)
    let d := reply d (natLe (binRes b t).1.toNat (t.wid / 8))
    (binAdd b (decTy t x.toNat)).bytes.zipIdx.foldl (fun d p => l2Put d (a / 64 * 64 + p.2) p.1) d
  else reply (match f o with
    | some y => peerWrite d ps (natLe y.toNat (t.wid / 8))
    | none => d) (natLe o.toNat (t.wid / 8))

/-- A peer's RBEXP or RBADD of one term at L2: the set is written and marked (R228, R412). -/
def peerBins (d : Dev) (base : Nat) (f : BinSet → BinSet) : Dev :=
  let acc : Acc := { (default : Acc) with pol := .l2 }
  relsSet (Machine.tagDrop (putBins d acc base (f (binsAt d .l2 base))) base binBytes) 0 base binBytes fun _ => outsideRel d

/-- PEER_ACCESS: an access of a trained link is translated under its own VMID and ASID and performed at this device's L2; one that is refused here,
or whose read meets poison, has no effect. -/
def peerAct (d : Dev) (r : PeerReq) : Dev :=
  let place := fun (need : Need) (n : Nat) => (upto n).map (peerPlace d r need)
  let ok := fun (reads : Bool) (l : List (Option Nat)) => l.all fun p => match p with
    | some a => !(reads && poisoned d a)
    | none => false
  let take := fun (l : List (Option Nat)) => (l.filterMap id).foldl (fun d a => outsideRead d a 1) d
  let step := fun (t : Ty) (fold : Bool) (x : DWord) (f : DWord → Option DWord) =>
    let l := place .rw (t.wid / 8)
    if ok true l then peerStep (take l) (l.filterMap id) t fold x f else d
  let bins := fun (need : Need) (f : Dev → Nat → Dev) =>
    let l := place need binBytes
    if r.va.toNat % 64 = 0 && ok true l then f (take l) ((l.filterMap id).headD 0) else d
  if 8 ≤ r.port || !d.host.peerUp.getLsbD r.port then d
  else match r.op with
  | .read n =>
    let l := place .r n
    if ok true l then reply (take l) ((l.filterMap id).map (l2Byte d)) else d
  | .write bs => let l := place .w bs.length; if ok false l then peerWrite (cleanPlaces d (l.filterMap id)) (l.filterMap id) bs else d
  | .atom op t x => step t (op == .add && t.isFloat && t != .f16 && t != .bf16) x fun o => some (atomNew op t o x)
  | .cas t c n => step t false n fun o => if o = c then some n else none
  | .rbexp t x => bins .rw fun d a => peerBins d a fun b => binExp b (decTy t x.toNat)
  | .rbadd t x => bins .rw fun d a => peerBins d a fun b => binAdd b (decTy t x.toNat)
  | .rbres t => bins .r fun d a => reply d (natLe (binRes (binsAt d .l2 a) t).1.toNat (t.wid / 8))

/-- The ring that takes an error found by no cluster's access (R323). DEDUCED, log 41. -/
def scrubRing : ScrubSrc → Nat
  | .dram m => m % 24
  | .l2 s => s % 24
  | .port => 0

/-- REFRESH_OR_SCRUB (R323). -/
def scrub (d : Dev) (src : ScrubSrc) (a : Nat) (err : MemErr) : Dev :=
  let c := scrubRing src
  match err with
  | .corrected e => blackBox d c 1 7 (errData e)
  | .poison e => poisonLine (blackBox d c 2 7 (errData e)) a
  | .fatal e => fatalError d c 7 e
  | _ => d

/-- PEER_LINK_TRAINING (R440, R443). -/
def trainLink (d : Dev) (port : Nat) (up : Bool) : Dev :=
  let bit : BitVec 8 := 1 <<< port
  { d with host := { d.host with peerUp := if up then d.host.peerUp ||| bit else d.host.peerUp &&& ~~~bit } }

/-- A write of CMD is the doorbell, with the arguments that ARG0 to ARG5 hold (R444). What a command that the table does not name returns is free. DESIGN
CHOICE, log 55. -/
def ringDoorbell (x : Nat) (s : State) : State :=
  let arg := fun i => (fgetD s.dev.host.args i 0).toNat
  let on := fun (f : Dev → Dev × Nat) => { s with dev := doorbell (x % 256) [] f s.dev }
  let item := fun (f : Dev → Nat → Dev) => on (onItem (arg 0) (arg 1) (BitVec.ofNat 32 (arg 2)) f)
  match x % 256 with
  | 1 => on (onCluster (arg 0) (readRing (arg 0)))
  | 2 => on (onCluster (arg 0) fun dv => setCluster dv (arg 0) fun k => { k with frozen := false })
  | 3 => item mboxPreempt
  | 4 => item mboxResume
  | 5 => item killItem
  | 6 => on (onCluster (arg 0) (clusterReset (arg 0)))
  | 7 => if s.dev.host.busy then on fun dv => (dv, 0) else resetAll s
  | 8 => attest s
  | _ => on fun dv => (dv, Config.pick s.dev.tick 13 256)

/-- Replace a 4-byte word of a number. -/
def putWord (x i v : Nat) : Nat := x - nbits x (32 * i) 32 * 2 ^ (32 * i) + v * 2 ^ (32 * i)

/-- A write of one aligned 4-byte word of BAR0; one that names no register, or none that can be written, is ignored (R436, R440, R444). -/
def barWord (off v : Nat) (s : State) : State :=
  if mailboxAt ≤ off && off < mailboxAt + 20480 then
    let o := off - mailboxAt
    if o = 0 then ringDoorbell v s
    else if 8 ≤ o && o < 32 then writeRegister s (.arg ((o - 8) / 4)) (BitVec.ofNat 64 v)
    else if 4096 ≤ o then writeRegister s (.payload (o - 4096)) (BitVec.ofNat 64 v)
    else s
  else match inBlock off, capAt s 2 with
    | some o, _ => blockWrite s o v
    | none, some p =>
      if off = p + 16 then writeRegister s .astBase (BitVec.ofNat 64 (putWord s.dev.host.astBase.toNat 0 v))
      else if off = p + 20 then writeRegister s .astBase (BitVec.ofNat 64 (putWord s.dev.host.astBase.toNat 1 v))
      else if off = p + 24 then writeRegister s .astN (BitVec.ofNat 64 v)
      else s
    | none, none => s

/-- A write of BAR0: aligned words, and in the power and thermal block one alone (R436). -/
def barWrite (off : Nat) (bs : List Byte) (s : State) : State :=
  if off % 4 ≠ 0 || bs.length % 4 ≠ 0 || ((inBlock off).isSome && bs.length ≠ 4) then s
  else (upto (bs.length / 4)).foldl (fun s i => barWord (off + 4 * i) (leNat ((bs.drop (4 * i)).take 4)) s) s

/-- HOST_READ: device memory, a register, or an aperture, which reads as zero (R438, R439, R442). An access outside the window does not reach the device. -/
def hostLoad (s : State) (a : HostAddr) (n : Nat) : State :=
  if !a.ok n then s
  else match a with
  | .hdm a => { s with dev := readByHost s.dev a n }
  | .bar0 o => { s with dev := reply s.dev (barRead s o n) }
  | .bar2 _ => { s with dev := reply s.dev ((upto n).map fun _ => 0) }

/-- HOST_WRITE: queue q of entry a has its aperture at 16,384 a + 64 q of BAR2 (R438, R439, R442). -/
def hostStore (s : State) (a : HostAddr) (bs : List Byte) : State :=
  if !a.ok bs.length then s
  else match a with
  | .hdm a => { s with dev := writeByHost s.dev a bs }
  | .bar0 o => barWrite o bs s
  | .bar2 o => { s with dev := aperture s.dev (o / 16384) (o % 16384 / 64) (o % 64 == 0) bs }

/-- An effect on the whole machine. -/
def onAll (f : State → State) (s : State) : Host.Outcome State Fault Refusal := .next (f s)

/-- a write to another device register (R436) -/
def execRegisterWrite (reg : HostReg) (val : BitVec 64) : State → Host.Outcome State Fault Refusal :=
  onAll (fun s => writeRegister s reg val)

/-- copy a ring into PAYLOAD (R444) -/
def execMailboxReadRing (c : Nat) : State → Host.Outcome State Fault Refusal :=
  onDev (doorbell 1 [c] (onCluster c (readRing c)))

/-- clear FROZEN (R444) -/
def execMailboxClearFrozen (c : Nat) : State → Host.Outcome State Fault Refusal :=
  onDev (doorbell 2 [c] (onCluster c fun dv => setCluster dv c fun k => { k with frozen := false }))

/-- add the mailbox cause (R444) -/
def execMailboxPreempt (entry : Nat) (queue : Nat) (seq : BitVec 32) : State → Host.Outcome State Fault Refusal :=
  onDev (doorbell 3 [entry, queue, seq.toNat] (onItem entry queue seq mboxPreempt))

/-- end the mailbox cause (R444) -/
def execMailboxResume (entry : Nat) (queue : Nat) (seq : BitVec 32) : State → Host.Outcome State Fault Refusal :=
  onDev (doorbell 4 [entry, queue, seq.toNat] (onItem entry queue seq mboxResume))

/-- kill an item (R444) -/
def execMailboxKill (entry : Nat) (queue : Nat) (seq : BitVec 32) : State → Host.Outcome State Fault Refusal :=
  onDev (doorbell 5 [entry, queue, seq.toNat] (onItem entry queue seq killItem))

/-- reset a cluster (R444) -/
def execMailboxClusterReset (c : Nat) : State → Host.Outcome State Fault Refusal :=
  onDev (doorbell 6 [c] (onCluster c (clusterReset c)))

/-- reset the device (R444) -/
def execMailboxDeviceReset : State → Host.Outcome State Fault Refusal :=
  onAll (fun s => if s.dev.host.busy then { s with dev := doorbell 7 [] (fun dv => (dv, 0)) s.dev } else resetAll s)

/-- attestation report (R446) -/
def execMailboxAttestation : State → Host.Outcome State Fault Refusal :=
  onAll attest

/-- the device reset sequence (R447) -/
def execDeviceReset : State → Host.Outcome State Fault Refusal :=
  onAll resetAll

/-- module power is lost (R322) -/
def execPowerLoss : State → Host.Outcome State Fault Refusal :=
  onAll losePower

/-- a host read of device memory (R439), or of registers -/
def execHostRead (addr : HostAddr) (n : Nat) : State → Host.Outcome State Fault Refusal :=
  onAll (fun s => hostLoad s addr n)

/-- a host write (R439) -/
def execHostWrite (addr : HostAddr) (bytes : List Byte) : State → Host.Outcome State Fault Refusal :=
  onAll (fun s => hostStore s addr bytes)

/-- an access arriving from a peer (R443) -/
def execPeerAccess (req : PeerReq) : State → Host.Outcome State Fault Refusal :=
  onDev (fun dv => peerAct dv req)

/-- a refresh or scrub, or a port, finds an error (R323) -/
def execRefreshOrScrub (src : ScrubSrc) (addr : Nat) (err : MemErr) : State → Host.Outcome State Fault Refusal :=
  onDev (fun dv => scrub dv src addr err)

/-- a peer link gains or loses training (R443) -/
def execPeerLinkTraining (port : Nat) (up : Bool) : State → Host.Outcome State Fault Refusal :=
  onDev (fun dv => trainLink dv port up)

end Sys2Proof.Machine
end

