-- ==== Sys2Proof/Machine/Background.lean ====
section
/-! DEFINITION. What happens without an instruction or event of the opcode table: copies are written back or dropped, buffers drop
entries, time passes, sequencers issue (R105, R186, R214, R274, R290, R292, R296, R307), and what every step begins with. -/
namespace Sys2Proof.Machine

/-- n ns of a cluster's reference input pass (R274); its upper core is seen idle or not (R436). DESIGN CHOICE, log 37. -/
def elapse (d : Dev) (c n : Nat) : Dev :=
  let idle := upperIdle d c && (clusterOf d c).gate == .powered
  setCluster d c fun k => { k with
    etime := k.etime + n
    idleAt := if idle then (match k.idleAt with
      | some t => some t
      | none => some k.etime) else none }

/-- A race tag of a global granule is dropped (R307); those of scratchpad last as long as their allocation. -/
def dropTag (d : Dev) (g : Nat) : Dev := if g < 288230376151711744 then { d with tags := (granuleKeys g).foldl fdel d.tags } else d

/-- A part acts on its own. -/
def background (t : Turn) (d : Dev) : Dev :=
  match t with
  | .issue _ _ | .event _ => d
  | .l1Evict set line drop => if drop then l1Drop d set line else l1WriteBack d set line
  | .l2Clean line => l2CleanLine d line
  | .tlbDrop k => { d with tlb := fdel d.tlb k }
  | .fetchDrop core word => { d with fetch := fdel d.fetch (fetchKey core (4 * word)) }
  | .tagDrop g => dropTag d g
  | .elapse c n => elapse d c n
  | .sequencer c k => seqTurn d c k
  | .hdrinvAt i core => hdrinvCore d i core
  | .headerPart core hdr part => headerPart d core hdr part
  | .weightLine core k line => weightLine d core k line
  | .lmmPassStart core => passStart d core
  | .xformStep i => xformTurn d i
  | .rowError u i ln index => rowError d u i ln index
  | .watchDrop u ln => if (watchOf d u ln).isSome then loseWatch d u ln else d

/-- What every step begins with: the turn at hand; queue engines have followed memory (R379). -/
def nextTurn (d : Dev) : Turn × Dev :=
  let p := takeTurn d
  (p.1, syncQueues p.2)

/-- A reset: by a pin, or by the mailbox's command, over the sideband or as a write of CMD (R444, R447). -/
def isReset : Turn → Bool
  | .event .deviceReset => true
  | .event .mailboxDeviceReset => true
  | .event (.hostWrite (.bar0 off) bs) => off == mailboxAt && bs.length == 4 && bs.headD 0 == 7
  | _ => false

/-- A read of BAR0. -/
def isBarRead : Turn → Bool
  | .event (.hostRead (.bar0 _) _) => true
  | _ => false

/-- A device without power, or whose thermal trip has removed it, answers nothing but a reset; it can still lose the power of its always-on rail (R322, R435).
DEDUCED, log 9. -/
def noPower (s : State) (t : Turn) : Bool := (!s.trust.power || s.power.tripped) && !isReset t && t != .event .powerLoss

/-- A device whose firmware failed stays in reset: nothing happens but another reset, the loss of power, or a read of its identity record (R445). DEDUCED, log 9. -/
def stillReset (s : State) (t : Turn) : Bool :=
  s.trust.inReset && !isReset t && !isBarRead t && t != .event .powerLoss

end Sys2Proof.Machine
end

