-- ==== Sys2Proof/Machine/Ray.lean ====
section
/-! DEFINITION. Ray tests (R218 to R220). -/
namespace Sys2Proof.Machine

/-- f32 word j of bytes, as a value. -/
def byteFV (bs : List Byte) (off : Nat) : FV := decTy .f32 (fieldAt bs off 4)
/-- Register j of a lane's ray, as a value. -/
def rayFV (e : Env) (ln : Nat) (ray : Opnd) (j : Nat) : FV := fvOf ((readBlock e ln ray 8).getD j 0)
/-- The difference of two values. -/
def subFV (a b : FV) : FV := addFV a (negFV b)
/-- The code of a value rounded to f32 in a mode. -/
def code32 (m : Rnd) (x : FV) : DWord := (roundTy .f32 m false 0 x).1
/-- An f32 code as a value. -/
def val32 (c : DWord) : FV := decTy .f32 c.toNat
/-- A value the spec does not state (R219, R220). DESIGN CHOICE, log 12. -/
def freeCode (d : Dev) (nonce : Nat) : DWord := BitVec.ofNat 64 (Config.pick d.tick nonce 4294967296 % 4294967296)

/-! ### RAYBOX (R219) -/

/-- What an axis of a box gives: a miss, no bound, or the bounds n and f. -/
inductive AxisRes
  | miss
  | all
  | span (n f : DWord)

/-- One axis of a box. Where an infinite bound meets a zero, or an infinite origin an equal bound, the product has no stated value, and n and f are free. A product that
is 0 has the sign that the factors give it, a difference of 0 being +0. DESIGN CHOICE, log 12. -/
def boxAxis (d : Dev) (nonce : Nat) (lo hi o i : FV) : AxisRes :=
  if lo.isNan || hi.isNan || o.isNan || 0 < cmpFV lo hi then .miss
  else if i.isNan || i.isInf then (if cmpFV lo o ≤ 0 && cmpFV o hi ≤ 0 then .all else .miss)
  else
    let p := prodFV (subFV lo o) i
    let q := prodFV (subFV hi o) i
    if p.isNan || q.isNan then .span (freeCode d nonce) (freeCode d (nonce + 1))
    else if cmpFV p q ≤ 0 then .span (code32 .rdn p) (code32 .rup q) else .span (code32 .rdn q) (code32 .rup p)

/-- The larger, or the smaller, of bounds; a NaN limit of the ray gives a free value. -/
def boundOf (d : Dev) (nonce : Nat) (mx : Bool) (t : DWord) (l : List DWord) : DWord :=
  if (val32 t).isNan then freeCode d nonce else l.foldl (fun a b => (minmaxTy .f32 mx a b).1) t

/-- Box j: its tn where it hits. -/
def boxHit (d : Dev) (ln j : Nat) (bs : List Byte) (ray : Nat → FV) (tmin tmax : DWord) : Option DWord :=
  let ax := (upto 3).map fun a => boxAxis d (4096 * ln + 64 * j + 2 * a) (byteFV bs (24 * j + 4 * a)) (byteFV bs (24 * j + 12 + 4 * a)) (ray a) (ray (4 + a))
  let tn := boundOf d (4096 * ln + 64 * j + 8) true tmin (ax.filterMap fun x => match x with
    | .span n _ => some n
    | _ => none)
  let tf := boundOf d (4096 * ln + 64 * j + 9) false tmax (ax.filterMap fun x => match x with
    | .span _ f => some f
    | _ => none)
  if ax.any (fun x => match x with
      | .miss => true
      | _ => false) || (val32 tn).isNan || (val32 tf).isNan || 0 < cmpFV (val32 tn) (val32 tf) then none else some tn

/-- Insert a box by ascending tn, after those of equal tn. -/
def insertBox (p : Nat × DWord) : List (Nat × DWord) → List (Nat × DWord)
  | [] => [p]
  | q :: t => if cmpFV (val32 p.2) (val32 q.2) < 0 then p :: q :: t else q :: insertBox p t

/-- The two words RAYBOX writes. -/
def rayboxOut (hits : List (Nat × Option DWord)) : List Word :=
  let hit := (hits.filterMap fun p => p.2.map fun t => (p.1, t)).foldl (fun l p => insertBox p l) []
  let order := hit.map (·.1) ++ (hits.filter fun p => p.2.isNone).map (·.1)
  let mask := hit.foldl (fun n p => n + 2 ^ p.1) 0
  let nums := order.zipIdx.foldl (fun n p => n + p.1 * 4 ^ p.2) 0
  [BitVec.ofNat 32 (mask + 16 * nums), match hit with
    | p :: _ => p.2.setWidth 32
    | [] => 0x7F800000]

/-- One lane's RAYBOX. -/
def rayboxLane (dst ray node : Opnd) (e : Env) (d : Dev) (ln : Nat) : Dev :=
  match rangeRead true .l1 d e ln (readN64 e ln node) 96 with
  | (d, bs) =>
    let lim := fun (j : Nat) => ((readBlock e ln ray 8).getD j 0).setWidth 64
    let hits := (upto 4).map fun j => (j, boxHit d ln j bs (rayFV e ln ray) (lim 3) (lim 7))
    setSquad d e.sq fun s => (s.writeBlock ln dst (rayboxOut hits)).setLane ln Lane.advance

/-! ### RAYTRI (R220) -/

/-- Round to f32 by RNE. -/
def rn (x : FV) : FV := round32 false x
/-- A quotient rounded once. -/
def quo (a b : FV) : DWord := (fdivVal .f32 .rne false a b).1
/-- A value is neither NaN nor infinite. -/
def FV.finite (x : FV) : Bool := !x.isNan && !x.isInf

/-- The axes kx, ky and kz. -/
def rayAxes (dir : Nat → FV) : Nat × Nat × Nat :=
  let big := fun (a b : Nat) => if cmpFV (absFV (dir a)) (absFV (dir b)) < 0 then b else a
  let kz := big (big 0 1) 2
  let kx := (kz + 1) % 3
  let ky := (kx + 1) % 3
  if (dir kz).neg then (ky, kx, kz) else (kx, ky, kz)

/-- A sheared vertex: x, y and z. -/
def shear (o v : Nat → FV) (k : Nat × Nat × Nat) (sx sy sz : FV) : FV × FV × FV :=
  let ez := rn (subFV (v k.2.2) (o k.2.2))
  let at_ := fun (a : Nat) (s : FV) => rn (subFV (rn (subFV (v a) (o a))) (prodFV s ez))
  (at_ k.1 sx, at_ k.2.1 sy, rn (prodFV sz ez))

/-- An edge function, exact. -/
def edge (a b : FV × FV × FV) : FV := subFV (prodFV a.1 b.2.1) (prodFV a.2.1 b.1)

/-- The words of a miss. -/
def rayMiss : List Word := [0x7F800000, 0, 0, 0]

/-- The sign of a value against zero. -/
def signFV (x : FV) : Int := cmpFV x (intFV 0)

/-- Whether a ray of sheared vertices hits; none where an infinite value on the way leaves it open. -/
def triHit (cull : Bool) (u v w det t tmin tmax : FV) : Option Bool :=
  let uvw := [u, v, w]
  let above := uvw.any fun x => !x.isNan && 0 < signFV x
  let below := uvw.any fun x => !x.isNan && signFV x < 0
  if above && below then some false
  else if det.isNan then none
  else
    let s := signFV det
    let lo := prodFV tmin det
    let hi := prodFV tmax det
    if s = 0 || (cull && s < 0) then some false
    else if det.isInf || t.isNan then none
    else some (if 0 < s then cmpFV lo t ≤ 0 && cmpFV t hi ≤ 0 else 0 ≤ cmpFV lo t && 0 ≤ cmpFV t hi)

/-- What RAYTRI writes for sheared vertices. -/
def triOut (d : Dev) (ln : Nat) (cull : Bool) (a b c : FV × FV × FV) (tmin tmax : FV) : List Word :=
  let u := edge c b
  let v := edge a c
  let w := edge b a
  let det := addFV (addFV u v) w
  let t := addFV (addFV (prodFV u a.2.2) (prodFV v b.2.2)) (prodFV w c.2.2)
  match triHit cull u v w det t tmin tmax with
  | some true => [(quo t det).setWidth 32, (quo v det).setWidth 32, (quo w det).setWidth 32, 1]
  | some false => rayMiss
  | none =>
    if Config.pick d.tick (8 * ln) 2 = 0 then rayMiss
    else (upto 3).map (fun j => (freeCode d (8 * ln + j + 1)).setWidth 32) ++ [1]

/-- RAYTRI of a ray and a triangle. Where finite inputs round to an infinity on the way, what the rule leaves open is free: DESIGN CHOICE, log 12. -/
def raytriOut (d : Dev) (ln : Nat) (cull : Bool) (ray : Nat → FV) (bs : List Byte) : List Word :=
  let dir := fun (a : Nat) => ray (4 + a)
  let vert := fun (p a : Nat) => byteFV bs (12 * p + 4 * a)
  if !(upto 8).all (fun j => (ray j).finite) || !(upto 9).all (fun j => (byteFV bs (4 * j)).finite) || (upto 3).all fun a => (dir a).isZero then rayMiss
  else
    let k := rayAxes dir
    let z := dir k.2.2
    let vs := fun p => shear ray (vert p) k (val32 (quo (dir k.1) z)) (val32 (quo (dir k.2.1) z)) (val32 (quo (intFV 1) z))
    triOut d ln cull (vs 0) (vs 1) (vs 2) (ray 3) (ray 7)

/-- One lane's RAYTRI. -/
def raytriLane (cull : Bool) (dst ray tri : Opnd) (e : Env) (d : Dev) (ln : Nat) : Dev :=
  match rangeRead true .l1 d e ln (readN64 e ln tri) 36 with
  | (d, bs) => setSquad d e.sq fun s => (s.writeBlock ln dst (raytriOut d ln cull (rayFV e ln ray) bs)).setLane ln Lane.advance

/-- RAYBOX vD, ray, node (R219) -/
def execRaybox (h : Hd) (d ray node : Opnd) : State → Host.Outcome State Fault Refusal :=
  onDev (issueChk (rawOf (.raybox h d ray node)) (fun dv e ln => rangeChk true .l1 96 32 (readN64 e ln node) dv e ln) (fun e lns dv => lns.foldl (rayboxLane d ray node e) dv))

/-- RAYTRI[.cull] vD, ray, tri (R220) -/
def execRaytri (h : Hd) (cull : Bool) (d ray tri : Opnd) : State → Host.Outcome State Fault Refusal :=
  onDev (issueChk (rawOf (.raytri h cull d ray tri)) (fun dv e ln => rangeChk true .l1 36 4 (readN64 e ln tri) dv e ln) (fun e lns dv => lns.foldl (raytriLane cull d ray tri e) dv))

end Sys2Proof.Machine
end

