-- ==== Sys2Proof/Machine/Dispatch.lean ====
section
/-! DEFINITION. One arm per instruction. -/
namespace Sys2Proof.Machine

/-- The meaning of an instruction. -/
def exec (i : Instr) (s : State) : Host.Outcome State Fault Refusal :=
  match i with
  | .clauseEntry len waitFor seta setb cls yp => Sys2Proof.Machine.execClauseEntry len waitFor seta setb cls yp s
  | .bra h disp => Sys2Proof.Machine.execBra h disp s
  | .brx h va => Sys2Proof.Machine.execBrx h va s
  | .call h d disp => Sys2Proof.Machine.execCall h d disp s
  | .callx h d va => Sys2Proof.Machine.execCallx h d va s
  | .ret h va => Sys2Proof.Machine.execRet h va s
  | .exit h => Sys2Proof.Machine.execExit h s
  | .nop h => Sys2Proof.Machine.execNop h s
  | .yield h => Sys2Proof.Machine.execYield h s
  | .meet h a disp => Sys2Proof.Machine.execMeet h a disp s
  | .brk h code => Sys2Proof.Machine.execBrk h code s
  | .waitv h t pol tmo d va e => Sys2Proof.Machine.execWaitv h t pol tmo d va e s
  | .gjoin h d cnt key => Sys2Proof.Machine.execGjoin h d cnt key s
  | .gleave h => Sys2Proof.Machine.execGleave h s
  | .gbar h b => Sys2Proof.Machine.execGbar h b s
  | .garv h b => Sys2Proof.Machine.execGarv h b s
  | .gwait h b => Sys2Proof.Machine.execGwait h b s
  | .tkwait h tk => Sys2Proof.Machine.execTkwait h tk s
  | .tkpass h tk => Sys2Proof.Machine.execTkpass h tk s
  | .mjoin h a => Sys2Proof.Machine.execMjoin h a s
  | .mleave h a => Sys2Proof.Machine.execMleave h a s
  | .mwait h a => Sys2Proof.Machine.execMwait h a s
  | .mget h d a part => Sys2Proof.Machine.execMget h d a part s
  | .mset h d part x => Sys2Proof.Machine.execMset h d part x s
  | .vote h op d a mc => Sys2Proof.Machine.execVote h op d a mc s
  | .ballot h d a part mc => Sys2Proof.Machine.execBallot h d a part mc s
  | .shfl h md t d a b mc => Sys2Proof.Machine.execShfl h md t d a b mc s
  | .lred h op t sat d a mc => Sys2Proof.Machine.execLred h op t sat d a mc s
  | .lscan h op exc t sat d a mc => Sys2Proof.Machine.execLscan h op exc t sat d a mc s
  | .lbcast h t d a ls mc => Sys2Proof.Machine.execLbcast h t d a ls mc s
  | .lmatch h t d a mc => Sys2Proof.Machine.execLmatch h t d a mc s
  | .iadd h t sat d a b => Sys2Proof.Machine.execIadd h t sat d a b s
  | .isub h t sat d a b => Sys2Proof.Machine.execIsub h t sat d a b s
  | .iadd3 h t sat d a b c => Sys2Proof.Machine.execIadd3 h t sat d a b c s
  | .imul h t sat d a b => Sys2Proof.Machine.execImul h t sat d a b s
  | .imulh h t d a b => Sys2Proof.Machine.execImulh h t d a b s
  | .imad h t sat acc d a b c => Sys2Proof.Machine.execImad h t sat acc d a b c s
  | .imadw h t sat acc d a b c => Sys2Proof.Machine.execImadw h t sat acc d a b c s
  | .idiv h t sat d a b => Sys2Proof.Machine.execIdiv h t sat d a b s
  | .irem h t d a b => Sys2Proof.Machine.execIrem h t d a b s
  | .imin h t d a b => Sys2Proof.Machine.execImin h t d a b s
  | .imax h t d a b => Sys2Proof.Machine.execImax h t d a b s
  | .iabs h t sat d a => Sys2Proof.Machine.execIabs h t sat d a s
  | .ineg h t sat d a => Sys2Proof.Machine.execIneg h t sat d a s
  | .icmp h cc t d a b => Sys2Proof.Machine.execIcmp h cc t d a b s
  | .isel h t d a b c => Sys2Proof.Machine.execIsel h t d a b c s
  | .iadd64 h t sat d a b => Sys2Proof.Machine.execIadd64 h t sat d a b s
  | .isub64 h t sat d a b => Sys2Proof.Machine.execIsub64 h t sat d a b s
  | .imul64 h t hi d a b => Sys2Proof.Machine.execImul64 h t hi d a b s
  | .and h t d a b => Sys2Proof.Machine.execAnd h t d a b s
  | .or h t d a b => Sys2Proof.Machine.execOr h t d a b s
  | .xor h t d a b => Sys2Proof.Machine.execXor h t d a b s
  | .not h t d a => Sys2Proof.Machine.execNot h t d a s
  | .blut h t d a b lut => Sys2Proof.Machine.execBlut h t d a b lut s
  | .shl h t d a sh => Sys2Proof.Machine.execShl h t d a sh s
  | .shr h t d a sh => Sys2Proof.Machine.execShr h t d a sh s
  | .sra h t d a sh => Sys2Proof.Machine.execSra h t d a sh s
  | .rot h t right d a sh => Sys2Proof.Machine.execRot h t right d a sh s
  | .shcat h left d lo hi sh => Sys2Proof.Machine.execShcat h left d lo hi sh s
  | .clz h t d a => Sys2Proof.Machine.execClz h t d a s
  | .ctz h t d a => Sys2Proof.Machine.execCtz h t d a s
  | .popc h t d a => Sys2Proof.Machine.execPopc h t d a s
  | .brev h t d a => Sys2Proof.Machine.execBrev h t d a s
  | .bfx h t d a pos len => Sys2Proof.Machine.execBfx h t d a pos len s
  | .bfi h d ins pos len => Sys2Proof.Machine.execBfi h d ins pos len s
  | .bint h t three d a b c => Sys2Proof.Machine.execBint h t three d a b c s
  | .bdin h t three d a k => Sys2Proof.Machine.execBdin h t three d a k s
  | .lea h d a b sc => Sys2Proof.Machine.execLea h d a b sc s
  | .lea64 h t d a b sc => Sys2Proof.Machine.execLea64 h t d a b sc s
  | .bsel h d a b sel => Sys2Proof.Machine.execBsel h d a b sel s
  | .qlop h d a b lut => Sys2Proof.Machine.execQlop h d a b lut s
  | .fadd h t rnd sat d a b => Sys2Proof.Machine.execFadd h t rnd sat d a b s
  | .fsub h t rnd sat d a b => Sys2Proof.Machine.execFsub h t rnd sat d a b s
  | .fmul h t rnd sat d a b => Sys2Proof.Machine.execFmul h t rnd sat d a b s
  | .ffma h t rnd sat acc d a b c => Sys2Proof.Machine.execFfma h t rnd sat acc d a b c s
  | .fmin h t d a b => Sys2Proof.Machine.execFmin h t d a b s
  | .fmax h t d a b => Sys2Proof.Machine.execFmax h t d a b s
  | .fcmp h cc t d a b => Sys2Proof.Machine.execFcmp h cc t d a b s
  | .fclass h t d a => Sys2Proof.Machine.execFclass h t d a s
  | .frnd h t rnd ex d a => Sys2Proof.Machine.execFrnd h t rnd ex d a s
  | .hadd2 h t rnd sat d a b => Sys2Proof.Machine.execHadd2 h t rnd sat d a b s
  | .hmul2 h t rnd sat d a b => Sys2Proof.Machine.execHmul2 h t rnd sat d a b s
  | .hfma2 h t rnd sat acc d a b c => Sys2Proof.Machine.execHfma2 h t rnd sat acc d a b c s
  | .fdot2 h t rnd sat acc d a b c => Sys2Proof.Machine.execFdot2 h t rnd sat acc d a b c s
  | .dadd h rnd sat d a b => Sys2Proof.Machine.execDadd h rnd sat d a b s
  | .dmul h rnd sat d a b => Sys2Proof.Machine.execDmul h rnd sat d a b s
  | .dfma h rnd sat acc d a b c => Sys2Proof.Machine.execDfma h rnd sat acc d a b c s
  | .dmin h d a b => Sys2Proof.Machine.execDmin h d a b s
  | .dmax h d a b => Sys2Proof.Machine.execDmax h d a b s
  | .dcmp h cc d a b => Sys2Proof.Machine.execDcmp h cc d a b s
  | .frcp h t rnd sat d a => Sys2Proof.Machine.execFrcp h t rnd sat d a s
  | .frsq h t rnd sat d a => Sys2Proof.Machine.execFrsq h t rnd sat d a s
  | .fsqrt h t rnd sat d a => Sys2Proof.Machine.execFsqrt h t rnd sat d a s
  | .fdiv h t rnd sat d a b => Sys2Proof.Machine.execFdiv h t rnd sat d a b s
  | .fex2 h sat d a => Sys2Proof.Machine.execFex2 h sat d a s
  | .flg2 h sat d a => Sys2Proof.Machine.execFlg2 h sat d a s
  | .fsin h d a => Sys2Proof.Machine.execFsin h d a s
  | .fcos h d a => Sys2Proof.Machine.execFcos h d a s
  | .cvt h src tgt sat d x rc => Sys2Proof.Machine.execCvt h src tgt sat d x rc s
  | .qscale h fmt rnd d x n mc => Sys2Proof.Machine.execQscale h fmt rnd d x n mc s
  | .qcvt h fmt rnd d x sc => Sys2Proof.Machine.execQcvt h fmt rnd d x sc s
  | .qcvtEf h fmt rnd d x sc => Sys2Proof.Machine.execQcvtEf h fmt rnd d x sc s
  | .qpack h fmt sc d code sel => Sys2Proof.Machine.execQpack h fmt sc d code sel s
  | .qunpk h fmt d x sel sc => Sys2Proof.Machine.execQunpk h fmt d x sel sc s
  | .qsplit h d x c dd => Sys2Proof.Machine.execQsplit h d x c dd s
  | .mov h t d x => Sys2Proof.Machine.execMov h t d x s
  | .movw h t d x => Sys2Proof.Machine.execMovw h t d x s
  | .movq h d x => Sys2Proof.Machine.execMovq h d x s
  | .movqAll h d x => Sys2Proof.Machine.execMovqAll h d x s
  | .srd h wide d sr => Sys2Proof.Machine.execSrd h wide d sr s
  | .moorWrite h wide tm x => Sys2Proof.Machine.execMoorWrite h wide tm x s
  | .regoWrite h wide x => Sys2Proof.Machine.execRegoWrite h wide x s
  | .privlWrite h wide x => Sys2Proof.Machine.execPrivlWrite h wide x s
  | .swr h wide d x => Sys2Proof.Machine.execSwr h wide d x s
  | .ld h t x4 pol d va off => Sys2Proof.Machine.execLd h t x4 pol d va off s
  | .st h t x4 pol d va off => Sys2Proof.Machine.execSt h t x4 pol d va off s
  | .ldp h t x4 d a off => Sys2Proof.Machine.execLdp h t x4 d a off s
  | .stp h t x4 d a off => Sys2Proof.Machine.execStp h t x4 d a off s
  | .lds h t x4 d a off => Sys2Proof.Machine.execLds h t x4 d a off s
  | .sts h t x4 d a off => Sys2Proof.Machine.execSts h t x4 d a off s
  | .stsa h t d a off => Sys2Proof.Machine.execStsa h t d a off s
  | .ldw h t pol d va off => Sys2Proof.Machine.execLdw h t pol d va off s
  | .pref h pol va off => Sys2Proof.Machine.execPref h pol va off s
  | .cctlWb h va off => Sys2Proof.Machine.execCctlWb h va off s
  | .cctlInv h va off => Sys2Proof.Machine.execCctlInv h va off s
  | .cctlIinv h scope va off => Sys2Proof.Machine.execCctlIinv h scope va off s
  | .cctlWball h => Sys2Proof.Machine.execCctlWball h s
  | .atom h op t pol scope ar d va b => Sys2Proof.Machine.execAtom h op t pol scope ar d va b s
  | .cas h t pol scope ar d va cmp new => Sys2Proof.Machine.execCas h t pol scope ar d va cmp new s
  | .red h op t pol scope rel va b => Sys2Proof.Machine.execRed h op t pol scope rel va b s
  | .fence h kind scope => Sys2Proof.Machine.execFence h kind scope s
  | .ldacq h t pol scope d va off => Sys2Proof.Machine.execLdacq h t pol scope d va off s
  | .strel h t pol scope d va off => Sys2Proof.Machine.execStrel h t pol scope d va off s
  | .cpy h d desc tl => Sys2Proof.Machine.execCpy h d desc tl s
  | .tlsig h scope d tl => Sys2Proof.Machine.execTlsig h scope d tl s
  | .tlwait h scope d tl n => Sys2Proof.Machine.execTlwait h scope d tl n s
  | .tlread h ctr d tl => Sys2Proof.Machine.execTlread h ctr d tl s
  | .wpwait h d tl cmd nb => Sys2Proof.Machine.execWpwait h d tl cmd nb s
  | .fork h d set ent => Sys2Proof.Machine.execFork h d set ent s
  | .rdv h d fk => Sys2Proof.Machine.execRdv h d fk s
  | .shape h d va => Sys2Proof.Machine.execShape h d va s
  | .shdrop h hd => Sys2Proof.Machine.execShdrop h hd s
  | .xtbl h d va => Sys2Proof.Machine.execXtbl h d va s
  | .xform h d desc tl => Sys2Proof.Machine.execXform h d desc tl s
  | .enq h d qn va => Sys2Proof.Machine.execEnq h d qn va s
  | .deq h tmo d qn => Sys2Proof.Machine.execDeq h tmo d qn s
  | .berth h d va => Sys2Proof.Machine.execBerth h d va s
  | .unberth h hd => Sys2Proof.Machine.execUnberth h hd s
  | .mma h tlv tl c a b => Sys2Proof.Machine.execMma h tlv tl c a b s
  | .mmad h tlv tl dd a b c => Sys2Proof.Machine.execMmad h tlv tl dd a b c s
  | .mzero h tlv tl arr c => Sys2Proof.Machine.execMzero h tlv tl arr c s
  | .lmm h tlv tl c p => Sys2Proof.Machine.execLmm h tlv tl c p s
  | .smp h d hdr crd => Sys2Proof.Machine.execSmp h d hdr crd s
  | .smpl h d hdr crd lod => Sys2Proof.Machine.execSmpl h d hdr crd lod s
  | .smpg h d hdr crd ch => Sys2Proof.Machine.execSmpg h d hdr crd ch s
  | .smps h d hdr crd seed => Sys2Proof.Machine.execSmps h d hdr crd seed s
  | .smpn h d hdr crd => Sys2Proof.Machine.execSmpn h d hdr crd s
  | .hdrinv h hdr => Sys2Proof.Machine.execHdrinv h hdr s
  | .wcpin h d hdr => Sys2Proof.Machine.execWcpin h d hdr s
  | .wcunp h hdr => Sys2Proof.Machine.execWcunp h hdr s
  | .rndseq h ln d key ctr => Sys2Proof.Machine.execRndseq h ln d key ctr s
  | .raybox h d ray node => Sys2Proof.Machine.execRaybox h d ray node s
  | .raytri h cull d ray tri => Sys2Proof.Machine.execRaytri h cull d ray tri s
  | .qysend h x port => Sys2Proof.Machine.execQysend h x port s
  | .qyrecv h d port => Sys2Proof.Machine.execQyrecv h d port s
  | .qyfree h d port => Sys2Proof.Machine.execQyfree h d port s
  | .rbexp h t pol scope va x => Sys2Proof.Machine.execRbexp h t pol scope va x s
  | .rbadd h t pol scope va x => Sys2Proof.Machine.execRbadd h t pol scope va x s
  | .rbres h t pol scope d va => Sys2Proof.Machine.execRbres h t pol scope d va s
  | .sysc h code => Sys2Proof.Machine.execSysc h code s
  | .sret h => Sys2Proof.Machine.execSret h s
  | .hcall h code => Sys2Proof.Machine.execHcall h code s
  | .hret h => Sys2Proof.Machine.execHret h s
  | .ctxnew h d ctx rec => Sys2Proof.Machine.execCtxnew h d ctx rec s
  | .ctxfree h d ctx => Sys2Proof.Machine.execCtxfree h d ctx s
  | .ctxpinOn h d ctx => Sys2Proof.Machine.execCtxpinOn h d ctx s
  | .ctxpinOff h d ctx => Sys2Proof.Machine.execCtxpinOff h d ctx s
  | .sqact h d ctx => Sys2Proof.Machine.execSqact h d ctx s
  | .sqpark h wb d ctx => Sys2Proof.Machine.execSqpark h wb d ctx s
  | .xacq h => Sys2Proof.Machine.execXacq h s
  | .xrel h => Sys2Proof.Machine.execXrel h s
  | .regn h => Sys2Proof.Machine.execRegn h s
  | .tlbinvVa h va idn => Sys2Proof.Machine.execTlbinvVa h va idn s
  | .tlbinvAsid h idn => Sys2Proof.Machine.execTlbinvAsid h idn s
  | .tlbinvVm h idn => Sys2Proof.Machine.execTlbinvVm h idn s
  | .tlbinvAll h => Sys2Proof.Machine.execTlbinvAll h s
  | .ordctlRec h d va => Sys2Proof.Machine.execOrdctlRec h d va s
  | .ordctlPlay h d va => Sys2Proof.Machine.execOrdctlPlay h d va s
  | .ordctlOff h d va => Sys2Proof.Machine.execOrdctlOff h d va s
  | .ordctlChk h d va => Sys2Proof.Machine.execOrdctlChk h d va s
  | .stepb h d ctx n => Sys2Proof.Machine.execStepb h d ctx n s
  | .waitvLineWriteWake sq lane => Sys2Proof.Machine.execWaitvLineWriteWake sq lane s
  | .waitvTimeout sq lane => Sys2Proof.Machine.execWaitvTimeout sq lane s
  | .loadDataReturn acc err => Sys2Proof.Machine.execLoadDataReturn acc err s
  | .storePerformed acc err => Sys2Proof.Machine.execStorePerformed acc err s
  | .atomicStepAtSlice acc err => Sys2Proof.Machine.execAtomicStepAtSlice acc err s
  | .tableWalkComplete walk err => Sys2Proof.Machine.execTableWalkComplete walk err s
  | .cpyChunkWritten cmd err => Sys2Proof.Machine.execCpyChunkWritten cmd err s
  | .haltedCommandRetry cmd => Sys2Proof.Machine.execHaltedCommandRetry cmd s
  | .haltedCommandTimeout cmd => Sys2Proof.Machine.execHaltedCommandTimeout cmd s
  | .transducerCommandComplete cmd err => Sys2Proof.Machine.execTransducerCommandComplete cmd err s
  | .deqItemDelivery cluster queue => Sys2Proof.Machine.execDeqItemDelivery cluster queue s
  | .deqTimeout sq => Sys2Proof.Machine.execDeqTimeout sq s
  | .berthEnd cluster slot => Sys2Proof.Machine.execBerthEnd cluster slot s
  | .matrixCommandStart cluster arr => Sys2Proof.Machine.execMatrixCommandStart cluster arr s
  | .matrixKblockComplete cluster arr err => Sys2Proof.Machine.execMatrixKblockComplete cluster arr err s
  | .lmmPassComplete core err => Sys2Proof.Machine.execLmmPassComplete core err s
  | .lmmWaitExpiry core => Sys2Proof.Machine.execLmmWaitExpiry core s
  | .hdrinvComplete hid => Sys2Proof.Machine.execHdrinvComplete hid s
  | .samplerHeaderReadComplete core hdr err => Sys2Proof.Machine.execSamplerHeaderReadComplete core hdr err s
  | .texelFillComplete core hdr line err => Sys2Proof.Machine.execTexelFillComplete core hdr line err s
  | .weightFillComplete core fill err => Sys2Proof.Machine.execWeightFillComplete core fill err s
  | .samplerQuadComplete req => Sys2Proof.Machine.execSamplerQuadComplete req s
  | .gatedStepRelease acc => Sys2Proof.Machine.execGatedStepRelease acc s
  | .extensionBlockGrant core => Sys2Proof.Machine.execExtensionBlockGrant core s
  | .registerFillComplete sq row err => Sys2Proof.Machine.execRegisterFillComplete sq row err s
  | .registerRowEviction sq row => Sys2Proof.Machine.execRegisterRowEviction sq row s
  | .fillParkTimeout sq => Sys2Proof.Machine.execFillParkTimeout sq s
  | .squadActivation core => Sys2Proof.Machine.execSquadActivation core s
  | .activationWaitTimeout sq => Sys2Proof.Machine.execActivationWaitTimeout sq s
  | .parkedSquadWake sq => Sys2Proof.Machine.execParkedSquadWake sq s
  | .squadDeactivation core => Sys2Proof.Machine.execSquadDeactivation core s
  | .deactivationComplete sq => Sys2Proof.Machine.execDeactivationComplete sq s
  | .bundleFormation core => Sys2Proof.Machine.execBundleFormation core s
  | .coreClockStart core => Sys2Proof.Machine.execCoreClockStart core s
  | .impreciseStoreFault acc => Sys2Proof.Machine.execImpreciseStoreFault acc s
  | .groupScratchpadGrant gid => Sys2Proof.Machine.execGroupScratchpadGrant gid s
  | .groupDrainComplete gid => Sys2Proof.Machine.execGroupDrainComplete gid s
  | .apertureWrite entry queue whole bytes => Sys2Proof.Machine.execApertureWrite entry queue whole bytes s
  | .groupPlacement cluster => Sys2Proof.Machine.execGroupPlacement cluster s
  | .kernelLoadComplete cluster => Sys2Proof.Machine.execKernelLoadComplete cluster s
  | .admissionInterval cluster => Sys2Proof.Machine.execAdmissionInterval cluster s
  | .queueBalancing cluster => Sys2Proof.Machine.execQueueBalancing cluster s
  | .quantumExpiry item cluster => Sys2Proof.Machine.execQuantumExpiry item cluster s
  | .preemptionCollected item => Sys2Proof.Machine.execPreemptionCollected item s
  | .railSample rail valid milliamps => Sys2Proof.Machine.execRailSample rail valid milliamps s
  | .weightRefit ws => Sys2Proof.Machine.execWeightRefit ws s
  | .sensorSample temps => Sys2Proof.Machine.execSensorSample temps s
  | .thermalRelease cluster => Sys2Proof.Machine.execThermalRelease cluster s
  | .gateReq cluster => Sys2Proof.Machine.execGateReq cluster s
  | .idleGateTimer cluster => Sys2Proof.Machine.execIdleGateTimer cluster s
  | .gateWritebackComplete cluster => Sys2Proof.Machine.execGateWritebackComplete cluster s
  | .spillComplete cluster => Sys2Proof.Machine.execSpillComplete cluster s
  | .refillComplete cluster => Sys2Proof.Machine.execRefillComplete cluster s
  | .wgtWrite set j val => Sys2Proof.Machine.execWgtWrite set j val s
  | .registerWrite reg val => Sys2Proof.Machine.execRegisterWrite reg val s
  | .mailboxReadRing c => Sys2Proof.Machine.execMailboxReadRing c s
  | .mailboxClearFrozen c => Sys2Proof.Machine.execMailboxClearFrozen c s
  | .mailboxPreempt entry queue seq => Sys2Proof.Machine.execMailboxPreempt entry queue seq s
  | .mailboxResume entry queue seq => Sys2Proof.Machine.execMailboxResume entry queue seq s
  | .mailboxKill entry queue seq => Sys2Proof.Machine.execMailboxKill entry queue seq s
  | .mailboxClusterReset c => Sys2Proof.Machine.execMailboxClusterReset c s
  | .mailboxDeviceReset => Sys2Proof.Machine.execMailboxDeviceReset s
  | .mailboxAttestation => Sys2Proof.Machine.execMailboxAttestation s
  | .deviceReset => Sys2Proof.Machine.execDeviceReset s
  | .powerLoss => Sys2Proof.Machine.execPowerLoss s
  | .hostRead addr n => Sys2Proof.Machine.execHostRead addr n s
  | .hostWrite addr bytes => Sys2Proof.Machine.execHostWrite addr bytes s
  | .peerAccess req => Sys2Proof.Machine.execPeerAccess req s
  | .refreshOrScrub src addr err => Sys2Proof.Machine.execRefreshOrScrub src addr err s
  | .peerLinkTraining port up => Sys2Proof.Machine.execPeerLinkTraining port up s

end Sys2Proof.Machine
end

