-- ==== Sys2Proof/Machine/Clock.lean ====
section
/-! DEFINITION. Whether a bundle of a core can issue (R273): its turn, taken to see what would come of it. -/
namespace Sys2Proof.Machine

/-- What the machine would be after the turn of the bundle that holds a lane. -/
def afterTurn (s : State) (u ln : Nat) : Dev :=
  match bundleTurn s.dev u [ln] with
  | .done d => d
  | .run i d => match exec i { s with dev := d } with
    | .next t => t.dev
    | _ => s.dev

/-- A lane gets somewhere: it goes on, traps, exits, arrives, or takes up another wait than one at its word. -/
def laneMoves (l : Lane) (after : Option Lane) : Bool :=
  match after with
  | none => true
  | some m => m.pc != l.pc || m.hofs != l.hofs || m.seq != l.seq || (m.wait != l.wait && m.wait != .hold)

/-- A bundle of a squad can issue. -/
def squadIssues (s : State) (u : Nat) : Bool :=
  let q := squadOf s.dev u
  q.lanes.any fun p => laneTries s.dev u p.1 p.2 &&
    let t := afterTurn s u p.1
    q.lanes.any fun x => laneMoves x.2 (fget (squadOf t u).lanes x.1)

/-- The core whose ability to issue a turn rests on: its clock (R269, R273), or the gating of a cluster's upper core (R420, R436). -/
def asksFor : Turn → Option Nat
  | .event (.bundleFormation core) => some core
  | .event (.coreClockStart core) => some core
  | .event (.gateReq cluster) => some (upperCore cluster)
  | .event (.idleGateTimer cluster) => some (upperCore cluster)
  | .elapse cluster _ => some (upperCore cluster)
  | .event (.hostWrite (.bar0 off) _) => match inBlock off with
    | some o => if 0x900 ≤ o && o < 0x960 then some (upperCore ((o - 0x900) / 4)) else none
    | none => none
  | _ => none

/-- Whether a bundle of a resident squad of the core can issue is found for a turn that rests on it. -/
def noteAble (s : State) (t : Turn) : Dev :=
  match asksFor t with
  | some core => setCore s.dev core fun k => { k with able := s.dev.squads.any fun p => p.2.core == core && p.2.onChip && squadIssues s p.1 }
  | none => s.dev

end Sys2Proof.Machine
end

