-- ==== Sys2Proof/Machine/Tally.lean ====
section
/-! DEFINITION. What the cores of a rail count for the estimate of its current (R432): the events that a turn brings, as the machine stands before it. The issues of
each timing class are counted where they enter execute. -/
namespace Sys2Proof.Machine

/-- Count n more events of number j in a core. -/
def tally (core j n : Nat) (d : Dev) : Dev :=
  setCore d core fun k => { k with events := fset 0 k.events j (fgetD k.events j 0 + n) }

/-- Sectors that the lines of a range of memory are stored in (R292). -/
def rangeSectors (d : Dev) (pa n : Nat) : Nat := (linesOf pa n).foldl (fun k l => k + sectorsOf (l2LineData d l)) 0

/-- Sectors that an engine moves at a range of addresses. -/
def engSectors (d : Dev) (c : Cmd) (va n : Nat) : Nat :=
  match (engXlat d c va .r .l2).2 with
  | .ok (0, pa) => rangeSectors d pa n
  | _ => 0

/-- An access that is performed: a bank cycle for each word of scratchpad, the sectors of its lines where it goes to L2. -/
def tallyAcc (d : Dev) (i : Nat) : Dev :=
  match fget d.accs i with
  | none => d
  | some a =>
    if a.gated || !accReady d i a then d
    else if a.space = 1 then tally a.core 7 ((a.len + 3) / 4) d
    else if a.space = 0 && (a.pol != .l1 || (a.op == .load && (fget d.l1 (l1Key a.set (lineOf a.pa))).isNone)) then tally a.core 8 (rangeSectors d a.pa a.len) d
    else d

/-- The next chunk of a copy: the sectors of its two sides in global memory, the words of those in scratchpad. -/
def tallyCopy (d : Dev) (i : Nat) : Dev :=
  let c := cmdOf d i
  match c.kind with
  | .cpy ds l =>
    let cp := copyOf ds
    let side := fun (sp a : Nat) (d : Dev) => if sp = 0 then tally c.core 8 (engSectors d c a 128) d else if sp = 1 then tally c.core 7 32 d else d
    side cp.ssp (cp.src + srcNext c cp l) (side cp.dsp (cp.dst + c.pos) d)
  | _ => d

/-- What a turn counts. DEDUCED, log 24. -/
def countTurn (d : Dev) (t : Turn) : Dev :=
  match t with
  | .event (.matrixKblockComplete cl arr _) =>
    match unitRunning d (arrayQueue d cl arr) with
    | some (_, c) => tally c.core 5 1 (tally c.core 7 512 d)
    | none => d
  | .event (.lmmPassComplete core _) => if (lmmHead d core).isSome then tally core 6 1 (tally core 7 8 d) else d
  | .event (.samplerQuadComplete i) =>
    match fget d.reqs i with
    | some r => if r.kind = .smpn && !r.held then tally r.core 6 (r.outs.length * hdNl (r.copy.getD [])) d else d
    | none => d
  | .event (.loadDataReturn i _) | .event (.storePerformed i _) | .event (.atomicStepAtSlice i _) => tallyAcc d i
  | .event (.cpyChunkWritten i _) => tallyCopy d i
  | .event (.texelFillComplete core hdr line _) =>
    match (samplerOf d core).fills.find? fun f => f.hdr == hdr && f.line == line with
    | some f => tally core 8 (engSectors d (fetchCmd core f.user hdr) (128 * line) 128) d
    | none => d
  | .event (.registerFillComplete u row _) =>
    match fget (squadOf d u).fills row, (ctxPage d (squadOf d u)).2 with
    | some _, some pa => tally (squadOf d u).core 8 (rangeSectors d (pa + 0x8000 + 512 * row) 512) d
    | _, _ => d
  | _ => d

end Sys2Proof.Machine
end

