-- ==== Sys2Proof/Machine/Step.lean ====
section
/-! DEFINITION. One step: the next turn is taken, a bundle's word is fetched and decoded, and its meaning runs. -/
namespace Sys2Proof.Machine

/-- One step of the machine. -/
def step (s : State) : Host.Outcome State Fault Refusal :=
  let p := nextTurn s.dev
  let s1 := { s with dev := p.2 }
  if noPower s p.1 then .fault .powerOff
  else if stillReset s p.1 then .next s1
  else
    match p.1 with
    | .issue u lns =>
      match bundleTurn p.2 u lns with
      | .run i d => exec i { s1 with dev := d }
      | .done d => .next { s1 with dev := d }
    | .event i => exec i { s1 with dev := { countTurn (noteAble s1 p.1) p.1 with cur := none } }
    | t => .next { s1 with dev := background t (noteAble s1 t) }

/-- The state with an instruction's bits placed where the next step fetches. -/
def State.withFetchWord (s : State) (_nbits w : Nat) : State := { s with dev := placeWord s.dev w }

end Sys2Proof.Machine
end

