-- ==== Sys2Proof/Laws/Bits.lean ====
section
/-! SUPPORT. Single bits of the values that the bit forms build. -/
namespace Sys2Proof.Machine

theorem lowBits_get (x : DWord) (w i : Nat) (hw : w ≤ 64): (lowBits x w).getLsbD i = (decide (i < w) && x.getLsbD i) := by
  unfold lowBits
  rw [BitVec.getLsbD_and, BitVec.getLsbD_ofNat, Nat.testBit_two_pow_sub_one]
  by_cases h : i < w
  · have : i < 64 := by omega
    simp [h, this]
  · simp [h]

theorem bitsOf_get (n : Nat) (f : Nat → Bool) (i : Nat) (hn : n ≤ 64) : (bitsOf n f).getLsbD i = (decide (i < n) && f i) := by
  unfold bitsOf upto
  induction n with
  | zero => simp
  | succ n ih =>
    rw [List.range_succ, List.foldl_append]
    simp only [List.foldl_cons, List.foldl_nil]
    have ih := ih (by omega)
    by_cases hf : f n
    · simp only [hf, if_true, BitVec.getLsbD_or, ih]
      by_cases h : i = n
      · subst h; simp [hf]; omega
      · have : (1#64 <<< n).getLsbD i = false := by
          simp only [BitVec.getLsbD_shiftLeft, BitVec.getLsbD_one]
          by_cases h2 : i < n
          · simp [h2]
          · have : i - n ≠ 0 := by omega
            simp [this]
        rw [this]
        have : (i < n + 1) = (i < n) := by apply propext; omega
        simp [this]
    · simp only [hf]
      by_cases h : i = n
      · subst h; simp only [hf]; rw [if_neg (by simp), ih]; simp
      · have : (i < n + 1) = (i < n) := by apply propext; omega
        rw [if_neg (by simp), ih]; simp [this]

end Sys2Proof.Machine
end

