-- ==== Sys2Proof/Laws/PerInstr.lean ====
section
/-! SUPPORT. What a well-formed instruction's fields and word say of it, one lemma for each constructor of `Instr`. -/
namespace Sys2Proof.Laws
open Sys2Proof

/-- The fields of a well-formed word form pass the checks of R45, stand for that instruction alone, give its word, and
that word's OPC is the form's (R11, R41). -/
def Encodes.Statement (i : Instr) : Prop :=
  ∀ r, i.raw = some r → i.wf = true →
    r.ok = true ∧ build r = i ∧ encode i = some r.fields.word ∧ wbits r.fields.word 0 10 = r.form.opc

/-- The OPC of a word of fields stands in its low ten bits (R11). -/
theorem Encodes.opc_of_word (f : Fields) : wbits f.word 0 10 = f.opc := by
  apply BitVec.eq_of_getLsbD_eq
  intro j hj
  simp only [wbits, Fields.word, BitVec.getLsbD_extractLsb', BitVec.getLsbD_append]
  simp only [show 0 + j < 32 by omega]
  simp [hj]

/-- The fields of a set of operands have the form's OPC. -/
theorem Encodes.opc_of_raw (r : Raw) : r.fields.opc = r.form.opc := by
  unfold Raw.fields; split <;> rfl

theorem Encodes.all (i : Instr) : Encodes.Statement i := by
  intro r hr hw
  have h : (r.ok && build r == i) = true := by simpa [Instr.wf, hr] using hw
  obtain ⟨h1, h2⟩ := Bool.and_eq_true_iff.mp h
  exact ⟨h1, eq_of_beq h2, by simp [encode, hr], by rw [Encodes.opc_of_word, Encodes.opc_of_raw]⟩

theorem Encodes.clauseEntry (len : BitVec 4) (waitFor : BitVec 12) (seta setb : FlagSel) (cls : BitVec 2) (yp : Bool) : Encodes.Statement (.clauseEntry len waitFor seta setb cls yp) := Encodes.all _
theorem Encodes.bra (h : Hd) (disp : Opnd) : Encodes.Statement (.bra h disp) := Encodes.all _
theorem Encodes.brx (h : Hd) (va : Opnd) : Encodes.Statement (.brx h va) := Encodes.all _
theorem Encodes.call (h : Hd) (d disp : Opnd) : Encodes.Statement (.call h d disp) := Encodes.all _
theorem Encodes.callx (h : Hd) (d va : Opnd) : Encodes.Statement (.callx h d va) := Encodes.all _
theorem Encodes.ret (h : Hd) (va : Opnd) : Encodes.Statement (.ret h va) := Encodes.all _
theorem Encodes.exit (h : Hd) : Encodes.Statement (.exit h) := Encodes.all _
theorem Encodes.nop (h : Hd) : Encodes.Statement (.nop h) := Encodes.all _
theorem Encodes.yield (h : Hd) : Encodes.Statement (.yield h) := Encodes.all _
theorem Encodes.meet (h : Hd) (a disp : Opnd) : Encodes.Statement (.meet h a disp) := Encodes.all _
theorem Encodes.brk (h : Hd) (code : Opnd) : Encodes.Statement (.brk h code) := Encodes.all _
theorem Encodes.waitv (h : Hd) (t : Ty) (pol : Pol) (tmo : BitVec 3) (d va e : Opnd) : Encodes.Statement (.waitv h t pol tmo d va e) := Encodes.all _
theorem Encodes.gjoin (h : Hd) (d cnt key : Opnd) : Encodes.Statement (.gjoin h d cnt key) := Encodes.all _
theorem Encodes.gleave (h : Hd) : Encodes.Statement (.gleave h) := Encodes.all _
theorem Encodes.gbar (h : Hd) (b : Opnd) : Encodes.Statement (.gbar h b) := Encodes.all _
theorem Encodes.garv (h : Hd) (b : Opnd) : Encodes.Statement (.garv h b) := Encodes.all _
theorem Encodes.gwait (h : Hd) (b : Opnd) : Encodes.Statement (.gwait h b) := Encodes.all _
theorem Encodes.tkwait (h : Hd) (tk : Opnd) : Encodes.Statement (.tkwait h tk) := Encodes.all _
theorem Encodes.tkpass (h : Hd) (tk : Opnd) : Encodes.Statement (.tkpass h tk) := Encodes.all _
theorem Encodes.mjoin (h : Hd) (a : Opnd) : Encodes.Statement (.mjoin h a) := Encodes.all _
theorem Encodes.mleave (h : Hd) (a : Opnd) : Encodes.Statement (.mleave h a) := Encodes.all _
theorem Encodes.mwait (h : Hd) (a : Opnd) : Encodes.Statement (.mwait h a) := Encodes.all _
theorem Encodes.mget (h : Hd) (d a part : Opnd) : Encodes.Statement (.mget h d a part) := Encodes.all _
theorem Encodes.mset (h : Hd) (d part x : Opnd) : Encodes.Statement (.mset h d part x) := Encodes.all _
theorem Encodes.vote (h : Hd) (op : VoteOp) (d a mc : Opnd) : Encodes.Statement (.vote h op d a mc) := Encodes.all _
theorem Encodes.ballot (h : Hd) (d a part mc : Opnd) : Encodes.Statement (.ballot h d a part mc) := Encodes.all _
theorem Encodes.shfl (h : Hd) (md : ShflMode) (t : Ty) (d a b mc : Opnd) : Encodes.Statement (.shfl h md t d a b mc) := Encodes.all _
theorem Encodes.lred (h : Hd) (op : RedOp) (t : Ty) (sat : Bool) (d a mc : Opnd) : Encodes.Statement (.lred h op t sat d a mc) := Encodes.all _
theorem Encodes.lscan (h : Hd) (op : RedOp) (exc : Bool) (t : Ty) (sat : Bool) (d a mc : Opnd) : Encodes.Statement (.lscan h op exc t sat d a mc) := Encodes.all _
theorem Encodes.lbcast (h : Hd) (t : Ty) (d a ls mc : Opnd) : Encodes.Statement (.lbcast h t d a ls mc) := Encodes.all _
theorem Encodes.lmatch (h : Hd) (t : Ty) (d a mc : Opnd) : Encodes.Statement (.lmatch h t d a mc) := Encodes.all _
theorem Encodes.iadd (h : Hd) (t : Ty) (sat : Bool) (d a b : Opnd) : Encodes.Statement (.iadd h t sat d a b) := Encodes.all _
theorem Encodes.isub (h : Hd) (t : Ty) (sat : Bool) (d a b : Opnd) : Encodes.Statement (.isub h t sat d a b) := Encodes.all _
theorem Encodes.iadd3 (h : Hd) (t : Ty) (sat : Bool) (d a b c : Opnd) : Encodes.Statement (.iadd3 h t sat d a b c) := Encodes.all _
theorem Encodes.imul (h : Hd) (t : Ty) (sat : Bool) (d a b : Opnd) : Encodes.Statement (.imul h t sat d a b) := Encodes.all _
theorem Encodes.imulh (h : Hd) (t : Ty) (d a b : Opnd) : Encodes.Statement (.imulh h t d a b) := Encodes.all _
theorem Encodes.imad (h : Hd) (t : Ty) (sat : Bool) (acc : Bool) (d a b c : Opnd) : Encodes.Statement (.imad h t sat acc d a b c) := Encodes.all _
theorem Encodes.imadw (h : Hd) (t : Ty) (sat : Bool) (acc : Bool) (d a b c : Opnd) : Encodes.Statement (.imadw h t sat acc d a b c) := Encodes.all _
theorem Encodes.idiv (h : Hd) (t : Ty) (sat : Bool) (d a b : Opnd) : Encodes.Statement (.idiv h t sat d a b) := Encodes.all _
theorem Encodes.irem (h : Hd) (t : Ty) (d a b : Opnd) : Encodes.Statement (.irem h t d a b) := Encodes.all _
theorem Encodes.imin (h : Hd) (t : Ty) (d a b : Opnd) : Encodes.Statement (.imin h t d a b) := Encodes.all _
theorem Encodes.imax (h : Hd) (t : Ty) (d a b : Opnd) : Encodes.Statement (.imax h t d a b) := Encodes.all _
theorem Encodes.iabs (h : Hd) (t : Ty) (sat : Bool) (d a : Opnd) : Encodes.Statement (.iabs h t sat d a) := Encodes.all _
theorem Encodes.ineg (h : Hd) (t : Ty) (sat : Bool) (d a : Opnd) : Encodes.Statement (.ineg h t sat d a) := Encodes.all _
theorem Encodes.icmp (h : Hd) (cc : BitVec 3) (t : Ty) (d a b : Opnd) : Encodes.Statement (.icmp h cc t d a b) := Encodes.all _
theorem Encodes.isel (h : Hd) (t : Ty) (d a b c : Opnd) : Encodes.Statement (.isel h t d a b c) := Encodes.all _
theorem Encodes.iadd64 (h : Hd) (t : Ty) (sat : Bool) (d a b : Opnd) : Encodes.Statement (.iadd64 h t sat d a b) := Encodes.all _
theorem Encodes.isub64 (h : Hd) (t : Ty) (sat : Bool) (d a b : Opnd) : Encodes.Statement (.isub64 h t sat d a b) := Encodes.all _
theorem Encodes.imul64 (h : Hd) (t : Ty) (hi : Bool) (d a b : Opnd) : Encodes.Statement (.imul64 h t hi d a b) := Encodes.all _
theorem Encodes.and (h : Hd) (t : Ty) (d a b : Opnd) : Encodes.Statement (.and h t d a b) := Encodes.all _
theorem Encodes.or (h : Hd) (t : Ty) (d a b : Opnd) : Encodes.Statement (.or h t d a b) := Encodes.all _
theorem Encodes.xor (h : Hd) (t : Ty) (d a b : Opnd) : Encodes.Statement (.xor h t d a b) := Encodes.all _
theorem Encodes.not (h : Hd) (t : Ty) (d a : Opnd) : Encodes.Statement (.not h t d a) := Encodes.all _
theorem Encodes.blut (h : Hd) (t : Ty) (d a b lut : Opnd) : Encodes.Statement (.blut h t d a b lut) := Encodes.all _
theorem Encodes.shl (h : Hd) (t : Ty) (d a sh : Opnd) : Encodes.Statement (.shl h t d a sh) := Encodes.all _
theorem Encodes.shr (h : Hd) (t : Ty) (d a sh : Opnd) : Encodes.Statement (.shr h t d a sh) := Encodes.all _
theorem Encodes.sra (h : Hd) (t : Ty) (d a sh : Opnd) : Encodes.Statement (.sra h t d a sh) := Encodes.all _
theorem Encodes.rot (h : Hd) (t : Ty) (right : Bool) (d a sh : Opnd) : Encodes.Statement (.rot h t right d a sh) := Encodes.all _
theorem Encodes.shcat (h : Hd) (left : Bool) (d lo hi sh : Opnd) : Encodes.Statement (.shcat h left d lo hi sh) := Encodes.all _
theorem Encodes.clz (h : Hd) (t : Ty) (d a : Opnd) : Encodes.Statement (.clz h t d a) := Encodes.all _
theorem Encodes.ctz (h : Hd) (t : Ty) (d a : Opnd) : Encodes.Statement (.ctz h t d a) := Encodes.all _
theorem Encodes.popc (h : Hd) (t : Ty) (d a : Opnd) : Encodes.Statement (.popc h t d a) := Encodes.all _
theorem Encodes.brev (h : Hd) (t : Ty) (d a : Opnd) : Encodes.Statement (.brev h t d a) := Encodes.all _
theorem Encodes.bfx (h : Hd) (t : Ty) (d a pos len : Opnd) : Encodes.Statement (.bfx h t d a pos len) := Encodes.all _
theorem Encodes.bfi (h : Hd) (d ins pos len : Opnd) : Encodes.Statement (.bfi h d ins pos len) := Encodes.all _
theorem Encodes.bint (h : Hd) (t : Ty) (three : Bool) (d a b c : Opnd) : Encodes.Statement (.bint h t three d a b c) := Encodes.all _
theorem Encodes.bdin (h : Hd) (t : Ty) (three : Bool) (d a k : Opnd) : Encodes.Statement (.bdin h t three d a k) := Encodes.all _
theorem Encodes.lea (h : Hd) (d a b sc : Opnd) : Encodes.Statement (.lea h d a b sc) := Encodes.all _
theorem Encodes.lea64 (h : Hd) (t : Ty) (d a b sc : Opnd) : Encodes.Statement (.lea64 h t d a b sc) := Encodes.all _
theorem Encodes.bsel (h : Hd) (d a b sel : Opnd) : Encodes.Statement (.bsel h d a b sel) := Encodes.all _
theorem Encodes.qlop (h : Hd) (d a b lut : Opnd) : Encodes.Statement (.qlop h d a b lut) := Encodes.all _
theorem Encodes.fadd (h : Hd) (t : Ty) (rnd : Rnd) (sat : Bool) (d a b : Opnd) : Encodes.Statement (.fadd h t rnd sat d a b) := Encodes.all _
theorem Encodes.fsub (h : Hd) (t : Ty) (rnd : Rnd) (sat : Bool) (d a b : Opnd) : Encodes.Statement (.fsub h t rnd sat d a b) := Encodes.all _
theorem Encodes.fmul (h : Hd) (t : Ty) (rnd : Rnd) (sat : Bool) (d a b : Opnd) : Encodes.Statement (.fmul h t rnd sat d a b) := Encodes.all _
theorem Encodes.ffma (h : Hd) (t : Ty) (rnd : Rnd) (sat : Bool) (acc : Bool) (d a b c : Opnd) : Encodes.Statement (.ffma h t rnd sat acc d a b c) := Encodes.all _
theorem Encodes.fmin (h : Hd) (t : Ty) (d a b : Opnd) : Encodes.Statement (.fmin h t d a b) := Encodes.all _
theorem Encodes.fmax (h : Hd) (t : Ty) (d a b : Opnd) : Encodes.Statement (.fmax h t d a b) := Encodes.all _
theorem Encodes.fcmp (h : Hd) (cc : BitVec 3) (t : Ty) (d a b : Opnd) : Encodes.Statement (.fcmp h cc t d a b) := Encodes.all _
theorem Encodes.fclass (h : Hd) (t : Ty) (d a : Opnd) : Encodes.Statement (.fclass h t d a) := Encodes.all _
theorem Encodes.frnd (h : Hd) (t : Ty) (rnd : Rnd) (ex : Bool) (d a : Opnd) : Encodes.Statement (.frnd h t rnd ex d a) := Encodes.all _
theorem Encodes.hadd2 (h : Hd) (t : Ty) (rnd : Rnd) (sat : Bool) (d a b : Opnd) : Encodes.Statement (.hadd2 h t rnd sat d a b) := Encodes.all _
theorem Encodes.hmul2 (h : Hd) (t : Ty) (rnd : Rnd) (sat : Bool) (d a b : Opnd) : Encodes.Statement (.hmul2 h t rnd sat d a b) := Encodes.all _
theorem Encodes.hfma2 (h : Hd) (t : Ty) (rnd : Rnd) (sat : Bool) (acc : Bool) (d a b c : Opnd) : Encodes.Statement (.hfma2 h t rnd sat acc d a b c) := Encodes.all _
theorem Encodes.fdot2 (h : Hd) (t : Ty) (rnd : Rnd) (sat : Bool) (acc : Bool) (d a b c : Opnd) : Encodes.Statement (.fdot2 h t rnd sat acc d a b c) := Encodes.all _
theorem Encodes.dadd (h : Hd) (rnd : Rnd) (sat : Bool) (d a b : Opnd) : Encodes.Statement (.dadd h rnd sat d a b) := Encodes.all _
theorem Encodes.dmul (h : Hd) (rnd : Rnd) (sat : Bool) (d a b : Opnd) : Encodes.Statement (.dmul h rnd sat d a b) := Encodes.all _
theorem Encodes.dfma (h : Hd) (rnd : Rnd) (sat : Bool) (acc : Bool) (d a b c : Opnd) : Encodes.Statement (.dfma h rnd sat acc d a b c) := Encodes.all _
theorem Encodes.dmin (h : Hd) (d a b : Opnd) : Encodes.Statement (.dmin h d a b) := Encodes.all _
theorem Encodes.dmax (h : Hd) (d a b : Opnd) : Encodes.Statement (.dmax h d a b) := Encodes.all _
theorem Encodes.dcmp (h : Hd) (cc : BitVec 3) (d a b : Opnd) : Encodes.Statement (.dcmp h cc d a b) := Encodes.all _
theorem Encodes.frcp (h : Hd) (t : Ty) (rnd : Rnd) (sat : Bool) (d a : Opnd) : Encodes.Statement (.frcp h t rnd sat d a) := Encodes.all _
theorem Encodes.frsq (h : Hd) (t : Ty) (rnd : Rnd) (sat : Bool) (d a : Opnd) : Encodes.Statement (.frsq h t rnd sat d a) := Encodes.all _
theorem Encodes.fsqrt (h : Hd) (t : Ty) (rnd : Rnd) (sat : Bool) (d a : Opnd) : Encodes.Statement (.fsqrt h t rnd sat d a) := Encodes.all _
theorem Encodes.fdiv (h : Hd) (t : Ty) (rnd : Rnd) (sat : Bool) (d a b : Opnd) : Encodes.Statement (.fdiv h t rnd sat d a b) := Encodes.all _
theorem Encodes.fex2 (h : Hd) (sat : Bool) (d a : Opnd) : Encodes.Statement (.fex2 h sat d a) := Encodes.all _
theorem Encodes.flg2 (h : Hd) (sat : Bool) (d a : Opnd) : Encodes.Statement (.flg2 h sat d a) := Encodes.all _
theorem Encodes.fsin (h : Hd) (d a : Opnd) : Encodes.Statement (.fsin h d a) := Encodes.all _
theorem Encodes.fcos (h : Hd) (d a : Opnd) : Encodes.Statement (.fcos h d a) := Encodes.all _
theorem Encodes.cvt (h : Hd) (src : Ty) (tgt : Ty) (sat : Bool) (d x rc : Opnd) : Encodes.Statement (.cvt h src tgt sat d x rc) := Encodes.all _
theorem Encodes.qscale (h : Hd) (fmt : Fmt) (rnd : Rnd) (d x n mc : Opnd) : Encodes.Statement (.qscale h fmt rnd d x n mc) := Encodes.all _
theorem Encodes.qcvt (h : Hd) (fmt : Fmt) (rnd : Rnd) (d x sc : Opnd) : Encodes.Statement (.qcvt h fmt rnd d x sc) := Encodes.all _
theorem Encodes.qcvtEf (h : Hd) (fmt : Fmt) (rnd : Rnd) (d x sc : Opnd) : Encodes.Statement (.qcvtEf h fmt rnd d x sc) := Encodes.all _
theorem Encodes.qpack (h : Hd) (fmt : Fmt) (sc : Bool) (d code sel : Opnd) : Encodes.Statement (.qpack h fmt sc d code sel) := Encodes.all _
theorem Encodes.qunpk (h : Hd) (fmt : Fmt) (d x sel sc : Opnd) : Encodes.Statement (.qunpk h fmt d x sel sc) := Encodes.all _
theorem Encodes.qsplit (h : Hd) (d x c dd : Opnd) : Encodes.Statement (.qsplit h d x c dd) := Encodes.all _
theorem Encodes.mov (h : Hd) (t : Ty) (d x : Opnd) : Encodes.Statement (.mov h t d x) := Encodes.all _
theorem Encodes.movw (h : Hd) (t : Ty) (d x : Opnd) : Encodes.Statement (.movw h t d x) := Encodes.all _
theorem Encodes.movq (h : Hd) (d x : Opnd) : Encodes.Statement (.movq h d x) := Encodes.all _
theorem Encodes.movqAll (h : Hd) (d x : Opnd) : Encodes.Statement (.movqAll h d x) := Encodes.all _
theorem Encodes.srd (h : Hd) (wide : Bool) (d sr : Opnd) : Encodes.Statement (.srd h wide d sr) := Encodes.all _
theorem Encodes.moorWrite (h : Hd) (wide : Bool) (tm : Bool) (x : Opnd) : Encodes.Statement (.moorWrite h wide tm x) := Encodes.all _
theorem Encodes.regoWrite (h : Hd) (wide : Bool) (x : Opnd) : Encodes.Statement (.regoWrite h wide x) := Encodes.all _
theorem Encodes.privlWrite (h : Hd) (wide : Bool) (x : Opnd) : Encodes.Statement (.privlWrite h wide x) := Encodes.all _
theorem Encodes.swr (h : Hd) (wide : Bool) (d x : Opnd) : Encodes.Statement (.swr h wide d x) := Encodes.all _
theorem Encodes.ld (h : Hd) (t : Ty) (x4 : Bool) (pol : Pol) (d va off : Opnd) : Encodes.Statement (.ld h t x4 pol d va off) := Encodes.all _
theorem Encodes.st (h : Hd) (t : Ty) (x4 : Bool) (pol : Pol) (d va off : Opnd) : Encodes.Statement (.st h t x4 pol d va off) := Encodes.all _
theorem Encodes.ldp (h : Hd) (t : Ty) (x4 : Bool) (d a off : Opnd) : Encodes.Statement (.ldp h t x4 d a off) := Encodes.all _
theorem Encodes.stp (h : Hd) (t : Ty) (x4 : Bool) (d a off : Opnd) : Encodes.Statement (.stp h t x4 d a off) := Encodes.all _
theorem Encodes.lds (h : Hd) (t : Ty) (x4 : Bool) (d a off : Opnd) : Encodes.Statement (.lds h t x4 d a off) := Encodes.all _
theorem Encodes.sts (h : Hd) (t : Ty) (x4 : Bool) (d a off : Opnd) : Encodes.Statement (.sts h t x4 d a off) := Encodes.all _
theorem Encodes.stsa (h : Hd) (t : Ty) (d a off : Opnd) : Encodes.Statement (.stsa h t d a off) := Encodes.all _
theorem Encodes.ldw (h : Hd) (t : Ty) (pol : Pol) (d va off : Opnd) : Encodes.Statement (.ldw h t pol d va off) := Encodes.all _
theorem Encodes.pref (h : Hd) (pol : Pol) (va off : Opnd) : Encodes.Statement (.pref h pol va off) := Encodes.all _
theorem Encodes.cctlWb (h : Hd) (va off : Opnd) : Encodes.Statement (.cctlWb h va off) := Encodes.all _
theorem Encodes.cctlInv (h : Hd) (va off : Opnd) : Encodes.Statement (.cctlInv h va off) := Encodes.all _
theorem Encodes.cctlIinv (h : Hd) (scope : Scope) (va off : Opnd) : Encodes.Statement (.cctlIinv h scope va off) := Encodes.all _
theorem Encodes.cctlWball (h : Hd) : Encodes.Statement (.cctlWball h) := Encodes.all _
theorem Encodes.atom (h : Hd) (op : AtomOp) (t : Ty) (pol : Pol) (scope : Scope) (ar : Bool) (d va b : Opnd) : Encodes.Statement (.atom h op t pol scope ar d va b) := Encodes.all _
theorem Encodes.cas (h : Hd) (t : Ty) (pol : Pol) (scope : Scope) (ar : Bool) (d va cmp new : Opnd) : Encodes.Statement (.cas h t pol scope ar d va cmp new) := Encodes.all _
theorem Encodes.red (h : Hd) (op : AtomOp) (t : Ty) (pol : Pol) (scope : Scope) (rel : Bool) (va b : Opnd) : Encodes.Statement (.red h op t pol scope rel va b) := Encodes.all _
theorem Encodes.fence (h : Hd) (kind : FenceKind) (scope : Scope) : Encodes.Statement (.fence h kind scope) := Encodes.all _
theorem Encodes.ldacq (h : Hd) (t : Ty) (pol : Pol) (scope : Scope) (d va off : Opnd) : Encodes.Statement (.ldacq h t pol scope d va off) := Encodes.all _
theorem Encodes.strel (h : Hd) (t : Ty) (pol : Pol) (scope : Scope) (d va off : Opnd) : Encodes.Statement (.strel h t pol scope d va off) := Encodes.all _
theorem Encodes.cpy (h : Hd) (d desc tl : Opnd) : Encodes.Statement (.cpy h d desc tl) := Encodes.all _
theorem Encodes.tlsig (h : Hd) (scope : Scope) (d tl : Opnd) : Encodes.Statement (.tlsig h scope d tl) := Encodes.all _
theorem Encodes.tlwait (h : Hd) (scope : Scope) (d tl n : Opnd) : Encodes.Statement (.tlwait h scope d tl n) := Encodes.all _
theorem Encodes.tlread (h : Hd) (ctr : TlCtr) (d tl : Opnd) : Encodes.Statement (.tlread h ctr d tl) := Encodes.all _
theorem Encodes.wpwait (h : Hd) (d tl cmd nb : Opnd) : Encodes.Statement (.wpwait h d tl cmd nb) := Encodes.all _
theorem Encodes.fork (h : Hd) (d set ent : Opnd) : Encodes.Statement (.fork h d set ent) := Encodes.all _
theorem Encodes.rdv (h : Hd) (d fk : Opnd) : Encodes.Statement (.rdv h d fk) := Encodes.all _
theorem Encodes.shape (h : Hd) (d va : Opnd) : Encodes.Statement (.shape h d va) := Encodes.all _
theorem Encodes.shdrop (h : Hd) (hd : Opnd) : Encodes.Statement (.shdrop h hd) := Encodes.all _
theorem Encodes.xtbl (h : Hd) (d va : Opnd) : Encodes.Statement (.xtbl h d va) := Encodes.all _
theorem Encodes.xform (h : Hd) (d desc tl : Opnd) : Encodes.Statement (.xform h d desc tl) := Encodes.all _
theorem Encodes.enq (h : Hd) (d qn va : Opnd) : Encodes.Statement (.enq h d qn va) := Encodes.all _
theorem Encodes.deq (h : Hd) (tmo : BitVec 3) (d qn : Opnd) : Encodes.Statement (.deq h tmo d qn) := Encodes.all _
theorem Encodes.berth (h : Hd) (d va : Opnd) : Encodes.Statement (.berth h d va) := Encodes.all _
theorem Encodes.unberth (h : Hd) (hd : Opnd) : Encodes.Statement (.unberth h hd) := Encodes.all _
theorem Encodes.mma (h : Hd) (tlv : Bool) (tl : BitVec 4) (c a b : Opnd) : Encodes.Statement (.mma h tlv tl c a b) := Encodes.all _
theorem Encodes.mmad (h : Hd) (tlv : Bool) (tl : BitVec 4) (dd a b c : Opnd) : Encodes.Statement (.mmad h tlv tl dd a b c) := Encodes.all _
theorem Encodes.mzero (h : Hd) (tlv : Bool) (tl : BitVec 4) (arr : Bool) (c : Opnd) : Encodes.Statement (.mzero h tlv tl arr c) := Encodes.all _
theorem Encodes.lmm (h : Hd) (tlv : Bool) (tl : BitVec 4) (c p : Opnd) : Encodes.Statement (.lmm h tlv tl c p) := Encodes.all _
theorem Encodes.smp (h : Hd) (d hdr crd : Opnd) : Encodes.Statement (.smp h d hdr crd) := Encodes.all _
theorem Encodes.smpl (h : Hd) (d hdr crd lod : Opnd) : Encodes.Statement (.smpl h d hdr crd lod) := Encodes.all _
theorem Encodes.smpg (h : Hd) (d hdr crd ch : Opnd) : Encodes.Statement (.smpg h d hdr crd ch) := Encodes.all _
theorem Encodes.smps (h : Hd) (d hdr crd seed : Opnd) : Encodes.Statement (.smps h d hdr crd seed) := Encodes.all _
theorem Encodes.smpn (h : Hd) (d hdr crd : Opnd) : Encodes.Statement (.smpn h d hdr crd) := Encodes.all _
theorem Encodes.hdrinv (h : Hd) (hdr : Opnd) : Encodes.Statement (.hdrinv h hdr) := Encodes.all _
theorem Encodes.wcpin (h : Hd) (d hdr : Opnd) : Encodes.Statement (.wcpin h d hdr) := Encodes.all _
theorem Encodes.wcunp (h : Hd) (hdr : Opnd) : Encodes.Statement (.wcunp h hdr) := Encodes.all _
theorem Encodes.rndseq (h : Hd) (ln : Bool) (d key ctr : Opnd) : Encodes.Statement (.rndseq h ln d key ctr) := Encodes.all _
theorem Encodes.raybox (h : Hd) (d ray node : Opnd) : Encodes.Statement (.raybox h d ray node) := Encodes.all _
theorem Encodes.raytri (h : Hd) (cull : Bool) (d ray tri : Opnd) : Encodes.Statement (.raytri h cull d ray tri) := Encodes.all _
theorem Encodes.qysend (h : Hd) (x port : Opnd) : Encodes.Statement (.qysend h x port) := Encodes.all _
theorem Encodes.qyrecv (h : Hd) (d port : Opnd) : Encodes.Statement (.qyrecv h d port) := Encodes.all _
theorem Encodes.qyfree (h : Hd) (d port : Opnd) : Encodes.Statement (.qyfree h d port) := Encodes.all _
theorem Encodes.rbexp (h : Hd) (t : Ty) (pol : Pol) (scope : Scope) (va x : Opnd) : Encodes.Statement (.rbexp h t pol scope va x) := Encodes.all _
theorem Encodes.rbadd (h : Hd) (t : Ty) (pol : Pol) (scope : Scope) (va x : Opnd) : Encodes.Statement (.rbadd h t pol scope va x) := Encodes.all _
theorem Encodes.rbres (h : Hd) (t : Ty) (pol : Pol) (scope : Scope) (d va : Opnd) : Encodes.Statement (.rbres h t pol scope d va) := Encodes.all _
theorem Encodes.sysc (h : Hd) (code : Opnd) : Encodes.Statement (.sysc h code) := Encodes.all _
theorem Encodes.sret (h : Hd) : Encodes.Statement (.sret h) := Encodes.all _
theorem Encodes.hcall (h : Hd) (code : Opnd) : Encodes.Statement (.hcall h code) := Encodes.all _
theorem Encodes.hret (h : Hd) : Encodes.Statement (.hret h) := Encodes.all _
theorem Encodes.ctxnew (h : Hd) (d ctx rec : Opnd) : Encodes.Statement (.ctxnew h d ctx rec) := Encodes.all _
theorem Encodes.ctxfree (h : Hd) (d ctx : Opnd) : Encodes.Statement (.ctxfree h d ctx) := Encodes.all _
theorem Encodes.ctxpinOn (h : Hd) (d ctx : Opnd) : Encodes.Statement (.ctxpinOn h d ctx) := Encodes.all _
theorem Encodes.ctxpinOff (h : Hd) (d ctx : Opnd) : Encodes.Statement (.ctxpinOff h d ctx) := Encodes.all _
theorem Encodes.sqact (h : Hd) (d ctx : Opnd) : Encodes.Statement (.sqact h d ctx) := Encodes.all _
theorem Encodes.sqpark (h : Hd) (wb : Bool) (d ctx : Opnd) : Encodes.Statement (.sqpark h wb d ctx) := Encodes.all _
theorem Encodes.xacq (h : Hd) : Encodes.Statement (.xacq h) := Encodes.all _
theorem Encodes.xrel (h : Hd) : Encodes.Statement (.xrel h) := Encodes.all _
theorem Encodes.regn (h : Hd) : Encodes.Statement (.regn h) := Encodes.all _
theorem Encodes.tlbinvVa (h : Hd) (va idn : Opnd) : Encodes.Statement (.tlbinvVa h va idn) := Encodes.all _
theorem Encodes.tlbinvAsid (h : Hd) (idn : Opnd) : Encodes.Statement (.tlbinvAsid h idn) := Encodes.all _
theorem Encodes.tlbinvVm (h : Hd) (idn : Opnd) : Encodes.Statement (.tlbinvVm h idn) := Encodes.all _
theorem Encodes.tlbinvAll (h : Hd) : Encodes.Statement (.tlbinvAll h) := Encodes.all _
theorem Encodes.ordctlRec (h : Hd) (d va : Opnd) : Encodes.Statement (.ordctlRec h d va) := Encodes.all _
theorem Encodes.ordctlPlay (h : Hd) (d va : Opnd) : Encodes.Statement (.ordctlPlay h d va) := Encodes.all _
theorem Encodes.ordctlOff (h : Hd) (d va : Opnd) : Encodes.Statement (.ordctlOff h d va) := Encodes.all _
theorem Encodes.ordctlChk (h : Hd) (d va : Opnd) : Encodes.Statement (.ordctlChk h d va) := Encodes.all _
theorem Encodes.stepb (h : Hd) (d ctx n : Opnd) : Encodes.Statement (.stepb h d ctx n) := Encodes.all _
theorem Encodes.waitvLineWriteWake (sq : Nat) (lane : Nat) : Encodes.Statement (.waitvLineWriteWake sq lane) := Encodes.all _
theorem Encodes.waitvTimeout (sq : Nat) (lane : Nat) : Encodes.Statement (.waitvTimeout sq lane) := Encodes.all _
theorem Encodes.loadDataReturn (acc : Nat) (err : MemErr) : Encodes.Statement (.loadDataReturn acc err) := Encodes.all _
theorem Encodes.storePerformed (acc : Nat) (err : MemErr) : Encodes.Statement (.storePerformed acc err) := Encodes.all _
theorem Encodes.atomicStepAtSlice (acc : Nat) (err : MemErr) : Encodes.Statement (.atomicStepAtSlice acc err) := Encodes.all _
theorem Encodes.tableWalkComplete (walk : Nat) (err : MemErr) : Encodes.Statement (.tableWalkComplete walk err) := Encodes.all _
theorem Encodes.cpyChunkWritten (cmd : Nat) (err : MemErr) : Encodes.Statement (.cpyChunkWritten cmd err) := Encodes.all _
theorem Encodes.haltedCommandRetry (cmd : Nat) : Encodes.Statement (.haltedCommandRetry cmd) := Encodes.all _
theorem Encodes.haltedCommandTimeout (cmd : Nat) : Encodes.Statement (.haltedCommandTimeout cmd) := Encodes.all _
theorem Encodes.transducerCommandComplete (cmd : Nat) (err : MemErr) : Encodes.Statement (.transducerCommandComplete cmd err) := Encodes.all _
theorem Encodes.deqItemDelivery (cluster : Nat) (queue : Nat) : Encodes.Statement (.deqItemDelivery cluster queue) := Encodes.all _
theorem Encodes.deqTimeout (sq : Nat) : Encodes.Statement (.deqTimeout sq) := Encodes.all _
theorem Encodes.berthEnd (cluster : Nat) (slot : Nat) : Encodes.Statement (.berthEnd cluster slot) := Encodes.all _
theorem Encodes.matrixCommandStart (cluster : Nat) (arr : Nat) : Encodes.Statement (.matrixCommandStart cluster arr) := Encodes.all _
theorem Encodes.matrixKblockComplete (cluster : Nat) (arr : Nat) (err : MemErr) : Encodes.Statement (.matrixKblockComplete cluster arr err) := Encodes.all _
theorem Encodes.lmmPassComplete (core : Nat) (err : MemErr) : Encodes.Statement (.lmmPassComplete core err) := Encodes.all _
theorem Encodes.lmmWaitExpiry (core : Nat) : Encodes.Statement (.lmmWaitExpiry core) := Encodes.all _
theorem Encodes.hdrinvComplete (hid : Nat) : Encodes.Statement (.hdrinvComplete hid) := Encodes.all _
theorem Encodes.samplerHeaderReadComplete (core : Nat) (hdr : Nat) (err : MemErr) : Encodes.Statement (.samplerHeaderReadComplete core hdr err) := Encodes.all _
theorem Encodes.texelFillComplete (core : Nat) (hdr : Nat) (line : Nat) (err : MemErr) : Encodes.Statement (.texelFillComplete core hdr line err) := Encodes.all _
theorem Encodes.weightFillComplete (core : Nat) (fill : Nat) (err : MemErr) : Encodes.Statement (.weightFillComplete core fill err) := Encodes.all _
theorem Encodes.samplerQuadComplete (req : Nat) : Encodes.Statement (.samplerQuadComplete req) := Encodes.all _
theorem Encodes.gatedStepRelease (acc : Nat) : Encodes.Statement (.gatedStepRelease acc) := Encodes.all _
theorem Encodes.extensionBlockGrant (core : Nat) : Encodes.Statement (.extensionBlockGrant core) := Encodes.all _
theorem Encodes.registerFillComplete (sq : Nat) (row : Nat) (err : MemErr) : Encodes.Statement (.registerFillComplete sq row err) := Encodes.all _
theorem Encodes.registerRowEviction (sq : Nat) (row : Nat) : Encodes.Statement (.registerRowEviction sq row) := Encodes.all _
theorem Encodes.fillParkTimeout (sq : Nat) : Encodes.Statement (.fillParkTimeout sq) := Encodes.all _
theorem Encodes.squadActivation (core : Nat) : Encodes.Statement (.squadActivation core) := Encodes.all _
theorem Encodes.activationWaitTimeout (sq : Nat) : Encodes.Statement (.activationWaitTimeout sq) := Encodes.all _
theorem Encodes.parkedSquadWake (sq : Nat) : Encodes.Statement (.parkedSquadWake sq) := Encodes.all _
theorem Encodes.squadDeactivation (core : Nat) : Encodes.Statement (.squadDeactivation core) := Encodes.all _
theorem Encodes.deactivationComplete (sq : Nat) : Encodes.Statement (.deactivationComplete sq) := Encodes.all _
theorem Encodes.bundleFormation (core : Nat) : Encodes.Statement (.bundleFormation core) := Encodes.all _
theorem Encodes.coreClockStart (core : Nat) : Encodes.Statement (.coreClockStart core) := Encodes.all _
theorem Encodes.impreciseStoreFault (acc : Nat) : Encodes.Statement (.impreciseStoreFault acc) := Encodes.all _
theorem Encodes.groupScratchpadGrant (gid : Nat) : Encodes.Statement (.groupScratchpadGrant gid) := Encodes.all _
theorem Encodes.groupDrainComplete (gid : Nat) : Encodes.Statement (.groupDrainComplete gid) := Encodes.all _
theorem Encodes.apertureWrite (entry : Nat) (queue : Nat) (whole : Bool) (bytes : List Byte) : Encodes.Statement (.apertureWrite entry queue whole bytes) := Encodes.all _
theorem Encodes.groupPlacement (cluster : Nat) : Encodes.Statement (.groupPlacement cluster) := Encodes.all _
theorem Encodes.kernelLoadComplete (cluster : Nat) : Encodes.Statement (.kernelLoadComplete cluster) := Encodes.all _
theorem Encodes.admissionInterval (cluster : Nat) : Encodes.Statement (.admissionInterval cluster) := Encodes.all _
theorem Encodes.queueBalancing (cluster : Nat) : Encodes.Statement (.queueBalancing cluster) := Encodes.all _
theorem Encodes.quantumExpiry (item : Nat) (cluster : Nat) : Encodes.Statement (.quantumExpiry item cluster) := Encodes.all _
theorem Encodes.preemptionCollected (item : Nat) : Encodes.Statement (.preemptionCollected item) := Encodes.all _
theorem Encodes.railSample (rail : Nat) (valid : Bool) (milliamps : Nat) : Encodes.Statement (.railSample rail valid milliamps) := Encodes.all _
theorem Encodes.weightRefit (ws : List (BitVec 16)) : Encodes.Statement (.weightRefit ws) := Encodes.all _
theorem Encodes.sensorSample (temps : List (Option Int)) : Encodes.Statement (.sensorSample temps) := Encodes.all _
theorem Encodes.thermalRelease (cluster : Nat) : Encodes.Statement (.thermalRelease cluster) := Encodes.all _
theorem Encodes.gateReq (cluster : Nat) : Encodes.Statement (.gateReq cluster) := Encodes.all _
theorem Encodes.idleGateTimer (cluster : Nat) : Encodes.Statement (.idleGateTimer cluster) := Encodes.all _
theorem Encodes.gateWritebackComplete (cluster : Nat) : Encodes.Statement (.gateWritebackComplete cluster) := Encodes.all _
theorem Encodes.spillComplete (cluster : Nat) : Encodes.Statement (.spillComplete cluster) := Encodes.all _
theorem Encodes.refillComplete (cluster : Nat) : Encodes.Statement (.refillComplete cluster) := Encodes.all _
theorem Encodes.wgtWrite (set : Bool) (j : Nat) (val : BitVec 16) : Encodes.Statement (.wgtWrite set j val) := Encodes.all _
theorem Encodes.registerWrite (reg : HostReg) (val : BitVec 64) : Encodes.Statement (.registerWrite reg val) := Encodes.all _
theorem Encodes.mailboxReadRing (c : Nat) : Encodes.Statement (.mailboxReadRing c) := Encodes.all _
theorem Encodes.mailboxClearFrozen (c : Nat) : Encodes.Statement (.mailboxClearFrozen c) := Encodes.all _
theorem Encodes.mailboxPreempt (entry : Nat) (queue : Nat) (seq : BitVec 32) : Encodes.Statement (.mailboxPreempt entry queue seq) := Encodes.all _
theorem Encodes.mailboxResume (entry : Nat) (queue : Nat) (seq : BitVec 32) : Encodes.Statement (.mailboxResume entry queue seq) := Encodes.all _
theorem Encodes.mailboxKill (entry : Nat) (queue : Nat) (seq : BitVec 32) : Encodes.Statement (.mailboxKill entry queue seq) := Encodes.all _
theorem Encodes.mailboxClusterReset (c : Nat) : Encodes.Statement (.mailboxClusterReset c) := Encodes.all _
theorem Encodes.mailboxDeviceReset : Encodes.Statement (.mailboxDeviceReset) := Encodes.all _
theorem Encodes.mailboxAttestation : Encodes.Statement (.mailboxAttestation) := Encodes.all _
theorem Encodes.deviceReset : Encodes.Statement (.deviceReset) := Encodes.all _
theorem Encodes.powerLoss : Encodes.Statement (.powerLoss) := Encodes.all _
theorem Encodes.hostRead (addr : HostAddr) (n : Nat) : Encodes.Statement (.hostRead addr n) := Encodes.all _
theorem Encodes.hostWrite (addr : HostAddr) (bytes : List Byte) : Encodes.Statement (.hostWrite addr bytes) := Encodes.all _
theorem Encodes.peerAccess (req : PeerReq) : Encodes.Statement (.peerAccess req) := Encodes.all _
theorem Encodes.refreshOrScrub (src : ScrubSrc) (addr : Nat) (err : MemErr) : Encodes.Statement (.refreshOrScrub src addr err) := Encodes.all _
theorem Encodes.peerLinkTraining (port : Nat) (up : Bool) : Encodes.Statement (.peerLinkTraining port up) := Encodes.all _

end Sys2Proof.Laws
end

