-- ==== Sys2Proof/Safety.lean ====
section
/-! DEFINITION. What counts as a safe run, and the terms in which statements speak of an instruction: when nothing holds its bundle back, what its
issue leaves alone, and what two squads have alike. -/
namespace Sys2Proof

/-- A run of k steps from a state answers a next state each time. -/
def runsSafely : Nat → Machine.State → Prop
  | 0, s => Machine.Memory.wf s.dev.mem = true
  | k + 1, s => ∃ t, Machine.step s = .next t ∧ runsSafely k t

namespace Machine

/-- A form has no check of its own. -/
def noChk (_ : Dev) (_ : Env) (_ : Nat) : Chk := .ok

/-- The guard of an instruction holds in a lane (R13). -/
def guardHolds (h : Hd) (l : Lane) : Bool := l.qbit (h.grd.toNat % 8) ^^ h.grd.getLsbD 3

/-- The flag a bundle is to claim counts fewer than 63 (R38). -/
def flagRoom (d : Dev) (u : Nat) (lns : List Nat) (h : Hd) : Prop := (squadOf d u).flagFull lns h = false

/-- An instruction of the common path whose failing lanes just go on: every form but the gathering ones (R13, R92, R94, R211). -/
def plainForm : Form → Bool
  | .gjoin | .gleave | .gbar | .garv | .gwait | .tkwait | .tkpass | .deq | .qysend | .qyrecv => false
  | .mwait | .vote | .ballot | .shfl | .lred | .lscan | .lbcast | .lmatch | .qscale | .qsplit | .smp | .smps => false
  | _ => true

/-- An instruction word, its bundle at hand in a squad that is there. -/
structure AtHand (r : Raw) (d : Dev) (u : Nat) (lns : List Nat) : Prop where
  cur   : d.cur = some ⟨u, lns⟩
  lanes : lns ≠ []
  squad : (fget d.squads u).isSome = true

/-- The bundle is at hand, its guard holds in every lane, and no lane meets a trap that its mode and squad give (R45). -/
structure Legal (r : Raw) (d : Dev) (u : Nat) (lns : List Nat) : Prop extends AtHand r d u lns where
  guard : ∀ ln ∈ lns, guardHolds r.h (laneOf d u ln) = true
  legal : ∀ ln ∈ lns, dynCheck d (squadOf d u) (groupOf d (squadOf d u).group) ln r = none

/-- The word's flag selection is valid in a lane, and no slot names a register that the lane's squad or group does not hold (R17, R28, R106). -/
def slotsLegal (r : Raw) (d : Dev) (u ln : Nat) : Prop :=
  (r.h.fsel = 1#2 → (laneOf d u ln).clause.seta.valid = true) ∧ (r.h.fsel = 2#2 → (laneOf d u ln).clause.setb.valid = true) ∧
    ∀ p ∈ slotsOf r, slotIllegal (squadOf d u) (groupOf d (squadOf d u).group) p.2.1 p.2.2 = false ∧ slotReadOnly p.2.1 p.2.2 = false

/-- Nothing holds a bundle back: its squad is there, every lane's guard holds, no lane meets a trap before its own effect (R45), every register row
is at hand and unpoisoned (R263, R319), no register it names awaits an outstanding access (R16), its flag can count (R38), and the form's own
check passes. -/
structure Clear (r : Raw) (chk : Dev → Env → Nat → Chk) (d : Dev) (u : Nat) (lns : List Nat) : Prop where
  cur   : d.cur = some ⟨u, lns⟩
  lanes : lns ≠ []
  squad : (fget d.squads u).isSome = true
  guard : ∀ ln ∈ lns, guardHolds r.h (laneOf d u ln) = true
  legal : ∀ ln ∈ lns, dynCheck d (squadOf d u) (groupOf d (squadOf d u).group) ln r = none
  free  : ∀ ln ∈ lns, interlocked d u (squadOf d u).group [ln] r = false
  room  : flagRoom d u lns r.h
  pass  : ∀ ln ∈ lns, laneChk d (envOf d u lns) r chk ln = .ok

/-- The machine as an instruction's effect finds it: the bundle is in the execute stages, and its flag is claimed (R38, R272). -/
def begun (r : Raw) (d : Dev) (u : Nat) (lns : List Nat) : Dev :=
  takeClaim (startExecute d u lns r) u lns ((squadOf d u).newFlag lns r.h)

/-- What the effect then reads. -/
def begunEnv (r : Raw) (d : Dev) (u : Nat) (lns : List Nat) : Env :=
  let d6 := begun r d u lns
  { envOf d u lns with s := squadOf d6 u, g := groupOf d6 (squadOf d u).group }

/-- What follows an effect: the undo log of a debugged squad, claims that nothing holds any more, walks that nothing waits for. -/
def ended (r : Raw) (before after : Dev) (u : Nat) : Dev :=
  sweepWalks (settleClaims (logUndo before after u r (isEngine r.form)) u)

/-- The rest of a device: without its squads, the execute stages and idle times of its cores, its identifiers and its walks. -/
def Dev.rest (d : Dev) : Dev := { d with squads := [], cores := [], clusters := [], walks := [], fresh := 0 }

/-- An instruction of squad u leaves everything outside that squad: the other squads; of the cores all but their execute stages, clocks and counts;
of the clusters all but the idle time of an upper core; and all the rest: memory, L2, L1, fetch copies, translations, scratchpad, groups, accesses,
commands, engines, quays, queues, items, device registers. -/
structure Kept (u : Nat) (d d' : Dev) : Prop where
  rest     : d'.rest = d.rest
  squads   : ∀ v, v ≠ u → fget d'.squads v = fget d.squads v
  cores    : ∀ k, ({ coreOf d' k with exec := [], clock := false, events := [] } : Core) = { coreOf d k with exec := [], clock := false, events := [] }
  clusters : ∀ c, ({ clusterOf d' c with idleAt := none } : Cluster) = { clusterOf d c with idleAt := none }

/-- A lane without its hold on a flag and its place in the execute stages; with g, also without what a gather does to it: its wait and the clocks it takes from the others. -/
def Lane.bare (g : Bool) (l : Lane) : Lane :=
  { l with claim := none, issued := false, wait := if g then .run else l.wait, vc := if g then [] else l.vc, acq := if g then 0 else l.acq }

/-- A squad without its lanes, the bookkeeping of its flags and its undo log; with g, also without its gathers in progress. -/
def Squad.bare (g : Bool) (s : Squad) : Squad :=
  { s with lanes := [], claims := [], fcnt := [], fdone := [], undo := [], dbg := false, insts := if g then [] else s.insts }

/-- Two squads have alike all but flags and the undo log: banks, masks, rows, status, and every lane. With g, gathers and what they do to waits and clocks
are left out too. -/
structure Squad.Alike (g : Bool) (a b : Squad) : Prop where
  bare  : a.bare g = b.bare g
  lanes : ∀ ln, (fget a.lanes ln).map (Lane.bare g) = (fget b.lanes ln).map (Lane.bare g)

/-- An effect on squad u that leaves everything outside it, the squad there, and the squad alike. -/
structure Stands (g : Bool) (u : Nat) (d d' : Dev) : Prop where
  kept  : Kept u d d'
  here  : (fget d'.squads u).isSome = (fget d.squads u).isSome
  alike : Squad.Alike g (squadOf d' u) (squadOf d u)

/-- Environments that read alike. -/
structure Env.Alike (g : Bool) (e e' : Env) : Prop where
  s    : Squad.Alike g e.s e'.s
  g    : e.g = e'.g
  sq   : e.sq = e'.sq
  pc   : e.pc = e'.pc
  tick : e.tick = e'.tick
  core : e.core = e'.core

/-- An instruction that, from every state in which nothing holds its bundle back and `ok` holds, ends in the next state its effect gives: the machine
begins as every issue does, `act` is done by all lanes of the bundle, reading the registers as they stood at issue, and what follows every effect
follows. -/
def RunsWhen (i : Instr) (chk : Dev → Env → Nat → Chk) (ok : Env → List Nat → Dev → Prop) (act : Env → List Nat → Dev → Dev) : Prop :=
  ∀ (s : State) (u : Nat) (lns : List Nat), Clear (rawOf i) chk s.dev u lns →
    ok (begunEnv (rawOf i) s.dev u lns) lns (begun (rawOf i) s.dev u lns) →
    exec i s = .next { s with dev := ended (rawOf i) (begun (rawOf i) s.dev u lns) (act (begunEnv (rawOf i) s.dev u lns) lns (begun (rawOf i) s.dev u lns)) u }

/-- The same with no further condition. -/
def RunsTo (i : Instr) (chk : Dev → Env → Nat → Chk) (act : Env → List Nat → Dev → Dev) : Prop := RunsWhen i chk (fun _ _ _ => True) act

/-- Each lane in its turn meets a condition in the machine as it finds it, and leaves what the step gives. -/
def allOk (ok : Dev → Nat → Prop) (step : Dev → Nat → Dev) : Dev → List Nat → Prop
  | _, [] => True
  | d, ln :: t => ok d ln ∧ allOk ok step (step d ln) t

/-- An instruction that each lane does on its own, in ascending order: where each meets `ok` in its turn, it ends in the state the steps give. -/
def RunsLanes (i : Instr) (chk : Dev → Env → Nat → Chk) (ok : Env → Dev → Nat → Prop) (step : Env → Dev → Nat → Dev) : Prop :=
  RunsWhen i chk (fun e lns d => allOk (ok e) (step e) d lns) fun e lns d => lns.foldl (step e) d

/-- A squad after each lane of a bundle has made its writes and gone on to the next word. -/
def ranLanes (f : Nat → Squad → Squad) (lns : List Nat) (s : Squad) : Squad :=
  lns.foldl (fun q ln => (f ln q).setLane ln Lane.advance) s

/-- An instruction that only writes registers of its squad: from every state in which nothing holds its bundle back, it ends in a next state in
which each lane has made the writes f gives it and gone on, and all else is as it was. -/
def WritesRegs (i : Instr) (ok : Dev → Nat → List Nat → Prop) (f : Env → Nat → Squad → Squad) : Prop :=
  ∀ (s : State) (u : Nat) (lns : List Nat), Clear (rawOf i) noChk s.dev u lns → ok s.dev u lns →
    ∃ t, exec i s = .next t ∧ t.power = s.power ∧ t.trust = s.trust ∧ Kept u s.dev t.dev ∧
      Squad.Alike false (squadOf t.dev u) (ranLanes (f (envOf s.dev u lns)) lns (squadOf s.dev u))

/-- The bundle is all of what a gathering form counts, in ascending order, at depth 0, and no gather of it is in progress at its word (R92, R93): the
form completes at once. -/
structure Gathered (m : Option Nat) (d : Dev) (u : Nat) (lns : List Nat) : Prop where
  all    : (squadOf d u).gatherSet m = lns
  rising : lns.Pairwise (· < ·)
  level  : ∀ ln ∈ lns, (laneOf d u ln).depth = 0
  fresh  : fget (squadOf d u).insts (instKey (laneOf d u (lns.headD 0)).pc m) = none

/-- The machine once all lanes of the bundle have arrived at their gather and it is complete. -/
def arrivedAt (m : Option Nat) (pc : Pc) (u : Nat) (lns : List Nat) (d : Dev) : Dev :=
  setSquad (holdLanes d u .gather lns) u fun s =>
    ({ s with insts := fput s.insts (instKey pc m) { mask := m, arrived := lns } }).closeInsts

/-- The machine as the effect of a gathering form finds it: the gather is over, and its participants have met (R92, R301). -/
def gathered (r : Raw) (m : Option Nat) (d : Dev) (u : Nat) (lns : List Nat) : Dev :=
  let pc := (envOf d u lns).pc
  meetClocks (setSquad (arrivedAt m pc u lns (begun r d u lns)) u fun s => { s with insts := fdel s.insts (instKey pc m) }) u lns

/-- What that effect reads. -/
def gatheredEnv (r : Raw) (m : Option Nat) (d : Dev) (u : Nat) (lns : List Nat) : Env :=
  let pc := (envOf d u lns).pc
  let d2 := arrivedAt m pc u lns (begun r d u lns)
  { begunEnv r d u lns with
    s := { squadOf d2 u with insts := fdel (squadOf d2 u).insts (instKey pc m) }, g := groupOf d2 (squadOf d2 u).group }

/-- A gathering form whose lanes all arrive at once: where `ok` holds, it ends in the next state that `done` gives with all of them as participants. -/
def RunsGathered (i : Instr) (m : Option Nat) (chk : Dev → Env → Nat → Chk) (ok : Env → List Nat → Dev → Prop)
    (done : Env → List Nat → Dev → Dev) : Prop :=
  ∀ (s : State) (u : Nat) (lns : List Nat), Clear (rawOf i) chk s.dev u lns → Gathered m s.dev u lns →
    ok (gatheredEnv (rawOf i) m s.dev u lns) lns (gathered (rawOf i) m s.dev u lns) →
    let d := done (gatheredEnv (rawOf i) m s.dev u lns) lns (gathered (rawOf i) m s.dev u lns)
    exec i s = .next { s with dev := ended (rawOf i) (begun (rawOf i) s.dev u lns) d u }

/-- An instruction that gathers lanes and then only writes registers of its squad: the lanes f counts make the writes f gives them and go on; the
gather releases and acquires among them (R92, R301), which this leaves out. -/
def GatherWrites (i : Instr) (m : Option Nat) (ok : Env → List Nat → Prop) (f : Env → List Nat → Nat → Squad → Squad) : Prop :=
  ∀ (s : State) (u : Nat) (lns : List Nat), Clear (rawOf i) noChk s.dev u lns → Gathered m s.dev u lns → ok (envOf s.dev u lns) lns →
    ∃ t, exec i s = .next t ∧ t.power = s.power ∧ t.trust = s.trust ∧ Kept u s.dev t.dev ∧
      Squad.Alike true (squadOf t.dev u) (ranLanes (f (envOf s.dev u lns) lns) lns (squadOf s.dev u)) ∧
      ∀ ln ∈ lns, (laneOf t.dev u ln).wait = .run

/-- No further condition. -/
def always (_ : Dev) (_ : Nat) (_ : List Nat) : Prop := True

/-- The check that a form makes of its own before any of privilege passes in a lane: the registers it names await nothing and are at hand, REGN is the first of its clause, an id fits,
and a value is legal for MOOR, TMOOR or PRIVL (R45, R99, R247, R248, R281). -/
structure OwnLegal (i : Instr) (d : Dev) (u : Nat) (lns : List Nat) (ln : Nat) : Prop where
  free  : interlocked d u (squadOf d u).group [ln] (rawOf i) = false
  rows  : (rowsRead (rawOf i)).any (squadOf d u).missing = false
  first : ∀ h, i = .regn h → (laneOf d u ln).hofs = 1
  idVa  : ∀ h va n, i = .tlbinvVa h va n → readN32 (envOf d u lns) ln n < 65536
  idAs  : ∀ h n, i = .tlbinvAsid h n → readN32 (envOf d u lns) ln n < 65536
  idVm  : ∀ h n, i = .tlbinvVm h n → readN32 (envOf d u lns) ln n < 4096
  moor  : ∀ h wide tm x, i = .moorWrite h wide tm x → moorChk wide (if tm then 6 else 1) x d (envOf d u lns) ln = .ok
  privl : ∀ h wide x, i = .privlWrite h wide x → privlChk wide x d (envOf d u lns) ln = .ok

/-- What a lane's write of a value with raised flags leaves, n draws of the random number taken (R75, R76). -/
def putFl (n : Nat) (d : Opnd) (t : Ty) (v : DWord × Fl) (ln : Nat) (q : Squad) : Squad := ((takeDraws n ln q).write ln d t v.1).raise v.2

/-- No lane raises a flag whose trap is enabled (R76, R252). -/
def noFpTrap (v : Env → Nat → DWord × Fl) (d : Dev) (u : Nat) (lns : List Nat) : Prop :=
  ∀ ln ∈ lns, flTraps (squadOf d u).fpcr (v (envOf d u lns) ln).2 = false

/-- An instruction that takes n draws and gives each lane a value of a type and raised flags. -/
def GivesFl (i : Instr) (n : Nat) (d : Opnd) (t : Ty) (v : Env → Nat → DWord × Fl) : Prop :=
  WritesRegs i (noFpTrap v) fun e ln => putFl n d t (v e ln) ln

/-- An instruction that gives each lane a value of a type. -/
def Gives (i : Instr) (d : Opnd) (t : Ty) (v : Env → Nat → DWord) : Prop :=
  WritesRegs i always fun e ln q => q.write ln d t (v e ln)

/-- An address is that of a valid clause header for a lane (R34). -/
def jumps (d : Dev) (u ln a : Nat) : Prop := a < 2 ^ 54 ∧ ∃ i, (headerAt d (fetcherOf d u ln) a).2 = .ok i

/-- An address is that of no valid clause header for a lane (R34). -/
def noHeader (d : Dev) (u ln a : Nat) : Prop := 2 ^ 54 ≤ a ∨ (headerAt d (fetcherOf d u ln) a).2 = .bad

/-- A lane arrives at a header, its writes made (R96). -/
def landing (d : Dev) (u ln a : Nat) (pre : Squad → Squad) : Dev :=
  setSquad (headerAt d (fetcherOf d u ln) a).1 u fun q => (pre q).setLane ln fun l => l.goto (BitVec.ofNat 54 a)

/-- A lane traps at a transfer to no valid header (R46, R96). -/
def badLanding (d : Dev) (u ln a : Nat) : Dev :=
  trapAt (if 2 ^ 54 ≤ a then d else (headerAt d (fetcherOf d u ln) a).1) u ln 0x01 (0x8000000000000000#64 ||| BitVec.ofNat 64 (a % 2 ^ 54))

/-- The bits that SWR can change in a system register (R99, R125, R239, R251, R252). -/
def sysMask (n : Nat) : DWord :=
  match n with
  | 0x000 => 0x10
  | 0x001 | 0x006 => 0x8F3FFFFFFFFFFFFF
  | 0x002 | 0x003 | 0x008 | 0x009 | 0x00E => 0x003FFFFFFFFFFFFF
  | 0x004 => 0x33FF
  | 0x007 => 0xFE
  | 0x00A => 0x7F33FF
  | 0x005 | 0x00B | 0x00D | 0x025 | 0x044 | 0x045 => 0xFFFFFFFFFFFFFFFF
  | 0x00C | 0x00F | 0x026 | 0x046 => 0xFFFFFFFF
  | 0x020 => 0x7F
  | 0x021 => 0x1F
  | 0x027 => 4
  | 0x028 | 0x049 => 0xFFFF
  | 0x047 => 0xFFF
  | _ => 0

/-- A frame's resume address lies in the clause its THDR heads, or is the next header's (R238). -/
def canReturn (d : Dev) (u ln : Nat) (fr : Frame) : Prop :=
  ∃ len w a b cls yp j, (headerAt d { fetcherOf d u ln with user := fr.pm == 0 } fr.hdr.toNat).2 = .ok (.clauseEntry len w a b cls yp) ∧
    j ≤ len.toNat + 1 ∧ fr.epc.toNat = fr.hdr.toNat + 12 * j

/-- A lane after a return through a frame (R238): inside the clause it holds the clause, whose WAIT mask it waits for again (R37). -/
def returned (d : Dev) (u ln : Nat) (fr : Frame) (pop : Lane → Lane) : Dev :=
  let p := headerAt d { fetcherOf d u ln with user := fr.pm == 0 } fr.hdr.toNat
  let cl := match p.2 with
    | .ok i => clauseOf i
    | _ => {}
  let j := (fr.epc.toNat - fr.hdr.toNat) / 12
  let inside := j ≠ 0 && j ≤ cl.len.toNat
  setLane p.1 u ln fun l => { pop l with
    q := fr.pred, mode := if fr.pm = 0 then .u else if fr.pm = 1 then .s else .h, pc := fr.epc
    clause := if inside then cl else l.clause, hofs := if inside then BitVec.ofNat 4 j else 0, recheck := inside }

/-- The code of a call, 0 where it has none (R102, R237). -/
def codeOf : Opnd → DWord
  | .imm x => x.setWidth 64
  | _ => 0

/-- The header of the word after a lane's: its own clause's, or that word itself behind the clause's last (R237). -/
def callHdr (l : Lane) : Pc := if l.hofs = l.clause.len then l.pc + 12 else l.hdr

/-- An instruction whose effect is to issue accesses: wherever nothing holds its bundle back and `ok` holds, its lanes go on with every register as it was, and all outside the
squad, every byte of memory, of L2, of every L1 and of scratchpad among it, is as it was; what was outstanding still is. -/
def IssuesAccess (i : Instr) (chk : Dev → Env → Nat → Chk) (ok : Dev → Env → List Nat → Prop) : Prop :=
  ∀ (s : State) (u : Nat) (lns : List Nat), Clear (rawOf i) chk s.dev u lns → ok s.dev (envOf s.dev u lns) lns →
    ∃ t, exec i s = .next t ∧ t.power = s.power ∧ t.trust = s.trust ∧
      Kept u s.dev { t.dev with groups := s.dev.groups, accs := s.dev.accs, tags := s.dev.tags } ∧
      Squad.Alike true (squadOf t.dev u) (ranLanes (fun _ q => q) lns (squadOf s.dev u)) ∧
      (∀ k < s.dev.fresh, fget t.dev.accs k = fget s.dev.accs k) ∧
      (∀ g, g ≠ (squadOf s.dev u).group → fget t.dev.groups g = fget s.dev.groups g) ∧
      ∀ v j, (groupOf t.dev (squadOf s.dev u).group).wFor v j = (groupOf s.dev (squadOf s.dev u).group).wFor v j

/-- No replay gates a lane's step at its address (R401). -/
def ungated (va : Opnd) (d : Dev) (e : Env) (lns : List Nat) : Prop := ∀ ln ∈ lns, gates d e.s (readN64 e ln va) = false

/-- No further condition on what an issue finds. -/
def anyEnv (_ : Dev) (_ : Env) (_ : List Nat) : Prop := True

/-- A misaligned address stops a bundle: in every lane it is no multiple of n, no acquire is awaited, and the rows the word names are at hand. -/
structure Misaligned (r : Raw) (d : Dev) (u : Nat) (lns : List Nat) (n : Nat) (a : Env → Nat → Int) : Prop extends Legal r d u lns where
  free : ∀ ln ∈ lns, interlocked d u (squadOf d u).group [ln] r = false
  room : flagRoom d u lns r.h
  rows : (rowsRead r ++ rowsWritten r).any (squadOf d u).missing = false ∧ rowRoom d u (squadOf d u) (rowsWritten r) = true
  read : ∀ ln ∈ lns, rowCause d (squadOf d u) ln (rowsRead r) (rowsWritten r) = none ∧
    rowPoison (squadOf d u) ln (rowsRead r) = none ∧ fillPoison (squadOf d u) ln (rowsWritten r) = none
  late : ∀ ln ∈ lns, acqPending d u ln = false
  odd  : ∀ ln ∈ lns, a (envOf d u lns) ln % n ≠ 0

/-- Every lane of a bundle takes cause 0x03 with the address it named (R157). -/
def MisalignedTraps (i : Instr) (n : Nat) (a : Env → Nat → Int) : Prop :=
  ∀ (s : State) (u : Nat) (lns : List Nat), Misaligned (rawOf i) s.dev u lns n a →
    exec i s = .next { s with dev := sweepWalks (trapAll s.dev u (lns.map fun ln => (ln, 0x03, BitVec.ofInt 64 (a (envOf s.dev u lns) ln)))) }

/-- An outstanding access may be performed with nothing else to follow it: no FENCE and no command waits, and its squad is live, not debugged, and has no image still to be
written for its end. -/
structure Performable (d : Dev) (k : Nat) (a : Acc) : Prop where
  here   : fget d.accs k = some a
  ready  : accReady d k a = true
  fences : ∀ p ∈ d.accs, p.2.isFence = false
  cmds   : d.cmds = []
  squad  : (fget d.squads a.sq).isSome = true
  live   : (squadOf d a.sq).state ≠ .ended
  dbg    : (squadOf d a.sq).dbg = false
  whole  : (squadOf d a.sq).ending = false

/-- A lane alone in its bundle whose operation raises a flag that is enabled: it takes its draws, FPSR its flags, and the lane cause 0x14 with
those flags; nothing is written (R76, R139). -/
def FlTraps (i : Instr) (n : Nat) (v : Env → Nat → DWord × Fl) : Prop :=
  ∀ (s : State) (u ln : Nat), Clear (rawOf i) noChk s.dev u [ln] → flTraps (squadOf s.dev u).fpcr (v (envOf s.dev u [ln]) ln).2 = true →
    let d := begun (rawOf i) s.dev u [ln]
    let fl := (v (envOf s.dev u [ln]) ln).2
    exec i s = .next { s with dev := ended (rawOf i) d (trapAt (setSquad d u fun q => (takeDraws n ln q).raise fl) u ln 0x14 (fl.setWidth 64)) u }

/-- The exact value of a number; none for an infinity or a NaN (R64). -/
def FV.rat : FV → Option ℚ
  | .fin neg m e => some ((if neg then -1 else 1) * m * 2 ^ e)
  | _ => none

/-- A mode takes, of the two values that enclose x, the one of larger magnitude (R72, R75): the sign, whether the code of the smaller one is odd, which part u of
the gap between them lies below x, and the draw. -/
def takesLarger (mode : Rnd) (neg : Bool) (odd : Prop) (u : ℚ) (draw : Nat) : Prop :=
  match mode with
  | .rne => 1 / 2 < u ∨ u = 1 / 2 ∧ odd
  | .rtz => False
  | .rup => u ≠ 0 ∧ neg = false
  | .rdn => u ≠ 0 ∧ neg = true
  | .rs => 65536 ≤ ⌊65536 * u⌋ + (draw : Int)

/-- A magnitude x lies from k * 2^q, a value of a format, up to the next one above, of an exponent range that has no end above, nor, unless it is bounded, below (R64, R67, R72). -/
structure Encloses (f : FF) (bounded : Bool) (x : ℚ) (k : Nat) (q : Int) : Prop where
  below  : (k : ℚ) * 2 ^ q ≤ x
  above  : x < (k + 1 : ℚ) * 2 ^ q
  fits   : k < 2 ^ (f.m + 1)
  normal : 2 ^ f.m ≤ k ∨ bounded = true ∧ q = f.emin - f.m
  range  : bounded = true → f.emin - f.m ≤ q

/-- A mode takes a magnitude x to y, the larger of the two values that enclose it where `up` (R72, R75). -/
def RoundsTo (f : FF) (mode : Rnd) (neg : Bool) (draw : Nat) (x : ℚ) (bounded up : Bool) (y : ℚ) : Prop :=
  ∃ k q, Encloses f bounded x k q ∧ y = (k + if up then 1 else 0 : ℚ) * 2 ^ q ∧
    (up = true ↔ takesLarger mode neg (if f.m = 0 then k ≠ 0 ∧ (q + f.bias) % 2 = 1 else k % 2 = 1) (x / 2 ^ q - k) draw)

/-- Rounding to a format is that of the spec, as its decoder reads the codes: a value of the format is its code, any other goes where its mode takes it (R72), beyond the largest
value as R73 says, with the flags of R73, R74 and R79; specials go as R78 says. -/
structure Rounds (f : FF) (dec : Nat → FV) : Prop where
  exact : ∀ (mode : Rnd) (sat neg : Bool) (n d draw c : Nat), 0 < n → 0 < d → draw < 65536 → c < 2 ^ f.wid →
    (dec c).rat = some ((if neg then -1 else 1) * ((n : ℚ) / d)) → roundRat f mode sat neg n d draw = (c, 0)
  inside : ∀ (mode : Rnd) (sat neg up up' : Bool) (n d draw : Nat) (y z : ℚ), 0 < n → 0 < d → draw < 65536 → (neg = true → f.signed = true) →
    RoundsTo f mode neg draw ((n : ℚ) / d) true up y → RoundsTo f mode neg draw ((n : ℚ) / d) false up' z → y ≤ (f.maxK : ℚ) * 2 ^ f.maxE →
    let r := roundRat f mode sat neg n d draw
    r.1 < 2 ^ f.wid ∧ (dec r.1).rat = some ((if neg then -1 else 1) * y) ∧ (y = 0 → r.1 = if f.negZero && neg then 2 ^ (f.wid - 1) else 0) ∧
      r.2 = (if y = (n : ℚ) / d then 0 else flNX) ||| (if y ≠ (n : ℚ) / d ∧ z < 2 ^ f.emin then flUF else 0)
  beyond : ∀ (mode : Rnd) (sat neg up : Bool) (n d draw : Nat) (y : ℚ), 0 < n → 0 < d → draw < 65536 → (neg = true → f.signed = true) →
    RoundsTo f mode neg draw ((n : ℚ) / d) true up y → (f.maxK : ℚ) * 2 ^ f.maxE < y →
    let r := roundRat f mode sat neg n d draw
    let clamp := sat = true ∨ f.hasInf = false
    r.1 < 2 ^ f.wid ∧
      (clamp ∨ mode = .rtz ∨ (mode = .rup ∧ neg = true) ∨ (mode = .rdn ∧ neg = false) ∨ (mode = .rs ∧ up = false) →
        (dec r.1).rat = some ((if neg then -1 else 1) * ((f.maxK : ℚ) * 2 ^ f.maxE))) ∧
      (¬ clamp → mode = .rne ∨ (mode = .rup ∧ neg = false) ∨ (mode = .rdn ∧ neg = true) ∨ (mode = .rs ∧ up = true) → dec r.1 = .inf neg) ∧
      r.2 = flOF ||| flNX ||| (if clamp then flSAT else 0)
  unsigned : ∀ (mode : Rnd) (sat up : Bool) (n d draw : Nat) (y : ℚ), f.signed = false → 0 < n → 0 < d → draw < 65536 →
    RoundsTo f mode true draw ((n : ℚ) / d) true up y → roundRat f mode sat true n d draw = if y = 0 then (0, flUF ||| flNX) else (f.nan, flNV)
  number : ∀ (mode : Rnd) (sat neg : Bool) (m draw : Nat) (e : Int), 0 < m → ∃ n d : Nat, 0 < n ∧ 0 < d ∧ (n : ℚ) / d = m * 2 ^ e ∧
    roundFV f mode sat draw (.fin neg m e) = roundRat f mode sat neg n d draw
  zero : ∀ (mode : Rnd) (sat neg : Bool) (draw : Nat) (e : Int),
    roundFV f mode sat draw (.fin neg 0 e) = (if f.negZero && neg then 2 ^ (f.wid - 1) else 0, 0)
  nan : ∀ (mode : Rnd) (sat sig : Bool) (draw : Nat), let r := roundFV f mode sat draw (.nan sig)
    (f.wid ≠ 4 → dec r.1 = .nan false ∧ r.2 = if sig then flNV else 0) ∧ (f.wid = 4 → r = (0, flNV))
  inf : ∀ (mode : Rnd) (sat neg : Bool) (draw : Nat), let r := roundFV f mode sat draw (.inf neg)
    (neg = true → f.signed = false → r = (f.nan, flNV)) ∧
    ((neg = true → f.signed = true) → sat = false → f.hasInf = true → dec r.1 = .inf neg ∧ r.2 = 0) ∧
    ((neg = true → f.signed = true) → sat = true ∨ f.hasInf = false → (dec r.1).rat = some ((if neg then -1 else 1) * ((f.maxK : ℚ) * 2 ^ f.maxE)) ∧ r.2 = flSAT)

/-- The mailbox has taken a command and its arguments (R444). -/
def rung (d : Dev) (code : Nat) (args : List Nat) : Dev :=
  { d with host := { d.host with
    cmd := BitVec.ofNat 8 code, args := args.zipIdx.foldl (fun m p => fset 0 m p.2 (BitVec.ofNat 32 p.1)) d.host.args } }

/-- The mailbox has answered with a result (R444). -/
def answered (d : Dev) (r : Nat) : Dev := { d with host := { d.host with result := BitVec.ofNat 8 r } }

/-- A squad's shape: no lane is deeper than its three frames, nor one that has exited or that the undo log keeps (R232, R233); an image still to be written for its end is that of
a squad that has ended (R97). -/
structure Squad.legal (s : Squad) : Prop where
  lanes  : ∀ p ∈ s.lanes, p.2.depth ≤ 3
  exited : ∀ p ∈ s.exited, p.2.depth ≤ 3
  undo   : ∀ x ∈ s.undo, ∀ p ∈ x.lanes, p.2.depth ≤ 3
  ending : s.ending = true → s.state = .ended

/-- L2 holds what its slices have room for: 16,384 superblock tags and 131,072 sectors each, at most 4 sectors to a line (R2, R286, R292). -/
structure Dev.l2Legal (d : Dev) : Prop where
  sorted  : fsorted d.l2 = true
  sects   : ∀ p ∈ d.l2, p.2.sects ≤ 4
  tags    : ∀ ln, superblocks (sliceLines d ln) ≤ 16384
  sectors : ∀ ln, sectorsIn (sliceLines d ln) ≤ 131072

/-- The shape of every state that a run reaches: squads and L2. -/
structure Dev.legal (d : Dev) : Prop where
  squads : ∀ p ∈ d.squads, p.2.legal
  l2     : d.l2Legal

/-- A rail's registers lie in their fields (R430, R431, R436). -/
def Rail.legal (x : Rail) : Prop := x.ilim < 1024 ∧ x.code < 1024 ∧ x.last < 1024 ∧ x.step ≤ 8 ∧ x.whld ≤ 7 ∧ x.quiet < 8

/-- A cluster's floors lie in their ranges (R431, R435, R436). -/
def PCluster.legal (x : PCluster) : Prop := x.floor ≤ 8 ∧ x.thermal ≤ 12

/-- The power controller's registers are legal: every rail's and cluster's fields, no limit above its reset value, a level of R434, nine weights
to a set (R430 to R436). -/
structure Power.legal (p : Power) : Prop where
  rails  : ∀ r ∈ p.rails, r.2.legal
  clu    : ∀ c ∈ p.clu, c.2.legal
  limits : p.lower ≤ 105 ∧ p.upper ≤ 95 ∧ p.vert ≤ 18 ∧ p.lat ≤ 25
  level  : p.level ≤ 3
  sets   : p.vcl.length = 9 ∧ p.vup.length = 9

/-- The device answers: module power is on, no thermal trip holds, and it is not held in reset (R322, R435, R445). -/
def live (s : State) : Prop := s.trust.power = true ∧ s.power.tripped = false ∧ s.trust.inReset = false

end Machine
end Sys2Proof
end

