-- ==== Sys2Proof/Certificates/Slice0/Obligations.lean ====
section
/-! DEFINITION. The statements about the model: one def : Prop each. -/
open Sys2Proof Sys2Proof.Machine

/-- R11, R33, R34, R45: the spec's own encodings read as the instructions they stand for: the headers and words that the kernel of spec/09 and the examples of spec/01, 04, 05, 06 and 08 assemble to,
and an atomic form at `.l1`, which is no encoding. -/
def Obligations.EncodingsReadRight : Prop :=
  decodeTableWord 96 0x0000000000400000000033FF = some (.clauseEntry 12 0 ⟨false, 0⟩ ⟨false, 0⟩ 1 false) ∧
  decodeTableWord 96 0x0000000000011000000007FF = some (.clauseEntry 1 0 ⟨true, 1⟩ ⟨false, 0⟩ 0 false) ∧
  decodeTableWord 96 0x0000003C6000E00080000008 = some (.meet ⟨0, 0⟩ (.m 0) (.lit 60)) ∧
  decodeTableWord 96 0xE000E0008001E00000000B80 = some (.sysc ⟨2, 0⟩ (.imm 1)) ∧
  decodeTableWord 96 0x0004000C0005000D01C00085 =
    some (.imad ⟨0, 0⟩ .n32 false false (.v 13 false false false) (.v 5 false false false) (.v 12 false false false) (.v 4 false false false)) ∧
  decodeTableWord 96 0xE00080800000000324000245 = some (.strel ⟨0, 0⟩ .none .l2 .dev (.v 3 false false false) (.v 0 false false false) (.imm 128)) ∧
  decodeTableWord 96 0xE000000520021012 = none

/-- R11, R34, R36, R45, R269: at a bundle's turn, with no trap due and its clause at hand, the 96-bit word at its PC that decodes to an instruction is run by exec with the bundle at hand; at a header whose check
passes, the header is. An event's turn runs the event, once it is noted where it asks whether a bundle of its core can issue, and what its rail counts is counted.
Which turn comes is the model's choice (log 1). -/
def Obligations.StepRunsDecoded : Prop :=
  (∀ (s : State) (u a : Nat) (ask rest : List Nat) (d d2 : Dev) (x : BitVec 96) (i : Instr), live s → nextTurn s.dev = (.issue u ask, d) → mayIssue d u (squadOf d u) = true →
    detTurn d u (squadOf d u) = true → formBundle d u ask = a :: rest →
    (∀ ln ∈ a :: rest, (laneOf d u ln).due = none ∧ (laneOf d u ln).reload = false ∧ (laneOf d u ln).recheck = false) → (laneOf d u a).hofs ≠ 0 →
    let d1 := pathTaken d u (a :: rest)
    fetchInstr d1 (fetcherOf d1 u a) (laneOf d u a).pc.toNat = (d2, .ok x) → decodeBody x = .ok i →
    step s = exec i { s with dev := { d2 with cur := some ⟨u, a :: rest⟩ } } ∧ decodeWord x = some i ∧ decodeBytes (bytesOfWord x) = some (i, [])) ∧
  (∀ (s : State) (u a : Nat) (ask rest : List Nat) (d d2 : Dev) (i : Instr), live s → nextTurn s.dev = (.issue u ask, d) → mayIssue d u (squadOf d u) = true →
    detTurn d u (squadOf d u) = true → formBundle d u ask = a :: rest →
    (∀ ln ∈ a :: rest, (laneOf d u ln).due = none ∧ (laneOf d u ln).reload = false) → (laneOf d u a).hofs = 0 →
    let d1 := pathTaken d u (a :: rest)
    headerAt d1 (fetcherOf d1 u a) (laneOf d u a).pc.toNat = (d2, .ok i) →
    step s = exec i { s with dev := { d2 with cur := some ⟨u, a :: rest⟩ } }) ∧
  (∀ (s : State) (i : Instr) (d : Dev), live s → nextTurn s.dev = (.event i, d) → step s = exec i { s with dev := { countTurn (noteAble { s with dev := d } (.event i)) (.event i) with cur := none } })

/-- R430, R436, R447: after reset no queue is configured, no squad, group or item exists, memory, scratchpad and the caches list nothing, every core's registers and every rail, limit, budget and floor stand at their reset values, every HVEC
holds the firmware's vector, power is on and every upper core is Powered.
That memory lists nothing, that ASTN is 0 and that HVEC is an opaque constant are the model's choices (logs 2 and 4). -/
def Obligations.ResetState : Prop :=
  let s := State.reset
  s.dev.mem = [] ∧ Memory.wf s.dev.mem = true ∧ s.dev.l2 = [] ∧ s.dev.l1 = [] ∧ s.dev.scratch = [] ∧ s.dev.squads = [] ∧ s.dev.groups = [] ∧ s.dev.items = [] ∧
  (∀ k, (queueOf s.dev k).d.configured = false) ∧
  (∀ k, let r := coreOf s.dev k
    r.hvec = Config.hvec ∧ r.stvec = 0 ∧ r.hdeleg = 0 ∧ r.vmid = 0 ∧ r.xpool = 1024 ∧ r.cyc = 0 ∧ r.ctime = 0) ∧
  (∀ c, (clusterOf s.dev c).gate = .powered ∧ (clusterOf s.dev c).etime = 0 ∧ (clusterOf s.dev c).balthr = 8) ∧
  (∀ r, (railOf s.power r).ilim = (if r < 24 then 400 else if r < 48 then 600 else if r = 48 then 800 else if r = 49 then 400 else 500) ∧ (railOf s.power r).step = 0) ∧
  (∀ c, (pcluOf s.power c).ebud = 100 ∧ (pcluOf s.power c).ires = 100 ∧ (pcluOf s.power c).floor = 0) ∧
  s.power.lower = 105 ∧ s.power.upper = 95 ∧ s.power.vert = 18 ∧ s.power.lat = 25 ∧ s.dev.host.astN = 0 ∧ s.trust.power = true

/-- The power controller's registers are legal after reset. -/
def Obligations.PowerLegalAtReset : Prop := State.reset.power.legal

/-- R430 to R436: whatever step the machine takes, the power controller's registers stay legal: fields within their widths, steps and withheld cycles within their limits, THLIM never above its reset values, floors and the level in range. -/
def Obligations.PowerStaysLegal : Prop :=
  ∀ s t : State, s.power.legal → step s = .next t → t.power.legal

/-- R11, R33, R45: every well-formed instruction is read back from its own words, with every field at every value its encoding admits. -/
def Obligations.DecodeEncode : Prop :=
  ∀ (i : Instr) (x : BitVec 96), i.wf = true → encode i = some x → decodeWord x = some i ∧ decodeTableWord 96 x.toNat = some i

/-- R269, R277, R329: outside deterministic mode a bundle is all lanes that can issue and stand with one of those asked for: at one word, in one mode, at one depth and place in the clause; in deterministic
mode it is all lanes that stand with the lowest able lane of the path that runs, or with the lowest able lane where that path has none, and none while a lane of it waits on translation or for texels.
Which lanes are asked for is the turn's (log 1); which lanes let another path run is read from the rules (log 42). -/
def Obligations.BundlesFormed : Prop :=
  (∀ (d : Dev) (u : Nat) (ask : List Nat), (squadOf d u).det = false → (squadOf d u).stop = .none → fsorted (squadOf d u).lanes = true →
    let s := squadOf d u
    (∀ a ∈ formBundle d u ask, ∀ b ∈ formBundle d u ask,
      (s.lane a).pc = (s.lane b).pc ∧ (s.lane a).mode = (s.lane b).mode ∧ (s.lane a).depth = (s.lane b).depth ∧ (s.lane a).hofs = (s.lane b).hofs) ∧
    (∀ a ∈ formBundle d u ask, (fget s.lanes a).isSome = true ∧ laneTries d u a (s.lane a) = true ∧ ∃ x ∈ ask, x ∈ formBundle d u ask) ∧
    (∀ a ∈ formBundle d u ask, ∀ b ∈ fkeys s.lanes, laneTries d u b (s.lane b) = true → together (s.lane a) (s.lane b) = true → b ∈ formBundle d u ask) ∧
    (∀ a ∈ ask, a ∈ fkeys s.lanes → laneTries d u a (s.lane a) = true → formBundle d u ask ≠ [])) ∧
  (∀ (d : Dev) (u : Nat) (ask : List Nat), (squadOf d u).det = true → (squadOf d u).stop = .none → fsorted (squadOf d u).lanes = true →
    let s := squadOf d u
    let able := (fkeys s.lanes).filter fun ln => laneReady d u ln (s.lane ln)
    (able = [] → formBundle d u ask = []) ∧
    ∀ a, ((able.filter fun ln => s.path.contains ln) ++ able).head? = some a →
      ((∃ b ∈ able, together (s.lane a) (s.lane b) = true ∧ laneTries d u b (s.lane b) = false) → formBundle d u ask = []) ∧
      ((∀ b ∈ able, together (s.lane a) (s.lane b) = true → laneTries d u b (s.lane b) = true) →
        ∀ ln, ln ∈ formBundle d u ask ↔ ln ∈ fkeys s.lanes ∧ laneTries d u ln (s.lane ln) = true ∧ together (s.lane a) (s.lane ln) = true))

/-- R127, R129, R131 over all states and operands: every integer form of R129, and ICMP and ISEL, runs wherever nothing holds its bundle
back, gives each lane the exact integer result wrapped or clamped by R127, and leaves everything but the lane's destination, FPSR and the lane's
place alone. Where a lane raises SAT or DZ, no trap of it may be enabled. -/
def Obligations.IntegerFormsComplete : Prop :=
  (∀ h t sat d a b, GivesFl (.iadd h t sat d a b) 0 d (intDst t) fun e ln => intDone t sat (opInt e ln t a + opInt e ln t b)) ∧
  (∀ h t sat d a b, GivesFl (.isub h t sat d a b) 0 d (intDst t) fun e ln => intDone t sat (opInt e ln t a - opInt e ln t b)) ∧
  (∀ h t sat d a b c, GivesFl (.iadd3 h t sat d a b c) 0 d (intDst t) fun e ln =>
    intDone t sat (opInt e ln t a + opInt e ln t b + opInt e ln t c)) ∧
  (∀ h t sat d a b, GivesFl (.imul h t sat d a b) 0 d (intDst t) fun e ln => intDone t sat (opInt e ln t a * opInt e ln t b)) ∧
  (∀ h t d a b, GivesFl (.imulh h t d a b) 0 d (intDst t) fun e ln => intDone t false ((opInt e ln t a * opInt e ln t b).fdiv 4294967296)) ∧
  (∀ h t sat acc d a b c, GivesFl (.imad h t sat acc d a b c) 0 d (intDst t) fun e ln =>
    intDone t sat (opInt e ln t a * opInt e ln t b + opInt e ln t (if acc then d else c))) ∧
  (∀ h t sat acc d a b c, GivesFl (.imadw h t sat acc d a b c) 0 d .n64 fun e ln =>
    intDone (wideTy t) sat (opInt e ln t a * opInt e ln t b + opInt e ln (wideTy t) (if acc then d else c))) ∧
  (∀ h t d a b, GivesFl (.imin h t d a b) 0 d (intDst t) fun e ln => intDone t false (min (opInt e ln t a) (opInt e ln t b))) ∧
  (∀ h t d a b, GivesFl (.imax h t d a b) 0 d (intDst t) fun e ln => intDone t false (max (opInt e ln t a) (opInt e ln t b))) ∧
  (∀ h t sat d a, GivesFl (.iabs h t sat d a) 0 d (intDst t) fun e ln => intDone t sat ((opInt e ln t a).natAbs : Int)) ∧
  (∀ h t sat d a, GivesFl (.ineg h t sat d a) 0 d (intDst t) fun e ln => intDone t sat (-opInt e ln t a)) ∧
  (∀ h t sat d a b, GivesFl (.iadd64 h t sat d a b) 0 d (intDst t) fun e ln => intDone t sat (opInt e ln t a + opInt e ln t b)) ∧
  (∀ h t sat d a b, GivesFl (.isub64 h t sat d a b) 0 d (intDst t) fun e ln => intDone t sat (opInt e ln t a - opInt e ln t b)) ∧
  (∀ h t hi d a b, GivesFl (.imul64 h t hi d a b) 0 d (intDst t) fun e ln =>
    intDone t false (if hi then (opInt e ln t a * opInt e ln t b).fdiv 18446744073709551616 else opInt e ln t a * opInt e ln t b)) ∧
  (∀ h cc t d a b, Gives (.icmp h cc t d a b) d .n32 fun e ln => if iccHolds cc (opInt e ln t a) (opInt e ln t b) then 1 else 0) ∧
  (∀ h t d a b c, Gives (.isel h t d a b c) d t fun e ln => if readQ e ln c then readOp e ln a t else readOp e ln b t)

/-- R128, R130: IDIV and IREM of a natural or signed type of 8, 16 or 32 bits truncate toward zero, the remainder takes the dividend's sign, and the two edge
cases are the table's: division by 0 raises DZ. -/
def Obligations.DivisionComplete : Prop :=
  (∀ h t sat d a b, t.wid = 8 ∨ t.wid = 16 ∨ t.wid = 32 → GivesFl (.idiv h t sat d a b) 0 d .n32 fun e ln =>
    if opInt e ln t b = 0 then
      (intBits t (if t.signed = false then 2 ^ t.wid - 1 else if 0 ≤ opInt e ln t a then 2 ^ (t.wid - 1) - 1 else -2 ^ (t.wid - 1)), flDZ)
    else intDone t sat ((opInt e ln t a).tdiv (opInt e ln t b))) ∧
  (∀ h t d a b, t.wid = 8 ∨ t.wid = 16 ∨ t.wid = 32 → GivesFl (.irem h t d a b) 0 d .n32 fun e ln =>
    if opInt e ln t b = 0 then (intBits t (opInt e ln t a), flDZ)
    else intDone t false ((opInt e ln t a).tmod (opInt e ln t b)))

/-- R133 to R138, R217 over all states and operands: the bit, shift, count, field, interleave, address and byte-select forms, QLOP and RNDSEQ run wherever
nothing holds their bundle back; each lane's destination takes the value of the operands it read at issue (R31), and nothing else changes but the lane's place. What the
named values are, bit by bit, Obligations.ShiftsBitByBit and Obligations.FieldsBitByBit say. -/
def Obligations.BitFormsComplete : Prop :=
  (∀ h t d a b, Gives (.and h t d a b) d t fun e ln => readOp e ln a t &&& readOp e ln b t) ∧
  (∀ h t d a b, Gives (.or h t d a b) d t fun e ln => readOp e ln a t ||| readOp e ln b t) ∧
  (∀ h t d a b, Gives (.xor h t d a b) d t fun e ln => readOp e ln a t ^^^ readOp e ln b t) ∧
  (∀ h t d a, Gives (.not h t d a) d t fun e ln => lowBits (~~~(readOp e ln a t)) t.wid) ∧
  (∀ h t d a b lut, Gives (.blut h t d a b lut) d t fun e ln => bitsOf t.wid fun i =>
    lutBit (lutOf lut) ((readOp e ln a t).getLsbD i) ((readOp e ln b t).getLsbD i) ((readOp e ln d t).getLsbD i)) ∧
  (∀ h d a b lut, Gives (.qlop h d a b lut) d .n32 fun e ln =>
    if lutBit (lutOf lut) (readQ e ln a) (readQ e ln b) (readQ e ln d) then 1 else 0) ∧
  (∀ h t d a n, Gives (.shl h t d a n) d t fun e ln => shlVal t.wid (readOp e ln a t) (readN32 e ln n)) ∧
  (∀ h t d a n, Gives (.shr h t d a n) d t fun e ln => shrVal t.wid (readOp e ln a t) (readN32 e ln n)) ∧
  (∀ h t d a n, Gives (.sra h t d a n) d t fun e ln => sraVal t.wid (readOp e ln a t) (readN32 e ln n)) ∧
  (∀ h t r d a n, Gives (.rot h t r d a n) d t fun e ln => rotVal t.wid (readOp e ln a t) (readN32 e ln n) r) ∧
  (∀ h l d lo hi n, Gives (.shcat h l d lo hi n) d .n32 fun e ln =>
    shcatVal l (readOp e ln lo .n32) (readOp e ln hi .n32) (readN32 e ln n)) ∧
  (∀ h t d a, Gives (.clz h t d a) d .n32 fun e ln => BitVec.ofNat 64 (clzBits (readOp e ln a t) t.wid)) ∧
  (∀ h t d a, Gives (.ctz h t d a) d .n32 fun e ln => BitVec.ofNat 64 (ctzBits (readOp e ln a t) t.wid)) ∧
  (∀ h t d a, Gives (.popc h t d a) d .n32 fun e ln => BitVec.ofNat 64 (countBits (readOp e ln a t) t.wid)) ∧
  (∀ h t d a, Gives (.brev h t d a) d t fun e ln => bitsOf t.wid fun i => (readOp e ln a t).getLsbD (t.wid - 1 - i)) ∧
  (∀ h t d a p n, Gives (.bfx h t d a p n) d .n32 fun e ln =>
    bfxVal t.signed (readOp e ln a t) (readN32 e ln p % 256) (readN32 e ln n % 256)) ∧
  (∀ h d x p n, Gives (.bfi h d x p n) d .n32 fun e ln =>
    bfiVal (readOp e ln d .n32) (readOp e ln x .n32) (readN32 e ln p % 256) (readN32 e ln n % 256)) ∧
  (∀ h t three d a b c, Gives (.bint h t three d a b c) d t fun e ln =>
    bintVal t.wid three (readOp e ln a t) (readOp e ln b t) (readOp e ln c t)) ∧
  (∀ h t three d a k, Gives (.bdin h t three d a k) d .n32 fun e ln => bdinVal t.wid three (readOp e ln a t) (lutOf k)) ∧
  (∀ h d a b s, Gives (.lea h d a b s) d .n32 fun e ln => lowBits (readOp e ln a .n32 + (readOp e ln b .n32 <<< lutOf s)) 32) ∧
  (∀ h t d a b s, Gives (.lea64 h t d a b s) d .n64 fun e ln =>
    readOp e ln a .n64 + ((if t.signed then sext (readOp e ln b t) 32 else readOp e ln b t) <<< lutOf s)) ∧
  (∀ h d a b z, Gives (.bsel h d a b z) d .n32 fun e ln =>
    bselVal (readOp e ln a .n32) (readOp e ln b .n32) (readOp e ln z .n32)) ∧
  (∀ h byLane d key ctr, Gives (.rndseq h byLane d key ctr) d .n32 fun e ln =>
    (mix ((readOp e ln key .n32).setWidth 32) (BitVec.ofNat 32 (if byLane then ln else 0)) (readOp e ln ctr .n64)).setWidth 64)

/-- R134 bit by bit, for every value and amount: SHL and SHR shift in zeros and give 0 at the width or beyond; SRA shifts in copies of the top bit,
all copies at the width or beyond; ROT turns by the amount modulo the width, left or right; SHCAT takes 32 bits of the joined pair, shifted by at
most 32. -/
def Obligations.ShiftsBitByBit : Prop :=
  (∀ w a n i, w ≤ 64 → (shlVal w a n).getLsbD i = (decide (n < w) && decide (i < w) && decide (n ≤ i) && a.getLsbD (i - n))) ∧
  (∀ w a n i, lowBits a w = a → (shrVal w a n).getLsbD i = (decide (n < w) && a.getLsbD (i + n))) ∧
  (∀ w a n i, 0 < w → w ≤ 64 → i < w → (sraVal w a n).getLsbD i = a.getLsbD (min (i + n) (w - 1))) ∧
  (∀ w a n i, 0 < w → w ≤ 64 → lowBits a w = a → i < w →
    (rotVal w a n false).getLsbD i = a.getLsbD ((i + (w - n % w)) % w) ∧ (rotVal w a n true).getLsbD i = a.getLsbD ((i + n) % w)) ∧
  (∀ lo hi n i, i < 32 →
    (shcatVal false lo hi n).getLsbD i = (if i + min n 32 < 32 then lo.getLsbD (i + min n 32) else hi.getLsbD (i + min n 32 - 32)) ∧
    (shcatVal true lo hi n).getLsbD i = (if min n 32 ≤ i then hi.getLsbD (i - min n 32) else lo.getLsbD (32 + i - min n 32)))

/-- R133, R135 to R138, R217 bit by bit, for every value: the truth table is indexed a, b, c from bit 0; CLZ, CTZ and POPC count as said; BFX takes n bits from p,
reads a[31] or 0 above bit 31 and extends from the n bits; BFI replaces only the bits p to p + n - 1 below 32; BINT and BDIN place and take every second or third bit, zeros above;
BSEL takes a byte of the pair or 0; RNDSEQ's Mix is the four rounds over 32-bit words. -/
def Obligations.FieldsBitByBit : Prop :=
  (∀ k a b c, lutBit k a b c = k.testBit ((if a then 1 else 0) + (if b then 2 else 0) + (if c then 4 else 0))) ∧
  (∀ w x, w ≤ 64 → clzBits x w ≤ w ∧ (∀ i, i < clzBits x w → x.getLsbD (w - 1 - i) = false) ∧
    (clzBits x w < w → x.getLsbD (w - 1 - clzBits x w) = true)) ∧
  (∀ w x, w ≤ 64 → ctzBits x w ≤ w ∧ (∀ i, i < ctzBits x w → x.getLsbD i = false) ∧ (ctzBits x w < w → x.getLsbD (ctzBits x w) = true)) ∧
  (∀ x, countBits x 0 = 0) ∧ (∀ w x, countBits x (w + 1) = countBits x w + (if x.getLsbD w then 1 else 0)) ∧
  (∀ s a p n i, i < 32 → (bfxVal s a p n).getLsbD i =
    (let bit := fun j => if j ≤ 31 then a.getLsbD j else s && a.getLsbD 31
     if i < min n 32 then bit (p + i) else s && decide (0 < n) && bit (p + min n 32 - 1))) ∧
  (∀ old x p n i, i < 32 → (bfiVal old x p n).getLsbD i = (if p ≤ i ∧ i < p + min n 32 then x.getLsbD (i - p) else old.getLsbD i)) ∧
  (∀ a b z j k, j < 4 → k < 8 → (bselVal a b z).getLsbD (8 * j + k) =
    (let y := (z.extractLsb' (4 * j) 4).toNat
     if y < 4 then a.getLsbD (8 * y + k) else if y < 8 then b.getLsbD (8 * (y - 4) + k) else false)) ∧
  (∀ w a b c i, w = 32 ∨ w = 64 → (bintVal w false a b c).getLsbD i = (decide (i < w) && if i % 2 = 0 then a.getLsbD (i / 2) else b.getLsbD (i / 2))) ∧
  (∀ w n a b c i, w = 32 ∧ n = 30 ∨ w = 64 ∧ n = 63 → (bintVal w true a b c).getLsbD i =
    (decide (i < n) && if i % 3 = 0 then a.getLsbD (i / 3) else if i % 3 = 1 then b.getLsbD (i / 3) else c.getLsbD (i / 3))) ∧
  (∀ w a k i, w = 32 ∨ w = 64 → k ≤ 1 → (bdinVal w false a k).getLsbD i = (decide (2 * i + k < w) && a.getLsbD (2 * i + k))) ∧
  (∀ w a k i, w = 32 ∨ w = 64 → k ≤ 2 → (bdinVal w true a k).getLsbD i = (decide (3 * i + k < w) && a.getLsbD (3 * i + k))) ∧
  (∀ (k l : Word) (c : DWord),
    let rotl := fun (x n : Nat) => (x * 2 ^ n ||| x / 2 ^ (32 - n)) % 2 ^ 32
    let round := fun (p : Nat × Nat) =>
      let a := ((p.1 ^^^ p.2 / 2 ^ 16) * 0x85EBCA6B) % 2 ^ 32
      (a, (p.2 + rotl a 13 + 0x6A09E667) % 2 ^ 32)
    let p := round (round (round (round ((c.toNat % 2 ^ 32 + k.toNat) % 2 ^ 32, c.toNat / 2 ^ 32 ^^^ l.toNat * 0x9E3779B9 % 2 ^ 32))))
    (mix k l c).toNat = p.1 ^^^ rotl p.2 7)

/-- R139, R141 to R147 over all states and operands: the scalar, packed and FP64 arithmetic, comparison, class, rounding, division, root and
transcendental forms run wherever nothing holds their bundle back and no flag they raise traps; a sum or product is rounded once from its exact
value (FFMA, FDOT2 and DFMA from the exact sum), packed forms round the low half before the high one, a stochastic rounding takes one draw for
each element, and nothing else changes but FPSR and the lane's place.
Corners of the flags are read from two rules together (log 39). -/
def Obligations.FloatFormsComplete : Prop :=
  (∀ h t rnd sat d a b, GivesFl (.fadd h t rnd sat d a b) (drawsOf rnd 1) d t fun e ln =>
    sumRound t rnd sat (drawOf e ln 0) [some (opFV e ln t a), some (opFV e ln t b)]) ∧
  (∀ h t rnd sat d a b, GivesFl (.fsub h t rnd sat d a b) (drawsOf rnd 1) d t fun e ln =>
    sumRound t rnd sat (drawOf e ln 0) [some (opFV e ln t a), some (negFV (opFV e ln t b))]) ∧
  (∀ h t rnd sat d a b, GivesFl (.fmul h t rnd sat d a b) (drawsOf rnd 1) d t fun e ln =>
    sumRound t rnd sat (drawOf e ln 0) [mulFV (opFV e ln t a) (opFV e ln t b)]) ∧
  (∀ h t rnd sat acc d a b c, GivesFl (.ffma h t rnd sat acc d a b c) (drawsOf rnd 1) d t fun e ln =>
    sumRound t rnd sat (drawOf e ln 0) [mulFV (opFV e ln t a) (opFV e ln t b), some (opFV e ln t (if acc then d else c))]) ∧
  (∀ h t rnd sat d a b, GivesFl (.hadd2 h t rnd sat d a b) (drawsOf rnd 2) d .n32 fun e ln =>
    let one := fun hi => sumRound t rnd sat (drawOf e ln (if hi then 1 else 0))
      [some (halfFV t (readPacked e ln a) hi), some (halfFV t (readPacked e ln b) hi)]
    (((one true).1 <<< 16) ||| (one false).1, (one false).2 ||| (one true).2)) ∧
  (∀ h t rnd sat d a b, GivesFl (.hmul2 h t rnd sat d a b) (drawsOf rnd 2) d .n32 fun e ln =>
    let one := fun hi => sumRound t rnd sat (drawOf e ln (if hi then 1 else 0))
      [mulFV (halfFV t (readPacked e ln a) hi) (halfFV t (readPacked e ln b) hi)]
    (((one true).1 <<< 16) ||| (one false).1, (one false).2 ||| (one true).2)) ∧
  (∀ h t rnd sat acc d a b c, GivesFl (.hfma2 h t rnd sat acc d a b c) (drawsOf rnd 2) d .n32 fun e ln =>
    let one := fun hi => sumRound t rnd sat (drawOf e ln (if hi then 1 else 0))
      [mulFV (halfFV t (readPacked e ln a) hi) (halfFV t (readPacked e ln b) hi), some (halfFV t (readPacked e ln (if acc then d else c)) hi)]
    (((one true).1 <<< 16) ||| (one false).1, (one false).2 ||| (one true).2)) ∧
  (∀ h t rnd sat acc d a b c, GivesFl (.fdot2 h t rnd sat acc d a b c) (drawsOf rnd 1) d .f32 fun e ln =>
    sumRound .f32 rnd sat (drawOf e ln 0)
      [mulFV (halfFV t (readPacked e ln a) false) (halfFV t (readPacked e ln b) false),
       mulFV (halfFV t (readPacked e ln a) true) (halfFV t (readPacked e ln b) true), some (opFV e ln .f32 (if acc then d else c))]) ∧
  (∀ h rnd sat d a b, GivesFl (.dadd h rnd sat d a b) (drawsOf rnd 1) d .f64 fun e ln =>
    sumRound .f64 rnd sat (drawOf e ln 0) [some (opFV e ln .f64 a), some (opFV e ln .f64 b)]) ∧
  (∀ h rnd sat d a b, GivesFl (.dmul h rnd sat d a b) (drawsOf rnd 1) d .f64 fun e ln =>
    sumRound .f64 rnd sat (drawOf e ln 0) [mulFV (opFV e ln .f64 a) (opFV e ln .f64 b)]) ∧
  (∀ h rnd sat acc d a b c, GivesFl (.dfma h rnd sat acc d a b c) (drawsOf rnd 1) d .f64 fun e ln =>
    sumRound .f64 rnd sat (drawOf e ln 0) [mulFV (opFV e ln .f64 a) (opFV e ln .f64 b), some (opFV e ln .f64 (if acc then d else c))]) ∧
  (∀ h t d a b, GivesFl (.fmin h t d a b) 0 d t fun e ln => minmaxTy t false (readOp e ln a t) (readOp e ln b t)) ∧
  (∀ h t d a b, GivesFl (.fmax h t d a b) 0 d t fun e ln => minmaxTy t true (readOp e ln a t) (readOp e ln b t)) ∧
  (∀ h d a b, GivesFl (.dmin h d a b) 0 d .f64 fun e ln => minmaxTy .f64 false (readOp e ln a .f64) (readOp e ln b .f64)) ∧
  (∀ h d a b, GivesFl (.dmax h d a b) 0 d .f64 fun e ln => minmaxTy .f64 true (readOp e ln a .f64) (readOp e ln b .f64)) ∧
  (∀ h cc t d a b, GivesFl (.fcmp h cc t d a b) 0 d .n32 fun e ln =>
    (if fcmpHolds cc (opFV e ln t a) (opFV e ln t b) then 1 else 0, fcmpFlags cc (opFV e ln t a) (opFV e ln t b))) ∧
  (∀ h cc d a b, GivesFl (.dcmp h cc d a b) 0 d .n32 fun e ln =>
    (if fcmpHolds cc (opFV e ln .f64 a) (opFV e ln .f64 b) then 1 else 0, fcmpFlags cc (opFV e ln .f64 a) (opFV e ln .f64 b))) ∧
  (∀ h t d a, Gives (.fclass h t d a) d .n32 fun e ln => BitVec.ofNat 64 (2 ^ classBit (ffOf t) (opFV e ln t a))) ∧
  (∀ h t rnd ex d a, GivesFl (.frnd h t rnd ex d a) 0 d t fun e ln => frndVal t rnd ex (opFV e ln t a)) ∧
  (∀ h t rnd sat d a, GivesFl (.frcp h t rnd sat d a) 0 d t fun e ln => frcpVal t rnd sat (opFV e ln t a)) ∧
  (∀ h t rnd sat d a, GivesFl (.frsq h t rnd sat d a) 0 d t fun e ln => frsqVal t rnd sat (opFV e ln t a)) ∧
  (∀ h t rnd sat d a, GivesFl (.fsqrt h t rnd sat d a) 0 d t fun e ln => fsqrtVal t rnd sat (opFV e ln t a)) ∧
  (∀ h t rnd sat d a b, GivesFl (.fdiv h t rnd sat d a b) 0 d t fun e ln => fdivVal t rnd sat (opFV e ln t a) (opFV e ln t b)) ∧
  (∀ h sat d a, GivesFl (.fex2 h sat d a) 0 d .f32 fun e ln => fex2Val sat (opFV e ln .f32 a)) ∧
  (∀ h sat d a, GivesFl (.flg2 h sat d a) 0 d .f32 fun e ln => flg2Val sat (opFV e ln .f32 a)) ∧
  (∀ h d a, GivesFl (.fsin h d a) 0 d .f32 fun e ln => fsinVal (opFV e ln .f32 a)) ∧
  (∀ h d a, GivesFl (.fcos h d a) 0 d .f32 fun e ln => fcosVal (opFV e ln .f32 a))

/-- R122, R124, R149, R152, R153 over all states and operands: the conversions, the packing of narrow elements and the moves to registers and predicates run
wherever nothing holds their bundle back and no flag they raise traps. A converted integer or a code is written at 32 bits, a 64-bit one to the
pair. -/
def Obligations.ConversionsAndMovesComplete : Prop :=
  (∀ h src tgt sat d x rc, GivesFl (.cvt h src tgt sat d x rc) (cvtDraws src tgt (cvtMode rc)) d
    (if tgt.wid = 64 then .n64 else if tgt.isFloat then tgt else .n32) fun e ln =>
    convertTy src tgt (cvtMode rc) sat (drawOf e ln 0) (readOp e ln x src)) ∧
  (∀ h fmt rnd d x sc, GivesFl (.qcvt h fmt rnd d x sc) (drawsOf rnd 1) d .n32 fun e ln =>
    (BitVec.ofNat 64 (qcvtElem fmt rnd (drawOf e ln 0) (readN32 e ln sc % 256) (opFV e ln .f32 x)).1,
      (qcvtElem fmt rnd (drawOf e ln 0) (readN32 e ln sc % 256) (opFV e ln .f32 x)).2)) ∧
  (∀ h fmt rnd d x sc, GivesFl (.qcvtEf h fmt rnd d x sc) (drawsOf rnd 1) d .n32 fun e ln =>
    qcvtEfVal fmt rnd (drawOf e ln 0) (readN32 e ln sc % 256) (opFV e ln .f32 x) (readOp e ln d .n32)) ∧
  (∀ h fmt sc d code sel, Gives (.qpack h fmt sc d code sel) d .n32 fun e ln =>
    qpackVal fmt.wid (lutOf sel) (if sc then readOp e ln code .n32 >>> 8 else readOp e ln code .n32) (readOp e ln d .n32)) ∧
  (∀ h fmt d x sel sc, GivesFl (.qunpk h fmt d x sel sc) 0 d .n32 fun e ln =>
    qunpkVal fmt (lutOf sel) (if sc = .none then 0x7F else readN32 e ln sc % 256) (readOp e ln x .n32)) ∧
  (∀ h t d x, Gives (.mov h t d x) d t fun e ln => readOp e ln x t) ∧
  (∀ h d x, Gives (.movq h d x) d .n32 fun e ln => if readOp e ln x .none != 0 then 1 else 0) ∧
  (∀ h d x, WritesRegs (.movqAll h d x) always fun e ln q =>
    if d = .none then q.setLane ln fun l => { l with q := (readOp e ln x .n32).extractLsb' 1 7 }
    else q.write ln d .n32 (BitVec.ofNat 64 (1 + 2 * (e.s.lane ln).q.toNat)))

/-- R92, R115 to R120, R151, R154 over all states, operands and participants: when the lanes a gathering form counts all stand at its word at depth 0, the form completes at once
with all of them as participants, and each takes its result: VOTE's and BALLOT's bits, SHFL's and LBCAST's value of the source lane (its own where
that lane takes no part), LMATCH's lowest equal lane, the fixed tree of R118 for LRED and for each prefix of LSCAN, QSCALE's code and block scale and
QSPLIT's halves; MWAIT gives nothing. LRED, LSCAN, QSCALE and QSPLIT do so where no flag they raise traps. -/
def Obligations.GatheringFormsComplete : Prop :=
  (∀ h a, GatherWrites (.mwait h a) (maskOf a) (fun _ _ => True) fun _ _ _ q => q) ∧
  (∀ h op d a mc, GatherWrites (.vote h op d a mc) (maskOf mc) (fun _ _ => True) fun e lns ln q =>
    q.write ln d .none (if (match op with
      | .any => lns.any fun k => readQ e k a
      | .all => lns.all fun k => readQ e k a
      | .uni => (lns.all fun k => readQ e k a) || lns.all fun k => !readQ e k a) then 1 else 0)) ∧
  (∀ h d a part mc, maskOf d = none → GatherWrites (.ballot h d a part mc) (maskOf mc) (fun _ _ => True) fun e lns ln q =>
    q.write ln d .n32 (maskWord (laneSet (lns.filter fun k => readQ e k a)) (immOf part))) ∧
  (∀ h md t d a b mc, GatherWrites (.shfl h md t d a b mc) (maskOf mc) (fun _ _ => True) fun e lns ln q =>
    let k := shflLane md ln (readN32 e ln b)
    q.write ln d t (readOp e (if 0 ≤ k ∧ k ≤ 127 ∧ k.toNat ∈ lns then k.toNat else ln) a t)) ∧
  (∀ h t d a src mc, GatherWrites (.lbcast h t d a src mc) (maskOf mc) (fun _ _ => True) fun e lns ln q =>
    let k := if src = .none then lns.headD 0 else readN32 e (lns.headD 0) src
    q.write ln d t (readOp e (if k ∈ lns then k else ln) a t)) ∧
  (∀ h t d a mc, GatherWrites (.lmatch h t d a mc) (maskOf mc) (fun _ _ => True) fun e lns ln q =>
    q.write ln d (if t.wid = 64 then .n64 else .n32) (BitVec.ofNat 64 ((lns.find? fun k => readOp e k a t == readOp e ln a t).getD ln))) ∧
  (∀ h op t sat d a mc,
    let r := fun e lns => (tree op t sat (fun k => readOp e k a t) lns).getD (0, 0)
    GatherWrites (.lred h op t sat d a mc) (maskOf mc) (fun e lns => flTraps e.s.fpcr (r e lns).2 = false) fun e lns ln q =>
      (q.raise (r e lns).2).write ln d t (r e lns).1) ∧
  (∀ h op exc t sat d a mc,
    let r := fun e lns ln => (tree op t sat (fun k => readOp e k a t) (lns.filter fun k => if exc then decide (k < ln) else decide (k ≤ ln))).getD
      (identity op t, 0)
    let fl := fun e lns => lns.foldl (fun f ln => f ||| (r e lns ln).2) 0
    GatherWrites (.lscan h op exc t sat d a mc) (maskOf mc) (fun e lns => flTraps e.s.fpcr (fl e lns) = false) fun e lns ln q =>
      (q.raise (fl e lns)).write ln d t (r e lns ln).1) ∧
  (∀ h fmt rnd d x n mc,
    let blk := fun (lns : List Nat) ln => lns.filter fun k => k / lutOf n = ln / lutOf n
    let b := fun e lns ln => blockScale fmt rnd (fun i => drawOf e ((blk lns ln).getD i 0) 0) ((blk lns ln).map fun k => opFV e k .f32 x)
    let own := fun e lns ln => (b e lns ln).2.2.getD ((blk lns ln).idxOf ln) (0, 0)
    let fl := fun e lns ln => (b e lns ln).2.1 ||| (own e lns ln).2
    GatherWrites (.qscale h fmt rnd d x n mc) (maskOf mc) (fun e lns => ∀ ln ∈ lns, ln < 128 ∧ flTraps e.s.fpcr (fl e lns ln) = false)
      fun e lns ln q => (takeDraws (drawsOf rnd 1) ln (q.raise (fl e lns ln))).write ln d .n32
        (BitVec.ofNat 64 ((b e lns ln).1 + (own e lns ln).1 % 2 ^ fmt.wid * 256))) ∧
  (∀ h d x c dd,
    let c' := fun e (lns : List Nat) => readN32 e (lns.headD 0) c
    let d' := fun e (lns : List Nat) => readN32 e (lns.headD 0) dd
    let hot := fun e lns ln => c' e lns ≠ d' e lns ∧ c' e lns ∈ lns ∧ d' e lns ∈ lns ∧ (ln = c' e lns ∨ ln = d' e lns)
    let half := fun e lns => roundTy .f32 .rne false 0 (scaleFV (opFV e (c' e lns) .f32 x) (-1))
    GatherWrites (.qsplit h d x c dd) none (fun e lns => ∀ ln, hot e lns ln → flTraps e.s.fpcr (half e lns).2 = false)
      fun e lns ln q => if hot e lns ln then (q.raise (half e lns).2).write ln d .f32 (half e lns).1
        else q.write ln d .f32 (readOp e ln x .f32))

/-- R33, R36, R100: a bundle none of whose lanes is moored at the header enters the clause once every flag its WAIT mask names is clear, each lane then standing at
the word behind the header with the clause held for it; while such a flag counts, all wait at the header; lanes moored there are held. -/
def Obligations.ClauseEntryCompletes : Prop :=
  ∀ (len : BitVec 4) (w : BitVec 12) (sa sb : FlagSel) (cls : BitVec 2) (yp : Bool) (s : State) (u : Nat) (lns : List Nat),
    s.dev.cur = some ⟨u, lns⟩ → lns ≠ [] →
    let i : Instr := .clauseEntry len w sa sb cls yp
    ((∀ ln ∈ lns, (laneOf s.dev u ln).atMoor = false) → (∀ k < 12, w.getLsbD k = true → (squadOf s.dev u).flag k = 0) →
      let d := setSquad s.dev u fun q => lns.foldl (fun q ln => q.setLane ln fun l =>
        { (q.acquireFlags w s.dev.tick l).leave with clause := ⟨w, sa, sb, len, yp⟩, pc := l.pc + 12, hofs := 1, reload := false }) q
      exec i s = .next { s with dev := if yp then detPass d u else d }) ∧
    ((∀ ln ∈ lns, (laneOf s.dev u ln).atMoor = false) → (∃ k < 12, w.getLsbD k = true ∧ (squadOf s.dev u).flag k ≠ 0) →
      exec i s = .next { s with dev := holdLanes s.dev u .hold lns }) ∧
    ((∀ ln ∈ lns, (laneOf s.dev u ln).atMoor = true) →
      exec i s = .next { s with dev := releaseMoorings (holdLanes s.dev u .moored lns) u })

/-- R96, R98, R99: BRA, BRX, CALL, CALLX and RET go to their target where it is a valid clause header, CALL and CALLX with the address of the next clause's header
in their destination; MEET sets MOOR to its target and mask and goes on; NOP and YIELD go on, YIELD as a switch point (R276). -/
def Obligations.TransfersComplete : Prop :=
  (∀ h disp, RunsLanes (.bra h disp) noChk (fun e d ln => jumps d e.sq ln (dispTarget e disp))
    fun e d ln => landing d e.sq ln (dispTarget e disp) id) ∧
  (∀ h va, RunsLanes (.brx h va) noChk (fun e d ln => jumps d e.sq ln (readN64 e ln va))
    fun e d ln => landing d e.sq ln (readN64 e ln va) id) ∧
  (∀ h r disp, RunsLanes (.call h r disp) noChk (fun e d ln => jumps d e.sq ln (dispTarget e disp))
    fun e d ln => landing d e.sq ln (dispTarget e disp) fun q => q.write ln r .n64 ((returnAddr (e.s.lane ln)).setWidth 64)) ∧
  (∀ h r va, RunsLanes (.callx h r va) noChk (fun e d ln => jumps d e.sq ln (readN64 e ln va))
    fun e d ln => landing d e.sq ln (readN64 e ln va) fun q => q.write ln r .n64 ((returnAddr (e.s.lane ln)).setWidth 64)) ∧
  (∀ h va, RunsLanes (.ret h va) noChk (fun e d ln => jumps d e.sq ln (readN64 e ln va))
    fun e d ln => landing d e.sq ln (readN64 e ln va) id) ∧
  (∀ h a disp, RunsLanes (.meet h a disp) noChk (fun e d ln => jumps d e.sq ln (dispTarget e disp))
    fun e d ln => setLane (headerAt d (fetcherOf d e.sq ln) (dispTarget e disp)).1 e.sq ln fun l =>
      { l.advance with moor := ⟨BitVec.ofNat 54 (dispTarget e disp), BitVec.ofNat 4 ((maskOf a).getD 0), true⟩ }) ∧
  (∀ h, WritesRegs (.nop h) always fun _ _ q => q) ∧
  (∀ h, RunsTo (.yield h) noChk fun e lns d => detPass (advanceAll d e.sq lns) e.sq)

/-- R34, R96, R99, R46: at a target of 2^54 or more, or at one that is no valid clause header, a transfer and a MEET trap where they stand, with cause 0x01 and
TVAL 1 << 63 | target, and write nothing else. -/
def Obligations.BadTargetsTrap : Prop :=
  (∀ h disp, RunsLanes (.bra h disp) noChk (fun e d ln => noHeader d e.sq ln (dispTarget e disp)) fun e d ln => badLanding d e.sq ln (dispTarget e disp)) ∧
  (∀ h va, RunsLanes (.brx h va) noChk (fun e d ln => noHeader d e.sq ln (readN64 e ln va)) fun e d ln => badLanding d e.sq ln (readN64 e ln va)) ∧
  (∀ h r disp, RunsLanes (.call h r disp) noChk (fun e d ln => noHeader d e.sq ln (dispTarget e disp))
    fun e d ln => badLanding d e.sq ln (dispTarget e disp)) ∧
  (∀ h r va, RunsLanes (.callx h r va) noChk (fun e d ln => noHeader d e.sq ln (readN64 e ln va))
    fun e d ln => badLanding d e.sq ln (readN64 e ln va)) ∧
  (∀ h va, RunsLanes (.ret h va) noChk (fun e d ln => noHeader d e.sq ln (readN64 e ln va)) fun e d ln => badLanding d e.sq ln (readN64 e ln va)) ∧
  (∀ h a disp, RunsLanes (.meet h a disp) noChk (fun e d ln => noHeader d e.sq ln (dispTarget e disp))
    fun e d ln => badLanding d e.sq ln (dispTarget e disp))

/-- R113, R115 over all states, operands and lanes: MJOIN, MLEAVE and MSET write their mask register from what it held at issue, MGET reads a word of one, BALLOT to a
mask register writes the participants whose predicate holds; the lanes go on. -/
def Obligations.MaskFormsComplete : Prop :=
  (∀ h a, RunsTo (.mjoin h a) noChk fun e lns d => writeMask (advanceAll d e.sq lns) e.sq (mIdx a) (e.s.mask (mIdx a) ||| laneSet lns)) ∧
  (∀ h a, RunsTo (.mleave h a) noChk fun e lns d => writeMask (advanceAll d e.sq lns) e.sq (mIdx a) (e.s.mask (mIdx a) &&& ~~~(laneSet lns))) ∧
  (∀ h m part x, RunsTo (.mset h m part x) noChk fun e lns d => writeMask (advanceAll d e.sq lns) e.sq (mIdx m)
    (setMaskWord (e.s.mask (mIdx m)) (immOf part) (BitVec.ofNat 32 (readN32 e (lns.headD 0) x)))) ∧
  (∀ h d a part, Gives (.mget h d a part) d .n32 fun e _ => maskWord (e.s.mask (mIdx a)) (immOf part)) ∧
  (∀ h i a part mc, RunsGathered (.ballot h (.m i) a part mc) (maskOf mc) noChk (fun _ _ _ => True) fun e lns d =>
    writeMask (advanceAll d e.sq lns) e.sq i.toNat (laneSet (lns.filter fun k => readQ e k a)))

/-- R113, R115: a write of a mask register is read back and leaves the other masks, every register and predicate, and all outside the squad; the set of a
bundle has exactly its lanes' bits; a word of a mask is replaced or read alone. -/
def Obligations.MaskWrites : Prop :=
  (∀ d u i x j, (fget d.squads u).isSome = true →
    (squadOf (writeMask d u i x) u).mask j = (if j = i then x else (squadOf d u).mask j)) ∧
  (∀ d u i x, Kept u d (writeMask d u i x)) ∧
  (∀ d u i x r ln, (squadOf (writeMask d u i x) u).v r ln = (squadOf d u).v r ln ∧
    ((squadOf (writeMask d u i x) u).lane ln).q = ((squadOf d u).lane ln).q) ∧
  (∀ lns ln, ln < 128 → (laneSet lns).getLsbD ln = decide (ln ∈ lns)) ∧
  (∀ m p x j, p < 4 → j < 128 → (setMaskWord m p x).getLsbD j = (if 32 * p ≤ j ∧ j < 32 * p + 32 then x.getLsbD (j - 32 * p) else m.getLsbD j)) ∧
  (∀ m p j, j < 32 → (maskWord m p).getLsbD j = m.getLsbD (32 * p + j)) ∧
  (∀ m p j, 32 ≤ j → (maskWord m p).getLsbD j = false)

/-- R99, R121, R123, R125, R247, R281: SRD gives each lane the register's value as the machine stands; SWR, and its forms for MOOR, TMOOR and PRIVL, write each lane's
value in ascending order, a 32-bit write of a register bits 31:0 only and a 64-bit one with all of its value checked; a write of REGO sets REGE to the kernel's entry plus the value and counts REGC; MOVW writes the
lowest executing lane's value. Each runs wherever nothing holds its bundle back, its value being legal and its squad the register's writer. -/
def Obligations.SystemRegisterFormsComplete : Prop :=
  (∀ h wide d sr, RunsTo (.srd h wide d sr) noChk fun e lns dv => setSquad dv e.sq fun q => lns.foldl (fun q ln =>
    (q.write ln d (if wide then .n64 else .n32) (sysRead dv e.sq ln (sysNum sr))).setLane ln Lane.advance) q) ∧
  (∀ h wide r x, RunsLanes (.swr h wide r x) noChk (fun _ _ _ => True) fun e d ln =>
    advanceAll (sysWriteReg d e.sq ln (sysNum r) (if wide then readOp e ln x .n64
      else ((sysRead d e.sq ln (sysNum r)) &&& 0xFFFFFFFF00000000#64) ||| readOp e ln x .n32)) e.sq [ln]) ∧
  (∀ h wide tm x, RunsLanes (.moorWrite h wide tm x) (moorChk wide (if tm then 6 else 1) x) (fun _ _ _ => True) fun e d ln =>
    advanceAll (sysWriteReg d e.sq ln (if tm then 6 else 1) (swrVal d e ln wide (if tm then 6 else 1) x)) e.sq [ln]) ∧
  (∀ h wide x, RunsLanes (.privlWrite h wide x) (privlChk wide x) (fun _ _ _ => True) fun e d ln =>
    advanceAll (sysWriteReg d e.sq ln 0x026 (swrVal d e ln wide 0x026 x)) e.sq [ln]) ∧
  (∀ h wide x, WritesRegs (.regoWrite h wide x) always fun e ln q => q.setLane ln fun l =>
    { l with rege := (e.s.kern.entry + readOp e ln x .n32).setWidth 54, regc := l.regc + 1 }) ∧
  (∀ h t d x, RunsTo (.movw h t d x) (fun dv e _ => wChk e.s.group e.sq dv (wNamed (wIdx d) t)) fun e lns dv =>
    advanceAll (writeW dv e.s.group e.sq (wIdx d) t (readOp e (lns.headD 0) x t)) e.sq lns) ∧
  (∀ x d e ln, (moorChk true 1 x d e ln = .ok ↔ ((readOp e ln x .n64).extractLsb' 56 4).toNat < 12)) ∧
  (∀ x d e ln, (privlChk true x d e ln = .ok ↔ (readOp e ln x .n64).toNat % 4 = 0 ∧ (readOp e ln x .n64).toNat ≤ 262144)) ∧
  (∀ x d e ln, (privlChk false x d e ln = .ok ↔ readN32 e ln x % 4 = 0 ∧ readN32 e ln x ≤ 262144))

/-- R233, R239, R251, R252: what is written to a system register is read back in the bits the register has, and no other register changes; the T registers do so at
depth 1 or more, and at depth 0 read 0 and ignore writes. No lane is deeper than 3, which Obligations.ShapeStays keeps. -/
def Obligations.SystemRegistersReadBack : Prop :=
  ∀ (d : Dev) (u ln n m : Nat) (x : DWord), (fget d.squads u).isSome = true → (fget (squadOf d u).lanes ln).isSome = true →
    let mask : DWord := sysMask n
    ((laneOf d u ln).depth ≤ 3 → (n < 2 ∨ 7 < n ∨ (laneOf d u ln).depth ≠ 0) →
      sysRead (sysWriteReg d u ln n x) u ln n = (x &&& mask) ||| (sysRead d u ln n &&& ~~~mask)) ∧
    (m ≠ n → sysRead (sysWriteReg d u ln n x) u ln m = sysRead d u ln m) ∧
    (2 ≤ n → n ≤ 7 → (laneOf d u ln).depth = 0 →
      sysRead d u ln n = 0 ∧ ∀ k, sysRead (sysWriteReg d u ln n x) u ln k = sysRead d u ln k)

/-- R106, R109, R123: a squad that may write a uniform register reads its own write at once; every other squad of the group reads what the register held when the epoch
began, until the epoch ends, when all read the last value; no other uniform register changes, and from then on only the writer may write it in the epoch. -/
def Obligations.UniformRegisters : Prop :=
  ∀ (g : Group) (sq v i j : Nat) (x : Word), g.mayW sq i = true →
    (g.setW sq i x).wFor sq i = x ∧
    (v ≠ sq → (g.setW sq i x).wFor v i = g.wFor v i) ∧
    (j ≠ i → (g.setW sq i x).wFor v j = g.wFor v j) ∧
    ((g.setW sq i x).mayW v i = (v == sq)) ∧
    (g.setW sq i x).endEpoch.wFor v i = x ∧ g.endEpoch.mayW v j = true

/-- R24 to R27, R32, R48, R113, R258, R265, R319: a word written to a v register is read back, sets the register's RWR bit, clears the word's poison and changes no other
word; while the bit is clear the register reads +0. A pair's even register holds the low half. A 16-bit write keeps the other half. k and h registers read back, q0 reads
true and its writes are discarded, and the other predicates read back. -/
def Obligations.RegistersReadBack : Prop :=
  ∀ (s : Squad) (i j ln k : Nat) (x : Word), i < 64 → j < 64 →
    ((s.setV i ln x).v j k = if j = i ∧ k = ln then x else s.v j k) ∧
    ((s.setV i ln x).rwr.getLsbD j = (s.rwr.getLsbD j || decide (j = i))) ∧
    (shas (fgetD (s.setV i ln x).rows i {}).poison ln = false) ∧
    (s.rwr.getLsbD i = false → s.v i ln = 0) ∧
    ((s.setK i ln x).k j k = if j = i ∧ k = ln then x else s.k j k) ∧
    ((s.setH i ln x).h j k = if j = i ∧ k = ln then x else s.h j k) ∧
    (∀ (r : BitVec 6) (y : DWord), r.toNat + 1 < 64 → let s' := s.write ln (.v r false false false) .n64 y
      s'.v r.toNat ln = y.setWidth 32 ∧ s'.v (r.toNat + 1) ln = (y >>> 32).setWidth 32) ∧
    (∀ (r : BitVec 6) (hi : Bool) (y : DWord), let s' := s.write ln (.v r false false hi) .f16 y
      (s'.v r.toNat ln).extractLsb' (if hi then 16 else 0) 16 = y.setWidth 16 ∧
      (s'.v r.toNat ln).extractLsb' (if hi then 0 else 16) 16 = (s.v r.toNat ln).extractLsb' (if hi then 0 else 16) 16) ∧
    (∀ (l : Lane) (b : Bool), l.qbit 0 = true ∧ l.setQ 0 b = l) ∧
    (∀ (l : Lane) (b : Bool) (m n : Nat), m < 8 → n < 8 → m ≠ 0 → (l.setQ m b).qbit n = if n = m then b else l.qbit n)

/-- R29, R32, R48: a source's modifiers apply HI, then ABS, then NEG: on integers exactly, modulo the width, on floating point to the sign bit alone; a literal is sign- or
zero-extended at a 64-bit integer type, widened exactly at FP64, a NaN with its sign and fraction, and its low bits otherwise. -/
def Obligations.OperandValues : Prop :=
  (∀ (t : Ty) (neg abs hi : Bool) (x : DWord), t.isInt = true →
    let y := intVal t (lowBits (if hi then x >>> 16 else x) t.wid)
    let z : Int := if abs && t.signed then (y.natAbs : Int) else y
    applyMods t neg abs hi x = lowBits (BitVec.ofInt 64 (if neg then -z else z)) t.wid) ∧
  (∀ (t : Ty) (neg abs hi : Bool) (x : DWord) (k : Nat), t.isFloat = true → 0 < t.wid → k < t.wid →
    let y := if hi then x >>> 16 else x
    (applyMods t neg abs hi x).getLsbD k = (if k + 1 = t.wid then (y.getLsbD k && !abs) ^^ neg else y.getLsbD k)) ∧
  (∀ x : Word, litVal .s64 x = x.signExtend 64 ∧ litVal .n64 x = x.setWidth 64 ∧
    (∀ t ∈ [Ty.none, .s32, .n32, .f32], litVal t x = x.setWidth 64) ∧
    (∀ t ∈ [Ty.s16, .n16, .f16, .bf16], litVal t x = (x.setWidth 16 : BitVec 16).setWidth 64) ∧
    ∀ t ∈ [Ty.s8, .n8], litVal t x = (x.setWidth 8 : BitVec 8).setWidth 64) ∧
  (∀ x : Word, x.extractLsb' 23 8 = 0xFF#8 → litVal .f64 x = x.extractLsb' 31 1 ++ (0x7FF#11 ++ (x.extractLsb' 0 23 ++ 0#29))) ∧
  (∀ x : Word, x.extractLsb' 23 8 ≠ 0xFF#8 → ∃ (s : Bool) (m k : Nat) (i j : Int), decTy .f32 x.toNat = .fin s m i ∧ decTy .f64 (litVal .f64 x).toNat = .fin s k j ∧
    (m : ℚ) * 2 ^ i = k * 2 ^ j) ∧
  (∀ e ln i n a h, readOp e ln (.v i n a h) .n64 = applyMods .n64 n a h (e.s.v (i.toNat + 1) ln ++ e.s.v i.toNat ln))

/-- R234, R235: a trap in a lane at depth 0 to 2 goes to H from H mode, for HCALL, and for a cause that HDELEG names, otherwise to S; it pushes one frame
with the resume address, header, cause, mode, predicates, MOOR and TVAL, clears MOOR.V, stands at the vector of the target mode, and has arrived at no gather. No register, mask, flag of
FPSR, other lane, other squad or byte of memory changes. -/
def Obligations.TrapEntry : Prop :=
  ∀ (d : Dev) (u ln c : Nat) (tval : DWord) (epc hdr : Pc) (hc imp : Bool),
    (fget d.squads u).isSome = true → (fget (squadOf d u).lanes ln).isSome = true → (laneOf d u ln).depth < 3 →
    let l := laneOf d u ln
    let k := coreOf d (squadOf d u).core
    let t := if l.mode = .h ∨ hc = true ∨ (c < 32 ∧ k.hdeleg.getLsbD c = true) then Mode.h else Mode.s
    let vec := if t = .h then k.hvec else k.stvec
    vec.toNat < 2 ^ 54 →
    let d' := trapTo d u ln c tval epc hdr hc imp
    let l' := laneOf d' u ln
    (l'.depth = l.depth + 1 ∧ l'.mode = t ∧ l'.pc = vec.setWidth 54 ∧ l'.hofs = 0 ∧ l'.moor = { l.moor with v := false } ∧ l'.wait = .run) ∧
    l'.frame l.depth = { epc, hdr, code := BitVec.ofNat 8 c, pm := l.mode.code, hc, imp, tval, pred := l.q, moor := l.moor } ∧
    (∀ j < l.depth, l'.frame j = l.frame j) ∧
    (l'.q = l.q ∧ l'.rege = l.rege ∧ l'.regc = l.regc ∧ l'.srkey = l.srkey ∧ l'.srcnt = l.srcnt ∧ l'.udt = l.udt ∧ l'.ovf = l.ovf ∧ l'.xf = l.xf) ∧
    (∀ j, j ≠ ln → fget (squadOf d' u).lanes j = fget (squadOf d u).lanes j) ∧
    ({ squadOf d' u with lanes := [], insts := [] } : Squad) = { squadOf d u with lanes := [], insts := [] } ∧
    (∀ p ∈ (squadOf d' u).insts, shas p.2.arrived ln = false) ∧
    (∀ v, v ≠ u → fget d'.squads v = fget d.squads v) ∧
    ({ d' with squads := [], clusters := [] } : Dev) = { d with squads := [], clusters := [] }

/-- R236: a trap at depth 3 from U or S mode with OVF clear goes to H through the X registers, and MOOR and DEPTH stay; from H mode, or with OVF set, the squad halts: the lane
does not move, the squad issues no more and is to be written back, and the control processor gets a report of its context, lane, cause 0x12 and the cause that led to it. -/
def Obligations.TrapOverflow : Prop :=
  ∀ (d : Dev) (u ln c : Nat) (tval : DWord) (epc hdr : Pc) (hc imp : Bool),
    (fget d.squads u).isSome = true → (fget (squadOf d u).lanes ln).isSome = true → (laneOf d u ln).depth = 3 →
    let l := laneOf d u ln
    let k := coreOf d (squadOf d u).core
    let d' := trapTo d u ln c tval epc hdr hc imp
    let l' := laneOf d' u ln
    (l.mode ≠ .h → l.ovf = false → k.hvec.toNat < 2 ^ 54 →
      l'.xf = { epc, hdr, code := BitVec.ofNat 8 c, pm := l.mode.code, hc, imp, tval, pred := l.q } ∧ l'.ovf = true ∧ l'.mode = .h ∧ l'.pc = k.hvec.setWidth 54 ∧
      l'.hofs = 0 ∧ l'.depth = 3 ∧ l'.moor = l.moor ∧ (∀ j, l'.frame j = l.frame j) ∧ l'.q = l.q ∧ l'.rege = l.rege) ∧
    (l.mode = .h ∨ l.ovf = true →
      l' = l ∧ (squadOf d' u).stop = .halt ∧ (squadOf d' u).res = .writing ∧ d'.host.reports = d.host.reports ++ [.halted (squadOf d u).ctx ln 0x12 c]) ∧
    ({ d' with squads := [], clusters := [], host := {} } : Dev) = { d with squads := [], clusters := [], host := {} }

/-- R237, R238: SRET, and HRET with OVF clear, pop the top frame: predicates, MOOR, mode and resume address come from it and the depth falls; HRET with OVF set returns through the
X registers, whose MOOR and depth stay. Each lane needs a frame, a mode to return to that is not above its right, a valid header at the frame's THDR, and a resume
address that the clause has; inside the clause the lane reads the clause again. -/
def Obligations.ReturnsComplete : Prop :=
  (∀ h, RunsLanes (.sret h) noChk (fun e d ln => canReturn d e.sq ln (laneOf d e.sq ln).top ∧ (laneOf d e.sq ln).depth ≠ 0 ∧ (laneOf d e.sq ln).top.pm.toNat ≤ 1)
    fun e d ln => returned d e.sq ln (laneOf d e.sq ln).top fun l => { l.leave with moor := l.top.moor, depth := l.depth - 1 }) ∧
  (∀ h, RunsLanes (.hret h) noChk (fun e d ln => canReturn d e.sq ln (laneOf d e.sq ln).top ∧ (laneOf d e.sq ln).depth ≠ 0 ∧ (laneOf d e.sq ln).top.pm.toNat ≤ 2 ∧
      (laneOf d e.sq ln).ovf = false)
    fun e d ln => returned d e.sq ln (laneOf d e.sq ln).top fun l => { l.leave with moor := l.top.moor, depth := l.depth - 1 }) ∧
  (∀ h, RunsLanes (.hret h) noChk (fun e d ln => canReturn d e.sq ln (laneOf d e.sq ln).xf ∧ (laneOf d e.sq ln).xf.pm.toNat ≤ 2 ∧ (laneOf d e.sq ln).ovf = true)
    fun e d ln => returned d e.sq ln (laneOf d e.sq ln).xf fun l => { l.leave with ovf := false }) ∧
  (∀ h, RunsLanes (.sret h) noChk (fun e d ln => (laneOf d e.sq ln).depth = 0) fun e d ln => trapAt d e.sq ln 0x01 0) ∧
  (∀ h, RunsLanes (.sret h) noChk (fun e d ln => (laneOf d e.sq ln).depth ≠ 0 ∧ (laneOf d e.sq ln).top.pm = 2) fun e d ln => trapAt d e.sq ln 0x02 0)

/-- R102, R232, R237: BRK, SYSC and HCALL take their exception in every lane of the bundle: BRK cause 0x11 at its own word, SYSC and HCALL cause 0x10 to resume at the next word,
HCALL to H; TVAL is the code, 0 where there is none. -/
def Obligations.CallsComplete : Prop :=
  (∀ h code, RunsTo (.brk h code) noChk fun e lns d => lns.foldl (fun d ln => trapAt d e.sq ln 0x11 (codeOf code)) d) ∧
  (∀ h code, RunsTo (.sysc h code) noChk fun e lns d => lns.foldl (fun d ln =>
    trapTo d e.sq ln 0x10 (codeOf code) ((laneOf d e.sq ln).pc + 12) (callHdr (laneOf d e.sq ln)) false false) d) ∧
  (∀ h code, RunsTo (.hcall h code) noChk fun e lns d => lns.foldl (fun d ln =>
    trapTo d e.sq ln 0x10 (codeOf code) ((laneOf d e.sq ln).pc + 12) (callHdr (laneOf d e.sq ln)) true false) d)

/-- R13, R38, R39, R250, R272: where the guard fails in every lane of a bundle, an instruction that gathers nothing has no effect but that it stands in execute, the lanes go on and the undo log counts it; while the
flag it selects counts 63, they wait. -/
def Obligations.FailingGuardsGoOn : Prop :=
  ∀ (i : Instr) (s : State) (u : Nat) (lns : List Nat), i.raw.isSome = true → plainForm (rawOf i).form = true → AtHand (rawOf i) s.dev u lns →
    (∀ ln ∈ lns, guardHolds (rawOf i).h (laneOf s.dev u ln) = false) →
    (flagRoom s.dev u lns (rawOf i).h →
      exec i s = .next { s with dev := logUndo s.dev (advanceAll (startExecute s.dev u lns (rawOf i)) u lns) u (rawOf i) false }) ∧
    ((squadOf s.dev u).flagFull lns (rawOf i).h = true → exec i s = .next { s with dev := holdLanes s.dev u .hold lns })

/-- R16, R38, R262, R263, R265: an instruction that names a register an outstanding access has still to write, or that would take a flag beyond 63, waits at its word with no other effect; one that names a row
which must come from memory, its page at hand, waits there and starts the row's fill. -/
def Obligations.InterlocksAndMissesWait : Prop :=
  (∀ (i : Instr) (s : State) (u : Nat) (lns : List Nat), i.raw.isSome = true → Legal (rawOf i) s.dev u lns →
    ((∀ ln ∈ lns, interlocked s.dev u (squadOf s.dev u).group [ln] (rawOf i) = true) ∨
      (∀ ln ∈ lns, interlocked s.dev u (squadOf s.dev u).group [ln] (rawOf i) = false) ∧
        ∃ f, (squadOf s.dev u).newFlag lns (rawOf i).h = some f ∧ 63 ≤ (squadOf s.dev u).flag f) →
    exec i s = .next { s with dev := holdLanes s.dev u .hold lns }) ∧
  (∀ (i : Instr) (s : State) (u : Nat) (lns : List Nat), i.raw.isSome = true → Legal (rawOf i) s.dev u lns →
    (∀ ln ∈ lns, interlocked s.dev u (squadOf s.dev u).group [ln] (rawOf i) = false) → flagRoom s.dev u lns (rawOf i).h →
    let rows := rowsRead (rawOf i) ++ rowsWritten (rawOf i)
    (∀ ln ∈ lns, rowCause s.dev (squadOf s.dev u) ln (rowsRead (rawOf i)) (rowsWritten (rawOf i)) = none) →
    rows.any (squadOf s.dev u).missing = true →
    exec i s = .next { s with dev := sweepWalks (startFills (holdLanes s.dev u .hold lns) u lns (rows.filter (squadOf s.dev u).missing)) })

/-- R45, R231, R247: no lane in U mode executes a form of class 0xE but SYSC, and none in S mode an HRET or a TLBINV of a virtual machine or of everything: each takes "privileged
instruction", 0x02, with TVAL 0 and no other effect. A REGN that is not the first instruction of its clause is illegal before it is privileged: 0x01. -/
def Obligations.PrivilegedFormsTrap : Prop :=
  (∀ (i : Instr) (s : State) (u : Nat) (lns : List Nat), i.raw.isSome = true → AtHand (rawOf i) s.dev u lns →
    (∀ ln ∈ lns, guardHolds (rawOf i).h (laneOf s.dev u ln) = true ∧ slotsLegal (rawOf i) s.dev u ln) →
    ((∀ ln ∈ lns, (laneOf s.dev u ln).mode = .u) ∧ (rawOf i).form.opc.toNat / 64 = 0xE ∧ (rawOf i).form ≠ .sysc ∨
     (∀ ln ∈ lns, (laneOf s.dev u ln).mode = .s) ∧ ((∃ h, i = .hret h) ∨ (∃ h n, i = .tlbinvVm h n) ∨ ∃ h, i = .tlbinvAll h)) →
    (ownFirst (rawOf i).form = true → ∀ ln ∈ lns, OwnLegal i s.dev u lns ln) →
    exec i s = .next { s with dev := trapAll s.dev u (lns.map fun ln => (ln, 0x02, 0)) }) ∧
  (∀ (h : Hd) (s : State) (u : Nat) (lns : List Nat), AtHand (rawOf (.regn h)) s.dev u lns →
    (∀ ln ∈ lns, guardHolds h (laneOf s.dev u ln) = true ∧ slotsLegal (rawOf (.regn h)) s.dev u ln ∧ (laneOf s.dev u ln).mode = .u ∧ (laneOf s.dev u ln).hofs ≠ 1 ∧
      interlocked s.dev u (squadOf s.dev u).group [ln] (rawOf (.regn h)) = false) →
    exec (.regn h) s = .next { s with dev := trapAll s.dev u (lns.map fun ln => (ln, 0x01, 0)) })

/-- R28, R45, R125, R251: an instruction of any other kind that names a k register in U mode, an h register below H mode, or a system register beyond the mode's access takes
"privileged instruction", 0x02, in every lane and has no other effect. -/
def Obligations.PrivilegedRegistersTrap : Prop :=
  ∀ (i : Instr) (s : State) (u : Nat) (lns : List Nat), i.raw.isSome = true → AtHand (rawOf i) s.dev u lns →
    isSquadForm (rawOf i).form = false → (rawOf i).form.opc.toNat / 64 ≠ 0xE →
    (∀ ln ∈ lns, guardHolds (rawOf i).h (laneOf s.dev u ln) = true ∧ slotsLegal (rawOf i) s.dev u ln ∧
      (ownFirst (rawOf i).form = true → OwnLegal i s.dev u lns ln) ∧
      ∃ p ∈ slotsOf (rawOf i), slotPrivileged (laneOf s.dev u ln).mode p.2.1 p.2.2 = true) →
    ∃ tv : Nat → DWord, exec i s = .next { s with dev := trapAll s.dev u (lns.map fun ln => (ln, 0x02, tv ln)) }

/-- R38, R272, R349: an issue touches nothing outside its squad but the execute stages, clock and idle time of its core and the identifiers, and in the squad only flags: an instruction that
selects a flag counts it up by one; what follows an effect changes only flags' counts, the undo log and ended walks.
The cycle in which an instruction begins to execute is a free choice (log 10). -/
def Obligations.IssueKeepsTheRest : Prop :=
  ∀ (r : Raw) (d d' : Dev) (u : Nat) (lns : List Nat), (fget d.squads u).isSome = true →
    Stands false u d (begun r d u lns) ∧ Stands false u d' (ended r d d' u) ∧ Env.Alike false (begunEnv r d u lns) (envOf d u lns) ∧
    (∀ m, Stands true u d (gathered r m d u lns) ∧ Env.Alike true (gatheredEnv r m d u lns) (envOf d u lns)) ∧
    ∀ f, (squadOf (begun r d u lns) u).flag f = (squadOf d u).flag f + if (squadOf d u).newFlag lns r.h = some f then 1 else 0

/-- R155, R159 to R164, R166 to R170, R227, R228: a load, store, scratchpad add, prefetch, atomic, acquiring load, releasing store or binned step that nothing holds back issues its
accesses: the lanes go on, and no register, no byte of memory at any level and no byte of scratchpad changes yet. An atomic does so where no replay gates it. -/
def Obligations.AccessFormsComplete : Prop :=
  (∀ h t x4 pol d va off, IssuesAccess (.ld h t x4 pol d va off)
    (globalChk .r pol (accBytes t x4) true false false false (fun e ln => vaOf e ln va off) noMid) anyEnv) ∧
  (∀ h t x4 pol d va off, IssuesAccess (.st h t x4 pol d va off)
    (globalChk .w pol (accBytes t x4) false true false false (fun e ln => vaOf e ln va off) noMid) anyEnv) ∧
  (∀ h t x4 d a off, IssuesAccess (.ldp h t x4 d a off) (privChk .r (accBytes t x4) a off) anyEnv) ∧
  (∀ h t x4 d a off, IssuesAccess (.stp h t x4 d a off) (privChk .w (accBytes t x4) a off) anyEnv) ∧
  (∀ h t x4 d a off, IssuesAccess (.lds h t x4 d a off) (scratchChk (accBytes t x4) true false false a off noMid) anyEnv) ∧
  (∀ h t x4 d a off, IssuesAccess (.sts h t x4 d a off) (scratchChk (accBytes t x4) false true false a off noMid) anyEnv) ∧
  (∀ h t d a off, IssuesAccess (.stsa h t d a off)
    (scratchChk 4 true true true a off (stsaMid (rawOf (.stsa h t d a off)) t a off)) anyEnv) ∧
  (∀ h t pol d va off, IssuesAccess (.ldw h t pol d va off) (ldwChk (rawOf (.ldw h t pol d va off)) t pol d va off) anyEnv) ∧
  (∀ h pol va off, IssuesAccess (.pref h pol va off) noChk anyEnv) ∧
  (∀ h op t pol sc ar d va b, IssuesAccess (.atom h op t pol sc ar d va b) (atomChk t pol sc (detForbids false op t sc) va)
    (ungated va)) ∧
  (∀ h t pol sc ar d va c n, IssuesAccess (.cas h t pol sc ar d va c n) (atomChk t pol sc (detForbids false .exch t sc) va) (ungated va)) ∧
  (∀ h op t pol sc rel va b, IssuesAccess (.red h op t pol sc rel va b) (atomChk t pol sc (detForbids true op t sc) va) (ungated va)) ∧
  (∀ h t pol sc d va off, IssuesAccess (.ldacq h t pol sc d va off)
    (globalChk .r pol (t.wid / 8) true false true (sc == .sys) (fun e ln => vaOf e ln va off) noMid) anyEnv) ∧
  (∀ h t pol sc d va off, IssuesAccess (.strel h t pol sc d va off)
    (globalChk .w pol (t.wid / 8) false true true (sc == .sys) (fun e ln => vaOf e ln va off) noMid) anyEnv) ∧
  (∀ h t pol sc va x, IssuesAccess (.rbexp h t pol sc va x) (binChk .rw pol sc true va) anyEnv) ∧
  (∀ h t pol sc va x, IssuesAccess (.rbadd h t pol sc va x) (binChk .rw pol sc true va) anyEnv)

/-- R155, R156, R159: a load of a lane is outstanding part by part at the address, place and width of each, on its way to its register, and nothing else changes but race tags.
That race tags change is the model's form of race detection (log 15). -/
def Obligations.LoadsOutstanding : Prop :=
  ∀ (t : Ty) (x4 : Bool) (pol : Pol) (r : Opnd) (va : Nat) (pl : Nat × Nat) (e : Env) (ln j : Nat) (d : Dev),
    let ps := loadParts t x4 r
    let d' := issueLoad t x4 pol r id true false va pl e ln d
    ({ d' with accs := [], tags := [], fresh := 0 } : Dev) = { d with accs := [], tags := [], fresh := 0 } ∧
    d'.fresh = d.fresh + ps.length ∧
    (∀ k < d.fresh, fget d'.accs k = fget d.accs k) ∧
    ∀ p, ps[j]? = some p → ∃ a, fget d'.accs (d.fresh + j) = some a ∧ a.op = .load ∧ a.sq = e.sq ∧ a.lanes = [(ln, (laneOf d e.sq ln).vc)] ∧
      a.va = va + p.1 ∧ a.space = pl.1 ∧ a.pa = pl.2 + p.1 ∧ a.len = p.2.1.wid / 8 ∧ a.pol = pol ∧ a.ty = p.2.1 ∧ a.dest = p.2.2 ∧ a.claim = (e.s.lane ln).claim

/-- R159: of several lanes of a store that write one byte, the highest lane's write stands: each request keeps a byte exactly when no later request covers its place. -/
def Obligations.HighestLaneStores : Prop :=
  ∀ (rs : List StoreReq) (i j : Nat) (r : StoreReq) (b : Byte), rs[i]? = some r → r.bs[j]? = some b →
    let later := ∃ k q, i < k ∧ rs[k]? = some q ∧ q.pl.1 = r.pl.1 ∧ q.pl.2 ≤ r.pl.2 + j ∧ r.pl.2 + j < q.pl.2 + q.bs.length
    ∃ p, (maskStores rs)[i]? = some p ∧ p.1 = r ∧ (later → p.2[j]? = some none) ∧ (¬later → p.2[j]? = some (some b))

/-- R157: a misaligned address of a global load or store, of an atomic, of a private or of a scratchpad access takes "misaligned access", cause 0x03, with TVAL the address or offset as the
form names it, before any translation, limit or permission, and has no other effect. -/
def Obligations.MisalignedAccessesTrap : Prop :=
  (∀ h t x4 pol d va off, MisalignedTraps (.ld h t x4 pol d va off) (accBytes t x4) fun e ln => (vaOf e ln va off : Int)) ∧
  (∀ h t x4 pol d va off, MisalignedTraps (.st h t x4 pol d va off) (accBytes t x4) fun e ln => (vaOf e ln va off : Int)) ∧
  (∀ h t x4 d a off, MisalignedTraps (.ldp h t x4 d a off) (accBytes t x4) fun e ln => offsetOf e ln a off) ∧
  (∀ h t x4 d a off, MisalignedTraps (.stp h t x4 d a off) (accBytes t x4) fun e ln => offsetOf e ln a off) ∧
  (∀ h t x4 d a off, MisalignedTraps (.lds h t x4 d a off) (accBytes t x4) fun e ln => offsetOf e ln a off) ∧
  (∀ h t x4 d a off, MisalignedTraps (.sts h t x4 d a off) (accBytes t x4) fun e ln => offsetOf e ln a off) ∧
  (∀ h t d a off, MisalignedTraps (.stsa h t d a off) 4 fun e ln => offsetOf e ln a off) ∧
  (∀ h op t pol sc ar d va b, MisalignedTraps (.atom h op t pol sc ar d va b) (t.wid / 8) fun e ln => (readN64 e ln va : Int)) ∧
  (∀ h t pol sc ar d va c n, MisalignedTraps (.cas h t pol sc ar d va c n) (t.wid / 8) fun e ln => (readN64 e ln va : Int)) ∧
  (∀ h op t pol sc rel va b, MisalignedTraps (.red h op t pol sc rel va b) (t.wid / 8) fun e ln => (readN64 e ln va : Int)) ∧
  (∀ h t pol sc d va off, MisalignedTraps (.ldacq h t pol sc d va off) (t.wid / 8) fun e ln => (vaOf e ln va off : Int)) ∧
  (∀ h t pol sc d va off, MisalignedTraps (.strel h t pol sc d va off) (t.wid / 8) fun e ln => (vaOf e ln va off : Int)) ∧
  (∀ h t pol sc va x, MisalignedTraps (.rbexp h t pol sc va x) 64 fun e ln => (readN64 e ln va : Int)) ∧
  (∀ h t pol sc va x, MisalignedTraps (.rbadd h t pol sc va x) 64 fun e ln => (readN64 e ln va : Int)) ∧
  (∀ h t pol sc d va, MisalignedTraps (.rbres h t pol sc d va) 64 fun e ln => (readN64 e ln va : Int)) ∧
  (∀ h t pol tmo d va x, MisalignedTraps (.waitv h t pol tmo d va x) (t.wid / 8) fun e ln => (waitvAddr va e ln : Int))

/-- R105, R165, R170, R229: FENCE takes its place in each lane's order; CCTL writes back or drops the line, or every dirty line, or the fetched copies of a line; RBRES writes each lane
the sum of its set; WAITV leaves with 1 where the value differs from the expected one and otherwise watches its line, keeping the address and the expected value that it read first. -/
def Obligations.OrderFormsComplete : Prop :=
  (∀ h kind sc, RunsTo (.fence h kind sc) (fun dv e ln => if acqPending dv e.sq ln then .stall else .ok) (fenceAct kind sc)) ∧
  (∀ h va off, RunsTo (.cctlWb h va off) (cctlChk va off) fun e => cctlAct (fun d line => l1WriteBack d (l1Set e.s) line) va off e) ∧
  (∀ h va off, RunsTo (.cctlInv h va off) (cctlChk va off) fun e => cctlAct (fun d line => l1Drop d (l1Set e.s) line) va off e) ∧
  (∀ h sc va off, RunsTo (.cctlIinv h sc va off) (cctlChk va off) fun e lns d => cctlAct (iinvLine (iinvCores d e sc)) va off e lns d) ∧
  (∀ h, RunsTo (.cctlWball h) (fun d e ln => if l1Pending d e.sq ln then .stall else .ok) fun e lns d => advanceAll (wbAll d e.core) e.sq lns) ∧
  (∀ h t pol sc d va, RunsTo (.rbres h t pol sc d va) (rbresChk t pol sc va) fun e lns dv => lns.foldl (rbresLane t pol sc d va e) dv) ∧
  (∀ h t pol tmo d va x, RunsTo (.waitv h t pol tmo d va x) (waitvChk t pol va) (waitvAct t pol tmo d va x)) ∧
  (∀ t pol tmo d va x e dv ln, let a := waitvAddr va e ln
    let pl := placeOr (globalAddr dv e ln a (t.wid / 8) .r pol true (pol == .sys))
    let acc := waitvAcc dv e ln t pol a pl
    let r := readAt (tagLane dv e ln pl.1 pl.2 (t.wid / 8) false true) acc
    let d1 := readSync r.1 acc (relsAt dv pl.1 pl.2 (t.wid / 8))
    (BitVec.ofNat 64 (leNat r.2) ≠ waitvWant t x e ln →
      waitvLane t pol tmo d va x e dv ln = setSquad d1 e.sq fun s => (s.write ln d .none 1).setLane ln Lane.advance) ∧
    (BitVec.ofNat 64 (leNat r.2) = waitvWant t x e ln →
      ∃ w, waitvLane t pol tmo d va x e dv ln = setLane d1 e.sq ln (fun l => { l with wait := .watch, watch := some w }) ∧
        w.va = a ∧ w.want = waitvWant t x e ln ∧ w.line = pl.2)) ∧
  (∀ t va x e ln, (∀ w, (e.s.lane ln).watch ≠ some w) → waitvAddr va e ln = readN64 e ln va ∧ waitvWant t x e ln = readOp e ln x t) ∧
  (∀ t va x e ln w, (e.s.lane ln).watch = some w → waitvAddr va e ln = w.va ∧ waitvWant t x e ln = w.want)

/-- R160, R165, R286, R290: bytes stored at a policy are read back at that policy and every other byte reads as before; a store at `.l1` reaches neither L2 nor the coherence point, one at `.l2` not the
coherence point where L2 has room for its line; no other L1's copies change. Writing back or dropping a line brings its dirty bytes to L2 and changes no other byte there. The addresses are those
at which memory stands (log 49); which line leaves a full L2 is free (log 36). -/
def Obligations.StoresReadBack : Prop :=
  (∀ (d : Dev) (set pa : Nat) (bs : List (Option Byte)) (pol : Pol) (by_ : Clock) (x : Nat), set < 256 → noMemory x = false →
    let d' := storeBytes d set pa bs pol by_
    let new := if pa ≤ x then (bs[x - pa]?).join else none
    loadByte d' set x pol = new.getD (loadByte d set x pol) ∧
    (pol = .l1 → l2Byte d' x = l2Byte d x ∧ d'.mem = d.mem) ∧
    (pol = .l2 → d.l2Legal → l2Room d (lineOf pa) 4 = true → (∀ k < bs.length, lineOf (pa + k) = lineOf pa) → d'.mem = d.mem) ∧
    (∀ set' line, set' < 256 → set' ≠ set → fget d'.l1 (l1Key set' line) = fget d.l1 (l1Key set' line)) ∧
    d'.scratch = d.scratch ∧ d'.squads = d.squads) ∧
  (∀ (d : Dev) (set line x : Nat), noMemory x = false →
    l2Byte (l1Drop d set line) x = (match fget d.l1 (l1Key set line) with
      | some l => if x / 128 = line ∧ l.dirty.getLsbD (x % 128) = true then l.byte (x % 128) else l2Byte d x
      | none => l2Byte d x) ∧
    l2Byte (l1WriteBack d set line) x = l2Byte (l1Drop d set line) x ∧ l1Byte (l1WriteBack d set line) set x = l1Byte d set x)

/-- R39, R127, R156, R159, R160: when a load's data arrives with nothing else to follow, its register takes the value read at its place by its type and the access is complete; scratchpad, memory (but where its line
is made ready, R290) and every other register of the squad are as they were. When a store is performed with nothing else to follow, the bytes it keeps are read back at its policy, every other byte reads as before, and the access is
complete. -/
def Obligations.LoadsAndStoresPerformed : Prop :=
  (∀ (s : State) (k ln i : Nat) (a : Acc) (vc : Clock) (ty : Ty) (hi : Bool), Performable s.dev k a → a.op = .load → a.lanes = [(ln, vc)] → a.sync = false → a.dest = .v i ty hi → i < 63 →
    accFits s.dev a = true → metPoison s.dev a = false →
    let x := leNat (readAt s.dev a).2
    ∃ t, exec (.loadDataReturn k .none) s = .next t ∧ t.power = s.power ∧ t.trust = s.trust ∧ fget t.dev.accs k = none ∧
      (a.pol ≠ .sys → s.dev.l2Legal → l2Room s.dev (lineOf a.pa) 4 = true → t.dev.mem = s.dev.mem) ∧ t.dev.scratch = s.dev.scratch ∧
      (∀ x, noMemory x = false → (lineOf x ≠ lineOf a.pa ∨ a.space ≠ 0) → l2Byte t.dev x = l2Byte s.dev x) ∧
      (∀ j m, (squadOf t.dev a.sq).v j m = ((squadOf s.dev a.sq).write ln (.v (BitVec.ofNat 6 i) false false hi) (loadVal a.ty x).2 (loadVal a.ty x).1).v j m) ∧
      (∀ v, v ≠ a.sq → fget t.dev.squads v = fget s.dev.squads v)) ∧
  (∀ (s : State) (k ln : Nat) (a : Acc) (vc : Clock) (bs : List (Option Byte)), Performable s.dev k a → a.op = .store bs → a.lanes = [(ln, vc)] → a.rel = none → a.set < 256 → accFits s.dev a = true →
    ∃ t, exec (.storePerformed k .none) s = .next t ∧ t.power = s.power ∧ t.trust = s.trust ∧ fget t.dev.accs k = none ∧
      (a.space = 0 → t.dev.scratch = s.dev.scratch ∧
        ∀ x, noMemory x = false → loadByte t.dev a.set x a.pol = (if a.pa ≤ x then (bs[x - a.pa]?).join else none).getD (loadByte s.dev a.set x a.pol)) ∧
      (a.space = 1 → t.dev.mem = s.dev.mem ∧ t.dev.l2 = s.dev.l2 ∧ t.dev.l1 = s.dev.l1 ∧
        ∀ x, fgetD t.dev.scratch x 0 = (if a.pa ≤ x then (bs[x - a.pa]?).join else none).getD (fgetD s.dev.scratch x 0)) ∧
      (∀ j m, (squadOf t.dev a.sq).v j m = (squadOf s.dev a.sq).v j m))

/-- R105, R167, R168, R297, R308, R315: an atomic step combines its lanes in ascending order: each lane's old value is what the lanes before it have left, and what stands at the end is the last result; a CAS stores its new value where the
value found equals the one compared. A WAITV whose line is written wakes to read again, and one whose limit has expired leaves with 0; a walk that ends well leaves its translation held and no walk, one that does not leaves its cause
for the lanes that wait; a store no part of which is performed and that the host or a peer refuses leaves an imprecise cause 0x15, with its address, for each lane that lives.
How long a walk's cause is kept, and which buffers it fills, is read from the rules (log 21). -/
def Obligations.AtomicsAndAccessEventsComplete : Prop :=
  (∀ (f : DWord → DWord → DWord) (o : DWord) (xs : FMap DWord), (foldStep f o xs).1 = xs.foldl (fun v p => f v p.2) o ∧
    ∀ j p, xs[j]? = some p → (foldStep f o xs).2[j]? = some (p.1, (xs.take j).foldl (fun v q => f v q.2) o)) ∧
  (∀ (o : DWord) (xs : FMap (DWord × DWord)), (casStep o xs).1 = xs.foldl (fun v p => if v = p.2.1 then p.2.2 else v) o ∧
    ∀ j p, xs[j]? = some p → (casStep o xs).2.1[j]? = some (p.1, (xs.take j).foldl (fun v q => if v = q.2.1 then q.2.2 else v) o)) ∧
  (∀ (s : State) (k : Nat) (a : Acc) (op : AtomOp) (xs : FMap DWord), Performable s.dev k a → a.op = .atom op true xs → a.rel = none → a.acq = none → a.gated = false → a.space = 0 → a.set < 256 →
    s.dev.watches = [] → s.dev.marks = [] → a.pol = .l2 ∨ a.pol = .sys → a.len ≤ 8 → metPoison s.dev a = false →
    let o := BitVec.ofNat 64 (leNat (readAt s.dev a).2)
    let r := foldStep (atomNew op a.ty) o xs
    ∃ t b, exec (.atomicStepAtSlice k .none) s = .next t ∧ fget t.dev.accs k = some b ∧ b.op = .ret r.2 ∧ b.dest = a.dest ∧
      ∀ x, a.pa ≤ x → x < a.pa + a.len → noMemory x = false → loadByte t.dev a.set x a.pol = r.1.extractLsb' (8 * (x - a.pa)) 8) ∧
  (∀ (s : State) (k ln : Nat) (a : Acc) (x : DWord) (i : Nat) (ty : Ty) (hi : Bool), Performable s.dev k a → a.op = .ret [(ln, x)] → a.dest = .v i ty hi → i < 63 →
    ∃ t, exec (.loadDataReturn k .none) s = .next t ∧ fget t.dev.accs k = none ∧
      ∀ j m, (squadOf t.dev a.sq).v j m =
        ((squadOf s.dev a.sq).write ln (.v (BitVec.ofNat 6 i) false false hi) (loadVal a.ty x.toNat).2 (loadVal a.ty x.toNat).1).v j m) ∧
  (∀ (s : State) (u ln : Nat) (w : Watch), watchOf s.dev u ln = some w → (isPeer w.line = true ∨ watchLine s.dev w.pol w.line ≠ w.seen) →
    exec (.waitvLineWriteWake u ln) s = .next { s with dev := setLane s.dev u ln fun l => { l with wait := .run } }) ∧
  (∀ (s : State) (u ln : Nat) (w : Watch), watchOf s.dev u ln = some w → w.limit ≠ 0 →
    w.since + w.limit ≤ (clusterOf s.dev ((squadOf s.dev u).core / 7)).etime →
    exec (.waitvTimeout u ln) s = .next { s with dev := logLanes s.dev (settleClaims (setSquad s.dev u fun q =>
      (q.write ln (.q (BitVec.ofNat 3 w.dest) false) .none 0).setLane ln Lane.advance) u) u [ln] }) ∧
  (∀ (s : State) (i : Nat) (k : Walk) (l : Leaf), fget s.dev.walks i = some k → k.res = none → walkPage s.dev k.vmid k.asid k.va = .ok l →
    ∃ t, exec (.tableWalkComplete i .none) s = .next t ∧ fget t.dev.walks i = none ∧ t.dev.mem = s.dev.mem ∧ t.dev.squads = s.dev.squads ∧
      ∃ m, fget t.dev.tlb m = some (l.tlb (168 + k.cluster) k.vmid k.asid)) ∧
  (∀ (s : State) (i u ln c : Nat) (k : Walk), fget s.dev.walks i = some k → k.res = none → walkPage s.dev k.vmid k.asid k.va = .error c →
    (fget s.dev.squads u).isSome = true → (laneOf s.dev u ln).wait = .walk i → (fget (squadOf s.dev u).lanes ln).isSome = true →
    ∃ t, exec (.tableWalkComplete i .none) s = .next t ∧ fget t.dev.walks i = some { k with res := some c } ∧ t.dev.mem = s.dev.mem ∧ t.dev.squads = s.dev.squads) ∧
  (∀ (s : State) (k ln : Nat) (a : Acc) (vc : Clock), Performable s.dev k a → a.noReturn = true → a.gated = false → a.lanes = [(ln, vc)] → whole s.dev a = true →
    a.space = 2 ∨ (a.space = 0 ∧ hostBase ≤ a.pa) →
    (fget (squadOf s.dev a.sq).lanes ln).isSome = true →
    ∃ t, exec (.impreciseStoreFault k) s = .next t ∧ fget t.dev.accs k = none ∧ t.dev.mem = s.dev.mem ∧ t.dev.l2 = s.dev.l2 ∧ t.dev.l1 = s.dev.l1 ∧
      (laneOf t.dev a.sq ln).imps = (laneOf s.dev a.sq ln).imps ++ [⟨a.depth, 0x15, tvAddr a.va⟩])

/-- R172 to R178, R185, R186: where its engine has room a CPY or XFORM lane takes the next number of its timeline, sends its command and writes the number; TLSIG does so for its signal; TLWAIT, WPWAIT and RDV whose wait is over
write their predicate, acquire and go on; TLREAD reads its counter; a FORK starts where its sequencers are free; SHAPE and XTBL write a handle or a status, SHDROP frees one. -/
def Obligations.EngineFormsComplete : Prop :=
  (∀ h d desc tl, RunsLanes (.cpy h d desc tl) (cpyChk desc)
    (fun e dv ln => ((copyOf (readBlock e ln desc 8)).fmma = true → (extraRows desc).filter e.s.missing = []) ∧ copyQueue dv e.core < 64)
    fun e dv ln => let ds := readBlock e ln desc (if (copyOf (readBlock e ln desc 8)).fmma then 16 else 8)
      afterIssue d (nextNumber dv e.s.group (tlIdx tl)) e ln (addCopy dv (cpyCmd dv e ln ds) ds (tlIdx tl))) ∧
  (∀ h d desc tl, RunsLanes (.xform h d desc tl) (xformChk desc) (fun e dv _ => transQueue dv (e.core / 7) < 64)
    fun e dv ln => afterIssue d (nextNumber dv e.s.group (tlIdx tl)) e ln
      (addXform dv (xformCmd dv e ln (readBlock e ln desc 8)) (readBlock e ln desc 8) (tlIdx tl))) ∧
  (∀ h sc d tl, RunsTo (.tlsig h sc d tl) noChk fun e lns dv => settleSignals (lns.foldl (fun dv ln =>
    afterIssue d (nextNumber dv e.s.group (tlIdx tl)) e ln (addCmd dv (mkCmd dv e ln (.tlsig sc)) (some (tlIdx tl)))) dv)) ∧
  (∀ h sc d tl n, RunsWhen (.tlwait h sc d tl n) noChk
    (fun e lns dv => ∀ ln ∈ lns, readN64 e ln n ≤ ((groupOf dv e.s.group).tl (tlIdx tl)).done)
    fun e lns dv => let k := (groupOf dv e.s.group).tl (tlIdx tl)
      lns.foldl (fun d' ln => waitDone d (k.fail = 0 || decide (readN64 e ln n < k.fail)) (k.clockTo (readN64 e ln n)) e ln d') dv) ∧
  (∀ h d tl n b, RunsWhen (.wpwait h d tl n b) noChk
    (fun e lns dv => ∀ ln ∈ lns, ((groupOf dv e.s.group).tl (tlIdx tl)).has (readN64 e ln n) = true)
    fun e lns dv => let k := (groupOf dv e.s.group).tl (tlIdx tl)
      lns.foldl (fun d' ln => waitDone d (!shas k.failed (readN64 e ln n)) (fgetD k.vcs (readN64 e ln n) []) e ln d') dv) ∧
  (∀ h d fk, RunsWhen (.rdv h d fk) noChk
    (fun e lns dv => ∀ ln ∈ lns, ∃ f, fget (groupOf dv e.s.group).forks (readN64 e ln fk) = some f ∧ f.left = 0)
    fun e lns dv => lns.foldl (fun d' ln => let f := fgetD (groupOf dv e.s.group).forks (readN64 e ln fk) {}
      waitDone d (!f.fault) f.vc e ln d') dv) ∧
  (∀ h ctr d tl, Gives (.tlread h ctr d tl) d .n64 fun e _ => BitVec.ofNat 64 (tlCtr (e.g.tl (tlIdx tl)) ctr)) ∧
  (∀ h d set ent, RunsLanes (.fork h d set ent) (forkChk set ent)
    (fun e dv _ => ∀ p ∈ forkSet e.core (tlIdx set), fget (clusterOf dv (e.core / 7)).seqs p.1 = none) (forkLane d set ent)) ∧
  (∀ h d va, RunsLanes (.shape h d va) (fun dv e ln => recordChk 96 1 (readN64 e ln va) dv e ln) (fun _ _ _ => True) (shapeLane d va)) ∧
  (∀ h d va, RunsLanes (.xtbl h d va) (xtblChk va) (fun _ _ _ => True) (xtblLane d va)) ∧
  (∀ h hd, RunsLanes (.shdrop h hd) (fun dv e ln => if liveHandle dv (e.core / 7) (readN32 e ln hd) then .ok else .bad 5 0x16 (tvAddr (readN32 e ln hd)))
    (fun e dv ln => liveHandle dv (e.core / 7) (readN32 e ln hd) = true)
    fun e dv ln => let h := readN32 e ln hd
      let free := fun (m : FMap ShapeSlot) => fmod m (h % 256) fun s => ({ gen := nextGen s.gen } : ShapeSlot)
      advanceAll (if h < 2147483648 then setCluster dv (e.core / 7) fun c => { c with shapes := free c.shapes } else { dv with tables := free dv.tables }) e.sq [ln])

/-- R172, R173, R186: a timeline's numbers are taken one by one; DONE passes each number that has completed and stands before the first that has not; a number that has completed stays so, and FAIL is the lowest that failed; a FORK starts one
sequencer for each bit of its set, at the header its entry names, under the next number of the group. -/
def Obligations.TimelinesAndForksAdvance : Prop :=
  (∀ (t : Timeline) (n m : Nat) (bad : Bool) (vc : Clock), let t' := t.complete n bad vc
    t'.has n = true ∧ (t.has m = true → t'.has m = true) ∧ (m ≠ n → t'.has m = true → t.has m = true) ∧ t.done ≤ t'.done ∧
    t'.has (t'.done + 1) = false ∧ t'.issued = t.issued ∧
    (bad = false → t'.fail = t.fail) ∧ (bad = true → t'.fail = if t.fail = 0 ∨ n < t.fail then n else t.fail)) ∧
  (∀ (d : Dev) (g k j : Nat), (fget d.groups g).isSome = true →
    ((groupOf (takeNumber d g k) g).tl k).issued = ((groupOf d g).tl k).issued + 1 ∧ (j ≠ k → (groupOf (takeNumber d g k) g).tl j = (groupOf d g).tl j)) ∧
  (∀ (d : Dev) (c : Cmd) (k : Nat), (fget d.groups c.grp).isSome = true → c.claim = none →
    let d' := addCmd d c (some k)
    fget d'.cmds d.fresh = some { c with tl := some (k, nextNumber d c.grp k) } ∧ (∀ i, i ≠ d.fresh → fget d'.cmds i = fget d.cmds i) ∧
    d'.fresh = d.fresh + 1 ∧ d'.mem = d.mem ∧ d'.squads = d.squads) ∧
  (∀ (dst set ent : Opnd) (e : Env) (d : Dev) (ln : Nat), (fget d.groups e.s.group).isSome = true →
    (∀ p ∈ forkSet e.core (tlIdx set), fget (clusterOf d (e.core / 7)).seqs p.1 = none) →
    let d' := forkLane dst set ent e d ln
    let n := (groupOf d e.s.group).nfork + 1
    (groupOf d' e.s.group).nfork = n ∧ fget (groupOf d' e.s.group).forks n = some { left := (forkSet e.core (tlIdx set)).length } ∧
    (∀ p ∈ forkSet e.core (tlIdx set), ∃ q, fget (clusterOf d' (e.core / 7)).seqs p.1 = some q ∧ q.pc = BitVec.ofNat 54 (forkEntry e ent p.2) ∧ q.fork = n ∧
      q.grp = e.s.group ∧ q.lane = ln ∧ q.quit = none) ∧
    d'.mem = d.mem ∧ d'.accs = d.accs ∧ d'.cmds = d.cmds)

/-- R179, R185, R365, R371: a copy whose released accesses are performed, and that is not stopped or killed, has them in L2 and moves on by a chunk; a transducer command runs its lane's transitions to their end, writes its record behind its output
and completes, and one of a killed group completes as failed; a halted command retries its walk after a TLBINV
or 4,096 ns; a halted copy of a draining group fails after 2^20 ns.
What is reported of a killed group's commands is read from the rules (log 40). -/
def Obligations.EngineEventsComplete : Prop :=
  (∀ (s : State) (i : Nat) (c : Cmd) (ds : List Word) (l : List ShapeStep), fget s.dev.cmds i = some c → c.kind = .cpy ds l → c.isHalted = false →
    quiet s.dev c.vc = true → (groupOf s.dev c.grp).killed = false → cmdStopped s.dev c = false →
    exec (.cpyChunkWritten i .none) s = .next { s with dev := copyChunk (publish s.dev c.vc .dev) i none }) ∧
  (∀ (s : State) (i : Nat) (c : Cmd) (ds : List Word) (t : List Byte), fget s.dev.cmds i = some c → c.kind = .xform ds t → c.isHalted = false →
    quiet s.dev c.vc = true → (groupOf s.dev c.grp).killed = true →
    exec (.transducerCommandComplete i .none) s = .next { s with dev := completeCmd (publish s.dev c.vc .dev) i true }) ∧
  (∀ (s : State) (i : Nat) (c : Cmd) (ds : List Word) (t : List Byte) (d : Dev), fget s.dev.cmds i = some c → c.kind = .xform ds t → c.isHalted = false →
    quiet s.dev c.vc = true → (groupOf s.dev c.grp).killed = false → cmdStopped s.dev c = false →
    let r := xformRun t ds c (cmdTid i c.sq c.lane) (xw ds 4 + 1) (publish s.dev c.vc .dev, xformAt c t ds)
    r.2.err = none →
    engWrite (setCmd r.1 i fun c => { c with aux := [r.2.s, r.2.p, r.2.n] }) c .l2 (xOut ds) (someBytes (xformRecord r.2)) = (d, .ok ()) →
    exec (.transducerCommandComplete i .none) s = .next { s with dev := completeCmd d i false }) ∧
  (∀ (s : State) (i p since : Nat) (c : Cmd) (ds : List Word) (l : List ShapeStep), fget s.dev.cmds i = some c → c.kind = .cpy ds l → c.state = .halted p since →
    (c.kick = true ∨ c.last + 4096 ≤ (clusterOf s.dev (c.core / 7)).etime) → cmdStopped s.dev c = false →
    exec (.haltedCommandRetry i) s = .next { s with dev := copyEvent (setCmd s.dev i fun c => { c with state := .running p, kick := false }) i .none (some since) }) ∧
  (∀ (s : State) (i p since : Nat) (c : Cmd), fget s.dev.cmds i = some c → c.state = .halted p since → (groupOf s.dev c.grp).state = .draining →
    since + 1048576 ≤ (clusterOf s.dev (c.core / 7)).etime →
    exec (.haltedCommandTimeout i) s = .next { s with dev := failCopy s.dev i 0x04 c.hva }) ∧
  (∀ (d : Dev) (i : Nat) (c : Cmd) (t n : Nat) (bad : Bool), fget d.cmds i = some c → c.tl = some (t, n) → c.seqr = none → (fget d.groups c.grp).isSome = true →
    fget (completeCmd d i bad).cmds i = none ∧ ((groupOf (completeCmd d i bad) c.grp).tl t).has n = true ∧ (completeCmd d i bad).mem = d.mem)

/-- R97, R107 to R112: EXIT ends the lanes of its bundle; GJOIN of a squad alone in its group joins the group of its key and gives its number there, or starts that group and gives 0, and gives 0xFFFFFFFF where its group has another member, its count is out of
range or differs, or that group is full; where the group of its key is its own, a new group takes its place (log 50); GLEAVE starts a group of its own without scratchpad; GARV arrives, GBAR arrives and waits, GWAIT whose phase is complete returns, once no earlier phase is awaited and what the squad did is performed; TKWAIT and TKPASS in their turn return.
That TKPASS leaves q7 of a group that holds a position is a reading of R112 beside R376 and R377 (log 32). -/
def Obligations.GroupFormsComplete : Prop :=
  (∀ h, RunsTo (.exit h) noChk fun e lns dv => exitLanes (if (fkeys e.s.lanes).all lns.contains then detPass dv e.sq else dv) e.sq lns) ∧
  (∀ h d cnt key i g, RunsGathered (.gjoin h d cnt key) none detBar
    (fun e lns dv => e.g.members.any (· != e.sq) = false ∧ findKey dv e.g (readN32 e (lns.headD 0) key) = some (i, g) ∧ i ≠ e.s.group ∧ g.cap = readN32 e (lns.headD 0) cnt ∧
      g.members.length < g.cap ∧ 1 ≤ g.cap ∧ g.cap ≤ 576 ∧ g.base.isSome = true)
    fun e lns dv => writeAll d .n32 (BitVec.ofNat 64 g.joined) e lns
      (setSquad (setGroup (leaveGroup dv e.sq) i fun g => memberJoin g e.sq) e.sq fun s => { s with group := i, arr := [], gpidx := BitVec.ofNat 32 g.idx })) ∧
  (∀ h d cnt key, RunsGathered (.gjoin h d cnt key) none detBar
    (fun e lns dv => let n := readN32 e (lns.headD 0) cnt
      e.g.members.any (· != e.sq) = true ∨ n < 1 ∨ 576 < n ∨
        ∃ i g, findKey dv e.g (readN32 e (lns.headD 0) key) = some (i, g) ∧
          (g.cap ≠ n ∨ (n ≤ g.members.length ∧ (i ≠ e.s.group ∨ n ≤ 1))))
    fun e lns dv => writeAll d .n32 0xFFFFFFFF e lns dv) ∧
  (∀ h d cnt key g, RunsGathered (.gjoin h d cnt key) none detBar
    (fun e lns dv => e.g.members.any (· != e.sq) = false ∧ findKey dv e.g (readN32 e (lns.headD 0) key) = some (e.s.group, g) ∧ g.cap = readN32 e (lns.headD 0) cnt ∧
      1 < g.cap ∧ g.cap ≤ 576 ∧ g.members.length < g.cap ∧ (scAlloc dv e.g.cluster e.s.kern.scr).isSome = true)
    fun e lns dv => let d1 := setGroup dv e.s.group fun g => { g with key := none }
      let g' := { joinGroup dv e g.cap (readN32 e (lns.headD 0) key) with joined := g.joined }
      writeAll d .n32 (BitVec.ofNat 64 g.joined) e lns (setSquad (setGroup (leaveGroup (bump { d1 with groups := fput d1.groups d1.fresh g' }) e.sq) d1.fresh
        fun g => memberJoin g e.sq) e.sq fun s => { s with group := d1.fresh, arr := [], gpidx := BitVec.ofNat 32 g'.idx })) ∧
  (∀ h d cnt key, RunsGathered (.gjoin h d cnt key) none detBar
    (fun e lns dv => let n := readN32 e (lns.headD 0) cnt
      e.g.members.any (· != e.sq) = false ∧ 1 ≤ n ∧ n ≤ 576 ∧ findKey dv e.g (readN32 e (lns.headD 0) key) = none ∧ (scAlloc dv e.g.cluster e.s.kern.scr).isSome = true)
    fun e lns dv => let g := joinGroup dv e (readN32 e (lns.headD 0) cnt) (readN32 e (lns.headD 0) key)
      writeAll d .n32 0 e lns (setSquad (setGroup (leaveGroup (bump { dv with groups := fput dv.groups dv.fresh g }) e.sq) dv.fresh
        fun g => memberJoin g e.sq) e.sq fun s => { s with group := dv.fresh, arr := [], gpidx := BitVec.ofNat 32 g.idx })) ∧
  (∀ h, RunsGathered (.gleave h) none detBar (fun _ _ _ => True) fun e lns dv => advanceAll (newGroup (leaveGroup dv e.sq) e.sq
    { item := e.g.item, idx := e.g.idx, unif := e.s.kern.unif, scr := 0, base := some 0, cluster := e.g.cluster, upper := e.g.upper, kh := e.g.kh, asid := e.g.asid, vmid := e.g.vmid }) e.sq lns) ∧
  (∀ h b, RunsGathered (.garv h b) none noChk (fun e _ dv => barBusy (immOf b) e dv = false ∧ quiet dv (squadClock dv e.sq) = true)
    fun e lns dv => advanceAll (barArrive (immOf b) e lns dv) e.sq lns) ∧
  (∀ h b, RunsGathered (.gwait h b) none noChk (fun e _ dv => barBusy (immOf b) e dv = false ∧ (fget (squadOf dv e.sq).arr (immOf b)).isSome = true)
    fun e lns dv => detPass (barReturn (immOf b) e lns dv) e.sq) ∧
  (∀ h b, RunsGathered (.gwait h b) none noChk (fun e _ dv => fget (squadOf dv e.sq).arr (immOf b) = none)
    fun e lns dv => detPass (advanceAll dv e.sq lns) e.sq) ∧
  (∀ h b, RunsGathered (.gbar h b) none noChk
    (fun e _ dv => (squadOf dv e.sq).form = none ∧ barBusy (immOf b) e dv = false ∧ quiet dv (squadClock dv e.sq) = true)
    fun e lns dv => gwaitDone (immOf b) e lns (setSquad (barArrive (immOf b) e lns dv) e.sq fun s =>
      { s with form := some (.arrived e.pc (immOf b) ((groupOf dv e.s.group).bar (immOf b)).phase) })) ∧
  (∀ h tk, RunsGathered (.tkwait h tk) none noChk (fun e _ dv => ticketOpen dv e.g (immOf tk) = true)
    fun e lns dv => ticketReturn (immOf tk) e lns dv) ∧
  (∀ h tk, RunsGathered (.tkpass h tk) none noChk
    (fun e _ dv => (groupOf dv e.s.group).ticketed = true ∧ shas (groupOf dv e.s.group).passed (immOf tk) = true)
    fun e lns dv => advanceAll dv e.sq lns) ∧
  (∀ h tk i, RunsGathered (.tkpass h tk) none noChk
    (fun e _ dv => let g := groupOf dv e.s.group
      g.ticketed = true ∧ shas g.passed (immOf tk) = false ∧ g.item = some i ∧ ticketOpen dv g (immOf tk) = true ∧ quiet dv (squadClock dv e.sq) = true)
    fun e lns dv =>
      let d2 := ticketTake (immOf tk) e lns (publish dv (squadClock dv e.sq) .dev)
      endEpochs (setTicket (setGroup d2 e.s.group fun g => { g with passed := sadd g.passed (immOf tk) }) i (immOf tk) fun k =>
        { k with ctr := (groupOf dv e.s.group).idx + 1, vc := vcJoin k.vc (squadClock d2 e.sq) }) e.sq lns)

/-- R109, R110, R123: an arrival is recorded with its phase; when every expected squad of a barrier has arrived, its phase advances by one with no arrival, and the uniform epoch of the group ends; till then the phase stands; no other
barrier changes. -/
def Obligations.BarriersComplete : Prop :=
  ∀ (b : Nat) (e : Env) (lns : List Nat) (d : Dev) (g : Group), fget d.groups e.s.group = some g → (fget d.squads e.sq).isSome = true →
    let all := ∀ m ∈ g.expected b, m = e.sq ∨ shas (g.bar b).arr m = true
    let d' := barArrive b e lns d
    let g' := groupOf d' e.s.group
    fget (squadOf d' e.sq).arr b = some (g.bar b).phase ∧
    (all → (g'.bar b).phase = (g.bar b).phase + 1 ∧ (g'.bar b).arr = [] ∧ g'.wold = [] ∧ g'.wwriter = []) ∧
    (¬ all → (g'.bar b).phase = (g.bar b).phase ∧ shas (g'.bar b).arr e.sq = true ∧ g'.wold = g.wold) ∧
    (∀ c, c ≠ b → g'.bar c = g.bar c) ∧ g'.w = g.w ∧ g'.members = g.members ∧ ((∀ p ∈ d.l1, p.2.dirty = 0) → d'.mem = d.mem) ∧ d'.scratch = d.scratch

/-- R194 to R203: BERTH reads its record and writes its status and handle; UNBERTH of a berth that the group holds releases it and, the last, ends it; where its unit has room, MMA, MMAD, MZERO and LMM send their command under the next
number of their timeline and go on. A BERTH whose status is 2 or more changes nothing; 0 makes the berth of its slot live with the record and this group alone; 1 adds the group.
That reserved bits of a BERTH record give status 3 is a reading (log 20). -/
def Obligations.MatrixFormsComplete : Prop :=
  (∀ h d va, RunsLanes (.berth h d va) (fun dv e ln => recordChk 64 64 (readN64 e ln va) dv e ln) (fun _ _ _ => True) fun e dv ln =>
    let b := makeBerth (cmdRead dv e ln (readN64 e ln va) 64).1 (e.core / 7) e.s.group (cmdRead dv e ln (readN64 e ln va) 64).2
    setSquad b.1 e.sq fun s => (s.write ln d .n64 (BitVec.ofNat 64 b.2)).setLane ln Lane.advance) ∧
  (∀ h hd, RunsLanes (.unberth h hd)
    (fun dv e ln => if (heldBerth dv (e.core / 7) e.s.group (readN32 e ln hd)).isSome then .ok else .bad 5 0x13 (tvAddr (readN32 e ln hd)))
    (fun e dv ln => (heldBerth dv (e.core / 7) e.s.group (readN32 e ln hd)).isSome = true)
    fun e dv ln => let i := readN32 e ln hd % 256
      advanceAll (endBerth (setBerth dv (e.core / 7) i fun b => b.release e.s.group) (e.core / 7) i) e.sq [ln]) ∧
  (∀ h v tl c a b, let k := fun e ln => CmdKind.mma false 0 (readN32 e ln c) (readN32 e ln a) (readN32 e ln b)
    RunsLanes (.mma h v tl c a b) (matrixLaneChk k noPreChk) (fun e dv ln => matrixFull dv e.core (k e ln) = false)
      fun e dv ln => afterIssue .none 0 e ln (addMatrix dv (mkCmd dv e ln (k e ln)) (tlOf v tl))) ∧
  (∀ h v tl d a b c, let k := fun e ln => CmdKind.mma true (readN32 e ln d) (readN32 e ln c) (readN32 e ln a) (readN32 e ln b)
    RunsLanes (.mmad h v tl d a b c) (matrixLaneChk k noPreChk) (fun e dv ln => matrixFull dv e.core (k e ln) = false)
      fun e dv ln => afterIssue .none 0 e ln (addMatrix dv (mkCmd dv e ln (k e ln)) (tlOf v tl))) ∧
  (∀ h v tl m c, let k := fun e ln => CmdKind.mzero (readN32 e ln c) (if m then 1 else 0)
    RunsLanes (.mzero h v tl m c) (matrixLaneChk k noPreChk) (fun e dv ln => matrixFull dv e.core (k e ln) = false)
      fun e dv ln => afterIssue .none 0 e ln (addMatrix dv (mkCmd dv e ln (k e ln)) (tlOf v tl))) ∧
  (∀ h v tl c p, RunsLanes (.lmm h v tl c p) (matrixLaneChk (lmmKind c p) (lmmPre c p)) (fun e dv ln => matrixFull dv e.core (lmmKind c p e ln) = false)
      fun e dv ln => afterIssue .none 0 e ln (addMatrix dv (mkCmd dv e ln (lmmKind c p e ln)) (tlOf v tl))) ∧
  (∀ (d : Dev) (cl gid : Nat) (r : List Byte),
    let st := (berthStatus d cl r).1
    let i := (berthStatus d cl r).2.1
    let d' := (makeBerth d cl gid r).1
    (2 ≤ st → makeBerth d cl gid r = (d, st * 2 ^ 32)) ∧
    (st < 2 → (makeBerth d cl gid r).2 = berthHandle (berthOf d cl i) i + st * 2 ^ 32 ∧ (berthOf d' cl i).state = .live ∧ (berthOf d' cl i).record = r ∧
      (berthOf d' cl i).gen = (berthOf d cl i).gen ∧ (∀ j, j ≠ i → berthOf d' cl j = berthOf d cl j) ∧ d'.mem = d.mem) ∧
    (st = 0 → (berthOf d' cl i).holders = [gid]) ∧ (st = 1 → shas (berthOf d' cl i).holders gid = true))

/-- R198, R200, R202, R346, R347, R355, R356: a berth that is ending and that no command names becomes free with its generation advanced; an array with nothing running takes the first command of its queue whose accesses are performed: an MZERO is done
whole, a multiplication begins; a K-block adds its sums to the tile, the last one completes the command; a pass of an LMM, whose slices of A and B were read at its start, does so on a dot array; one not begun begins unless an SMPN pass is ready and the LMM has not
waited its limit.
That a K-block is one step is the model's form (log 35). -/
def Obligations.MatrixEventsComplete : Prop :=
  (∀ (s : State) (cl i : Nat), (berthOf s.dev cl i).state = .ending → berthBusy s.dev cl i = false →
    exec (.berthEnd cl i) s = .next { s with dev := setBerth (zeroBerth s.dev cl (berthOf s.dev cl i).record) cl i fun b => { gen := nextGen b.gen } }) ∧
  (∀ (s : State) (cl arr i off n : Nat) (c : Cmd), unitRunning s.dev (arrayQueue s.dev cl arr) = none →
    (runnable s.dev (arrayQueue s.dev cl arr)).head? = some (i, c) → (groupOf s.dev c.grp).killed = false → quiet s.dev c.vc = true → c.kind = .mzero off n →
    exec (.matrixCommandStart cl arr) s = .next { s with dev := finishMatrix (scWrite (publish s.dev c.vc .dev) (groupOf s.dev c.grp) off (List.replicate tileLen (some 0))) i false }) ∧
  (∀ (s : State) (cl arr i dO cO ha hb : Nat) (m : Bool) (c : Cmd), unitRunning s.dev (arrayQueue s.dev cl arr) = none →
    (runnable s.dev (arrayQueue s.dev cl arr)).head? = some (i, c) → (groupOf s.dev c.grp).killed = false → quiet s.dev c.vc = true → c.kind = .mma m dO cO ha hb →
    let d := publish s.dev c.vc .dev
    let g := groupOf s.dev c.grp
    exec (.matrixCommandStart cl arr) s = .next { s with dev := setCmd (if m = true ∧ dO ≠ cO then tileCopy d (scPlace g cO) (scPlace g dO) else d) i fun c => { c with state := .running 0 } }) ∧
  (∀ (s : State) (cl arr i dO cO ha hb : Nat) (m : Bool) (c : Cmd) (d' : Dev), unitRunning s.dev (arrayQueue s.dev cl arr) = some (i, c) → c.kind = .mma m dO cO ha hb →
    (groupOf s.dev c.grp).killed = false →
    let a := (berthOf s.dev cl (ha % 256)).record
    let b := (berthOf s.dev cl (hb % 256)).record
    let lo := c.pos * kbLen a
    let hi := min (brK a) (lo + kbLen a)
    let ks := (upto (hi - lo)).map (lo + ·)
    berthPoison s.dev cl a (ks.map (mapped b)) = false → berthPoison s.dev cl b (ks.map (mapped a)) = false →
    tileAdd s.dev (scPlace (groupOf s.dev c.grp) (if m then dO else cO)) 65536 (fun w => kbSum s.dev cl a b lo hi (w / 256) (w % 256)) = (d', none) →
    exec (.matrixKblockComplete cl arr .none) s = .next { s with dev := if brK a ≤ hi then finishMatrix d' i false else setCmd d' i fun c => { c with state := .running (c.pos + 1) } }) ∧
  (∀ (s : State) (core i : Nat) (c : Cmd), lmmHead s.dev core = some (i, c) → c.inPass = true →
    exec (.lmmPassComplete core .none) s = .next { s with dev := lmmEnd (setSampler s.dev core fun x => { x with lmmWait := false }) i c .none }) ∧
  (∀ (s : State) (core i : Nat) (c c1 : Cmd), lmmHead s.dev core = some (i, c) → c.inPass = false →
    smpnReady s.dev core = false ∨ (samplerOf s.dev core).lmmWait = true → lmmHead (lmmStart s.dev i c) core = some (i, c1) → c1.inPass = true →
    exec (.lmmPassComplete core .none) s = .next { s with dev := lmmEnd (setSampler (lmmStart s.dev i c) core fun x => { x with lmmWait := false }) i c1 .none }) ∧
  (∀ (s : State) (core : Nat), (lmmHead s.dev core).isSome = true →
    exec (.lmmWaitExpiry core) s = .next { s with dev := setSampler s.dev core fun x => { x with lmmWait := true } })

/-- R187, R188, R222, R223: QYSEND whose direction has room appends an entry with the participants' words and goes on; QYRECV takes the oldest entry, each lane its word; QYFREE writes both counts; an ENQ lane to a configured queue offers its item and
writes whether it was accepted; a DEQ on a configured worker queue ends the squad's task and waits, and one that has its item, whose limit has expired or whose queue aborts returns with q7 saying
which; one whose item met a single-writer violation traps with cause 0x0A.
Details of DEQ are read from several rules (log 27). -/
def Obligations.QueueFormsComplete : Prop :=
  (∀ h x port, RunsGathered (.qysend h x port) none (quayChk 5 port fun dv e => (quayOf dv (quayOut e.core (immOf port))).detSend)
    (fun e _ dv => let q := quayOf dv (quayOut e.core (immOf port))
      q.entries.length < 64 ∧ q.spilled = 0 ∧ (quayUp (quayOut e.core (immOf port)) = true → (clusterOf dv (e.core / 7)).gate = .powered) ∧
      quiet dv (squadClock dv e.sq) = true)
    fun e lns dv =>
      let k := quayOut e.core (immOf port)
      let d0 := setQuay dv k fun q => { q with detSend := takeSide e q.detSend }
      let opens := (quayOf d0 k).entries.isEmpty && openersGone d0 (quayOf d0 k)
      let c := squadClock d0 e.sq
      let d := setQuay (publish d0 c .dev) k fun q => { q with
        entries := q.entries ++ [{ words := quayEntry x e lns, vc := c }], openers := if opens then [e.sq] else sadd q.openers e.sq
        orphan := !opens && q.orphan }
      advanceAll (endEpochs d e.sq (fkeys (squadOf d e.sq).lanes)) e.sq lns) ∧
  (∀ h d port w t, RunsGathered (.qyrecv h d port) none (quayChk 4 port fun dv e => (quayOf dv (quayIn e.core (immOf port))).detRecv)
    (fun e _ dv => (quayOf dv (quayIn e.core (immOf port))).spilled = 0 ∧ (quayOf dv (quayIn e.core (immOf port))).entries = w :: t)
    fun e lns dv =>
      let k := quayIn e.core (immOf port)
      let d1 := setQuay (setQuay dv k fun q => { q with detRecv := takeSide e q.detRecv }) k fun q => { q with entries := t, recvBy := some e.sq }
      setSquad d1 e.sq fun s => lns.foldl (fun s ln =>
        (s.write ln d .n32 ((fgetD w.words ln 0).setWidth 64)).setLane ln fun l => (l.acquire w.vc dv.tick true).advance) s) ∧
  (∀ h d port, RunsTo (.qyfree h d port) (quayChk 4 port fun _ _ => []) fun e lns dv => writeAll d .n32
    (BitVec.ofNat 64 (64 - (quayOf dv (quayOut e.core (immOf port))).entries.length + 256 * (quayOf dv (quayIn e.core (immOf port))).entries.length)) e lns dv) ∧
  (∀ h d qn va, RunsLanes (.enq h d qn va) (enqChk qn va) (fun e dv ln => (openQueue dv e (readN32 e ln qn)).isSome = true)
    fun e dv ln =>
      let r := cmdRead dv e ln (readN64 e ln va) 64
      let p := offerItem (publish r.1 (issueClock e ln) .dev) ((openQueue dv e (readN32 e ln qn)).getD 0) (some (e.core / 7)) true r.2 (issueClock e ln)
      endEpochs (setSquad p.1 e.sq fun s => (s.write ln d .none (if p.2 then 1 else 0)).setLane ln Lane.advance) e.sq [ln]) ∧
  (∀ h tmo d qn k, RunsGathered (.deq h tmo d qn) none noChk
    (fun e lns dv => (squadOf dv e.sq).form = none ∧ openQueue (endTask dv e.sq) e (readN32 e (lns.headD 0) qn) = some k ∧
      (queueOf (endTask dv e.sq) k).d.mode = 0 ∧ (queueOf (endTask dv e.sq) k).d.enable ≠ 3)
    fun e lns dv =>
      let c := clusterOf (endTask dv e.sq) (e.core / 7)
      let d1 := setCluster (endTask dv e.sq) (e.core / 7) fun c => { c with queueOrder := c.queueOrder + 1 }
      parkLanes (setSquad d1 e.sq fun s => { s with form := some (.deqWait e.pc k c.etime (deqLimit tmo) c.queueOrder (wIdx d)) }) e.sq (.park .item) lns) ∧
  (∀ h tmo d qn got pc was, RunsGathered (.deq h tmo d qn) none noChk
    (fun e _ dv => e.pc = pc ∧ (squadOf dv e.sq).form = some (.deqDone pc got was)) fun e lns dv => deqReturn got e lns dv) ∧
  (∀ h tmo d qn reg pc, RunsGathered (.deq h tmo d qn) none noChk
    (fun e _ dv => e.pc = pc ∧ (squadOf dv e.sq).form = some (.deqBad pc reg))
    fun e lns dv => trapAll (setSquad dv e.sq fun s => { s with form := none }) e.sq (lns.map fun ln => (ln, 0x0A, BitVec.ofNat 64 reg))) ∧
  (∀ h tmo d qn k since lim n w pc, RunsGathered (.deq h tmo d qn) none noChk
    (fun e _ dv => e.pc = pc ∧ (squadOf dv e.sq).form = some (.deqWait pc k since lim n w) ∧ deqOver dv (e.core / 7) k since lim = true)
    fun e lns dv => deqReturn false e lns dv) ∧
  (∀ (d : Dev) (k : Nat) (src : Option Nat) (whole : Bool) (bs : List Byte) (vc : Clock), let p := offerItem d k src whole bs vc
    let q := queueOf p.1 k
    (offerReason d k src whole bs = 0 → p.2 = true ∧ q.accepted = (queueOf d k).accepted + 1 ∧ q.rejected = (queueOf d k).rejected ∧
      ∃ it, fget p.1.items d.fresh = some it ∧ it.bytes = bs ∧ it.seq = q.accepted ∧ it.vc = vc) ∧
    (offerReason d k src whole bs ≠ 0 → p.2 = false ∧ q.rejected = (queueOf d k).rejected + 1 ∧ q.accepted = (queueOf d k).accepted ∧ p.1.items = d.items ∧
      p.1.shards = d.shards))

/-- R381 to R388, R391, R392, R442: an aperture write offers its item, one for no valid entry is dropped; an item at the head of its shard that is admitted goes to the first waiting DEQ, whose sixteen registers take it unless the single-writer rule forbids one; a DEQ's limit expires; a group is placed when its kernel is
present and cores, scratchpad, pool slots and admission allow; a kernel's descriptor is loaded; an interval starts at 2,000 ns with nothing admitted; a shard gives at most half its excess to a neighbour; a quantum stops its item; a stopped item
all of whose squads have acknowledged is collected.
Which queue is served, and the details of logs 26 to 29, are the model's choices and readings. -/
def Obligations.LaunchEventsComplete : Prop :=
  (∀ (s : State) (en q : Nat) (whole : Bool) (bs : List Byte),
    ((astAt s.dev en).isSome = true → q < 256 →
      exec (.apertureWrite en q whole bs) s = .next { s with dev := (offerItem s.dev (en * 256 + q) none (whole && bs.length == 64) bs s.dev.host.vc).1 }) ∧
    (astAt s.dev en = none ∨ 256 ≤ q → exec (.apertureWrite en q whole bs) s = .next s)) ∧
  (∀ (s : State) (cl k u : Nat) (e : Shard) (pc : Pc) (k2 t l o dst : Nat), (queueOf s.dev k).d.enable = 1 → (clusterOf s.dev cl).fatal = false →
    firstWaiter s.dev cl k = some u → firstItem s.dev k cl = some e → (squadOf s.dev u).form = some (.deqWait pc k2 t l o dst) → (fget s.dev.squads u).isSome = true →
    (fget s.dev.items e.item).isSome = true → wChk (squadOf s.dev u).group u s.dev ((upto 16).map (dst + ·)) = .ok →
    admits s.power cl (clusterOf s.dev cl) (itemOf s.dev e.item).energy (itemOf s.dev e.item).peak = true →
    ∃ x, exec (.deqItemDelivery cl k) s = .next x ∧ x.power = s.power ∧ (∃ was, (squadOf x.dev u).form = some (.deqDone pc true was)) ∧
      (squadOf x.dev u).deqTask = some (cl, (itemOf s.dev e.item).peak) ∧ (itemOf x.dev e.item).runner = some u ∧
      (itemOf x.dev e.item).bytes = (itemOf s.dev e.item).bytes ∧ (clusterOf x.dev cl).e = (clusterOf s.dev cl).inInterval.e + (itemOf s.dev e.item).energy ∧
      (∀ j m, (squadOf x.dev u).v j m = (squadOf s.dev u).v j m) ∧
      ((fget s.dev.groups (squadOf s.dev u).group).isSome = true → ∀ j, j < 16 →
        (groupOf x.dev (squadOf s.dev u).group).wFor u (dst + j) = BitVec.ofNat 32 (fieldAt (itemOf s.dev e.item).bytes (4 * j) 4))) ∧
  (∀ (s : State) (cl k u lv : Nat) (e : Shard) (pc : Pc) (k2 t l o dst : Nat) (c : Cause) (tv : DWord), (queueOf s.dev k).d.enable = 1 → (clusterOf s.dev cl).fatal = false →
    firstWaiter s.dev cl k = some u → firstItem s.dev k cl = some e → (squadOf s.dev u).form = some (.deqWait pc k2 t l o dst) → (squadOf s.dev u).core % 7 ≠ 6 →
    wChk (squadOf s.dev u).group u s.dev ((upto 16).map (dst + ·)) = .bad lv c tv →
    admits s.power cl (clusterOf s.dev cl) (itemOf s.dev e.item).energy (itemOf s.dev e.item).peak = true →
    exec (.deqItemDelivery cl k) s = .next { s with dev := setSquad s.dev u fun q => { q with form := some (.deqBad pc tv.toNat) } }) ∧
  (∀ (s : State) (u since lim k n w : Nat) (pc : Pc), (squadOf s.dev u).form = some (.deqWait pc k since lim n w) → lim ≠ 0 →
    since + lim ≤ (clusterOf s.dev ((squadOf s.dev u).core / 7)).etime → (squadOf s.dev u).core % 7 ≠ 6 →
    exec (.deqTimeout u) s = .next { s with dev := setSquad s.dev u fun q => { q with form := some (.deqDone pc false []) } }) ∧
  (∀ (s : State) (cl k : Nat), (clusterOf s.dev cl).fatal = false → (clusterOf s.dev cl).loading = none →
    (queuesAt s.dev cl).filter (fun k => ((queueOf s.dev k).d.mode != 0 || (frontOf s.dev k cl).any (·.begun)) && (queueOf s.dev k).d.ok && (queueOf s.dev k).d.enable == 1) = [k] →
    exec (.groupPlacement cl) s = .next { s with dev := launchNext s.power s.dev cl k }) ∧
  (∀ (p : Power) (d : Dev) (cl k base : Nat) (e : Shard) (ast : AstEntry) (kern : Kern) (cores : List Nat), let it := itemOf d e.item
    (queueOf d k).d.mode = 1 → coresFor kern.ext it.gsq ((launchCores cl 1).map fun c => (c, freeSlots d c, (coreOf d c).xpool)) = some cores →
    scAlloc d cl kern.scr = some base → it.gsq ≤ (freePool (queueOf d k) it.gsq).length → admits p cl (clusterOf d cl) it.energy it.peak = true →
    rowsFree d cores = true →
    ∃ g, fget (placeNextGroup p d cl k e ast kern).groups d.fresh = some g ∧ g.item = some e.item ∧ g.idx = e.next ∧ g.cap = it.gsq ∧ g.base = some base ∧ g.cluster = cl ∧
      g.members.length = it.gsq) ∧
  (∀ (s : State) (cl i : Nat) (it : Item) (ast : AstEntry) (bs : List Byte) (d' : Dev) (m : FMap (Kern × Nat)), (clusterOf s.dev cl).loading = some i → fget s.dev.items i = some it →
    astAt s.dev it.entry = some ast → readNow s.dev (168 + cl) ast.vmid ast.asid it.khandle 64 false = (d', .ok bs) → kernOk bs = true → kernRoom d' cl = some m →
    let d2 := setCluster (setCluster d' cl fun c => { c with loading := none }) cl fun c => { c with kernels := fput m it.khandle (kernOf bs, s.dev.tick) }
    exec (.kernelLoadComplete cl) s = .next { s with dev := settleItem (blackBox d2 cl 0xA 7 (BitVec.ofNat 64 (it.khandle % 2 ^ 54))) i true }) ∧
  (∀ (s : State) (cl : Nat), (clusterOf s.dev cl).eStart + 2000 ≤ (clusterOf s.dev cl).etime →
    exec (.admissionInterval cl) s = .next { s with dev := setCluster s.dev cl fun c => { c with e := 0, eStart := c.etime / 2000 * 2000 } }) ∧
  (∀ (s : State) (c : Nat), exec (.queueBalancing c) s = .next { s with dev := (queuesAt s.dev c).foldl (fun d k => balanceWith c (balanceWith c d (k, (c + 1) % 24)) (k, (c + 23) % 24)) s.dev }) ∧
  (∀ (d : Dev) (c k n : Nat), c < 24 → n < 24 → c ≠ n → (shardOf d k c).Nodup →
    let d' := balanceWith c d (k, n)
    (shardOf d' k c).length + (shardOf d' k n).length = (shardOf d k c).length + (shardOf d k n).length ∧
      (shardOf d k c).length - (shardOf d' k c).length ≤ ((heldEntries d k c).length - (heldEntries d k n).length) / 2 ∧
      (∀ e ∈ shardOf d k c, movable d e = false → e ∈ shardOf d' k c) ∧
      ((heldEntries d k c).length - (heldEntries d k n).length ≤ (clusterOf d c).balthr.toNat → d' = d)) ∧
  (∀ (s : State) (i cl t : Nat) (it : Item), fget s.dev.items i = some it → fget it.firstAt cl = some t → (queueOf s.dev it.qk).d.qflags.getLsbD 1 = true →
    (queueOf s.dev it.qk).d.quantum ≠ 0 → it.haltedAt cl = false → t + 1000 * (queueOf s.dev it.qk).d.quantum ≤ (clusterOf s.dev cl).etime → (clusterOf s.dev cl).loading = none →
    shas (itemClusters s.dev i) cl = true → blockedFor s.dev cl i = true →
    exec (.quantumExpiry i cl) s = .next { s with dev := addCause s.dev i [cl] fun it => { it with quant := sadd it.quant cl } }) ∧
  (∀ (s : State) (i : Nat), (itemOf s.dev i).stopping.isEmpty = false → acknowledged s.dev i = true →
    exec (.preemptionCollected i) s = .next { s with dev := collectItem s.dev i })

/-- R207 to R215, R218 to R220, R331, R332: where its core's queue can take them, a sampler form sends a request for each quad of its bundle (SMP and SMPS once a quad's lanes have arrived together), WCPIN and WCUNP one for each lane, and the lanes wait
for it; HDRINV goes to all 168 samplers and its lane goes on; RAYBOX and RAYTRI read their record at `.l1` and write the hit and its distance.
Ray results that the spec does not state are free values (log 12). -/
def Obligations.SamplerFormsComplete : Prop :=
  (∀ q h d hdr crd, RunsGathered (.smp h d hdr crd) (some (16 + q)) (hdrChk hdr) (fun e _ dv => queued dv e.core < 256)
    fun e lns dv => startReq dv e .smp d hdr lns fun ln => readBlock e ln crd 3) ∧
  (∀ q h d hdr crd seed, RunsGathered (.smps h d hdr crd seed) (some (16 + q)) (hdrChk hdr) (fun e _ dv => queued dv e.core < 256)
    fun e lns dv => startReq dv e .smps d hdr lns fun ln => readBlock e ln crd 3 ++ readBlock e ln seed 3) ∧
  (∀ h d hdr crd lod, RunsWhen (.smpl h d hdr crd lod) (hdrChk hdr) (fun e lns dv => queued dv e.core + (quadsOf lns).length ≤ 256)
    fun e lns dv => (quadsOf lns).foldl (fun dv q => startReq dv e .smpl d hdr (inQuad q lns) fun ln => readBlock e ln crd 3 ++ [BitVec.ofNat 32 (readN32 e ln lod)]) dv) ∧
  (∀ h d hdr crd ch, RunsWhen (.smpg h d hdr crd ch) (hdrChk hdr) (fun e lns dv => queued dv e.core + (quadsOf lns).length ≤ 256)
    fun e lns dv => (quadsOf lns).foldl (fun dv q => startReq dv e (.smpg (tlIdx ch)) d hdr (inQuad q lns) fun ln => readBlock e ln crd 3) dv) ∧
  (∀ h d hdr crd, RunsWhen (.smpn h d hdr crd) (hdrChk hdr) (fun e lns dv => queued dv e.core + (quadsOf lns).length ≤ 256)
    fun e lns dv => (quadsOf lns).foldl (fun dv q => startReq dv e .smpn d hdr (inQuad q lns) fun ln => readBlock e ln crd 2) dv) ∧
  (∀ h d hdr, RunsTo (.wcpin h d hdr) (hdrChk hdr) fun e lns dv => lns.foldl (fun dv ln => startReq dv e .pin d hdr [ln] fun _ => []) dv) ∧
  (∀ h hdr, RunsTo (.wcunp h hdr) (hdrChk hdr) fun e lns dv => lns.foldl (fun dv ln => startReq dv e .unpin .none hdr [ln] fun _ => []) dv) ∧
  (∀ h hdr, RunsLanes (.hdrinv h hdr) (hdrinvChk hdr) (fun _ _ _ => True) fun e dv ln =>
    let k := hdrKey (coreOf dv e.core).vmid e.s.asid (readN64 e ln hdr)
    afterIssue .none 0 e ln (addCmd dv (mkCmd dv e ln (.hdrinv k (upto 168))) none)) ∧
  (∀ h d ray node, RunsLanes (.raybox h d ray node) (fun dv e ln => rangeChk true .l1 96 32 (readN64 e ln node) dv e ln) (fun _ _ _ => True) fun e dv ln =>
    let r := rangeRead true .l1 dv e ln (readN64 e ln node) 96
    let lim := fun (j : Nat) => ((readBlock e ln ray 8).getD j 0).setWidth 64
    setSquad r.1 e.sq fun s => (s.writeBlock ln d (rayboxOut ((upto 4).map fun j => (j, boxHit r.1 ln j r.2 (rayFV e ln ray) (lim 3) (lim 7))))).setLane ln Lane.advance) ∧
  (∀ h c d ray tri, RunsLanes (.raytri h c d ray tri) (fun dv e ln => rangeChk true .l1 36 4 (readN64 e ln tri) dv e ln) (fun _ _ _ => True) fun e dv ln =>
    let r := rangeRead true .l1 dv e ln (readN64 e ln tri) 36
    setSquad r.1 e.sq fun s => (s.writeBlock ln d (raytriOut r.1 ln c (rayFV e ln ray) r.2)).setLane ln Lane.advance) ∧
  (∀ (d : Dev) (e : Env) (kind : SKind) (dst hdr : Opnd) (lns : List Nat) (input : Nat → List Word),
    fget (samplerOf d e.core).hdrs (hdrKey (coreOf d e.core).vmid e.s.asid (readN64 e (lns.headD 0) hdr)) = none → (fget d.squads e.sq).isSome = true →
    (∀ ln ∈ lns, (fget (squadOf d e.sq).lanes ln).isSome = true) → lns.Nodup →
    let d' := startReq d e kind dst hdr lns input
    d'.mem = d.mem ∧ d'.l2 = d.l2 ∧ d'.scratch = d.scratch ∧ (∀ ln ∈ lns, (laneOf d' e.sq ln).wait = .sample d.fresh) ∧
    (∀ i j, (squadOf d' e.sq).v i j = (squadOf d e.sq).v i j) ∧ ∃ r, fget d'.reqs d.fresh = some r ∧ r.kind = kind ∧ r.sq = e.sq ∧ r.held = true ∧ fkeys r.lanes = lns)

/-- R210, R213, R214, R326, R332 to R337, R401: a header read gives the requests that wait for it the header, its parts as they were read; a line or a weight range that arrives serves them and is kept; once every fetch of a
request has ended its lanes go on, or take the cause their fetches met; a quad then writes its result in each lane that went on; an HDRINV that every sampler has acted on completes, one whose accesses are performed drops the header and what was fetched under
it; a gated step whose turn it is is performed.
When the lanes go on, and replacement by the step of last use, are the model's form (log 34). -/
def Obligations.SamplerEventsComplete : Prop :=
  (∀ (s : State) (core hdr i : Nat) (r : SReq) (d' : Dev) (now : List Byte), reqsUnder s.dev core hdr (fun r => r.copy.isNone) = [(i, r)] →
    smpRead (setParts s.dev core hdr []) core r.user hdr (keyVa hdr) 64 = (d', .ok now) →
    let bs := headerBytes (fgetD (samplerOf s.dev core).hreads hdr []) now
    exec (.samplerHeaderReadComplete core hdr .none) s = .next { s with dev := gotHeader (keepHdr d' core hdr bs) i bs }) ∧
  (∀ (s : State) (core hdr line i : Nat) (r : SReq) (f : LFill) (d' : Dev) (bs : List Byte),
    (samplerOf s.dev core).fills.find? (fun f => f.hdr == hdr && f.line == line) = some f → f.stale = false →
    let d1 := setSampler s.dev core fun x => { x with fills := x.fills.erase f }
    reqsUnder d1 core hdr (fun r => r.need.contains line && !r.hasLine line) = [(i, r)] → smpRead d1 core r.user hdr (128 * line) 128 = (d', .ok bs) →
    let d2 := setSampler d' core fun x => { x with lines := fput x.lines hdr (fput (fgetD x.lines hdr []) line ⟨bs, d'.tick⟩) }
    exec (.texelFillComplete core hdr line .none) s = .next { s with dev := retryReqs (setReq d2 i fun r => { r with lines := fput r.lines line bs }) core }) ∧
  (∀ (s : State) (core k i : Nat) (w : WEntry) (r : SReq) (d' : Dev) (now : List Byte), fget (samplerOf s.dev core).weights k = some w → w.filling = true → w.stale = false →
    fillWaiters s.dev core k = [(i, r)] → r.kind ≠ .pin → smpRead s.dev core w.user w.hdr (hdWbase w.copy) (weightLen w.copy) = (d', .ok now) →
    let bs := weightBytes w now
    let d2 := setSampler d' core fun x => { x with weights := fmod x.weights k fun w => { w with bytes := some bs, got := [], used := s.dev.tick } }
    exec (.weightFillComplete core k .none) s = .next { s with dev := retryReqs (setReq d2 i fun r => { r with entry := none, wts := some bs }) core }) ∧
  (∀ (d : Dev) (i : Nat) (r : SReq) (b : List Byte), fget d.reqs i = some r → r.copy = some b → r.held = true → r.done = true → r.kind ≠ .pin → fkeys r.lanes ≠ [] →
    (squadOf d r.sq).dbg = false →
    ((∀ ln ∈ fkeys r.lanes, laneCause r b ln = none) → releaseReq d i = settle (setSquad
      (setReq d i fun r => { r with held := false, outs := fkeys r.lanes, claims := r.claims.filter fun p => (fkeys r.lanes).contains p.1 }) r.sq fun s =>
        ((fkeys r.lanes).filter fun ln => (reqLanes d i r).contains ln || (fget s.lanes ln).isNone).foldl Squad.goOn s) r.sq) ∧
    ((∀ ln ∈ fkeys r.lanes, (laneCause r b ln).isSome = true) → releaseReq d i = settle ((reqLanes d i r).foldl (fun d ln => match laneCause r b ln with
      | some (c, va) => trapAt d r.sq ln c (tvAddr va)
      | none => d) { d with reqs := fdel d.reqs i }) r.sq)) ∧
  (∀ (s : State) (i : Nat) (r : SReq) (b : List Byte), fget s.dev.reqs i = some r → r.copy = some b → r.held = false → (r.kind = .smpn → lmmFirst s.dev r.core = false) →
    let d1 := setSquad { s.dev with reqs := fdel s.dev.reqs i } r.sq fun q => r.outs.foldl (fun q ln =>
      q.writeBlock ln r.dst (if r.kind = .smpn then neuralOut r b (r.wts.getD []) ln else texOut r b ln)) q
    exec (.samplerQuadComplete i) s = .next { s with dev := retryReqs (settle (undoReq r r.outs (r.rows.foldl sadd []) false s.dev d1) r.sq) r.core }) ∧
  (∀ (s : State) (i h : Nat), (cmdOf s.dev i).kind = .hdrinv h [] → exec (.hdrinvComplete i) s = .next { s with dev := completeCmd s.dev i false }) ∧
  (∀ (d : Dev) (i h core : Nat) (todo : NSet) (c : Cmd), fget d.cmds i = some c → c.kind = .hdrinv h todo → shas todo core = true → quiet d c.vc = true →
    fget (samplerOf (hdrinvCore d i core) core).hdrs h = none ∧ fget (samplerOf (hdrinvCore d i core) core).lines h = none ∧
    (cmdOf (hdrinvCore d i core) i).kind = .hdrinv h (sdel todo core)) ∧
  (∀ (s : State) (i k : Nat) (a : Acc) (w : WatchSlot), fget s.dev.accs i = some a → a.gated = true → accReady s.dev i a = true → stepTurn s.dev i a = true →
    watchFor s.dev (squadOf s.dev a.sq) a.va = some (k, w) → w.mode = .play → gateAt w (squadOf s.dev a.sq).sqidx.toNat = .go →
    exec (.gatedStepRelease i) s = .next { s with dev := gatePass (passGate s.dev i a) k })

/-- R240 to R248, R250, R397 to R402: CTXNEW writes its status, and with status 0 makes a squad; CTXFREE, CTXPIN, SQACT, SQPARK and STEPB of no live context write 2; CTXPIN pins where fewer than 64 are pinned; SQACT of a Ready squad writes 1, of another it makes
it Ready; SQPARK of a squad that is in no core parks it; XACQ and XREL take and give back 32 rows; REGN begins a region; a TLBINV that nothing outstanding waits for returns with the entries gone and the steps that waited at a gate under them to be done anew; ORDCTL releases, does its op and writes its status.
The readings of logs 20, 30, 31 and 33 apply. -/
def Obligations.ContextFormsComplete : Prop :=
  (∀ h d ctx rec, RunsLanes (.ctxnew h d ctx rec) (ctxnewChk ctx rec)
    (fun e dv ln => recordStatus (recordRead dv e ln (readN64 e ln rec) 64).2 ((e.s.lane ln).mode == .h) ≠ 0)
    fun e dv ln => let p := recordRead dv e ln (readN64 e ln rec) 64
      putStatus d (recordStatus p.2 ((e.s.lane ln).mode == .h)) e ln p.1) ∧
  (∀ h d ctx rec, RunsLanes (.ctxnew h d ctx rec) (ctxnewChk ctx rec)
    (fun e dv ln => let p := recordRead dv e ln (readN64 e ln rec) 64
      let q := recordRead p.1 e ln (fieldAt p.2 0 8) 64
      recordStatus p.2 ((e.s.lane ln).mode == .h) = 0 ∧ ctxnewStatus q.1 (coreOf dv e.core).vmid p.2 q.2 (readN64 e ln ctx) = 0)
    fun e dv ln => let p := recordRead dv e ln (readN64 e ln rec) 64
      let q := recordRead p.1 e ln (fieldAt p.2 0 8) 64
      putStatus d 0 e ln (makeSquad q.1 e.core (coreOf dv e.core).vmid (readN64 e ln ctx) p.2 (kernOf q.2))) ∧
  (∀ (i : Instr) h d ctx n, i = .ctxfree h d ctx ∨ i = .ctxpinOn h d ctx ∨ i = .ctxpinOff h d ctx ∨ i = .sqact h d ctx ∨ (∃ b, i = .sqpark h b d ctx) ∨ i = .stepb h d ctx n →
    RunsLanes i (match i with | .stepb _ _ _ _ => stepbChk ctx | _ => ctxChk ctx) (fun e dv ln => ctxTarget dv e (readN64 e ln ctx) = none) fun e dv ln => putStatus d 2 e ln dv) ∧
  (∀ h d ctx u, RunsLanes (.ctxfree h d ctx) (ctxChk ctx) (fun e dv ln => ctxTarget dv e (readN64 e ln ctx) = some u ∧ (squadOf dv u).state = .ended ∧
      ((squadOf dv u).ending = true → l1Out dv u = false)) fun e dv ln => putStatus d 0 e ln (freeContext dv u)) ∧
  (∀ h d ctx u, RunsLanes (.ctxpinOn h d ctx) (ctxChk ctx)
    (fun e dv ln => ctxTarget dv e (readN64 e ln ctx) = some u ∧ (squadOf dv u).state ≠ .ended ∧ ((squadOf dv u).pin = true ∨ pinned dv (squadOf dv u).home < 64))
    fun e dv ln => putStatus d 0 e ln (setPin dv u true)) ∧
  (∀ h d ctx u, RunsLanes (.ctxpinOff h d ctx) (ctxChk ctx) (fun e dv ln => ctxTarget dv e (readN64 e ln ctx) = some u ∧ (squadOf dv u).state ≠ .ended)
    fun e dv ln => putStatus d 0 e ln (setPin dv u false)) ∧
  (∀ (d : Dev) (u : Nat) (on : Bool), (fget d.squads u).isSome = true → (squadOf (setPin d u on) u).pin = on ∧
    ((squadOf d u).onChip = false → ∀ pa, (ctxPage d (squadOf d u)).2 = some pa → (l2Byte (setPin d u on) (pa + 4)).getLsbD 3 = on)) ∧
  (∀ h d ctx u, RunsLanes (.sqact h d ctx) (ctxChk ctx)
    (fun e dv ln => ctxTarget dv e (readN64 e ln ctx) = some u ∧ ((squadOf dv u).state = .created ∨ (squadOf dv u).state = .held))
    fun e dv ln => putStatus d 0 e ln (makeReady dv u e.core)) ∧
  (∀ h d ctx u, RunsLanes (.sqact h d ctx) (ctxChk ctx) (fun e dv ln => ctxTarget dv e (readN64 e ln ctx) = some u ∧ (squadOf dv u).state = .ready)
    fun e dv ln => putStatus d 1 e ln dv) ∧
  (∀ h b d ctx u, RunsLanes (.sqpark h b d ctx) (ctxChk ctx)
    (fun e dv ln => ctxTarget dv e (readN64 e ln ctx) = some u ∧ ((squadOf dv u).state = .created ∨ (squadOf dv u).state = .ready ∧ (squadOf dv u).res = .out) ∧
      (b = true → l1Out dv u = false)) fun e dv ln => putStatus d 0 e ln (parkOut dv u b)) ∧
  (∀ h d ctx n u, RunsLanes (.stepb h d ctx n) (stepbChk ctx) (fun e dv ln => ctxTarget dv e (readN64 e ln ctx) = some u ∧ (squadOf dv u).state = .held)
    fun e dv ln => let r := stepBack dv u (readN32 e ln n)
      putStatus d (r.2.1 * 256 + r.2.2) e ln r.1) ∧
  (∀ h, RunsWhen (.xacq h) noChk (fun e _ dv => e.s.ext = false ∧ 32 ≤ (coreOf dv e.core).xpool ∧ extFirst dv e.sq = true)
    fun e lns dv => advanceAll (grantExt dv e.sq) e.sq lns) ∧
  (∀ (d : Dev) (u : Nat), (fget d.squads u).isSome = true → (squadOf d u).onChip = true → let d' := grantExt d u
    (squadOf d' u).ext = true ∧ (coreOf d' (squadOf d u).home).xpool = (coreOf d (squadOf d u).home).xpool - 32 ∧
      (∀ i ln, 32 ≤ i → (squadOf d' u).v i ln = 0) ∧ ∀ i ln, i < 32 → (squadOf d' u).v i ln = (squadOf d u).v i ln) ∧
  (∀ h, RunsWhen (.xrel h) xrelChk (fun e _ _ => e.s.ext = true) fun e lns dv =>
    advanceAll (setSquad (setCore dv e.core fun k => { k with xpool := k.xpool + 32 }) e.sq fun s => if s.ext then
      { s.clearExt with ext := false } else s) e.sq lns) ∧
  (∀ h, RunsTo (.regn h) regnChk fun e lns dv => setSquad dv e.sq fun s => lns.foldl (fun s ln => s.setLane ln fun l => { l.advance with rege := l.hdr, regc := l.regc + 1 }) s) ∧
  (∀ (i : Instr) h va idn (f : Env → Nat → Inv) chk,
    (i = .tlbinvVa h va idn ∧ chk = idChk 16 idn ∧ f = (fun e ln => .page (readN64 e ln va) (idOf 16 idn e ln))) ∨ (i = .tlbinvAsid h idn ∧ chk = idChk 16 idn ∧ f = (fun e ln => .space (idOf 16 idn e ln))) ∨
      (i = .tlbinvVm h idn ∧ chk = idChk 12 idn ∧ f = (fun e ln => .vm (idOf 12 idn e ln))) ∨ (i = .tlbinvAll h ∧ chk = noChk ∧ f = (fun _ _ => .all)) →
    RunsLanes i chk (fun e dv ln =>
      let d1 := regate { dv with tlb := dv.tlb.filter fun p => !(f e ln).hits (coreOf dv e.core).vmid p.2 } ((f e ln).used (coreOf dv e.core).vmid)
      (d1.accs.any fun p => (f e ln).used (coreOf dv e.core).vmid p.2) = false ∧ quiet d1 (issueClock e ln) = true) fun e dv ln =>
      let d1 := regate { dv with tlb := dv.tlb.filter fun p => !(f e ln).hits (coreOf dv e.core).vmid p.2 } ((f e ln).used (coreOf dv e.core).vmid)
      let d2 := if f e ln = .all then astRefresh d1 else d1
      let d3 := { d2 with cmds := d2.cmds.map fun p => (p.1, if p.2.isHalted then { p.2 with kick := true } else p.2) }
      advanceAll (endEpochs (publish d3 (issueClock e ln) .dev) e.sq [ln]) e.sq [ln]) ∧
  (∀ (i : Instr) h d va (op : List Byte → Dev → Env → Dev × Except Nat Nat),
    (i = .ordctlRec h d va ∧ op = withStatus (ordArm .record)) ∨ (i = .ordctlPlay h d va ∧ op = withStatus (ordArm .play)) ∨
      (i = .ordctlOff h d va ∧ op = withStatus fun bs dv _ => ordOff bs dv) ∨ (i = .ordctlChk h d va ∧ op = ordChkAct) →
    RunsLanes i (ordChk va)
      (fun e dv ln => let r := recordRead dv e ln (readN64 e ln va) 64
        ∃ d' st, op r.2 (endEpochs (publish r.1 (issueClock e ln) .dev) e.sq [ln]) e = (d', .ok st))
      fun e dv ln => let r := recordRead dv e ln (readN64 e ln va) 64
        let x := op r.2 (endEpochs (publish r.1 (issueClock e ln) .dev) e.sq [ln]) e
        putStatus d (match x.2 with | .ok st => st | .error _ => 0) e ln x.1)

/-- R262, R263, R266 to R269, R273, R274, R291, R363, R245: a fill that completes puts its row, read from the context, in the register file; a clean row leaves it, a dirty one is written back first; lanes whose fill is old park; the next squad is loaded
into a powered core with a free slot; one that has waited 2^20 ns is late; lanes whose event has occurred may issue; a parked squad begins to leave, and, its loads done, is out; four cycles pass on a core whose clock runs, which starts when there is
work; a waiting group takes its allocation, zeroed; a drained group is freed; a waiting squad takes its extended block.
The order of activation and the core of a launched squad are readings (logs 17, 22 and 23). -/
def Obligations.ResidencyEventsComplete : Prop :=
  (∀ (s : State) (u i t pa : Nat) (d' : Dev), let q := squadOf s.dev u
    fget q.fills i = some t → q.onChip = true → q.missing i = true → xlatNow s.dev q.core q.vmid q.asid (rowAddr q i) .rw false = (d', .ok pa) → rowsHeld d' q.core < 4096 →
    let bad := (upto 128).filter fun ln => poisoned d' (pa + 4 * ln)
    exec (.registerFillComplete u i .none) s = .next { s with dev := setSquad (setSquad d' u fun q => { q with
      rows := fput q.rows i { words := ctxRow d' pa 0, poison := bad }
      fillBad := (q.fillBad.filter fun p => (q.lane p.2.1).seq == p.2.2) ++ ((fgetD q.fillFor i []).filter bad.contains).map fun ln => (i, ln, (q.lane ln).seq) }) u fun q =>
        { q with fills := fdel q.fills i, fillFor := fdel q.fillFor i } }) ∧
  (∀ (s : State) (u i : Nat) (r : Row), fget (squadOf s.dev u).rows i = some r → (squadOf s.dev u).onChip = true → rowPending s.dev u i = false → r.dirty = false →
    exec (.registerRowEviction u i) s = .next { s with dev := setSquad s.dev u fun q => { q with rows := fdel q.rows i } }) ∧
  (∀ (s : State) (u i pa : Nat) (r : Row) (d' : Dev), fget (squadOf s.dev u).rows i = some r → (squadOf s.dev u).onChip = true → rowPending s.dev u i = false → r.dirty = true →
    ctxPage s.dev (squadOf s.dev u) = (d', some pa) →
    exec (.registerRowEviction u i) s = .next { s with dev := setSquad (writeBackRow d' pa i r) u fun q => { q with rows := fdel q.rows i } }) ∧
  (∀ (s : State) (u : Nat), ∃ t, exec (.fillParkTimeout u) s = .next t ∧ t.power = s.power ∧ t.dev.mem = s.dev.mem ∧
    (∀ ln l, fget (squadOf s.dev u).lanes ln = some l → laneOf t.dev u ln = { l with wait :=
      if l.wait = .hold then (match (squadOf s.dev u).fills.find? fun p =>
          decide (p.2 + 1024 < (coreOf s.dev (squadOf s.dev u).core).cyc) && stallsOn s.dev u ln p.1 with
        | some p => .park (.fill p.1)
        | none => .hold) else l.wait }) ∧
    ∀ i ln, (squadOf t.dev u).v i ln = (squadOf s.dev u).v i ln) ∧
  (∀ (s : State) (core u : Nat) (d' : Dev), (clusterOf s.dev (core / 7)).fatal = false → freeSlots s.dev core ≠ 0 → nextSquad s.dev core = some u →
    (clusterOf s.dev (core / 7)).gateOpen (core % 7) = true → loadContext (if (squadOf s.dev u).core = core then s.dev else leaveL1 s.dev u (l1Set (squadOf s.dev u))) u core = (d', .ok) →
    let d2 := settleClaims (setSquad (readKern (moveExt d' (squadOf s.dev u) core) u (squadOf s.dev u).kh) u fun q =>
      { q with res := .in_, late := false, awaits := [], unrun := false, fuse := q.fuse && core % 7 != 6, pin := q.pin && !decide (64 < pinned d' core) }) u
    exec (.squadActivation core) s = .next { s with dev := if l1Set (squadOf d2 u) = l1Set (squadOf s.dev u) then d2 else leaveL1 d2 u (l1Set (squadOf s.dev u)) }) ∧
  (∀ (s : State) (u : Nat), (squadOf s.dev u).state = .ready → (squadOf s.dev u).res = .out →
    (squadOf s.dev u).since + 1048576 ≤ (clusterOf s.dev ((squadOf s.dev u).home / 7)).etime →
    exec (.activationWaitTimeout u) s = .next { s with dev := setSquad s.dev u fun q => { q with late := true } }) ∧
  (∀ (s : State) (u : Nat), (squadOf s.dev u).state = .ready → (squadOf s.dev u).res = .in_ →
    exec (.parkedSquadWake u) s = .next { s with dev := holdLanes s.dev u .run ((fkeys (squadOf s.dev u).lanes).filter fun ln => match ((squadOf s.dev u).lane ln).wait with
      | .park a => awaitOver s.dev u a
      | _ => false) }) ∧
  (∀ (s : State) (core u : Nat) (q : Squad), s.dev.squads.filter (fun p => p.2.core == core && p.2.state == .ready && p.2.res == .in_ && p.2.stop == .none && !p.2.pin &&
      parkedNow s.dev p.1 && (ctxPage s.dev p.2).2.isSome) = [(u, q)] →
    exec (.squadDeactivation core) s = .next { s with dev := setSquad s.dev u fun q => { q with res := .writing } }) ∧
  (∀ (s : State) (u : Nat) (d' : Dev), (squadOf s.dev u).state ≠ .ended → loadsDone s.dev u = true → (squadOf s.dev u).stop = .none → (squadOf s.dev u).res = .writing →
    ((squadOf s.dev u).state = .held → l1Out s.dev u = false) →
    saveContext (if (squadOf s.dev u).state = .held then privWriteBack (loseWatches s.dev u) (squadOf s.dev u) else loseWatches s.dev u) u (squadOf s.dev u).state = (d', true) →
    exec (.deactivationComplete u) s = .next { s with dev := setSquad d' u fun q =>
      { q with state := (squadOf s.dev u).state, res := .out, stop := q.stop, since := (clusterOf d' (q.bound.getD q.core / 7)).etime, late := false } }) ∧
  (∀ (s : State) (core : Nat), (coreOf s.dev core).clock = true → canIssue s.dev core = true →
    ∃ t, exec (.bundleFormation core) s = .next t ∧ t.power = s.power ∧ t.dev.mem = s.dev.mem ∧ t.dev.squads = s.dev.squads ∧
      (coreOf t.dev core).cyc = (coreOf s.dev core).cyc + 4 ∧ (coreOf s.dev core).ctime + 4 * 4 * coreRatio s.power core ≤ (coreOf t.dev core).ctime ∧
      (coreOf t.dev core).ctime ≤ (coreOf s.dev core).ctime + 4 * 8 * coreRatio s.power core ∧ ∀ k, k ≠ core → coreOf t.dev k = coreOf s.dev k) ∧
  (∀ (s : State) (core : Nat), canIssue s.dev core = true ∨ rowWork s.dev core = true →
    exec (.coreClockStart core) s = .next { s with dev := setCore s.dev core fun k => { k with clock := true } }) ∧
  (∀ (s : State) (gid b : Nat) (g : Group), fget s.dev.groups gid = some g → g.base = none → g.state = .live →
    (g.key.isSome || g.members.any fun u => (squadOf s.dev u).state != .created) = true → scAlloc s.dev g.cluster g.scr = some b →
    ∃ t, exec (.groupScratchpadGrant gid) s = .next t ∧ t.power = s.power ∧ fget t.dev.groups gid = some { g with base := some b } ∧ t.dev.mem = s.dev.mem ∧
      (∀ x, x < g.scr → fgetD t.dev.scratch (scAddr g.cluster b + x) 0 = 0) ∧
      ∀ x, x < scAddr g.cluster b ∨ scAddr g.cluster b + g.scr ≤ x → fgetD t.dev.scratch x 0 = fgetD s.dev.scratch x 0) ∧
  (∀ (s : State) (gid : Nat) (g : Group), fget s.dev.groups gid = some g → g.state = .draining → groupBusy s.dev gid = false →
    exec (.groupDrainComplete gid) s = .next { s with dev := freeGroup s.dev gid }) ∧
  (∀ (s : State) (core u : Nat) (q : Squad), s.dev.squads.find? (fun p => extWaits core p.2 && extFirst s.dev p.1) = some (u, q) → 32 ≤ (coreOf s.dev core).xpool →
    exec (.extensionBlockGrant core) s = .next { s with dev := grantExt s.dev u })

/-- R428, R430 to R436, R420, R421: a rail sample gives its code, and one above ILIM raises its step, then its withheld cycles, by one; a sensor sample sets the device's level to the worst quantity's, and cuts the budgets of a cluster at a limit and
slows it fully, and at Trip what is not in host memory is lost; a cluster that has cooled for ten samples is released by one step; weights are written within their bounds; an idle, powered upper core begins to gate, is spilled when its squads are out, then Gated, and a waking one is Powered when
its quays are refilled.
Thresholds, rings and the hold of a Limit are readings (log 24). -/
def Obligations.PowerEventsComplete : Prop :=
  (∀ (s : State) (r ma : Nat), r < 51 →
    ∃ t, exec (.railSample r true ma) s = .next t ∧
      let x := railOf s.power r
      let y := railOf t.power r
      y.code = min 1023 (ma / railLsb r) ∧ y.valid = true ∧ y.est = false ∧ y.ilim = x.ilim ∧ (∀ k, k ≠ r → railOf t.power k = railOf s.power k) ∧
      (x.ilim < y.code → x.step < 8 → y.step = x.step + 1 ∧ y.whld = x.whld) ∧ (x.ilim < y.code → 8 ≤ x.step → y.step = 8 ∧ y.whld = min 7 (x.whld + 1)) ∧
      (∀ k ∈ railCores r, (coreOf t.dev k).events = []) ∧ t.dev.mem = s.dev.mem ∧ t.dev.squads = s.dev.squads) ∧
  (∀ (s : State) (r ma : Nat), r < 48 →
    ∃ t, exec (.railSample r false ma) s = .next t ∧ (railOf t.power r).code = estimate (if r < 24 then s.power.vcl else s.power.vup) (railCounts s.dev r) ∧
      (railOf t.power r).valid = false ∧ (railOf t.power r).est = true) ∧
  (∀ (s : State) (ts : List (Option Int)), ts.length = 144 →
    ∃ t, exec (.sensorSample ts) s = .next t ∧ (t.power.level ≠ 3 → t.dev.mem = s.dev.mem ∧ t.dev.squads = s.dev.squads) ∧
      (t.power.level = 3 → t.dev.mem = s.dev.mem.filter (fun c => decide (hostBase ≤ c.1)) ∧ t.dev.squads = [] ∧ t.dev.l2 = [] ∧ t.dev.scratch = []) ∧
      (∀ k x, ts[k]? = some (some x) → fget t.power.sens k = some { temp := BitVec.ofInt 12 x, valid := true }) ∧
      (∀ x ∈ heats t.power, levelOf t.power x ≤ t.power.level) ∧ (t.power.level = 0 ∨ ∃ x ∈ heats t.power, levelOf t.power x = t.power.level) ∧
      (t.power.tripped = true ↔ s.power.tripped = true ∨ t.power.level = 3) ∧
      ∀ c < 24, (∃ x ∈ heats t.power, x.clu = c ∧ 2 ≤ levelOf t.power x) → (pcluOf t.power c).thermal = 12 ∧ (pcluOf t.power c).cut = true) ∧
  (∀ (s : State) (c : Nat), 10 ≤ (pcluOf s.power c).cool → (pcluOf s.power c).thermal ≠ 0 →
    exec (.thermalRelease c) s = .next { s with power := { s.power with clu := fput s.power.clu c { pcluOf s.power c with
      thermal := if 8 < (pcluOf s.power c).thermal then 8 else (pcluOf s.power c).thermal - 1, cool := 9 } } }) ∧
  (∀ (s : State) (ws : List (BitVec 16)), ws.length = 18 → s.power.vcl.length = 9 → s.power.vup.length = 9 →
    exec (.weightRefit ws) s = .next { s with power := { s.power with
      vcl := (s.power.vcl.zip (ws.take 9)).map fun p => clampWeight p.1 p.2, vup := (s.power.vup.zip (ws.drop 9)).map fun p => clampWeight p.1 p.2 } }) ∧
  (∀ (s : State) (up : Bool) (j : Nat) (v : BitVec 16) (w : Weight), (if up then s.power.vup else s.power.vcl)[j]? = some w →
    ∃ t, exec (.wgtWrite up j v) s = .next t ∧ t.dev = s.dev ∧ (if up then t.power.vup else t.power.vcl)[j]? = some (clampWeight w v) ∧
      (∀ k, k ≠ j → (if up then t.power.vup else t.power.vcl)[k]? = (if up then s.power.vup else s.power.vcl)[k]?) ∧ t.power.rails = s.power.rails ∧
      (w.lo ≤ w.hi → w.lo ≤ (clampWeight w v).w ∧ (clampWeight w v).w ≤ w.hi)) ∧
  (∀ (s : State) (cl : Nat), (clusterOf s.dev cl).gate = .powered → upperIdle s.dev cl = true → s.dev.squads.any (fun p => p.2.core == upperCore cl && p.2.res != .out) = false →
    exec (.gateReq cl) s = .next { s with dev := setCluster s.dev cl fun c => { c with gate := .deactivating, wake := false } } ∧
    (∀ t, (clusterOf s.dev cl).idleAt = some t → t + 1000 ≤ (clusterOf s.dev cl).etime →
      exec (.idleGateTimer cl) s = .next { s with dev := setCluster s.dev cl fun c => { c with gate := .deactivating, wake := false } })) ∧
  (∀ (s : State) (cl : Nat), (clusterOf s.dev cl).gate = .deactivating → s.dev.squads.any (fun p => p.2.core == upperCore cl && p.2.res != .out) = false →
    (spillOk s.dev cl = true → let d' := (toSpill s.dev cl).foldl (fun d k => setQuay d k fun q => { q with area := spillArea d k }) s.dev
      exec (.gateWritebackComplete cl) s = .next { s with dev := setCluster d' cl fun c => { c with gate := .spilling } }) ∧
    (spillOk s.dev cl = false → exec (.gateWritebackComplete cl) s = .next { s with dev := setCluster s.dev cl fun c => { c with gate := .powered, wake := false, idleAt := none } })) ∧
  (∀ (s : State) (cl : Nat), (clusterOf s.dev cl).gate = .spilling → toSpill s.dev cl = [] →
    exec (.spillComplete cl) s = .next { s with dev := setCluster s.dev cl fun c => { c with gate := if c.wake then .waking else .gated, wake := false } }) ∧
  (∀ (s : State) (cl : Nat) (d' : Dev), (clusterOf s.dev cl).gate = .waking → refillAll s.dev (upDirs cl) = some d' →
    exec (.refillComplete cl) s = .next { s with dev := setCluster d' cl fun c => { c with gate := .powered, idleAt := none } })

/-- R307, R319, R322, R323, R436, R439 to R447: a write reaches its register and no other; a doorbell's command acts and answers 0, 2 or 3, and 1 with no effect while BUSY; a reset keeps memory and clears the rest; a loss of power keeps only
host memory; host and peer accesses read and write the bytes they name, an aperture reads as zero and takes what is written at 16,384 a + 64 q, and the power block reads by words; a found error is recorded; a link's training shows in its bit.
Firmware values are opaque, commands act within their doorbell, and where BAR0 holds the power block is not stated (logs 5, 14, 25 and 55). -/
def Obligations.HostEventsComplete : Prop :=
  (∀ (s : State) (n : Nat) (x : DWord), n < 6 → exec (.registerWrite (.arg n) x) s = .next { s with dev := { s.dev with host := { s.dev.host with args := fset 0 s.dev.host.args n (x.setWidth 32) } } }) ∧
  (∀ (s : State) (r : Nat) (x : DWord), r < 51 → ∃ t, exec (.registerWrite (.block (8 * r)) x) s = .next t ∧ t.dev = s.dev ∧ t.trust = s.trust ∧
    (railOf t.power r).ilim = (x.extractLsb' 16 10).toNat ∧ (railOf t.power r).step = (railOf s.power r).step ∧ (∀ k, k ≠ r → railOf t.power k = railOf s.power k) ∧ t.power.clu = s.power.clu) ∧
  (∀ (s : State) (x : DWord), ∃ t, exec (.registerWrite .astBase x) s = .next t ∧ t.power = s.power ∧ t.dev.host.astBase = x ∧ t.dev.host.astN = s.dev.host.astN ∧
    t.dev.host.ast = astRead s.dev x.toNat s.dev.host.astN.toNat ∧ t.dev.mem = s.dev.mem) ∧
  (∀ (s : State) (c : Nat), s.dev.host.busy = false →
    (c ≤ 23 →
      exec (.mailboxReadRing c) s = .next { s with dev := answered (readRing c (rung s.dev 1 [c])) 0 } ∧
      exec (.mailboxClearFrozen c) s = .next { s with dev := answered (setCluster (rung s.dev 2 [c]) c fun k => { k with frozen := false }) 0 } ∧
      exec (.mailboxClusterReset c) s = .next { s with dev := answered (clusterReset c (rung s.dev 6 [c])) 0 }) ∧
    (23 < c →
      exec (.mailboxReadRing c) s = .next { s with dev := answered (rung s.dev 1 [c]) 3 } ∧ exec (.mailboxClearFrozen c) s = .next { s with dev := answered (rung s.dev 2 [c]) 3 } ∧
      exec (.mailboxClusterReset c) s = .next { s with dev := answered (rung s.dev 6 [c]) 3 })) ∧
  (∀ (s : State) (a q : Nat) (n : BitVec 32) (i : Nat), s.dev.host.busy = false → a < s.dev.host.astN.toNat → a < 4096 → q < 256 → itemNamed s.dev a q n = some i →
    exec (.mailboxPreempt a q n) s = .next { s with dev := answered (mboxPreempt (rung s.dev 3 [a, q, n.toNat]) i) 0 } ∧
    exec (.mailboxResume a q n) s = .next { s with dev := answered (mboxResume (rung s.dev 4 [a, q, n.toNat]) i) 0 } ∧
    exec (.mailboxKill a q n) s = .next { s with dev := answered (killItem (rung s.dev 5 [a, q, n.toNat]) i) 0 }) ∧
  (∀ (s : State) (a q : Nat) (n : BitVec 32), s.dev.host.busy = false →
    let r := if s.dev.host.astN.toNat ≤ a ∨ 4096 ≤ a ∨ 256 ≤ q then 3 else 2
    (r = 2 → itemNamed s.dev a q n = none) →
    exec (.mailboxPreempt a q n) s = .next { s with dev := answered (rung s.dev 3 [a, q, n.toNat]) r } ∧
    exec (.mailboxResume a q n) s = .next { s with dev := answered (rung s.dev 4 [a, q, n.toNat]) r } ∧
    exec (.mailboxKill a q n) s = .next { s with dev := answered (rung s.dev 5 [a, q, n.toNat]) r }) ∧
  (∀ (s : State) (i : Instr), s.dev.host.busy = true →
    ((∃ c, i = .mailboxReadRing c ∨ i = .mailboxClearFrozen c ∨ i = .mailboxClusterReset c) ∨ (∃ a q n, i = .mailboxPreempt a q n ∨ i = .mailboxResume a q n ∨ i = .mailboxKill a q n) ∨
      i = .mailboxDeviceReset ∨ i = .mailboxAttestation) → exec i s = .next { s with dev := answered s.dev 1 }) ∧
  (∀ (s : State), s.dev.host.busy = false →
    let body := ((upto 64).map fun i => fgetD s.dev.host.payload i 0) ++ identityRecord s ++
      natLe s.trust.m0.toNat 64 ++ natLe s.trust.m1.toNat 64 ++ natLe s.trust.m2.toNat 64 ++ natLe s.trust.m3.toNat 64
    ∃ t, exec .mailboxAttestation s = .next t ∧ t.power = s.power ∧ t.trust = s.trust ∧ t.dev.mem = s.dev.mem ∧ t.dev.host.result = 0 ∧
      t.dev.host.payload = payloadPut s.dev.host.payload 0 (body ++ (upto 4627).map (Config.signature body) ++ Config.certificates)) ∧
  (∀ (s : State) (i : Instr), (i = .deviceReset ∨ i = .mailboxDeviceReset ∧ s.dev.host.busy = false) →
    ∃ t, exec i s = .next t ∧ t.dev.mem = s.dev.mem ∧ t.dev.poison = s.dev.poison ∧ t.dev.l2 = [] ∧ t.dev.scratch = [] ∧ t.dev.squads = [] ∧ t.dev.groups = [] ∧ t.dev.queues = [] ∧
      t.power = powerReset ∧ t.trust.power = true ∧ t.trust.inReset = !firmwareOk s.dev.tick ∧ t.dev.host.caps = (if firmwareOk s.dev.tick then [1, 2, 3, 4, 5, 6] else [1]) ∧
      t.trust.m0 = Sha3.sha3 (Config.image s.dev.tick 0).code ∧
      ∀ c, (fget s.dev.clusters c).isSome = true → (clusterOf t.dev c).ring = (clusterOf s.dev c).ring ∧ (clusterOf t.dev c).frozen = (clusterOf s.dev c).frozen) ∧
  (∀ (s : State), ∃ t, exec .powerLoss s = .next t ∧ t.trust.power = false ∧ t.dev.squads = [] ∧ t.dev.clusters = [] ∧
    ∀ a, noMemory a = false → memRead t.dev.mem a = if hostBase ≤ a then memRead s.dev.mem a else memDefault) ∧
  (∀ (s : State) (a n : Nat), a + n ≤ 549755813888 → ∃ t, exec (.hostRead (.hdm a) n) s = .next t ∧ t.dev.host.read = bytesAt (memRead s.dev.mem) a n ∧ t.dev.mem = s.dev.mem ∧ t.dev.l2 = s.dev.l2 ∧ t.dev.squads = s.dev.squads) ∧
  (∀ (s : State) (a : Nat) (bs : List Byte), a + bs.length ≤ 549755813888 → ∃ t, exec (.hostWrite (.hdm a) bs) s = .next t ∧ t.dev.squads = s.dev.squads ∧ t.dev.scratch = s.dev.scratch ∧
    (∀ k, k < bs.length → noMemory (a + k) = false → memRead t.dev.mem (a + k) = bs.getD k 0 ∧ l2Byte t.dev (a + k) = bs.getD k 0) ∧
    ∀ x, lineOf x ∉ linesOf a bs.length → noMemory x = false → l2Byte t.dev x = l2Byte s.dev x ∧
      (s.dev.l2Legal → (∀ ln ∈ linesOf a bs.length, l2Room s.dev ln 4 = true) → memRead t.dev.mem x = memRead s.dev.mem x)) ∧
  (∀ (s : State) (off n : Nat), off + n ≤ 268435456 → exec (.hostRead (.bar2 off) n) s = .next { s with dev := { s.dev with host := { s.dev.host with read := List.replicate n 0 } } }) ∧
  (∀ (s : State) (en q : Nat) (bs : List Byte), en < 16384 → q < 256 → bs.length = 64 → exec (.hostWrite (.bar2 (16384 * en + 64 * q)) bs) s = exec (.apertureWrite en q true bs) s) ∧
  (∀ (s : State) (off x : Nat), off < 4096 → blockWord s off = some x →
    exec (.hostRead (.bar0 (blockAt + off)) 4) s = .next { s with dev := { s.dev with host := { s.dev.host with read := natLe x 4 } } }) ∧
  (∀ (s : State) (r : Nat), r < 51 → ∃ x y, blockWord s (8 * r) = some x ∧ blockWord s (8 * r + 4) = some y ∧
    (BitVec.ofNat 32 x).extractLsb' 0 10 = BitVec.ofNat 10 (railOf s.power r).code ∧ (BitVec.ofNat 32 y).extractLsb' 0 4 = BitVec.ofNat 4 (railOf s.power r).step) ∧
  (∀ (s : State) (r : PeerReq) (n : Nat) (pas : List Nat), r.port < 8 → s.dev.host.peerUp.getLsbD r.port = true → r.op = .read n →
    (upto n).map (peerPlace s.dev r .r) = pas.map some → pas.all (fun a => !poisoned s.dev a) = true →
    ∃ t, exec (.peerAccess r) s = .next t ∧ t.dev.host.read = pas.map (l2Byte s.dev) ∧ t.dev.mem = s.dev.mem ∧ t.dev.l2 = s.dev.l2) ∧
  (∀ (s : State) (r : PeerReq) (bs : List Byte) (pas : List Nat), r.port < 8 → s.dev.host.peerUp.getLsbD r.port = true → r.op = .write bs →
    (upto bs.length).map (peerPlace s.dev r .w) = pas.map some → pas.Nodup →
    ∃ t, exec (.peerAccess r) s = .next t ∧ (∀ k a, pas[k]? = some a → noMemory a = false → l2Byte t.dev a = bs.getD k 0) ∧
      ∀ a, a ∉ pas → noMemory a = false → l2Byte t.dev a = l2Byte s.dev a) ∧
  (∀ (s : State) (src : ScrubSrc) (a : Nat) (e : ErrAt),
    exec (.refreshOrScrub src a (.corrected e)) s = .next { s with dev := blackBox s.dev (scrubRing src) 1 7 (errData e) } ∧
    exec (.refreshOrScrub src a (.poison e)) s = .next { s with dev := poisonLine (blackBox s.dev (scrubRing src) 2 7 (errData e)) a } ∧
    exec (.refreshOrScrub src a (.fatal e)) s = .next { s with dev := fatalError s.dev (scrubRing src) 7 e }) ∧
  (∀ (s : State) (p : Nat) (up : Bool), p < 8 → ∃ t, exec (.peerLinkTraining p up) s = .next t ∧ t.dev.mem = s.dev.mem ∧
    ∀ k, k < 8 → t.dev.host.peerUp.getLsbD k = if k = p then up else s.dev.host.peerUp.getLsbD k)

/-- R75, R76, R139, R141 to R149: a lane whose arithmetic raises an enabled flag takes cause 0x14 with its flags in TVAL, FPSR holds them first, and no destination is written. -/
def Obligations.EnabledFlagsTrap : Prop :=
  (∀ h t rnd sat d a b, FlTraps (.fadd h t rnd sat d a b) (drawsOf rnd 1) fun e ln => sumRound t rnd sat (drawOf e ln 0) [some (opFV e ln t a), some (opFV e ln t b)]) ∧
  (∀ h t rnd sat d a b, FlTraps (.fsub h t rnd sat d a b) (drawsOf rnd 1) fun e ln => sumRound t rnd sat (drawOf e ln 0) [some (opFV e ln t a), some (negFV (opFV e ln t b))]) ∧
  (∀ h t rnd sat d a b, FlTraps (.fmul h t rnd sat d a b) (drawsOf rnd 1) fun e ln => sumRound t rnd sat (drawOf e ln 0) [mulFV (opFV e ln t a) (opFV e ln t b)]) ∧
  (∀ h t rnd sat acc d a b c, FlTraps (.ffma h t rnd sat acc d a b c) (drawsOf rnd 1) fun e ln =>
    sumRound t rnd sat (drawOf e ln 0) [mulFV (opFV e ln t a) (opFV e ln t b), some (opFV e ln t (if acc then d else c))]) ∧
  (∀ h rnd sat acc d a b c, FlTraps (.dfma h rnd sat acc d a b c) (drawsOf rnd 1) fun e ln =>
    sumRound .f64 rnd sat (drawOf e ln 0) [mulFV (opFV e ln .f64 a) (opFV e ln .f64 b), some (opFV e ln .f64 (if acc then d else c))]) ∧
  (∀ h t rnd sat d a b, FlTraps (.fdiv h t rnd sat d a b) 0 fun e ln => fdivVal t rnd sat (opFV e ln t a) (opFV e ln t b)) ∧
  (∀ h t rnd sat d a, FlTraps (.fsqrt h t rnd sat d a) 0 fun e ln => fsqrtVal t rnd sat (opFV e ln t a)) ∧
  (∀ h t rnd sat d a, FlTraps (.frcp h t rnd sat d a) 0 fun e ln => frcpVal t rnd sat (opFV e ln t a)) ∧
  (∀ h cc t d a b, FlTraps (.fcmp h cc t d a b) 0 fun e ln =>
    (if fcmpHolds cc (opFV e ln t a) (opFV e ln t b) then 1 else 0, fcmpFlags cc (opFV e ln t a) (opFV e ln t b))) ∧
  (∀ h src tgt sat d x rc, FlTraps (.cvt h src tgt sat d x rc) (cvtDraws src tgt (cvtMode rc)) fun e ln =>
    convertTy src tgt (cvtMode rc) sat (drawOf e ln 0) (readOp e ln x src))

/-- R64 to R75, R78 to R80: rounding an exact number to a format gives the format's own value where it is one, and else whichever of the two that enclose it the mode takes, with the flags of overflow, underflow and inexactness; for the five IEEE and four-bit
formats and every binary8 format; `.e8m0` and the integers round likewise; the sum and the product that are rounded are exact. -/
def Obligations.RoundsAsSaid : Prop :=
  Rounds f16 (decIeee f16) ∧ Rounds bf16 (decIeee bf16) ∧ Rounds f32 (decIeee f32) ∧ Rounds f64 (decIeee f64) ∧ Rounds e2m1 (decTy .e2m1) ∧
  (∀ (signed ext : Bool) (p : Nat), 1 ≤ p → p ≤ 7 → Rounds (b8 signed ext p) (decB8 (b8 signed ext p))) ∧
  (∀ (mode : Rnd) (draw m : Nat) (e l : Int), 0 < m → draw < 65536 → (2 : ℚ) ^ l ≤ m * 2 ^ e → (m : ℚ) * 2 ^ e < 2 ^ (l + 1) →
    let u : ℚ := m * 2 ^ e / 2 ^ l - 1
    (l < -127 → roundE8 mode draw (.fin false m e) = (0, flUF ||| flNX)) ∧
    ∀ up : Bool, -127 ≤ l → (up = true ↔ takesLarger mode false ((l + 127) % 2 = 1) u draw) → let t := l + if up then 1 else 0
      roundE8 mode draw (.fin false m e) = if 127 < t then (0xFE, flOF ||| flNX ||| flSAT) else ((t + 127).toNat, if u = 0 then 0 else flNX)) ∧
  (∀ (mode : Rnd) (draw m k : Nat) (e : Int) (neg up : Bool), draw < 65536 → (k : ℚ) ≤ m * 2 ^ e → (m : ℚ) * 2 ^ e < k + 1 →
    (up = true ↔ takesLarger mode neg (k % 2 = 1) (m * 2 ^ e - k) draw) →
    roundInt mode draw neg m e = ((if neg then -1 else 1) * ((k : Int) + if up then 1 else 0), decide ((m : ℚ) * 2 ^ e = k))) ∧
  (∀ (x y : FV) (a b : ℚ), x.rat = some a → y.rat = some b → (mulFV x y).bind FV.rat = some (a * b)) ∧
  (∀ (mode : Rnd) (l : List FV) (rs : List ℚ), l.map FV.rat = rs.map some → (sumFin mode l).rat = some rs.sum ∧
    (rs.sum = 0 → sumFin mode l = .fin (l.all FV.neg || (l.any FV.neg && mode == .rdn)) 0 0))

/-- R2, R97, R232, R233, R286, R292: after reset, and after every step from a state of which it holds, no lane is deeper than three frames, a squad whose image is to be written for its end has ended, and L2 holds no more than its slices' tags and sectors. -/
def Obligations.ShapeStays : Prop :=
  State.reset.dev.legal ∧ ∀ s t : State, s.dev.legal → step s = .next t → t.dev.legal
end

