-- ==== Sys2Proof/Laws/Maps.lean ====
section
/-! SUPPORT. Laws of the list maps and sets: what a read gives after a write. They hold of any list, sorted or not, where that is not said. -/
namespace Sys2Proof

variable {β : Type}

@[simp] theorem fget_nil (k : Nat) : fget ([] : FMap β) k = none := rfl

@[simp] theorem fget_fput_self (m : FMap β) (k : Nat) (v : β) : fget (fput m k v) k = some v := by
  induction m with
  | nil => simp [fput, fget]
  | cons p t ih =>
    obtain ⟨a, b⟩ := p
    simp only [fput]
    split
    · simp [fget]
    · split
      · simp [fget]
      · rename_i h; simp [fget, Ne.symm h, ih]

@[simp] theorem fget_fput_ne (m : FMap β) {k j : Nat} (v : β) (h : j ≠ k) : fget (fput m k v) j = fget m j := by
  induction m with
  | nil => simp [fput, fget, Ne.symm h]
  | cons p t ih =>
    obtain ⟨a, b⟩ := p
    simp only [fput]
    split
    · simp [fget, Ne.symm h]
    · split
      · rename_i e; subst e; simp [fget, Ne.symm h]
      · simp [fget, ih]

theorem fget_fput (m : FMap β) (k j : Nat) (v : β) : fget (fput m k v) j = if j = k then some v else fget m j := by
  by_cases h : j = k
  · simp [h]
  · simp [h]

theorem fget_fmod (m : FMap β) (k j : Nat) (f : β → β) :
    fget (fmod m k f) j = if j = k then (fget m k).map f else fget m j := by
  unfold fmod
  cases h : fget m k with
  | none => by_cases e : j = k <;> simp [e, h]
  | some v => simp [fget_fput]

@[simp] theorem fget_fmod_self (m : FMap β) (k : Nat) (f : β → β) : fget (fmod m k f) k = (fget m k).map f := by simp [fget_fmod]
@[simp] theorem fget_fmod_ne (m : FMap β) {k j : Nat} (f : β → β) (h : j ≠ k) : fget (fmod m k f) j = fget m j := by simp [fget_fmod, h]

@[simp] theorem fgetD_fput_self (m : FMap β) (k : Nat) (v x : β) : fgetD (fput m k v) k x = v := by simp [fgetD]
@[simp] theorem fgetD_fput_ne (m : FMap β) {k j : Nat} (v x : β) (h : j ≠ k) : fgetD (fput m k v) j x = fgetD m j x := by simp [fgetD, h]

/-- Every key of a list lies above a bound. -/
def keysAbove (n : Nat) (m : FMap β) : Prop := ∀ p ∈ m, n < p.1

theorem fsorted_cons (a : Nat) (b : β) (t : FMap β) : fsorted ((a, b) :: t) = true ↔ keysAbove a t ∧ fsorted t = true := by
  induction t generalizing a b with
  | nil => simp [fsorted, keysAbove]
  | cons p t ih =>
    obtain ⟨c, d⟩ := p
    simp only [fsorted, Bool.and_eq_true, decide_eq_true_eq]
    constructor
    · rintro ⟨h, hs⟩
      refine ⟨?_, hs⟩
      intro q hq
      rcases List.mem_cons.1 hq with rfl | hq
      · exact h
      · exact Nat.lt_trans h (((ih c d).1 hs).1 q hq)
    · rintro ⟨h, hs⟩
      exact ⟨h _ (List.mem_cons_self ..), hs⟩

theorem fget_above {n k : Nat} {m : FMap β} (h : keysAbove n m) (hk : k ≤ n) : fget m k = none := by
  induction m with
  | nil => rfl
  | cons p t ih =>
    have h1 := h p (List.mem_cons_self ..)
    have h2 : p.1 ≠ k := by omega
    simp [fget, h2, ih fun q hq => h q (List.mem_cons_of_mem _ hq)]

theorem fput_above {n k : Nat} {m : FMap β} (v : β) (h : keysAbove n m) (hk : n < k) : keysAbove n (fput m k v) := by
  induction m with
  | nil => intro p hp; simp [fput] at hp; simp [hp, hk]
  | cons q t ih =>
    obtain ⟨a, b⟩ := q
    have h1 : n < a := h (a, b) (List.mem_cons_self ..)
    have h2 := ih fun q hq => h q (List.mem_cons_of_mem _ hq)
    intro p hp
    simp only [fput] at hp
    split at hp
    · rcases List.mem_cons.1 hp with rfl | hp
      · exact hk
      · exact h p hp
    · split at hp
      · rcases List.mem_cons.1 hp with rfl | hp
        · exact hk
        · exact h p (List.mem_cons_of_mem _ hp)
      · rcases List.mem_cons.1 hp with rfl | hp
        · exact h1
        · exact h2 p hp

theorem fdel_subset {k : Nat} {m : FMap β} {p : Nat × β} (h : p ∈ fdel m k) : p ∈ m := by
  induction m with
  | nil => simp [fdel] at h
  | cons q t ih =>
    simp only [fdel] at h
    split at h
    · exact List.mem_cons_of_mem _ (ih h)
    · rcases List.mem_cons.1 h with rfl | h
      · exact List.mem_cons_self ..
      · exact List.mem_cons_of_mem _ (ih h)

theorem fput_mem {k : Nat} {m : FMap β} {v : β} {p : Nat × β} (h : p ∈ fput m k v) : p = (k, v) ∨ p ∈ m := by
  induction m with
  | nil => simpa [fput] using h
  | cons q t ih =>
    simp only [fput] at h
    split at h
    · simpa using h
    · split at h
      · rcases List.mem_cons.1 h with rfl | h
        · exact .inl rfl
        · exact .inr (List.mem_cons_of_mem _ h)
      · rcases List.mem_cons.1 h with rfl | h
        · exact .inr (List.mem_cons_self ..)
        · exact (ih h).imp_right (List.mem_cons_of_mem _)

theorem fsorted_fput {m : FMap β} (k : Nat) (v : β) (h : fsorted m = true) : fsorted (fput m k v) = true := by
  induction m with
  | nil => rfl
  | cons p t ih =>
    obtain ⟨a, b⟩ := p
    obtain ⟨h1, h2⟩ := (fsorted_cons a b t).1 h
    simp only [fput]
    split
    · rename_i hk
      refine (fsorted_cons ..).2 ⟨?_, h⟩
      intro q hq
      rcases List.mem_cons.1 hq with rfl | hq
      · exact hk
      · exact Nat.lt_trans hk (h1 q hq)
    · split
      · rename_i e; subst e; exact (fsorted_cons ..).2 ⟨h1, h2⟩
      · exact (fsorted_cons ..).2 ⟨fput_above v h1 (by omega), ih h2⟩

theorem fsorted_fdel {m : FMap β} (k : Nat) (h : fsorted m = true) : fsorted (fdel m k) = true := by
  induction m with
  | nil => rfl
  | cons p t ih =>
    obtain ⟨a, b⟩ := p
    obtain ⟨h1, h2⟩ := (fsorted_cons a b t).1 h
    simp only [fdel]
    split
    · exact ih h2
    · exact (fsorted_cons ..).2 ⟨fun q hq => h1 q (fdel_subset hq), ih h2⟩

theorem fget_fdel (m : FMap β) (k j : Nat) : fget (fdel m k) j = if j = k then none else fget m j := by
  induction m with
  | nil => simp [fdel]
  | cons p t ih =>
    obtain ⟨a, b⟩ := p
    simp only [fdel]
    by_cases h : a = k
    · subst h
      rw [if_pos rfl, ih]
      by_cases hj : j = a
      · simp [hj]
      · simp [fget, hj, Ne.symm hj]
    · rw [if_neg h]
      simp only [fget]
      by_cases hj : a = j
      · subst hj; simp [h]
      · simp [hj, ih]

theorem fsorted_fset [DecidableEq β] {m : FMap β} (d : β) (k : Nat) (v : β) (h : fsorted m = true) : fsorted (fset d m k v) = true := by
  unfold fset
  split
  · exact fsorted_fdel k h
  · exact fsorted_fput k v h

theorem fgetD_fset [DecidableEq β] (m : FMap β) (d : β) (k j : Nat) (v : β) :
    fgetD (fset d m k v) j d = if j = k then v else fgetD m j d := by
  unfold fset fgetD
  split
  · rename_i e; subst e; rw [fget_fdel]; split <;> simp
  · rw [fget_fput]; split <;> simp

theorem fsorted_fmod {m : FMap β} (k : Nat) (f : β → β) (h : fsorted m = true) : fsorted (fmod m k f) = true := by
  unfold fmod
  split
  · exact fsorted_fput _ _ h
  · exact h

end Sys2Proof
end

