-- ==== Sys2Proof/Laws/Issue.lean ====
section
/-! SUPPORT. The common path of an instruction: what it leaves when nothing holds its bundle back, and what squads that are alike have alike. -/
namespace Sys2Proof.Machine

theorem filter_none_of_all {α : Type} {l : List α} {p : α → Bool} (h : ∀ a ∈ l, p a = false) : l.filter p = [] := by
  simpa [List.filter_eq_nil_iff] using h

theorem filterMap_none {α β : Type} {l : List α} {f : α → Option β} (h : ∀ a ∈ l, f a = none) : l.filterMap f = [] := by
  simpa [List.filterMap_eq_nil_iff] using h

@[simp] theorem advanceAll_nil (d : Dev) (u : Nat) : advanceAll d u [] = d := rfl
@[simp] theorem holdLanes_nil (d : Dev) (u : Nat) (w : Wait) : holdLanes d u w [] = d := rfl
@[simp] theorem startFills_nil (d : Dev) (u : Nat) (l : List Nat) : startFills d u l [] = d := rfl
@[simp] theorem trapAll_nil (d : Dev) (u : Nat) : trapAll d u [] = d := rfl

/-- A lane that no check of mode or squad stops takes no cause of level 1 ahead of its registers (R45). -/
theorem encCheck_none {d : Dev} {e : Env} {r : Raw} {chk : Dev → Env → Nat → Chk} {ln : Nat} (h : dynCheck d e.s e.g ln r = none) :
    encCheck d e r chk ln = none := by
  unfold encCheck
  rw [h]

/-- But for the forms whose own check may find a word illegal, it takes what its mode and squad give. -/
theorem encCheck_of {d : Dev} {e : Env} {r : Raw} {chk : Dev → Env → Nat → Chk} {ln : Nat} (h : ownFirst r.form = false) :
    encCheck d e r chk ln = dynCheck d e.s e.g ln r := by
  unfold encCheck
  rw [h]
  split
  · rename_i hh; rw [hh]
  · rename_i hh; simp [hh]

section
variable {r : Raw} {fails : List Nat → Dev → Dev} {chk : Dev → Env → Nat → Chk} {act : Env → List Nat → Dev → Dev} {d : Dev} {u : Nat} {lns : List Nat}

/-- A bundle whose guard holds in every lane: nothing is left to `fails`. -/
theorem issueWith_pass (hc : d.cur = some ⟨u, lns⟩) (hn : lns ≠ []) (hg : ∀ ln ∈ lns, guardHolds r.h (laneOf d u ln) = true) :
    issueWith r fails chk act d = issuePass r chk act false d u lns := by
  have hg' : ∀ ln ∈ lns, ((laneOf d u ln).qbit (r.h.grd.toNat % 8) ^^ r.h.grd.getLsbD 3) = true := hg
  have e1 : lns.filter (fun ln => (laneOf d u ln).qbit (r.h.grd.toNat % 8) ^^ r.h.grd.getLsbD 3) = lns := List.filter_eq_self.2 hg'
  have e2 : lns.filter (fun ln => !((laneOf d u ln).qbit (r.h.grd.toNat % 8) ^^ r.h.grd.getLsbD 3)) = [] :=
    filter_none_of_all fun ln hln => by rw [hg' ln hln]; rfl
  have hne : lns.isEmpty = false := by cases lns <;> simp_all
  unfold issueWith
  simp only [hc, e1, e2, hne, List.isEmpty_nil, Bool.not_true, Bool.false_and, holdLanes_nil, if_true, Bool.false_eq_true, if_false, ite_self]

/-- Lanes that no trap of their mode or squad stops and that wait for no register come to their own checks. -/
theorem issuePass_legal {b : Bool} (hn : lns ≠ []) (hl : ∀ ln ∈ lns, dynCheck d (squadOf d u) (groupOf d (squadOf d u).group) ln r = none)
    (hi : ∀ ln ∈ lns, interlocked d u (squadOf d u).group [ln] r = false) (hr : flagRoom d u lns r.h) :
    issuePass r chk act b d u lns = issueLive r chk act b (groupOf d (squadOf d u).group) d u lns := by
  have e3 : lns.filterMap (fun ln => (encCheck d (envOf d u lns) r chk ln).map fun p => (ln, p.1, p.2)) = [] :=
    filterMap_none fun ln hln => by rw [@encCheck_none d (envOf d u lns) r chk ln (hl ln hln), Option.map_none]
  have e4 : lns.filter (fun ln => interlocked d u (squadOf d u).group [ln] r) = [] := filter_none_of_all hi
  have hne : lns.isEmpty = false := by cases lns <;> simp_all
  have hr' : (squadOf d u).flagFull lns r.h = false := hr
  unfold issuePass
  simp only [e3, trapAll_nil, List.any_nil, Bool.not_false, List.filter_true, e4, List.isEmpty_nil, Bool.not_true, Bool.and_false, Bool.false_eq_true, if_false,
    List.contains_nil, holdLanes_nil, hne, hr']

theorem issueWith_live (h : Legal r d u lns) (hi : ∀ ln ∈ lns, interlocked d u (squadOf d u).group [ln] r = false) (hr : flagRoom d u lns r.h) :
    issueWith r fails chk act d = issueLive r chk act false (groupOf d (squadOf d u).group) d u lns := by
  rw [issueWith_pass h.cur h.lanes h.guard, issuePass_legal h.lanes h.legal hi hr]

/-- The results of a bundle's checks where every lane's is alike. -/
theorem results_eq {e : Env} {c : Nat → Chk} (hp : ∀ ln ∈ lns, laneChk d e r chk ln = c ln) :
    lns.map (fun ln => (ln, laneChk d e r chk ln)) = lns.map fun ln => (ln, c ln) := List.map_congr_left fun ln hln => by rw [hp ln hln]

/-- An instruction that nothing holds back runs its own effect, between what begins and what ends every issue. -/
theorem issueWith_clear (h : Clear r chk d u lns) :
    issueWith r fails chk act d = ended r (begun r d u lns) (act (begunEnv r d u lns) lns (begun r d u lns)) u := by
  have e0 := results_eq (e := envOf d u lns) (c := fun _ => Chk.ok) h.pass
  have e1 : badOf (lns.map fun ln => (ln, Chk.ok)) = [] := filterMap_none fun p hp => by obtain ⟨ln, -, rfl⟩ := List.mem_map.1 hp; rfl
  have e2 : (lns.map fun ln => (ln, Chk.ok)).filter (fun p => p.2 == .stall) = [] :=
    filter_none_of_all fun p hp => by obtain ⟨ln, -, rfl⟩ := List.mem_map.1 hp; rfl
  have e3 : ((lns.map fun ln => (ln, Chk.ok)).filter fun p => p.2 == .ok).map (·.1) = lns := by
    rw [List.filter_eq_self.2 fun p hp => by obtain ⟨ln, -, rfl⟩ := List.mem_map.1 hp; rfl]
    simp [Function.comp_def]
  have e4 : (lns.map fun ln => (ln, Chk.ok)).filterMap (fun p => p.2.walkVa.map fun va => (p.1, va)) = [] :=
    filterMap_none fun p hp => by obtain ⟨ln, -, rfl⟩ := List.mem_map.1 hp; rfl
  have hne : lns.isEmpty = false := by have := h.lanes; cases lns <;> simp_all
  rw [issueWith_live ⟨⟨h.cur, h.lanes, h.squad⟩, h.guard, h.legal⟩ h.free h.room]
  unfold issueLive
  have e0' : lns.map (fun ln => (ln, laneChk d ({ envOf d u lns with g := groupOf d (squadOf d u).group } : Env) r chk ln)) = lns.map fun ln => (ln, Chk.ok) := e0
  simp only [e0', e1, e2, e3, e4, hne, trapAll_nil, List.map_nil, holdLanes_nil, List.isEmpty_nil, if_true, startFills_nil, List.foldl_nil,
    Bool.false_eq_true, if_false, Bool.and_self, Bool.not_true, Bool.and_false]
  rfl

end

theorem issueChk_clear {r : Raw} {chk : Dev → Env → Nat → Chk} {act : Env → List Nat → Dev → Dev}
    {d : Dev} {u : Nat} {lns : List Nat} (h : Clear r chk d u lns) :
    issueChk r chk act d = ended r (begun r d u lns) (act (begunEnv r d u lns) lns (begun r d u lns)) u :=
  issueWith_clear h

theorem issue_clear {r : Raw} {act : Env → List Nat → Dev → Dev} {d : Dev} {u : Nat} {lns : List Nat} (h : Clear r noChk d u lns) :
    issue r act d = ended r (begun r d u lns) (act (begunEnv r d u lns) lns (begun r d u lns)) u := issueChk_clear h

theorem issueGather_clear {r : Raw} {m : Opnd} {chk : Dev → Env → Nat → Chk} {done : Env → List Nat → Dev → Dev}
    {d : Dev} {u : Nat} {lns : List Nat} (h : Clear r chk d u lns) :
    issueGather r m chk done d = ended r (begun r d u lns) (gatherAct (maskOf m) done (begunEnv r d u lns) lns (begun r d u lns)) u :=
  issueWith_clear h

/-- Every instruction word is issued by the common path. -/
theorem exec_issueWith (i : Instr) (h : i.raw.isSome = true) :
    ∃ fails chk act, ∀ s, exec i s = onDev (issueWith (rawOf i) fails chk act) s := by
  have k1 : ∀ {i : Instr} {chk act}, (∀ s, exec i s = onDev (issueChk (rawOf i) chk act) s) →
      ∃ fails chk act, ∀ s, exec i s = onDev (issueWith (rawOf i) fails chk act) s := fun {_ chk act} h => ⟨plainFails, chk, act, h⟩
  have k2 : ∀ {i : Instr} {m chk act}, (∀ s, exec i s = onDev (issueGather (rawOf i) m chk act) s) →
      ∃ fails chk act, ∀ s, exec i s = onDev (issueWith (rawOf i) fails chk act) s :=
    fun {_ m chk act} h => ⟨gatherFails (maskOf m), chk, gatherAct (maskOf m) act, h⟩
  have k3 : ∀ {i : Instr} {chk act}, (∀ s, exec i s = onDev (issueWith (rawOf i) quadFails chk act) s) →
      ∃ fails chk act, ∀ s, exec i s = onDev (issueWith (rawOf i) fails chk act) s := fun {_ chk act} h => ⟨quadFails, chk, act, h⟩
  cases i
  case clauseEntry => cases h
  case smp => exact k3 fun s => rfl
  case smps => exact k3 fun s => rfl
  case shfl => exact k2 fun s => rfl
  case lred => exact k2 fun s => rfl
  case lscan => exact k2 fun s => rfl
  case lbcast => exact k2 fun s => rfl
  case lmatch => exact k2 fun s => rfl
  case deq => exact k2 fun s => rfl
  case gjoin => exact k2 fun s => rfl
  case gleave => exact k2 fun s => rfl
  case gbar => exact k2 fun s => rfl
  case garv => exact k2 fun s => rfl
  case gwait => exact k2 fun s => rfl
  case tkwait => exact k2 fun s => rfl
  case tkpass => exact k2 fun s => rfl
  case mwait => exact k2 fun s => rfl
  case vote => exact k2 fun s => rfl
  case ballot => exact k2 fun s => rfl
  case qscale => exact k2 fun s => rfl
  case qsplit => exact k2 fun s => rfl
  case qysend => exact k2 fun s => rfl
  case qyrecv => exact k2 fun s => rfl
  all_goals first
    | exact (Bool.false_ne_true h).elim
    | exact k1 fun s => rfl

/-- Where no guard holds and the flag can count, the failing lanes stand in execute and go on, which the undo log counts, and that is all. -/
theorem issueWith_fails {r : Raw} {fails : List Nat → Dev → Dev} {chk : Dev → Env → Nat → Chk} {act : Env → List Nat → Dev → Dev}
    {d : Dev} {u : Nat} {lns : List Nat} (hc : d.cur = some ⟨u, lns⟩) (hn : lns ≠ []) (hr : flagRoom d u lns r.h)
    (hg : ∀ ln ∈ lns, guardHolds r.h (laneOf d u ln) = false) :
    issueWith r fails chk act d = logUndo d (fails lns (startExecute d u lns r)) u r false := by
  have e1 : lns.filter (fun ln => (laneOf d u ln).qbit (r.h.grd.toNat % 8) ^^ r.h.grd.getLsbD 3) = [] := filter_none_of_all hg
  have e2 : lns.filter (fun ln => !((laneOf d u ln).qbit (r.h.grd.toNat % 8) ^^ r.h.grd.getLsbD 3)) = lns :=
    List.filter_eq_self.2 fun ln hl => by have := hg ln hl; simp only [guardHolds] at this; rw [this]; rfl
  have hne : lns.isEmpty = false := by cases lns <;> simp_all
  have hr' : (squadOf d u).flagFull lns r.h = false := hr
  unfold issueWith
  simp only [hc, e1, e2, hr', hne, List.isEmpty_nil, if_true, Bool.false_eq_true, if_false]

/-- Where every lane meets a trap of its mode or squad, each takes it and that is all. -/
theorem issueWith_illegal {r : Raw} {fails : List Nat → Dev → Dev} {chk : Dev → Env → Nat → Chk} {act : Env → List Nat → Dev → Dev}
    {d : Dev} {u : Nat} {lns : List Nat} {c : Nat → Cause × DWord} (hc : d.cur = some ⟨u, lns⟩) (hn : lns ≠ [])
    (hg : ∀ ln ∈ lns, guardHolds r.h (laneOf d u ln) = true) (hl : ∀ ln ∈ lns, encCheck d (envOf d u lns) r chk ln = some (c ln)) :
    issueWith r fails chk act d = trapAll d u (lns.map fun ln => (ln, (c ln).1, (c ln).2)) := by
  have e3 : (lns.filterMap fun ln => (encCheck d (envOf d u lns) r chk ln).map fun p => (ln, p.1, p.2)) =
      lns.map fun ln => (ln, (c ln).1, (c ln).2) := by
    rw [← List.filterMap_eq_map]
    exact List.filterMap_congr fun ln hln => by rw [hl ln hln]; rfl
  have e4 : lns.filter (fun ln => !(lns.map fun ln => (ln, (c ln).1, (c ln).2)).any fun p => p.1 == ln) = [] :=
    filter_none_of_all fun ln hln => by
      simp only [Bool.not_eq_false', List.any_map, List.any_eq_true]
      exact ⟨ln, hln, by simp⟩
  rw [issueWith_pass hc hn hg]
  unfold issuePass
  simp only [e3, e4, holdLanes_nil, ite_self, List.filter_nil, List.isEmpty_nil, if_true, Bool.not_true, Bool.and_false, Bool.false_eq_true]

/-- A bundle held because a register that its word names is pending in every lane, or because its flag is full. -/
theorem issueWith_held {r : Raw} {fails : List Nat → Dev → Dev} {chk : Dev → Env → Nat → Chk} {act : Env → List Nat → Dev → Dev}
    {d : Dev} {u : Nat} {lns : List Nat} (h : Legal r d u lns)
    (hw : (∀ ln ∈ lns, interlocked d u (squadOf d u).group [ln] r = true) ∨
      (∀ ln ∈ lns, interlocked d u (squadOf d u).group [ln] r = false) ∧ (squadOf d u).flagFull lns r.h = true) :
    issueWith r fails chk act d = holdLanes d u .hold lns := by
  have hn : lns ≠ [] := h.lanes
  have e3 : lns.filterMap (fun ln => (encCheck d (envOf d u lns) r chk ln).map fun p => (ln, p.1, p.2)) = [] :=
    filterMap_none fun ln hln => by rw [@encCheck_none d (envOf d u lns) r chk ln (h.legal ln hln), Option.map_none]
  have hne : lns.isEmpty = false := by cases lns <;> simp_all
  have hself : ∀ ln ∈ lns, (!lns.contains ln) = false := fun ln hln => by simp [hln]
  rw [issueWith_pass h.cur h.lanes h.guard]
  unfold issuePass
  simp only [e3, trapAll_nil, List.any_nil, Bool.not_false, List.filter_true]
  rcases hw with hw | ⟨hw, hfull⟩
  · have e4 : lns.filter (fun ln => interlocked d u (squadOf d u).group [ln] r) = lns := List.filter_eq_self.2 hw
    simp only [e4, filter_none_of_all hself, ite_self, List.isEmpty_nil, if_true]
  · have e4 : lns.filter (fun ln => interlocked d u (squadOf d u).group [ln] r) = [] := filter_none_of_all hw
    simp only [e4, List.isEmpty_nil, Bool.not_true, Bool.and_false, Bool.false_eq_true, if_false, holdLanes_nil, List.contains_nil, Bool.not_false,
      List.filter_true, hne, hfull, if_true]

/-- A bundle every lane of which comes to the same result: a cause with its TVAL. -/
theorem issueWith_bad {r : Raw} {fails : List Nat → Dev → Dev} {chk : Dev → Env → Nat → Chk} {act : Env → List Nat → Dev → Dev}
    {d : Dev} {u : Nat} {lns : List Nat} {lvl : Nat → Nat} {c : Nat → Cause} {tv : Nat → DWord} (h : Legal r d u lns)
    (hi : ∀ ln ∈ lns, interlocked d u (squadOf d u).group [ln] r = false) (hr : flagRoom d u lns r.h)
    (hp : ∀ ln ∈ lns, laneChk d (envOf d u lns) r chk ln = .bad (lvl ln) (c ln) (tv ln)) :
    issueWith r fails chk act d = sweepWalks (trapAll d u (lns.map fun ln => (ln, c ln, tv ln))) := by
  have e0 : lns.map (fun ln => (ln, laneChk d ({ envOf d u lns with g := groupOf d (squadOf d u).group } : Env) r chk ln)) =
      lns.map fun ln => (ln, Chk.bad (lvl ln) (c ln) (tv ln)) := results_eq (e := envOf d u lns) hp
  have e1 : badOf (lns.map fun ln => (ln, Chk.bad (lvl ln) (c ln) (tv ln))) = lns.map fun ln => (ln, c ln, tv ln) := by
    unfold badOf
    rw [List.filterMap_map, ← List.filterMap_eq_map]
    rfl
  have e2 : (lns.map fun ln => (ln, Chk.bad (lvl ln) (c ln) (tv ln))).filter (fun p => p.2 == .stall) = [] :=
    filter_none_of_all fun p hp => by obtain ⟨ln, -, rfl⟩ := List.mem_map.1 hp; rfl
  have e3 : (lns.map fun ln => (ln, Chk.bad (lvl ln) (c ln) (tv ln))).filter (fun p => p.2 == .ok) = [] :=
    filter_none_of_all fun p hp => by obtain ⟨ln, -, rfl⟩ := List.mem_map.1 hp; rfl
  have e4 : (lns.map fun ln => (ln, Chk.bad (lvl ln) (c ln) (tv ln))).filterMap (fun p => p.2.walkVa.map fun va => (p.1, va)) = [] :=
    filterMap_none fun p hp => by obtain ⟨ln, -, rfl⟩ := List.mem_map.1 hp; rfl
  rw [issueWith_live h hi hr]
  unfold issueLive
  simp only [e0, e1, e2, e3, e4, List.map_nil, holdLanes_nil, List.isEmpty_nil, if_true, startFills_nil, List.foldl_nil]

/-- A bundle every lane of which waits, for a row's fill or for what its own check waits for. -/
theorem issueWith_stall {r : Raw} {fails : List Nat → Dev → Dev} {chk : Dev → Env → Nat → Chk} {act : Env → List Nat → Dev → Dev}
    {d : Dev} {u : Nat} {lns : List Nat} (h : Legal r d u lns)
    (hi : ∀ ln ∈ lns, interlocked d u (squadOf d u).group [ln] r = false) (hr : flagRoom d u lns r.h)
    (hp : ∀ ln ∈ lns, laneChk d (envOf d u lns) r chk ln = .stall) :
    issueWith r fails chk act d =
      sweepWalks (startFills (holdLanes d u .hold lns) u lns ((rowsRead r ++ rowsWritten r).filter (squadOf d u).missing)) := by
  have hn : lns ≠ [] := h.lanes
  have e0 : lns.map (fun ln => (ln, laneChk d ({ envOf d u lns with g := groupOf d (squadOf d u).group } : Env) r chk ln)) =
      lns.map fun ln => (ln, Chk.stall) := results_eq (e := envOf d u lns) hp
  have e1 : badOf (lns.map fun ln => (ln, Chk.stall)) = [] := filterMap_none fun p hp => by obtain ⟨ln, -, rfl⟩ := List.mem_map.1 hp; rfl
  have e2 : (lns.map fun ln => (ln, Chk.stall)).filter (fun p => p.2 == .stall) = lns.map fun ln => (ln, Chk.stall) :=
    List.filter_eq_self.2 fun p hp => by obtain ⟨ln, -, rfl⟩ := List.mem_map.1 hp; rfl
  have e3 : (lns.map fun ln => (ln, Chk.stall)).filter (fun p => p.2 == .ok) = [] :=
    filter_none_of_all fun p hp => by obtain ⟨ln, -, rfl⟩ := List.mem_map.1 hp; rfl
  have e4 : (lns.map fun ln => (ln, Chk.stall)).filterMap (fun p => p.2.walkVa.map fun va => (p.1, va)) = [] :=
    filterMap_none fun p hp => by obtain ⟨ln, -, rfl⟩ := List.mem_map.1 hp; rfl
  have e5 : (lns.map fun ln => (ln, Chk.stall)).map (·.1) = lns := by simp [Function.comp_def]
  have e6 : (lns.map fun ln => (ln, Chk.stall)).isEmpty = false := by cases lns <;> simp_all
  rw [issueWith_live h hi hr]
  unfold issueLive
  simp only [Bool.false_eq_true, if_false, e0, e1, e2, e3, e4, e5, e6, List.map_nil, trapAll_nil, List.isEmpty_nil, if_true, List.foldl_nil]
  rfl

end Sys2Proof.Machine
end

