-- ==== Sys2Proof/Laws/Squad.lean ====
section
/-! SUPPORT. Squads: what their updates leave alone, and that register forms write nothing but their squad (R31, R76). -/
namespace Sys2Proof.Machine

/-! ### Reading a squad after an update -/

@[simp] theorem fget_setSquad (d : Dev) (u v : Nat) (f : Squad → Squad) :
    fget (setSquad d u f).squads v = if v = u then (fget d.squads u).map f else fget d.squads v := by
  simp [setSquad, fget_fmod]

theorem squadOf_setSquad {d : Dev} {u : Nat} (f : Squad → Squad) (h : (fget d.squads u).isSome = true) :
    squadOf (setSquad d u f) u = f (squadOf d u) := by
  obtain ⟨s, hs⟩ := Option.isSome_iff_exists.1 h
  simp [squadOf, fgetD, hs]

theorem squadOf_setSquad_ne {d : Dev} {u v : Nat} (f : Squad → Squad) (h : v ≠ u) : squadOf (setSquad d u f) v = squadOf d v := by
  simp [squadOf, fgetD, h]

theorem squadOf_congr {d d' : Dev} (h : d'.squads = d.squads) (u : Nat) : squadOf d' u = squadOf d u := by simp [squadOf, h]

theorem lane_setLane (s : Squad) (ln j : Nat) (f : Lane → Lane) :
    fget (s.setLane ln f).lanes j = if j = ln then (fget s.lanes ln).map f else fget s.lanes j := by simp [Squad.setLane, fget_fmod]

/-! ### Alike -/

theorem Squad.Alike.refl {g : Bool} (a : Squad) : Squad.Alike g a a := ⟨rfl, fun _ => rfl⟩
theorem Squad.Alike.symm {g : Bool} {a b : Squad} (h : Squad.Alike g a b) : Squad.Alike g b a := ⟨h.1.symm, fun ln => (h.2 ln).symm⟩
theorem Squad.Alike.trans {g : Bool} {a b c : Squad} (h : Squad.Alike g a b) (k : Squad.Alike g b c) : Squad.Alike g a c :=
  ⟨h.1.trans k.1, fun ln => (h.2 ln).trans (k.2 ln)⟩

theorem Lane.bare_bare (l : Lane) : (l.bare false).bare true = l.bare true := rfl

/-- What is alike is alike where gathers are left out. -/
theorem Squad.Alike.weaken {g : Bool} {a b : Squad} (h : Squad.Alike false a b) : Squad.Alike g a b := by
  cases g
  · exact h
  · refine ⟨?_, fun ln => ?_⟩
    · have := congrArg (Squad.bare true) h.1
      exact this
    have := congrArg (Option.map (Lane.bare true)) (h.2 ln)
    rw [Option.map_map, Option.map_map] at this
    exact this

/-- Squads that are alike differ in seven fields at most. -/
theorem Squad.Alike.eq_with {g : Bool} {a b : Squad} (h : Squad.Alike g a b) :
    a = { b with lanes := a.lanes, claims := a.claims, fcnt := a.fcnt, fdone := a.fdone, undo := a.undo, dbg := a.dbg, insts := a.insts } := by
  have := h.1
  cases a; cases b
  simp only [Squad.bare, Squad.mk.injEq] at this
  simp only [Squad.mk.injEq]
  tauto

theorem Squad.Alike.lane {g : Bool} {a b : Squad} (h : Squad.Alike g a b) (ln : Nat) : (a.lane ln).bare g = (b.lane ln).bare g := by
  have := h.2 ln
  simp only [Squad.lane, fgetD]
  cases ha : fget a.lanes ln <;> cases hb : fget b.lanes ln <;> simp_all

/-- An update that does not look at lanes, flags, gathers or the undo log keeps squads alike. -/
theorem Squad.Alike.map {g : Bool} {a b : Squad} (h : Squad.Alike g a b) (f : Squad → Squad)
    (h1 : ∀ s l c n x w q i, f { s with lanes := l, claims := c, fcnt := n, fdone := x, undo := w, dbg := q, insts := i } =
      { f s with lanes := l, claims := c, fcnt := n, fdone := x, undo := w, dbg := q, insts := i }) : Squad.Alike g (f a) (f b) := by
  have hb0 := h1 b b.lanes b.claims b.fcnt b.fdone b.undo b.dbg b.insts
  have hb : (f b).lanes = b.lanes := by
    have e := congrArg Squad.lanes hb0
    exact e
  have hi : (f b).insts = b.insts := by
    have e := congrArg Squad.insts hb0
    exact e
  have hab : (if g then [] else a.insts) = (if g then [] else b.insts) := congrArg Squad.insts h.1
  have ha := h1 b a.lanes a.claims a.fcnt a.fdone a.undo a.dbg a.insts
  rw [← h.eq_with] at ha
  constructor
  · rw [ha]
    simp only [Squad.bare]
    rw [hi, hab]
  · intro ln
    rw [ha, hb]
    exact h.2 ln

theorem Squad.Alike.setLane {g : Bool} {a b : Squad} (h : Squad.Alike g a b) (ln : Nat) (f : Lane → Lane)
    (hf : ∀ l l', l.bare g = l'.bare g → (f l).bare g = (f l').bare g) : Squad.Alike g (a.setLane ln f) (b.setLane ln f) := by
  constructor
  · exact h.1
  · intro j
    rw [lane_setLane, lane_setLane]
    split
    · have := h.2 ln
      cases ha : fget a.lanes ln <;> cases hb : fget b.lanes ln <;> simp only [ha, hb, Option.map_some, Option.map_none, reduceCtorEq, Option.some.injEq] at this ⊢
      exact hf _ _ this
    · exact h.2 j

/-- A lane's fields that are never left out. -/
theorem Lane.bare_eq_with {g : Bool} {l l' : Lane} (h : l.bare g = l'.bare g) :
    l = { l' with claim := l.claim, issued := l.issued, wait := l.wait, vc := l.vc, acq := l.acq } ∧ (g = false → l.wait = l'.wait ∧ l.vc = l'.vc ∧ l.acq = l'.acq) := by
  cases g <;> cases l <;> cases l' <;> simp only [Lane.bare, Lane.mk.injEq, Bool.false_eq_true, if_false, if_true] at h ⊢ <;> simp <;> tauto

/-- An update that does not look at the fields left out. -/
theorem Lane.bare_map {g : Bool} {l l' : Lane} (f : Lane → Lane)
    (hf : ∀ l c b w v a, f { l with claim := c, issued := b, wait := w, vc := v, acq := a } = { f l with claim := c, issued := b, wait := w, vc := v, acq := a })
    (h : l.bare g = l'.bare g) : (f l).bare g = (f l').bare g := by
  obtain ⟨h1, h2⟩ := Lane.bare_eq_with h
  have e := hf l' l.claim l.issued l.wait l.vc l.acq
  rw [← h1] at e
  have e0 := hf l' l'.claim l'.issued l'.wait l'.vc l'.acq
  have w0 : (f l').wait = l'.wait := by have := congrArg Lane.wait e0; exact this
  have v0 : (f l').vc = l'.vc := by have := congrArg Lane.vc e0; exact this
  have a0 : (f l').acq = l'.acq := by have := congrArg Lane.acq e0; exact this
  rw [e]
  cases g
  · obtain ⟨e1, e2, e3⟩ := h2 rfl
    simp only [Lane.bare, e1, e2, e3, w0, v0, a0, Bool.false_eq_true, if_false]
  · rfl

theorem Lane.bare_advance {g : Bool} {l l' : Lane} (h : l.bare g = l'.bare g) : l.advance.bare g = l'.advance.bare g := by
  obtain ⟨h1, h2⟩ := Lane.bare_eq_with h
  rw [h1]
  cases g
  · obtain ⟨-, e2, e3⟩ := h2 rfl
    simp only [Lane.advance, Lane.leave, Lane.bare, e2, e3]
  · rfl

theorem Squad.Alike.advance {g : Bool} {a b : Squad} (h : Squad.Alike g a b) (ln : Nat) :
    Squad.Alike g (a.setLane ln Lane.advance) (b.setLane ln Lane.advance) := h.setLane ln _ fun _ _ => Lane.bare_advance

theorem Squad.Alike.setV {g : Bool} {a b : Squad} (h : Squad.Alike g a b) (i ln : Nat) (x : Word) : Squad.Alike g (a.setV i ln x) (b.setV i ln x) :=
  h.map (fun s => s.setV i ln x) fun _ _ _ _ _ _ _ _ => rfl
theorem Squad.Alike.setHalf {g : Bool} {a b : Squad} (h : Squad.Alike g a b) (i ln : Nat) (hi : Bool) (x : BitVec 16) :
    Squad.Alike g (a.setHalf i ln hi x) (b.setHalf i ln hi x) := h.map (fun s => s.setHalf i ln hi x) fun s _ _ _ _ _ _ _ => by
    cases hb : s.rwr.getLsbD i && shas (fgetD s.rows i {}).poison ln <;> simp only [Squad.setHalf, hb] <;> rfl
theorem Squad.Alike.setK {g : Bool} {a b : Squad} (h : Squad.Alike g a b) (i ln : Nat) (x : Word) : Squad.Alike g (a.setK i ln x) (b.setK i ln x) :=
  h.map (fun s => s.setK i ln x) fun _ _ _ _ _ _ _ _ => rfl
theorem Squad.Alike.setH {g : Bool} {a b : Squad} (h : Squad.Alike g a b) (i ln : Nat) (x : Word) : Squad.Alike g (a.setH i ln x) (b.setH i ln x) :=
  h.map (fun s => s.setH i ln x) fun _ _ _ _ _ _ _ _ => rfl
theorem Squad.Alike.raise {g : Bool} {a b : Squad} (h : Squad.Alike g a b) (f : Fl) : Squad.Alike g (a.raise f) (b.raise f) :=
  h.map (fun s => s.raise f) fun _ _ _ _ _ _ _ _ => rfl

theorem Squad.Alike.v {g : Bool} {a b : Squad} (h : Squad.Alike g a b) (i ln : Nat) : a.v i ln = b.v i ln := by rw [h.eq_with]; rfl
theorem Squad.Alike.k {g : Bool} {a b : Squad} (h : Squad.Alike g a b) (i ln : Nat) : a.k i ln = b.k i ln := by rw [h.eq_with]; rfl
theorem Squad.Alike.h {g : Bool} {a b : Squad} (h : Squad.Alike g a b) (i ln : Nat) : a.h i ln = b.h i ln := by rw [h.eq_with]; rfl
theorem Squad.Alike.mask {g : Bool} {a b : Squad} (h : Squad.Alike g a b) (i : Nat) : a.mask i = b.mask i := by rw [h.eq_with]; rfl
theorem Squad.Alike.fpcr {g : Bool} {a b : Squad} (h : Squad.Alike g a b) : a.fpcr = b.fpcr := by rw [h.eq_with]
theorem Squad.Alike.q {g : Bool} {a b : Squad} (h : Squad.Alike g a b) (ln : Nat) : (a.lane ln).q = (b.lane ln).q := by
  have := congrArg Lane.q (h.lane ln)
  simpa [Lane.bare] using this
theorem Squad.Alike.qbit {g : Bool} {a b : Squad} (h : Squad.Alike g a b) (ln i : Nat) : (a.lane ln).qbit i = (b.lane ln).qbit i := by
  simp only [Lane.qbit, h.q]

theorem Squad.Alike.write {g : Bool} {a b : Squad} (h : Squad.Alike g a b) (ln : Nat) (o : Opnd) (t : Ty) (x : DWord) :
    Squad.Alike g (a.write ln o t x) (b.write ln o t x) := by
  cases o with
  | v i n ab hi =>
    simp only [Squad.write]
    split
    · exact (h.setV _ _ _).setV _ _ _
    · split
      · exact h.setHalf _ _ _ _
      · exact h.setV _ _ _
  | k i =>
    simp only [Squad.write, h.k]
    split
    · exact (h.setK _ _ _).setK _ _ _
    · split
      · exact h.setK _ _ _
      · exact h.setK _ _ _
  | h i =>
    simp only [Squad.write, h.h]
    split
    · exact (h.setH _ _ _).setH _ _ _
    · split
      · exact h.setH _ _ _
      · exact h.setH _ _ _
  | q i n =>
    simp only [Squad.write]
    refine h.setLane _ _ fun l l' => Lane.bare_map (fun l => l.setQ i.toNat (x != 0)) fun l c b w v a => ?_
    unfold Lane.setQ
    split <;> rfl
  | _ => exact h

theorem Squad.Alike.takeDraws {g : Bool} {a b : Squad} (h : Squad.Alike g a b) (n ln : Nat) :
    Squad.Alike g (Machine.takeDraws n ln a) (Machine.takeDraws n ln b) := by
  unfold Machine.takeDraws
  split
  · exact h
  · exact h.setLane ln _ fun _ _ => Lane.bare_map (fun l => { l with srcnt := l.srcnt + BitVec.ofNat 64 n }) fun _ _ _ _ _ _ => rfl

theorem Squad.Alike.putFl {g : Bool} {a b : Squad} (h : Squad.Alike g a b) (n : Nat) (d : Opnd) (t : Ty) (v : DWord × Fl) (ln : Nat) :
    Squad.Alike g (Machine.putFl n d t v ln a) (Machine.putFl n d t v ln b) := ((h.takeDraws n ln).write ln d t v.1).raise v.2

theorem Squad.Alike.ranLanes {g : Bool} {a b : Squad} (h : Squad.Alike g a b) (f : Nat → Squad → Squad)
    (hf : ∀ ln x y, Squad.Alike g x y → Squad.Alike g (f ln x) (f ln y)) (lns : List Nat) :
    Squad.Alike g (Machine.ranLanes f lns a) (Machine.ranLanes f lns b) := by
  induction lns generalizing a b with
  | nil => exact h
  | cons ln t ih => exact ih ((hf ln _ _ h).advance ln)

/-! ### Environments -/

theorem readOp_alike {g : Bool} {e e' : Env} (h : Env.Alike g e e') (ln : Nat) (o : Opnd) (t : Ty) : readOp e ln o t = readOp e' ln o t := by
  cases o <;> simp only [readOp, h.s.v, h.s.k, h.s.h, h.s.mask, h.s.qbit, h.g, h.sq]
theorem readN32_alike {g : Bool} {e e' : Env} (h : Env.Alike g e e') (ln : Nat) (o : Opnd) : readN32 e ln o = readN32 e' ln o := by
  simp only [readN32, readOp_alike h]
theorem readN64_alike {g : Bool} {e e' : Env} (h : Env.Alike g e e') (ln : Nat) (o : Opnd) : readN64 e ln o = readN64 e' ln o := by
  simp only [readN64, readOp_alike h]
theorem readQ_alike {g : Bool} {e e' : Env} (h : Env.Alike g e e') (ln : Nat) (o : Opnd) : readQ e ln o = readQ e' ln o := by
  simp only [readQ, readOp_alike h]
theorem readBlock_alike {g : Bool} {e e' : Env} (h : Env.Alike g e e') (ln : Nat) (o : Opnd) (n : Nat) : readBlock e ln o n = readBlock e' ln o n := by
  cases o <;> simp only [readBlock, h.s.v, h.g, h.sq]
theorem opInt_alike {g : Bool} {e e' : Env} (h : Env.Alike g e e') (ln : Nat) (t : Ty) (o : Opnd) : opInt e ln t o = opInt e' ln t o := by
  simp only [opInt, readOp_alike h]

/-! ### Kept -/

theorem Kept.refl (u : Nat) (d : Dev) : Kept u d d := ⟨rfl, fun _ _ => rfl, fun _ => rfl, fun _ => rfl⟩
theorem Kept.trans {u : Nat} {a b c : Dev} (h : Kept u a b) (k : Kept u b c) : Kept u a c :=
  ⟨k.rest.trans h.rest, fun v hv => (k.squads v hv).trans (h.squads v hv), fun n => (k.cores n).trans (h.cores n),
    fun n => (k.clusters n).trans (h.clusters n)⟩

theorem kept_setSquad (d : Dev) (u : Nat) (f : Squad → Squad) : Kept u d (setSquad d u f) :=
  ⟨rfl, fun v hv => by simp [hv], fun _ => rfl, fun _ => rfl⟩

/-- What stands of squad u, gathers counted. -/
abbrev Near (u : Nat) (d d' : Dev) : Prop := Stands false u d d'

theorem Near.refl (u : Nat) (d : Dev) : Near u d d := ⟨.refl u d, rfl, .refl _⟩
theorem Near.trans {u : Nat} {a b c : Dev} (h : Near u a b) (k : Near u b c) : Near u a c :=
  ⟨h.kept.trans k.kept, k.here.trans h.here, k.alike.trans h.alike⟩

theorem near_setSquad (d : Dev) (u : Nat) (f : Squad → Squad) (hf : ∀ s, Squad.Alike false (f s) s) : Near u d (setSquad d u f) := by
  refine ⟨kept_setSquad d u f, by simp, ?_⟩
  simp only [squadOf, fgetD, fget_setSquad, if_true]
  cases fget d.squads u with
  | none => exact .refl _
  | some s => exact hf s

theorem coreOf_setCore (d : Dev) (k n : Nat) (f : Core → Core) : coreOf (setCore d k f) n = if n = k then f (coreOf d k) else coreOf d n := by
  simp only [coreOf, setCore, fgetD, fget_fput]; split <;> rfl
theorem clusterOf_setCluster (d : Dev) (k n : Nat) (f : Cluster → Cluster) :
    clusterOf (setCluster d k f) n = if n = k then f (clusterOf d k) else clusterOf d n := by
  simp only [clusterOf, setCluster, fgetD, fget_fput]; split <;> rfl

theorem near_enterExecute (d : Dev) (core : Nat) (r : Raw) (u : Nat) : Near u d (enterExecute d core r) := by
  unfold enterExecute
  have h1 : ∀ x n, Near u d (setCore d core fun k => { k with
      exec := x :: k.exec, clock := true, events := fset 0 k.events (n + 1) (fgetD k.events (n + 1) 0 + 1) }) := fun x n =>
    ⟨⟨rfl, fun _ _ => rfl, fun n => by rw [coreOf_setCore]; split <;> simp_all, fun _ => rfl⟩, rfl, .refl _⟩
  simp only
  split
  · refine (h1 _ _).trans ⟨⟨rfl, fun _ _ => rfl, fun _ => rfl, fun n => by rw [clusterOf_setCluster]; split <;> simp_all⟩, rfl, .refl _⟩
  · exact h1 _ _

theorem alike_issued (lns : List Nat) (s : Squad) :
    Squad.Alike false (lns.foldl (fun s ln => s.setLane ln fun l => { l with issued := true }) s) s := by
  induction lns generalizing s with
  | nil => exact .refl s
  | cons ln t ih =>
    refine (ih _).trans ⟨rfl, fun j => ?_⟩
    rw [lane_setLane]
    split
    · rename_i e; subst e
      cases fget s.lanes j <;> rfl
    · rfl

theorem near_startExecute (d : Dev) (u : Nat) (lns : List Nat) (r : Raw) : Near u d (startExecute d u lns r) := by
  unfold startExecute
  split
  · exact .refl u d
  · exact (near_enterExecute d _ r u).trans (near_setSquad _ u _ (alike_issued lns))

theorem alike_claims (c : Nat) (lns : List Nat) (s : Squad) :
    Squad.Alike false (lns.foldl (fun s ln => s.setLane ln fun l => if l.claim.isSome then l else { l with claim := some c }) s) s := by
  induction lns generalizing s with
  | nil => exact .refl s
  | cons ln t ih =>
    refine (ih _).trans ⟨rfl, fun j => ?_⟩
    rw [lane_setLane]
    split
    · rename_i e; subst e
      cases fget s.lanes j with
      | none => rfl
      | some l =>
        simp only [Option.map_some, Option.some.injEq]
        split <;> rfl
    · rfl

theorem near_takeClaim (d : Dev) (u : Nat) (lns : List Nat) (f : Option Nat) : Near u d (takeClaim d u lns f) := by
  cases f with
  | none => exact .refl u d
  | some f =>
    unfold takeClaim
    refine (near_setSquad d u _ fun s => (alike_claims d.fresh lns _).trans ?_).trans ⟨⟨rfl, fun _ _ => rfl, fun _ => rfl, fun _ => rfl⟩, rfl, .refl _⟩
    exact ⟨rfl, fun _ => rfl⟩

theorem near_begun (r : Raw) (d : Dev) (u : Nat) (lns : List Nat) : Near u d (begun r d u lns) :=
  (near_startExecute d u lns r).trans (near_takeClaim _ u lns _)

theorem near_settleClaims (d : Dev) (u : Nat) : Near u d (settleClaims d u) := by
  unfold settleClaims
  split
  · exact .refl u d
  · generalize (squadOf d u).claims = l
    rename_i hh
    clear hh
    induction l generalizing d with
    | nil => exact .refl u d
    | cons p t ih =>
      simp only [List.foldl_cons]
      split
      · exact ih d
      · exact Near.trans (near_setSquad d u (fun s => s.dropClaim p.1 p.2) fun s => ⟨rfl, fun _ => rfl⟩) (ih _)

theorem near_undoAdd (d : Dev) (u : Nat) (x : Undo) : Near u d (undoAdd d u x) := by
  refine near_setSquad d u _ fun s => ?_
  split
  · exact ⟨rfl, fun _ => rfl⟩
  · split <;> exact ⟨rfl, fun _ => rfl⟩

theorem near_logUndo (a b : Dev) (u : Nat) (r : Raw) (e : Bool) : Near u b (logUndo a b u r e) := by
  simp only [logUndo]
  split
  · exact .refl u b
  · split
    · exact .refl u b
    · exact near_undoAdd b u _

theorem near_sweepWalks (d : Dev) (u : Nat) : Near u d (sweepWalks d) :=
  ⟨⟨rfl, fun _ _ => rfl, fun _ => rfl, fun _ => rfl⟩, rfl, .refl _⟩

theorem near_ended (r : Raw) (a b : Dev) (u : Nat) : Near u b (ended r a b u) :=
  ((near_logUndo a b u r _).trans (near_settleClaims _ u)).trans (near_sweepWalks _ u)

theorem groupOf_begun (r : Raw) (d : Dev) (u : Nat) (lns : List Nat) (g : Nat) : groupOf (begun r d u lns) g = groupOf d g := by
  have := (near_begun r d u lns).kept.rest
  have := congrArg Dev.groups this
  simp only [groupOf]
  rw [show (begun r d u lns).groups = d.groups from this]

theorem begunEnv_alike (r : Raw) (d : Dev) (u : Nat) (lns : List Nat) : Env.Alike false (begunEnv r d u lns) (envOf d u lns) :=
  ⟨(near_begun r d u lns).alike, groupOf_begun r d u lns _, rfl, rfl, rfl, rfl⟩

/-- Every instruction of the common path that nothing holds back runs its effect. -/
theorem runsWhen_issueChk {i : Instr} {chk : Dev → Env → Nat → Chk} {act eff : Env → List Nat → Dev → Dev} {ok : Env → List Nat → Dev → Prop}
    (hi : ∀ s, exec i s = onDev (issueChk (rawOf i) chk act) s) (he : ∀ e lns d, ok e lns d → act e lns d = eff e lns d) : RunsWhen i chk ok eff := by
  intro s u lns h hk
  rw [hi s, onDev, issueChk_clear h, he _ _ _ hk]

theorem runsTo_issueChk {i : Instr} {chk : Dev → Env → Nat → Chk} {act : Env → List Nat → Dev → Dev}
    (hi : ∀ s, exec i s = onDev (issueChk (rawOf i) chk act) s) : RunsTo i chk act := runsWhen_issueChk hi fun _ _ _ _ => rfl

/-- Steps that agree wherever their condition holds come to the same. -/
theorem foldl_allOk {ok : Dev → Nat → Prop} {f g : Dev → Nat → Dev} (h : ∀ d ln, ok d ln → f d ln = g d ln) (lns : List Nat) (d : Dev)
    (hk : allOk ok g d lns) : lns.foldl f d = lns.foldl g d := by
  induction lns generalizing d with
  | nil => rfl
  | cons ln t ih =>
    obtain ⟨h1, h2⟩ := hk
    rw [List.foldl_cons, List.foldl_cons, h d ln h1]
    exact ih _ h2

/-- A form that each lane does on its own completes where each lane's step is the one said. -/
theorem runsLanes_issueChk {i : Instr} {chk : Dev → Env → Nat → Chk} {f g : Env → Dev → Nat → Dev} {ok : Env → Dev → Nat → Prop}
    (hi : ∀ s, exec i s = onDev (issueChk (rawOf i) chk fun e lns d => lns.foldl (f e) d) s) (h : ∀ e d ln, ok e d ln → f e d ln = g e d ln) :
    RunsLanes i chk ok g := runsWhen_issueChk hi fun e lns d hk => foldl_allOk (h e) lns d hk

/-! ### Register forms -/

theorem applyRegs_eq (f : Env → Nat → Squad → Squad) (e : Env) (lns : List Nat) (d : Dev) :
    applyRegs f e lns d = setSquad d e.sq (ranLanes (f e) lns) := rfl

/-- A register form that raises no flag completes. -/
theorem writesRegs_applyRegs {i : Instr} {f : Env → Nat → Squad → Squad} (hi : ∀ s, exec i s = onDev (issue (rawOf i) (applyRegs f)) s)
    (hf : ∀ e ln x y, Squad.Alike false x y → Squad.Alike false (f e ln x) (f e ln y)) (he : ∀ e e', Env.Alike false e e' → f e = f e') :
    WritesRegs i always f := by
  intro s u lns h _
  refine ⟨_, (hi s).trans rfl, rfl, rfl, ?_⟩
  have hb := near_begun (rawOf i) s.dev u lns
  have ha := begunEnv_alike (rawOf i) s.dev u lns
  rw [issue_clear h, applyRegs_eq, he _ _ ha]
  have hn := near_ended (rawOf i) (begun (rawOf i) s.dev u lns) (setSquad (begun (rawOf i) s.dev u lns) u (ranLanes (f (envOf s.dev u lns)) lns)) u
  refine ⟨(hb.kept.trans (kept_setSquad _ u _)).trans hn.kept, hn.alike.trans ?_⟩
  rw [squadOf_setSquad _ (by rw [hb.here]; exact h.squad)]
  exact hb.alike.ranLanes _ (fun ln x y => hf _ ln x y) lns

/-- A form that raises flags none of which traps. -/
theorem applyOut_eq {f : Env → Nat → Squad → Out} {keep : Env → Nat → Squad → Squad} {e : Env} {lns : List Nat} {d : Dev}
    (hs : (fget d.squads e.sq).isSome = true) (hq : ∀ ln ∈ lns, ∀ q, flTraps e.s.fpcr (f e ln q).fl = false) :
    Kept e.sq d (applyOut f keep e lns d) ∧
      squadOf (applyOut f keep e lns d) e.sq = ranLanes (fun ln q => (f e ln q).s.raise (f e ln q).fl) lns (squadOf d e.sq) := by
  induction lns generalizing d with
  | nil => exact ⟨.refl _ d, rfl⟩
  | cons ln t ih =>
    have h0 := hq ln (List.mem_cons_self ..) (squadOf d e.sq)
    have step : applyOut f keep e (ln :: t) d = applyOut f keep e t (setSquad d e.sq fun _ =>
        ((f e ln (squadOf d e.sq)).s.raise (f e ln (squadOf d e.sq)).fl).setLane ln Lane.advance) := by
      simp only [applyOut, List.foldl_cons, h0]
      rfl
    have hs' : ∀ g, (fget (setSquad d e.sq g).squads e.sq).isSome = true := fun g => by simpa using hs
    obtain ⟨k1, k2⟩ := ih (hs' fun _ => ((f e ln (squadOf d e.sq)).s.raise (f e ln (squadOf d e.sq)).fl).setLane ln Lane.advance)
      fun l hl => hq l (List.mem_cons_of_mem _ hl)
    rw [step]
    refine ⟨(kept_setSquad d e.sq _).trans k1, ?_⟩
    rw [k2, squadOf_setSquad _ hs]
    rfl

/-- A form whose lanes each get a value and raise flags completes where no enabled trap is met. -/
theorem givesFl_applyOut {i : Instr} {n : Nat} {d : Opnd} {t : Ty} {v : Env → Nat → DWord × Fl} {keep : Env → Nat → Squad → Squad}
    (hi : ∀ s, exec i s = onDev (issue (rawOf i) (applyOut (fun e ln s => ⟨(takeDraws n ln s).write ln d t (v e ln).1, (v e ln).2⟩) keep)) s)
    (he : ∀ e e', Env.Alike false e e' → v e = v e') : GivesFl i n d t v := by
  intro s u lns h hok
  rw [hi s]
  refine ⟨_, rfl, rfl, rfl, ?_⟩
  have hb := near_begun (rawOf i) s.dev u lns
  have ha := begunEnv_alike (rawOf i) s.dev u lns
  rw [issue_clear h]
  generalize hE : begunEnv (rawOf i) s.dev u lns = E at ha ⊢
  have hu : E.sq = u := by rw [← hE]; rfl
  generalize begun (rawOf i) s.dev u lns = D at hb ⊢
  have hx := applyOut_eq (f := fun e ln s => ⟨(takeDraws n ln s).write ln d t (v e ln).1, (v e ln).2⟩) (keep := keep) (e := E) (lns := lns) (d := D)
    (by rw [hu, hb.here]; exact h.squad) (by
      intro ln hl q
      simp only [he _ _ ha, ha.s.fpcr]
      exact hok ln hl)
  rw [hu] at hx
  obtain ⟨hx1, hx2⟩ := hx
  generalize applyOut (fun e ln s => ⟨(takeDraws n ln s).write ln d t (v e ln).1, (v e ln).2⟩) keep E lns D = A at hx1 hx2 ⊢
  have hn := near_ended (rawOf i) D A u
  refine ⟨(hb.kept.trans hx1).trans hn.kept, hn.alike.trans ?_⟩
  rw [hx2]
  simp only [he _ _ ha]
  exact hb.alike.ranLanes (fun ln q => putFl n d t (v (envOf s.dev u lns) ln) ln q) (fun ln x y k => k.putFl n d t _ ln) lns

/-- A form that gives each lane one value and raises no flag completes. -/
theorem gives_regForm {i : Instr} {d : Opnd} {t : Ty} {v : Env → Nat → DWord} (hi : ∀ s, exec i s = onDev (issue (rawOf i) (regForm t d v)) s)
    (he : ∀ e e', Env.Alike false e e' → v e = v e') : Gives i d t v :=
  writesRegs_applyRegs hi (fun _ ln _ _ k => k.write ln d t _) fun e e' h => by simp only [he e e' h]

end Sys2Proof.Machine
end

