-- ==== Sys2Proof/Laws/Gather.lean ====
section
/-! SUPPORT. Gathers whose lanes all arrive at once (R92). -/
namespace Sys2Proof

variable {β : Type}

theorem mem_fkeys (m : FMap β) (k : Nat) : k ∈ fkeys m ↔ (fget m k).isSome = true := by
  induction m with
  | nil => simp [fkeys]
  | cons p t ih =>
    obtain ⟨a, b⟩ := p
    simp only [fkeys, List.map_cons, List.mem_cons, fget]
    by_cases h : a = k
    · simp [h]
    · simpa [h, Ne.symm h, fkeys] using ih

theorem fget_map (m : FMap β) (k : Nat) (f : β → β) : fget (m.map fun p => (p.1, f p.2)) k = (fget m k).map f := by
  induction m with
  | nil => rfl
  | cons p t ih =>
    obtain ⟨a, b⟩ := p
    simp only [List.map_cons, fget]
    split
    · rfl
    · exact ih

theorem sadd_last {s : NSet} {k : Nat} (h : ∀ a ∈ s, a < k) : sadd s k = s ++ [k] := by
  induction s with
  | nil => rfl
  | cons a t ih =>
    have h1 : a < k := h a (List.mem_cons_self ..)
    have h2 : ¬k < a := by omega
    have h3 : ¬k = a := by omega
    simp [sadd, h2, h3, ih fun b hb => h b (List.mem_cons_of_mem _ hb)]

theorem sunion_rising {s t : NSet} (ht : t.Pairwise (· < ·)) (h : ∀ a ∈ s, ∀ b ∈ t, a < b) : sunion s t = s ++ t := by
  induction t generalizing s with
  | nil => simp [sunion]
  | cons k t ih =>
    rw [List.pairwise_cons] at ht
    have e : sunion s (k :: t) = sunion (sadd s k) t := rfl
    rw [e, sadd_last fun a ha => h a ha k (List.mem_cons_self ..), ih ht.2]
    · simp
    · intro a ha b hb
      rcases List.mem_append.1 ha with ha | ha
      · exact h a ha b (List.mem_cons_of_mem _ hb)
      · rw [List.mem_singleton.1 ha]; exact ht.1 b hb

theorem sunion_nil_rising {t : NSet} (ht : t.Pairwise (· < ·)) : sunion [] t = t := by
  rw [sunion_rising ht (by simp)]; rfl

namespace Machine

theorem mem_gatherSet_alike {g : Bool} {a b : Squad} (h : Squad.Alike g a b) (m : Option Nat) (ln : Nat) :
    ln ∈ a.gatherSet m ↔ ln ∈ b.gatherSet m := by
  have hk : (fget a.lanes ln).isSome = (fget b.lanes ln).isSome := by
    have := congrArg Option.isSome (h.2 ln)
    simpa using this
  unfold Squad.gatherSet
  rw [List.mem_filter, List.mem_filter, mem_fkeys, mem_fkeys, hk]
  cases m with
  | none => simp
  | some i => simp only [h.mask]

theorem alike_waits (w : Wait) (lns : List Nat) (s : Squad) :
    Squad.Alike true (lns.foldl (fun s ln => s.setLane ln fun l => { l with wait := w }) s) s := by
  induction lns generalizing s with
  | nil => exact .refl s
  | cons ln t ih =>
    refine (ih _).trans ⟨rfl, fun j => ?_⟩
    rw [lane_setLane]
    split
    · rename_i e; subst e
      cases fget s.lanes j <;> rfl
    · rfl

theorem alike_meet (f : Nat → Lane → Lane) (hf : ∀ ln l, (f ln l).bare true = l.bare true) (lns : List Nat) (s : Squad) :
    Squad.Alike true (lns.foldl (fun s ln => s.setLane ln (f ln)) s) s := by
  induction lns generalizing s with
  | nil => exact .refl s
  | cons ln t ih =>
    refine (ih _).trans ⟨rfl, fun j => ?_⟩
    rw [lane_setLane]
    split
    · rename_i e; subst e
      cases hs : fget s.lanes j with
      | none => rfl
      | some l => simp [hf]
    · rfl

/-- What stands of squad u when gathers are left out. -/
abbrev NearG (u : Nat) (d d' : Dev) : Prop := Stands true u d d'

theorem NearG.refl (u : Nat) (d : Dev) : NearG u d d := ⟨.refl u d, rfl, .refl _⟩
theorem NearG.trans {u : Nat} {a b c : Dev} (h : NearG u a b) (k : NearG u b c) : NearG u a c :=
  ⟨h.kept.trans k.kept, k.here.trans h.here, k.alike.trans h.alike⟩
theorem Near.weaken {u : Nat} {a b : Dev} (h : Near u a b) : NearG u a b := ⟨h.kept, h.here, h.alike.weaken⟩

theorem nearG_setSquad (d : Dev) (u : Nat) (f : Squad → Squad) (hf : ∀ s, Squad.Alike true (f s) s) : NearG u d (setSquad d u f) := by
  refine ⟨kept_setSquad d u f, by simp, ?_⟩
  simp only [squadOf, fgetD, fget_setSquad, if_true]
  cases fget d.squads u with
  | none => exact .refl _
  | some s => exact hf s

theorem nearG_holdLanes (d : Dev) (u : Nat) (w : Wait) (lns : List Nat) : NearG u d (holdLanes d u w lns) := by
  unfold holdLanes
  split
  · exact .refl u d
  · exact nearG_setSquad d u _ fun s => alike_waits w lns s

theorem nearG_meetClocks (d : Dev) (u : Nat) (lns : List Nat) : NearG u d (meetClocks d u lns) := by
  unfold meetClocks
  exact nearG_setSquad d u _ fun s => alike_meet (fun ln l => (l.acquire (joinClocks d u lns) 0 false).release (tidOf u ln)) (fun _ _ => rfl) lns s

theorem groupOf_kept {u : Nat} {d d' : Dev} (h : Kept u d d') (g : Nat) : groupOf d' g = groupOf d g := by
  have := congrArg Dev.groups h.rest
  simp only [groupOf]
  rw [show d'.groups = d.groups from this]

/-- An instance that is not over stays where it is. -/
theorem fget_closeInsts {s : Squad} {k : Nat} {g : GInst} (h : fget s.insts k = some g)
    (ho : ((s.instNow g).closed && (s.instNow g).arrived.isEmpty) = false) : fget s.closeInsts.insts k = some (s.instNow g) := by
  unfold Squad.closeInsts
  simp only
  generalize s.insts = l at h
  induction l with
  | nil => cases h
  | cons p t ih =>
    obtain ⟨a, b⟩ := p
    simp only [fget] at h
    simp only [List.filterMap_cons]
    by_cases e : a = k
    · rw [if_pos e] at h
      cases h
      simp [ho, fget, e]
    · rw [if_neg e] at h
      split
      · exact ih h
      · rename_i hb
        split at hb
        · cases hb
        · cases hb
          rw [fget, if_neg e]
          exact ih h

/-- An instance to which every lane of its set has come, and no other, is complete. -/
theorem instNow_full {s : Squad} {m : Option Nat} {lns : List Nat} (h : ∀ ln, ln ∈ s.gatherSet m ↔ ln ∈ lns) :
    s.instNow { mask := m, arrived := lns } = { mask := m, arrived := lns, closed := true } := by
  have e1 : lns.filter (fun ln => (s.gatherSet m).contains ln) = lns := List.filter_eq_self.2 fun ln hl => by simpa using (h ln).2 hl
  have e2 : s.instDone { mask := m, arrived := lns } = true := by
    unfold Squad.instDone
    rw [List.all_eq_true]
    exact fun ln hl => by simp [shas, (h ln).1 hl]
  simp only [Squad.instNow, Bool.false_eq_true, if_false, e1, e2, if_true]

/-- When every lane of a gather arrives at once, the gather runs its effect on them at once. -/
theorem gatherAct_full {m : Option Nat} {done : Env → List Nat → Dev → Dev} {e : Env} {d D : Dev} {u : Nat} {lns : List Nat}
    (hg : Gathered m d u lns) (hn : Near u d D) (hs : (fget d.squads u).isSome = true) (hl : lns ≠ [])
    (hq : e.sq = u) (hes : e.s = squadOf D u) (hp : e.pc = (laneOf d u (lns.headD 0)).pc) :
    gatherAct m done e lns D = done
      { e with s := { squadOf (arrivedAt m e.pc u lns D) u with insts := fdel (squadOf (arrivedAt m e.pc u lns D) u).insts (instKey e.pc m) }
               g := groupOf (arrivedAt m e.pc u lns D) (squadOf (arrivedAt m e.pc u lns D) u).group } lns
      (meetClocks (setSquad (arrivedAt m e.pc u lns D) u fun s => { s with insts := fdel s.insts (instKey e.pc m) }) u lns) := by
  obtain ⟨hall, hr, hlev, hfr⟩ := hg
  have hD : (fget D.squads u).isSome = true := by rw [hn.here]; exact hs
  have hmem : ∀ ln, ln ∈ (squadOf D u).gatherSet m ↔ ln ∈ lns := fun ln => by rw [mem_gatherSet_alike hn.alike, hall]
  have hins : (squadOf D u).insts = (squadOf d u).insts := by
    have := congrArg Squad.insts hn.alike.bare
    exact this
  have hdep : ∀ ln, ((squadOf D u).lane ln).depth = (laneOf d u ln).depth := fun ln => by
    have := congrArg Lane.depth (hn.alike.lane ln)
    simpa [Lane.bare, laneOf] using this
  have hsole : lns.filter (fun ln => ((e.s.lane ln).depth ≠ 0 : Bool) ||
      !((e.s.gatherSet m).contains ln || ((instAt e.s e.pc m).closed && shas (instAt e.s e.pc m).arrived ln))) = [] := by
    refine filter_none_of_all fun ln hln => ?_
    rw [hes, hdep, hlev ln hln]
    simp [(hmem ln).2 hln]
  have hrest : lns.filter (fun ln => !(((e.s.lane ln).depth ≠ 0 : Bool) ||
      !((e.s.gatherSet m).contains ln || ((instAt e.s e.pc m).closed && shas (instAt e.s e.pc m).arrived ln)))) = lns := by
    refine List.filter_eq_self.2 fun ln hln => ?_
    rw [hes, hdep, hlev ln hln]
    simp [(hmem ln).2 hln]
  have hne : lns.isEmpty = false := by cases lns <;> simp_all
  have hg0 : instAt (squadOf D u) e.pc m = { mask := m } := by
    unfold instAt fgetD
    rw [hins, hp, hfr]
    rfl
  have hagain : lns.filter (fun ln => !shas ([] : NSet) ln && (false || shas ([] : NSet) ln)) = [] :=
    filter_none_of_all fun ln _ => by simp [shas]
  have harr : lns.filter (fun ln => !([] : List Nat).contains ln) = lns := List.filter_eq_self.2 fun ln _ => by simp
  have n1 : NearG u D (holdLanes D u .gather lns) := nearG_holdLanes D u .gather lns
  have p1 : (fget (holdLanes D u .gather lns).squads u).isSome = true := by rw [n1.here]; exact hD
  have hg2 : instAt (squadOf (arrivedAt m e.pc u lns D) u) e.pc m = { mask := m, arrived := lns, closed := true } := by
    unfold instAt fgetD
    rw [show arrivedAt m e.pc u lns D = setSquad (holdLanes D u .gather lns) u _ from rfl, squadOf_setSquad _ p1]
    have hset : ∀ ln, ln ∈ (squadOf (holdLanes D u .gather lns) u).gatherSet m ↔ ln ∈ lns := fun ln =>
      (mem_gatherSet_alike n1.alike m ln).trans (hmem ln)
    have hnow := instNow_full (s := { squadOf (holdLanes D u .gather lns) u with
      insts := fput (squadOf (holdLanes D u .gather lns) u).insts (instKey e.pc m) { mask := m, arrived := lns } }) hset
    rw [fget_closeInsts (s := { squadOf (holdLanes D u .gather lns) u with
      insts := fput (squadOf (holdLanes D u .gather lns) u).insts (instKey e.pc m) { mask := m, arrived := lns } })
      (g := { mask := m, arrived := lns }) (by simp) (by rw [hnow]; simpa using hne), hnow]
    rfl
  obtain ⟨d2, hd2⟩ : ∃ x, x = arrivedAt m e.pc u lns D := ⟨_, rfl⟩
  have hd3 : d2 = setSquad (holdLanes D u .gather lns) u fun s =>
      ({ s with insts := fput s.insts (instKey e.pc m) { mask := m, arrived := lns } } : Squad).closeInsts := hd2
  rw [← hd2] at hg2 ⊢
  clear hd2
  unfold gatherAct
  simp only
  rw [hsole, hrest]
  simp only [List.foldl_nil, hne, hq, Bool.false_eq_true, if_false]
  rw [hg0]
  simp only
  rw [hagain, harr, sunion_nil_rising hr]
  simp only [holdLanes_nil]
  simp only [← hd3]
  simp only [hg2, hne, Bool.not_false, Bool.and_self, if_true]

theorem nearG_arrivedAt (m : Option Nat) (pc : Pc) (u : Nat) (lns : List Nat) (D : Dev) : NearG u D (arrivedAt m pc u lns D) :=
  (nearG_holdLanes D u .gather lns).trans (nearG_setSquad _ u _ fun _ => ⟨rfl, fun _ => rfl⟩)

/-- But for the gather itself, its effect finds the squad and all else as they stood. -/
theorem nearG_gathered (r : Raw) (m : Option Nat) (d : Dev) (u : Nat) (lns : List Nat) : NearG u d (gathered r m d u lns) :=
  ((near_begun r d u lns).weaken.trans (nearG_arrivedAt m _ u lns _)).trans
    ((nearG_setSquad _ u (fun s => { s with insts := fdel s.insts (instKey (envOf d u lns).pc m) }) fun _ => ⟨rfl, fun _ => rfl⟩).trans
      (nearG_meetClocks _ u lns))

/-- The effect of a gathering form reads what stood at issue. -/
theorem gatheredEnv_alike (r : Raw) (m : Option Nat) (d : Dev) (u : Nat) (lns : List Nat) : Env.Alike true (gatheredEnv r m d u lns) (envOf d u lns) := by
  have hb := near_begun r d u lns
  have n2 := nearG_arrivedAt m (envOf d u lns).pc u lns (begun r d u lns)
  refine ⟨?_, ?_, rfl, rfl, rfl, rfl⟩
  · have k0 : Squad.Alike true (gatheredEnv r m d u lns).s (squadOf (arrivedAt m (envOf d u lns).pc u lns (begun r d u lns)) u) := ⟨rfl, fun _ => rfl⟩
    exact (k0.trans n2.alike).trans hb.alike.weaken
  · have g2 : (squadOf (arrivedAt m (envOf d u lns).pc u lns (begun r d u lns)) u).group = (squadOf d u).group := by
      rw [n2.alike.eq_with, hb.alike.eq_with]
    show groupOf _ (squadOf (arrivedAt m (envOf d u lns).pc u lns (begun r d u lns)) u).group = _
    rw [g2, groupOf_kept n2.kept, groupOf_kept hb.kept]
    rfl

/-- A gathering form that nothing holds back and whose lanes all arrive at once. -/
theorem issueGather_gathered {i : Instr} {mo : Opnd} {m : Option Nat} {chk : Dev → Env → Nat → Chk} {done : Env → List Nat → Dev → Dev}
    {d : Dev} {u : Nat} {lns : List Nat} (hm : maskOf mo = m) (h : Clear (rawOf i) chk d u lns) (hg : Gathered m d u lns) :
    issueGather (rawOf i) mo chk done d = ended (rawOf i) (begun (rawOf i) d u lns)
      (done (gatheredEnv (rawOf i) m d u lns) lns (gathered (rawOf i) m d u lns)) u := by
  rw [issueGather_clear h, hm,
    gatherAct_full (done := done) hg (near_begun (rawOf i) d u lns) h.squad h.lanes (e := begunEnv (rawOf i) d u lns) rfl rfl rfl]
  rfl

/-- A gathering form whose lanes all arrive at once runs its effect on all of them. -/
theorem runsGathered_issueGather {i : Instr} {mo : Opnd} {m : Option Nat} {chk : Dev → Env → Nat → Chk} {done eff : Env → List Nat → Dev → Dev}
    {ok : Env → List Nat → Dev → Prop} (hi : ∀ s, exec i s = onDev (issueGather (rawOf i) mo chk done) s) (hm : maskOf mo = m)
    (he : ∀ e lns d, ok e lns d → done e lns d = eff e lns d) : RunsGathered i m chk ok eff := by
  intro s u lns h hg hk
  rw [hi s, onDev, issueGather_gathered hm h hg, he _ _ _ hk]

/-- Results per participant where no flag traps: each lane takes its draws, raises its flags, makes its write and goes on. -/
theorem applyEach_eq {n : Nat} {rs : List (Nat × (Squad → Squad) × Fl)} {e : Env} {d : Dev} (hs : (fget d.squads e.sq).isSome = true)
    (ht : ∀ p ∈ rs, flTraps e.s.fpcr p.2.2 = false) :
    Kept e.sq d (applyEach n rs e d) ∧ squadOf (applyEach n rs e d) e.sq =
      rs.foldl (fun q p => (p.2.1 (takeDraws n p.1 (q.raise p.2.2))).setLane p.1 Lane.advance) (squadOf d e.sq) := by
  induction rs generalizing d with
  | nil => exact ⟨.refl _ d, rfl⟩
  | cons p t ih =>
    have h0 := ht p (List.mem_cons_self ..)
    have step : applyEach n (p :: t) e d = applyEach n t e (setSquad (setSquad d e.sq fun s => takeDraws n p.1 (s.raise p.2.2)) e.sq
        fun s => (p.2.1 s).setLane p.1 Lane.advance) := by
      simp only [applyEach, List.foldl_cons, h0]
      rfl
    have h1 : ∀ g, (fget (setSquad d e.sq g).squads e.sq).isSome = true := fun g => by simpa using hs
    have h2 : ∀ g k, (fget (setSquad (setSquad d e.sq g) e.sq k).squads e.sq).isSome = true := fun g k => by simpa using hs
    obtain ⟨k1, k2⟩ := ih (h2 (fun s => takeDraws n p.1 (s.raise p.2.2)) fun s => (p.2.1 s).setLane p.1 Lane.advance)
      fun q hq => ht q (List.mem_cons_of_mem _ hq)
    rw [step]
    refine ⟨((kept_setSquad d e.sq _).trans (kept_setSquad _ e.sq _)).trans k1, ?_⟩
    rw [k2, squadOf_setSquad _ (h1 _), squadOf_setSquad _ hs]
    rfl

theorem lane_ranLanes_wait (f : Nat → Squad → Squad) (hf : ∀ ln q j, (((f ln q).lane j).wait = (q.lane j).wait)) (lns : List Nat) (s : Squad) (ln : Nat)
    (h : ln ∈ lns ∨ (s.lane ln).wait = .run) : ((ranLanes f lns s).lane ln).wait = .run := by
  induction lns generalizing s with
  | nil => simpa [ranLanes] using h
  | cons a t ih =>
    have step : ranLanes f (a :: t) s = ranLanes f t ((f a s).setLane a Lane.advance) := rfl
    rw [step]
    apply ih
    by_cases hat : ln ∈ t
    · exact .inl hat
    · right
      have hw := hf a s ln
      simp only [Squad.lane, fgetD, lane_setLane] at hw h ⊢
      by_cases e : ln = a
      · subst e
        simp only [if_true]
        cases fget (f ln s).lanes ln <;> rfl
      · rw [if_neg e, hw]
        rcases h with h | h
        · simp [e, hat] at h
        · exact h

/-- A gathering form that then writes registers of its participants completes at once when they all arrive at once. -/
theorem gatherWrites_of {i : Instr} {mo : Opnd} {m : Option Nat} {ok : Env → List Nat → Prop}
    {done : Env → List Nat → Dev → Dev} {f : Env → List Nat → Nat → Squad → Squad}
    (hi : ∀ s, exec i s = onDev (issueGather (rawOf i) mo noChk done) s) (hm : maskOf mo = m)
    (he : ∀ e e' lns, Env.Alike true e e' → f e lns = f e' lns) (hok : ∀ e e' lns, Env.Alike true e e' → ok e' lns → ok e lns)
    (hf : ∀ e lns ln x y, Squad.Alike true x y → Squad.Alike true (f e lns ln x) (f e lns ln y))
    (hw : ∀ e lns ln q j, ((f e lns ln q).lane j).wait = (q.lane j).wait)
    (hrs : ∀ e lns d, lns.Pairwise (· < ·) → (fget d.squads e.sq).isSome = true → ok e lns →
      Kept e.sq d (done e lns d) ∧ squadOf (done e lns d) e.sq = ranLanes (f e lns) lns (squadOf d e.sq)) : GatherWrites i m ok f := by
  intro s u lns h hg hk
  rw [hi s]
  refine ⟨_, rfl, rfl, rfl, ?_⟩
  simp only
  rw [issueGather_gathered hm h hg]
  have hDD := nearG_gathered (rawOf i) m s.dev u lns
  have hE2 := gatheredEnv_alike (rawOf i) m s.dev u lns
  generalize hE : gatheredEnv (rawOf i) m s.dev u lns = E' at hE2 ⊢
  generalize gathered (rawOf i) m s.dev u lns = D' at hDD ⊢
  generalize begun (rawOf i) s.dev u lns = D
  have hu' : E'.sq = u := hE2.sq
  have hx := hrs E' lns D' hg.rising (by rw [hu', hDD.here]; exact h.squad) (hok _ _ lns hE2 hk)
  rw [hu', he _ _ lns hE2] at hx
  obtain ⟨hx1, hx2⟩ := hx
  generalize done E' lns D' = A at hx1 hx2 ⊢
  have hn := near_ended (rawOf i) D A u
  have hal : Squad.Alike false (squadOf (ended (rawOf i) D A u) u) (ranLanes (f (envOf s.dev u lns) lns) lns (squadOf D' u)) := by
    rw [← hx2]; exact hn.alike
  refine ⟨(hDD.kept.trans hx1).trans hn.kept, ?_, ?_⟩
  · exact hal.weaken.trans (hDD.alike.ranLanes _ (fun ln x y => hf _ _ ln x y) lns)
  · intro ln hln
    have := hal.lane ln
    have hw' := lane_ranLanes_wait (f (envOf s.dev u lns) lns) (fun ln q j => hw _ _ ln q j) lns (squadOf D' u) ln (.inl hln)
    have e := congrArg Lane.wait this
    simp only [Lane.bare, Bool.false_eq_true, if_false] at e
    exact e.trans hw'

/-- Results per participant: each takes its draws, raises its flags and makes its write. -/
theorem applyEach_ranLanes {n : Nat} {e : Env} {lns : List Nat} {d : Dev} {f : Nat → Squad → Squad} {fl : Nat → Fl}
    (hs : (fget d.squads e.sq).isSome = true) (ht : ∀ ln ∈ lns, flTraps e.s.fpcr (fl ln) = false) :
    Kept e.sq d (applyEach n (lns.map fun ln => (ln, f ln, fl ln)) e d) ∧
      squadOf (applyEach n (lns.map fun ln => (ln, f ln, fl ln)) e d) e.sq =
        ranLanes (fun ln q => f ln (takeDraws n ln (q.raise (fl ln)))) lns (squadOf d e.sq) := by
  have h := applyEach_eq (n := n) (rs := lns.map fun ln => (ln, f ln, fl ln)) (e := e) (d := d) hs (by
    intro p hp
    obtain ⟨ln, hl, rfl⟩ := List.mem_map.1 hp
    exact ht ln hl)
  refine ⟨h.1, h.2.trans ?_⟩
  rw [List.foldl_map]
  rfl

theorem flTraps_zero (c : BitVec 5) : flTraps c 0 = false := by simp [flTraps]

theorem raise_zero (s : Squad) : s.raise 0 = s := by
  unfold Squad.raise
  rw [show s.fpsr ||| (0 : Fl) = s.fpsr from BitVec.or_zero]

theorem write_wait (s : Squad) (ln : Nat) (o : Opnd) (t : Ty) (x : DWord) (j : Nat) : ((s.write ln o t x).lane j).wait = (s.lane j).wait := by
  cases o with
  | v i n a h =>
    simp only [Squad.write]
    split <;> [rfl; (split <;> [(simp only [Squad.setHalf]; split <;> rfl); rfl])]
  | k i => simp only [Squad.write]; split <;> [rfl; (split <;> rfl)]
  | h i => simp only [Squad.write]; split <;> [rfl; (split <;> rfl)]
  | q i n =>
    simp only [Squad.write, Squad.lane, fgetD, lane_setLane]
    split
    · rename_i e
      subst e
      cases fget s.lanes j with
      | none => rfl
      | some l => simp only [Option.map_some, Option.getD_some, Lane.setQ]; split <;> rfl
    · rfl
  | _ => rfl

theorem takeDraws_wait (s : Squad) (n ln j : Nat) : ((takeDraws n ln s).lane j).wait = (s.lane j).wait := by
  unfold takeDraws
  split
  · rfl
  · simp only [Squad.lane, fgetD, lane_setLane]
    split
    · rename_i e
      subst e
      cases fget s.lanes j <;> rfl
    · rfl

end Machine
end Sys2Proof
end

