-- ==== Sys2Proof/Laws/Memory.lean ====
section
/-! SUPPORT. Memory: what a read gives after a write, and that every operation on it keeps its canonical form. -/
namespace Sys2Proof.Machine

theorem wf_iff (m : List Host.Cell) : Memory.wf m = true ↔ fsorted m = true ∧ ∀ c ∈ m, c.2 ≠ memDefault := by
  simp [Memory.wf, List.all_eq_true]

/-- A read after a write of one byte where memory stands: the byte written there, every other as before. -/
theorem memRead_memWrite (m : List Host.Cell) (a x : Nat) (b : Byte) (h : noMemory a = false) :
    memRead (memWrite m a b) x = if x = a then b else memRead m x := by
  by_cases hx : x = a
  · subst hx; simp [memRead, memWrite, fgetD_fset, h]
  · simp [memRead, memWrite, fgetD_fset, h, hx]

/-- A write where no memory stands changes nothing. -/
theorem memWrite_none (m : List Host.Cell) (a : Nat) (b : Byte) (h : noMemory a = true) : memWrite m a b = m := by simp [memWrite, h]

/-- A write leaves every other byte as it was. -/
theorem memRead_memWrite_ne (m : List Host.Cell) (a x : Nat) (b : Byte) (h : x ≠ a) : memRead (memWrite m a b) x = memRead m x := by
  cases hn : noMemory a
  · rw [memRead_memWrite m a x b hn, if_neg h]
  · rw [memWrite_none m a b hn]

theorem memWrite_wf {m : List Host.Cell} (a : Nat) (b : Byte) (h : Memory.wf m = true) : Memory.wf (memWrite m a b) = true := by
  cases hn : noMemory a
  case true => rw [memWrite_none m a b hn]; exact h
  have e : memWrite m a b = fset memDefault m a b := by simp [memWrite, hn]
  rw [e]
  rw [wf_iff] at *
  refine ⟨fsorted_fset _ _ _ h.1, ?_⟩
  intro c hc
  unfold fset at hc
  split at hc
  · exact h.2 c (fdel_subset hc)
  · rcases fput_mem hc with rfl | hm
    · assumption
    · exact h.2 c hm

theorem foldl_wf {α : Type} {f : List Host.Cell → α → List Host.Cell} (hf : ∀ m a, Memory.wf m = true → Memory.wf (f m a) = true)
    (l : List α) (m : List Host.Cell) (h : Memory.wf m = true) : Memory.wf (l.foldl f m) = true := by
  induction l generalizing m with
  | nil => exact h
  | cons a t ih => exact ih _ (hf _ _ h)

/-- An operation on the device keeps memory's canonical form. -/
def KeepsMem (f : Dev → Dev) : Prop := ∀ d, Memory.wf d.mem = true → Memory.wf (f d).mem = true

theorem KeepsMem.comp {f g : Dev → Dev} (hf : KeepsMem f) (hg : KeepsMem g) : KeepsMem fun d => f (g d) := fun d h => hf _ (hg d h)
theorem KeepsMem.same {f : Dev → Dev} (h : ∀ d, (f d).mem = d.mem) : KeepsMem f := fun d hd => by rw [h]; exact hd
theorem KeepsMem.foldl {α : Type} {f : Dev → α → Dev} (hf : ∀ a, KeepsMem fun d => f d a) (l : List α) : KeepsMem fun d => l.foldl f d := by
  intro d h
  induction l generalizing d with
  | nil => exact h
  | cons a t ih => exact ih _ (hf a d h)

theorem keepsMem_sysPut (a : Nat) (b : Byte) : KeepsMem fun d => sysPut d a b := fun _ h => memWrite_wf a b h
theorem keepsMem_sysWrite (a : Nat) (b : Byte) : KeepsMem fun d => sysWrite d a b := fun _ h => memWrite_wf a b h

theorem keepsMem_l2CleanLine (ln : Nat) : KeepsMem fun d => l2CleanLine d ln := by
  intro d h
  show Memory.wf (l2CleanLine d ln).mem = true
  unfold l2CleanLine
  split
  · exact foldl_wf (fun m i hm => by split; exact memWrite_wf _ _ hm; exact hm) _ _ h
  · exact h

theorem keepsMem_l2Evict (k : Nat) : KeepsMem fun d => l2Evict d k :=
  KeepsMem.foldl (f := fun d i => l2CleanLine d (k * 4 + i)) (fun _ => keepsMem_l2CleanLine _) _

theorem keepsMem_l2MakeFuel (k ln n : Nat) : KeepsMem fun d => l2MakeFuel k d ln n := by
  induction k with
  | zero => exact fun _ h => h
  | succ k ih =>
    intro d h
    show Memory.wf (l2MakeFuel (k + 1) d ln n).mem = true
    unfold l2MakeFuel
    split
    · exact h
    · dsimp only
      split
      · exact ih _ (keepsMem_l2Evict _ d h)
      · exact h

theorem keepsMem_l2Make (ln n : Nat) : KeepsMem fun d => l2Make d ln n := fun d h => keepsMem_l2MakeFuel d.l2.length ln n d h

theorem keepsMem_l2Write (a : Nat) (b : Byte) : KeepsMem fun d => l2Write d a b := fun d h => keepsMem_l2Make (lineOf a) _ d h

theorem keepsMem_putByte (a : Nat) (b : Byte) (p : Pol) : KeepsMem fun d => putByte d a b p := by
  cases p
  · exact keepsMem_l2Write a b
  · exact keepsMem_l2Write a b
  · exact keepsMem_sysWrite a b
  · exact keepsMem_sysWrite a b

theorem keepsMem_l1WriteBack (set ln : Nat) : KeepsMem fun d => l1WriteBack d set ln := by
  intro d h
  show Memory.wf (l1WriteBack d set ln).mem = true
  unfold l1WriteBack
  split
  · next l _ => exact KeepsMem.foldl (f := fun d i => if l.dirty.getLsbD i then l2Write d (ln * 128 + i) (l.byte i) else d) (fun i d hd => by dsimp only; split; exact keepsMem_l2Write _ _ _ hd; exact hd) _ _ h
  · exact h

theorem keepsMem_l1Drop (set ln : Nat) : KeepsMem fun d => l1Drop d set ln := fun d h => keepsMem_l1WriteBack set ln d h

theorem keepsMem_l1Fill (set ln : Nat) : KeepsMem fun d => l1Fill d set ln := by
  intro d h
  show Memory.wf (l1Fill d set ln).mem = true
  unfold l1Fill
  split <;> exact h

theorem keepsMem_l1Write (set a : Nat) (b : Byte) (by_ : Clock) : KeepsMem fun d => l1Write d set a b by_ :=
  fun d h => keepsMem_l1Fill set (lineOf a) d h

theorem keepsMem_l1Update (set a : Nat) (b : Byte) : KeepsMem fun d => l1Update d set a b := .same fun _ => rfl

theorem keepsMem_widen (set ln : Nat) (p : Pol) : KeepsMem fun d => widen d set ln p := by
  intro d h
  show Memory.wf (widen d set ln p).mem = true
  unfold widen
  dsimp only
  split
  · exact keepsMem_l2CleanLine ln _ (keepsMem_l1Drop set ln d h)
  · exact keepsMem_l1Drop set ln d h

theorem keepsMem_loadPrep (set ln : Nat) (p : Pol) (acq : Nat) : KeepsMem fun d => loadPrep d set ln p acq := by
  intro d h
  show Memory.wf (loadPrep d set ln p acq).mem = true
  unfold loadPrep
  split
  · refine keepsMem_l1Fill set ln _ ?_
    split
    · split
      · exact keepsMem_l1Drop set ln d h
      · exact h
    · exact h
  · exact keepsMem_widen set ln p d h

theorem keepsMem_storeByte (set a : Nat) (b : Byte) (p : Pol) (by_ : Clock) : KeepsMem fun d => storeByte d set a b p by_ := by
  intro d h
  show Memory.wf (storeByte d set a b p by_).mem = true
  unfold storeByte
  split
  · exact keepsMem_l1Write set a b by_ d h
  · exact keepsMem_putByte a b p d h

theorem keepsMem_storeBytes (set a : Nat) (bs : List (Option Byte)) (p : Pol) (by_ : Clock) : KeepsMem fun d => storeBytes d set a bs p by_ := by
  induction bs generalizing a with
  | nil => exact fun d h => h
  | cons b t ih =>
    intro d h
    cases b with
    | none => exact ih (a + 1) d h
    | some b => exact ih (a + 1) _ (keepsMem_storeByte set a b p by_ d h)

theorem keepsMem_l2WriteBytes (a : Nat) (bs : List Byte) : KeepsMem fun d => l2WriteBytes d a bs := by
  induction bs generalizing a with
  | nil => exact fun d h => h
  | cons b t ih => exact fun d h => ih (a + 1) (l2Write d a b) (keepsMem_l2Write a b d h)

theorem keepsMem_sysWriteBytes (a : Nat) (bs : List Byte) : KeepsMem fun d => sysWriteBytes d a bs := by
  induction bs generalizing a with
  | nil => exact fun d h => h
  | cons b t ih => exact fun d h => ih (a + 1) (sysWrite d a b) (keepsMem_sysWrite a b d h)

theorem keepsMem_invalidateLine (ln : Nat) : KeepsMem fun d => invalidateLine d ln :=
  fun d h => keepsMem_l2CleanLine ln _ (KeepsMem.foldl (f := fun d s => l1Drop d s ln) (fun s => keepsMem_l1Drop s ln) _ d h)

theorem keysAbove_filter {n : Nat} {m : List Host.Cell} (p : Host.Cell → Bool) (h : keysAbove n m) : keysAbove n (m.filter p) :=
  fun c hc => h c (List.mem_filter.mp hc).1

/-- What power loss leaves of memory keeps its form (R322). -/
theorem filter_wf {m : List Host.Cell} (p : Host.Cell → Bool) (h : Memory.wf m = true) : Memory.wf (m.filter p) = true := by
  rw [wf_iff] at *
  refine ⟨?_, fun c hc => h.2 c (List.mem_filter.mp hc).1⟩
  obtain ⟨h1, -⟩ := h
  induction m with
  | nil => rfl
  | cons c t ih =>
    obtain ⟨a, b⟩ := c
    rw [fsorted_cons] at h1
    have := ih h1.2
    rw [List.filter_cons]
    split
    · rw [fsorted_cons]; exact ⟨keysAbove_filter p h1.1, this⟩
    · exact this

theorem wf_losePower {s : State} (h : Memory.wf s.dev.mem = true) : Memory.wf (losePower s).dev.mem = true := filter_wf _ h
theorem wf_reset : Memory.wf State.reset.dev.mem = true := rfl

/-- Of one store of a byte, the byte reads back at its policy for the set that stored it (R160, R290). -/
theorem l2Byte_sysPut (d : Dev) (a : Nat) (b : Byte) (h : noMemory a = false) : memRead (sysPut d a b).mem a = b := by
  show memRead (memWrite d.mem a b) a = b
  simp [memRead_memWrite _ _ _ _ h]

end Sys2Proof.Machine
end

