-- ==== Sys2Proof/Laws/State.lean ====
section
/-! SUPPORT. What each named update of the state leaves of each field: one lemma for each field it leaves alone, true by unfolding. -/
namespace Sys2Proof.Machine

/-! ### setSquad -/
@[simp] theorem setSquad_turns (d : Dev) (u : Nat) (f : Squad → Squad) : (setSquad d u f).turns = d.turns := rfl
@[simp] theorem setSquad_tick (d : Dev) (u : Nat) (f : Squad → Squad) : (setSquad d u f).tick = d.tick := rfl
@[simp] theorem setSquad_fresh (d : Dev) (u : Nat) (f : Squad → Squad) : (setSquad d u f).fresh = d.fresh := rfl
@[simp] theorem setSquad_cur (d : Dev) (u : Nat) (f : Squad → Squad) : (setSquad d u f).cur = d.cur := rfl
@[simp] theorem setSquad_mem (d : Dev) (u : Nat) (f : Squad → Squad) : (setSquad d u f).mem = d.mem := rfl
@[simp] theorem setSquad_l2 (d : Dev) (u : Nat) (f : Squad → Squad) : (setSquad d u f).l2 = d.l2 := rfl
@[simp] theorem setSquad_l1 (d : Dev) (u : Nat) (f : Squad → Squad) : (setSquad d u f).l1 = d.l1 := rfl
@[simp] theorem setSquad_fetch (d : Dev) (u : Nat) (f : Squad → Squad) : (setSquad d u f).fetch = d.fetch := rfl
@[simp] theorem setSquad_tlb (d : Dev) (u : Nat) (f : Squad → Squad) : (setSquad d u f).tlb = d.tlb := rfl
@[simp] theorem setSquad_walks (d : Dev) (u : Nat) (f : Squad → Squad) : (setSquad d u f).walks = d.walks := rfl
@[simp] theorem setSquad_poison (d : Dev) (u : Nat) (f : Squad → Squad) : (setSquad d u f).poison = d.poison := rfl
@[simp] theorem setSquad_marks (d : Dev) (u : Nat) (f : Squad → Squad) : (setSquad d u f).marks = d.marks := rfl
@[simp] theorem setSquad_tags (d : Dev) (u : Nat) (f : Squad → Squad) : (setSquad d u f).tags = d.tags := rfl
@[simp] theorem setSquad_rels (d : Dev) (u : Nat) (f : Squad → Squad) : (setSquad d u f).rels = d.rels := rfl
@[simp] theorem setSquad_scratch (d : Dev) (u : Nat) (f : Squad → Squad) : (setSquad d u f).scratch = d.scratch := rfl
@[simp] theorem setSquad_scPoison (d : Dev) (u : Nat) (f : Squad → Squad) : (setSquad d u f).scPoison = d.scPoison := rfl
@[simp] theorem setSquad_opbuf (d : Dev) (u : Nat) (f : Squad → Squad) : (setSquad d u f).opbuf = d.opbuf := rfl
@[simp] theorem setSquad_bPoison (d : Dev) (u : Nat) (f : Squad → Squad) : (setSquad d u f).bPoison = d.bPoison := rfl
@[simp] theorem setSquad_groups (d : Dev) (u : Nat) (f : Squad → Squad) : (setSquad d u f).groups = d.groups := rfl
@[simp] theorem setSquad_accs (d : Dev) (u : Nat) (f : Squad → Squad) : (setSquad d u f).accs = d.accs := rfl
@[simp] theorem setSquad_cmds (d : Dev) (u : Nat) (f : Squad → Squad) : (setSquad d u f).cmds = d.cmds := rfl
@[simp] theorem setSquad_reqs (d : Dev) (u : Nat) (f : Squad → Squad) : (setSquad d u f).reqs = d.reqs := rfl
@[simp] theorem setSquad_cores (d : Dev) (u : Nat) (f : Squad → Squad) : (setSquad d u f).cores = d.cores := rfl
@[simp] theorem setSquad_samplers (d : Dev) (u : Nat) (f : Squad → Squad) : (setSquad d u f).samplers = d.samplers := rfl
@[simp] theorem setSquad_clusters (d : Dev) (u : Nat) (f : Squad → Squad) : (setSquad d u f).clusters = d.clusters := rfl
@[simp] theorem setSquad_quays (d : Dev) (u : Nat) (f : Squad → Squad) : (setSquad d u f).quays = d.quays := rfl
@[simp] theorem setSquad_queues (d : Dev) (u : Nat) (f : Squad → Squad) : (setSquad d u f).queues = d.queues := rfl
@[simp] theorem setSquad_items (d : Dev) (u : Nat) (f : Squad → Squad) : (setSquad d u f).items = d.items := rfl
@[simp] theorem setSquad_shards (d : Dev) (u : Nat) (f : Squad → Squad) : (setSquad d u f).shards = d.shards := rfl
@[simp] theorem setSquad_tables (d : Dev) (u : Nat) (f : Squad → Squad) : (setSquad d u f).tables = d.tables := rfl
@[simp] theorem setSquad_watches (d : Dev) (u : Nat) (f : Squad → Squad) : (setSquad d u f).watches = d.watches := rfl
@[simp] theorem setSquad_drops (d : Dev) (u : Nat) (f : Squad → Squad) : (setSquad d u f).drops = d.drops := rfl
@[simp] theorem setSquad_host (d : Dev) (u : Nat) (f : Squad → Squad) : (setSquad d u f).host = d.host := rfl
@[simp] theorem setSquad_ages (d : Dev) (u : Nat) (f : Squad → Squad) : (setSquad d u f).ages = d.ages := rfl
/-! ### setLane -/
@[simp] theorem setLane_turns (d : Dev) (u ln : Nat) (f : Lane → Lane) : (setLane d u ln f).turns = d.turns := rfl
@[simp] theorem setLane_tick (d : Dev) (u ln : Nat) (f : Lane → Lane) : (setLane d u ln f).tick = d.tick := rfl
@[simp] theorem setLane_fresh (d : Dev) (u ln : Nat) (f : Lane → Lane) : (setLane d u ln f).fresh = d.fresh := rfl
@[simp] theorem setLane_cur (d : Dev) (u ln : Nat) (f : Lane → Lane) : (setLane d u ln f).cur = d.cur := rfl
@[simp] theorem setLane_mem (d : Dev) (u ln : Nat) (f : Lane → Lane) : (setLane d u ln f).mem = d.mem := rfl
@[simp] theorem setLane_l2 (d : Dev) (u ln : Nat) (f : Lane → Lane) : (setLane d u ln f).l2 = d.l2 := rfl
@[simp] theorem setLane_l1 (d : Dev) (u ln : Nat) (f : Lane → Lane) : (setLane d u ln f).l1 = d.l1 := rfl
@[simp] theorem setLane_fetch (d : Dev) (u ln : Nat) (f : Lane → Lane) : (setLane d u ln f).fetch = d.fetch := rfl
@[simp] theorem setLane_tlb (d : Dev) (u ln : Nat) (f : Lane → Lane) : (setLane d u ln f).tlb = d.tlb := rfl
@[simp] theorem setLane_walks (d : Dev) (u ln : Nat) (f : Lane → Lane) : (setLane d u ln f).walks = d.walks := rfl
@[simp] theorem setLane_poison (d : Dev) (u ln : Nat) (f : Lane → Lane) : (setLane d u ln f).poison = d.poison := rfl
@[simp] theorem setLane_marks (d : Dev) (u ln : Nat) (f : Lane → Lane) : (setLane d u ln f).marks = d.marks := rfl
@[simp] theorem setLane_tags (d : Dev) (u ln : Nat) (f : Lane → Lane) : (setLane d u ln f).tags = d.tags := rfl
@[simp] theorem setLane_rels (d : Dev) (u ln : Nat) (f : Lane → Lane) : (setLane d u ln f).rels = d.rels := rfl
@[simp] theorem setLane_scratch (d : Dev) (u ln : Nat) (f : Lane → Lane) : (setLane d u ln f).scratch = d.scratch := rfl
@[simp] theorem setLane_scPoison (d : Dev) (u ln : Nat) (f : Lane → Lane) : (setLane d u ln f).scPoison = d.scPoison := rfl
@[simp] theorem setLane_opbuf (d : Dev) (u ln : Nat) (f : Lane → Lane) : (setLane d u ln f).opbuf = d.opbuf := rfl
@[simp] theorem setLane_bPoison (d : Dev) (u ln : Nat) (f : Lane → Lane) : (setLane d u ln f).bPoison = d.bPoison := rfl
@[simp] theorem setLane_groups (d : Dev) (u ln : Nat) (f : Lane → Lane) : (setLane d u ln f).groups = d.groups := rfl
@[simp] theorem setLane_accs (d : Dev) (u ln : Nat) (f : Lane → Lane) : (setLane d u ln f).accs = d.accs := rfl
@[simp] theorem setLane_cmds (d : Dev) (u ln : Nat) (f : Lane → Lane) : (setLane d u ln f).cmds = d.cmds := rfl
@[simp] theorem setLane_reqs (d : Dev) (u ln : Nat) (f : Lane → Lane) : (setLane d u ln f).reqs = d.reqs := rfl
@[simp] theorem setLane_cores (d : Dev) (u ln : Nat) (f : Lane → Lane) : (setLane d u ln f).cores = d.cores := rfl
@[simp] theorem setLane_samplers (d : Dev) (u ln : Nat) (f : Lane → Lane) : (setLane d u ln f).samplers = d.samplers := rfl
@[simp] theorem setLane_clusters (d : Dev) (u ln : Nat) (f : Lane → Lane) : (setLane d u ln f).clusters = d.clusters := rfl
@[simp] theorem setLane_quays (d : Dev) (u ln : Nat) (f : Lane → Lane) : (setLane d u ln f).quays = d.quays := rfl
@[simp] theorem setLane_queues (d : Dev) (u ln : Nat) (f : Lane → Lane) : (setLane d u ln f).queues = d.queues := rfl
@[simp] theorem setLane_items (d : Dev) (u ln : Nat) (f : Lane → Lane) : (setLane d u ln f).items = d.items := rfl
@[simp] theorem setLane_shards (d : Dev) (u ln : Nat) (f : Lane → Lane) : (setLane d u ln f).shards = d.shards := rfl
@[simp] theorem setLane_tables (d : Dev) (u ln : Nat) (f : Lane → Lane) : (setLane d u ln f).tables = d.tables := rfl
@[simp] theorem setLane_watches (d : Dev) (u ln : Nat) (f : Lane → Lane) : (setLane d u ln f).watches = d.watches := rfl
@[simp] theorem setLane_drops (d : Dev) (u ln : Nat) (f : Lane → Lane) : (setLane d u ln f).drops = d.drops := rfl
@[simp] theorem setLane_host (d : Dev) (u ln : Nat) (f : Lane → Lane) : (setLane d u ln f).host = d.host := rfl
@[simp] theorem setLane_ages (d : Dev) (u ln : Nat) (f : Lane → Lane) : (setLane d u ln f).ages = d.ages := rfl
/-! ### setGroup -/
@[simp] theorem setGroup_turns (d : Dev) (g : Nat) (f : Group → Group) : (setGroup d g f).turns = d.turns := rfl
@[simp] theorem setGroup_tick (d : Dev) (g : Nat) (f : Group → Group) : (setGroup d g f).tick = d.tick := rfl
@[simp] theorem setGroup_fresh (d : Dev) (g : Nat) (f : Group → Group) : (setGroup d g f).fresh = d.fresh := rfl
@[simp] theorem setGroup_cur (d : Dev) (g : Nat) (f : Group → Group) : (setGroup d g f).cur = d.cur := rfl
@[simp] theorem setGroup_mem (d : Dev) (g : Nat) (f : Group → Group) : (setGroup d g f).mem = d.mem := rfl
@[simp] theorem setGroup_l2 (d : Dev) (g : Nat) (f : Group → Group) : (setGroup d g f).l2 = d.l2 := rfl
@[simp] theorem setGroup_l1 (d : Dev) (g : Nat) (f : Group → Group) : (setGroup d g f).l1 = d.l1 := rfl
@[simp] theorem setGroup_fetch (d : Dev) (g : Nat) (f : Group → Group) : (setGroup d g f).fetch = d.fetch := rfl
@[simp] theorem setGroup_tlb (d : Dev) (g : Nat) (f : Group → Group) : (setGroup d g f).tlb = d.tlb := rfl
@[simp] theorem setGroup_walks (d : Dev) (g : Nat) (f : Group → Group) : (setGroup d g f).walks = d.walks := rfl
@[simp] theorem setGroup_poison (d : Dev) (g : Nat) (f : Group → Group) : (setGroup d g f).poison = d.poison := rfl
@[simp] theorem setGroup_marks (d : Dev) (g : Nat) (f : Group → Group) : (setGroup d g f).marks = d.marks := rfl
@[simp] theorem setGroup_tags (d : Dev) (g : Nat) (f : Group → Group) : (setGroup d g f).tags = d.tags := rfl
@[simp] theorem setGroup_rels (d : Dev) (g : Nat) (f : Group → Group) : (setGroup d g f).rels = d.rels := rfl
@[simp] theorem setGroup_scratch (d : Dev) (g : Nat) (f : Group → Group) : (setGroup d g f).scratch = d.scratch := rfl
@[simp] theorem setGroup_scPoison (d : Dev) (g : Nat) (f : Group → Group) : (setGroup d g f).scPoison = d.scPoison := rfl
@[simp] theorem setGroup_opbuf (d : Dev) (g : Nat) (f : Group → Group) : (setGroup d g f).opbuf = d.opbuf := rfl
@[simp] theorem setGroup_bPoison (d : Dev) (g : Nat) (f : Group → Group) : (setGroup d g f).bPoison = d.bPoison := rfl
@[simp] theorem setGroup_squads (d : Dev) (g : Nat) (f : Group → Group) : (setGroup d g f).squads = d.squads := rfl
@[simp] theorem setGroup_accs (d : Dev) (g : Nat) (f : Group → Group) : (setGroup d g f).accs = d.accs := rfl
@[simp] theorem setGroup_cmds (d : Dev) (g : Nat) (f : Group → Group) : (setGroup d g f).cmds = d.cmds := rfl
@[simp] theorem setGroup_reqs (d : Dev) (g : Nat) (f : Group → Group) : (setGroup d g f).reqs = d.reqs := rfl
@[simp] theorem setGroup_cores (d : Dev) (g : Nat) (f : Group → Group) : (setGroup d g f).cores = d.cores := rfl
@[simp] theorem setGroup_samplers (d : Dev) (g : Nat) (f : Group → Group) : (setGroup d g f).samplers = d.samplers := rfl
@[simp] theorem setGroup_clusters (d : Dev) (g : Nat) (f : Group → Group) : (setGroup d g f).clusters = d.clusters := rfl
@[simp] theorem setGroup_quays (d : Dev) (g : Nat) (f : Group → Group) : (setGroup d g f).quays = d.quays := rfl
@[simp] theorem setGroup_queues (d : Dev) (g : Nat) (f : Group → Group) : (setGroup d g f).queues = d.queues := rfl
@[simp] theorem setGroup_items (d : Dev) (g : Nat) (f : Group → Group) : (setGroup d g f).items = d.items := rfl
@[simp] theorem setGroup_shards (d : Dev) (g : Nat) (f : Group → Group) : (setGroup d g f).shards = d.shards := rfl
@[simp] theorem setGroup_tables (d : Dev) (g : Nat) (f : Group → Group) : (setGroup d g f).tables = d.tables := rfl
@[simp] theorem setGroup_watches (d : Dev) (g : Nat) (f : Group → Group) : (setGroup d g f).watches = d.watches := rfl
@[simp] theorem setGroup_drops (d : Dev) (g : Nat) (f : Group → Group) : (setGroup d g f).drops = d.drops := rfl
@[simp] theorem setGroup_host (d : Dev) (g : Nat) (f : Group → Group) : (setGroup d g f).host = d.host := rfl
@[simp] theorem setGroup_ages (d : Dev) (g : Nat) (f : Group → Group) : (setGroup d g f).ages = d.ages := rfl
/-! ### setCore -/
@[simp] theorem setCore_turns (d : Dev) (k : Nat) (f : Core → Core) : (setCore d k f).turns = d.turns := rfl
@[simp] theorem setCore_tick (d : Dev) (k : Nat) (f : Core → Core) : (setCore d k f).tick = d.tick := rfl
@[simp] theorem setCore_fresh (d : Dev) (k : Nat) (f : Core → Core) : (setCore d k f).fresh = d.fresh := rfl
@[simp] theorem setCore_cur (d : Dev) (k : Nat) (f : Core → Core) : (setCore d k f).cur = d.cur := rfl
@[simp] theorem setCore_mem (d : Dev) (k : Nat) (f : Core → Core) : (setCore d k f).mem = d.mem := rfl
@[simp] theorem setCore_l2 (d : Dev) (k : Nat) (f : Core → Core) : (setCore d k f).l2 = d.l2 := rfl
@[simp] theorem setCore_l1 (d : Dev) (k : Nat) (f : Core → Core) : (setCore d k f).l1 = d.l1 := rfl
@[simp] theorem setCore_fetch (d : Dev) (k : Nat) (f : Core → Core) : (setCore d k f).fetch = d.fetch := rfl
@[simp] theorem setCore_tlb (d : Dev) (k : Nat) (f : Core → Core) : (setCore d k f).tlb = d.tlb := rfl
@[simp] theorem setCore_walks (d : Dev) (k : Nat) (f : Core → Core) : (setCore d k f).walks = d.walks := rfl
@[simp] theorem setCore_poison (d : Dev) (k : Nat) (f : Core → Core) : (setCore d k f).poison = d.poison := rfl
@[simp] theorem setCore_marks (d : Dev) (k : Nat) (f : Core → Core) : (setCore d k f).marks = d.marks := rfl
@[simp] theorem setCore_tags (d : Dev) (k : Nat) (f : Core → Core) : (setCore d k f).tags = d.tags := rfl
@[simp] theorem setCore_rels (d : Dev) (k : Nat) (f : Core → Core) : (setCore d k f).rels = d.rels := rfl
@[simp] theorem setCore_scratch (d : Dev) (k : Nat) (f : Core → Core) : (setCore d k f).scratch = d.scratch := rfl
@[simp] theorem setCore_scPoison (d : Dev) (k : Nat) (f : Core → Core) : (setCore d k f).scPoison = d.scPoison := rfl
@[simp] theorem setCore_opbuf (d : Dev) (k : Nat) (f : Core → Core) : (setCore d k f).opbuf = d.opbuf := rfl
@[simp] theorem setCore_bPoison (d : Dev) (k : Nat) (f : Core → Core) : (setCore d k f).bPoison = d.bPoison := rfl
@[simp] theorem setCore_squads (d : Dev) (k : Nat) (f : Core → Core) : (setCore d k f).squads = d.squads := rfl
@[simp] theorem setCore_groups (d : Dev) (k : Nat) (f : Core → Core) : (setCore d k f).groups = d.groups := rfl
@[simp] theorem setCore_accs (d : Dev) (k : Nat) (f : Core → Core) : (setCore d k f).accs = d.accs := rfl
@[simp] theorem setCore_cmds (d : Dev) (k : Nat) (f : Core → Core) : (setCore d k f).cmds = d.cmds := rfl
@[simp] theorem setCore_reqs (d : Dev) (k : Nat) (f : Core → Core) : (setCore d k f).reqs = d.reqs := rfl
@[simp] theorem setCore_samplers (d : Dev) (k : Nat) (f : Core → Core) : (setCore d k f).samplers = d.samplers := rfl
@[simp] theorem setCore_clusters (d : Dev) (k : Nat) (f : Core → Core) : (setCore d k f).clusters = d.clusters := rfl
@[simp] theorem setCore_quays (d : Dev) (k : Nat) (f : Core → Core) : (setCore d k f).quays = d.quays := rfl
@[simp] theorem setCore_queues (d : Dev) (k : Nat) (f : Core → Core) : (setCore d k f).queues = d.queues := rfl
@[simp] theorem setCore_items (d : Dev) (k : Nat) (f : Core → Core) : (setCore d k f).items = d.items := rfl
@[simp] theorem setCore_shards (d : Dev) (k : Nat) (f : Core → Core) : (setCore d k f).shards = d.shards := rfl
@[simp] theorem setCore_tables (d : Dev) (k : Nat) (f : Core → Core) : (setCore d k f).tables = d.tables := rfl
@[simp] theorem setCore_watches (d : Dev) (k : Nat) (f : Core → Core) : (setCore d k f).watches = d.watches := rfl
@[simp] theorem setCore_drops (d : Dev) (k : Nat) (f : Core → Core) : (setCore d k f).drops = d.drops := rfl
@[simp] theorem setCore_host (d : Dev) (k : Nat) (f : Core → Core) : (setCore d k f).host = d.host := rfl
@[simp] theorem setCore_ages (d : Dev) (k : Nat) (f : Core → Core) : (setCore d k f).ages = d.ages := rfl
/-! ### setCluster -/
@[simp] theorem setCluster_turns (d : Dev) (c : Nat) (f : Cluster → Cluster) : (setCluster d c f).turns = d.turns := rfl
@[simp] theorem setCluster_tick (d : Dev) (c : Nat) (f : Cluster → Cluster) : (setCluster d c f).tick = d.tick := rfl
@[simp] theorem setCluster_fresh (d : Dev) (c : Nat) (f : Cluster → Cluster) : (setCluster d c f).fresh = d.fresh := rfl
@[simp] theorem setCluster_cur (d : Dev) (c : Nat) (f : Cluster → Cluster) : (setCluster d c f).cur = d.cur := rfl
@[simp] theorem setCluster_mem (d : Dev) (c : Nat) (f : Cluster → Cluster) : (setCluster d c f).mem = d.mem := rfl
@[simp] theorem setCluster_l2 (d : Dev) (c : Nat) (f : Cluster → Cluster) : (setCluster d c f).l2 = d.l2 := rfl
@[simp] theorem setCluster_l1 (d : Dev) (c : Nat) (f : Cluster → Cluster) : (setCluster d c f).l1 = d.l1 := rfl
@[simp] theorem setCluster_fetch (d : Dev) (c : Nat) (f : Cluster → Cluster) : (setCluster d c f).fetch = d.fetch := rfl
@[simp] theorem setCluster_tlb (d : Dev) (c : Nat) (f : Cluster → Cluster) : (setCluster d c f).tlb = d.tlb := rfl
@[simp] theorem setCluster_walks (d : Dev) (c : Nat) (f : Cluster → Cluster) : (setCluster d c f).walks = d.walks := rfl
@[simp] theorem setCluster_poison (d : Dev) (c : Nat) (f : Cluster → Cluster) : (setCluster d c f).poison = d.poison := rfl
@[simp] theorem setCluster_marks (d : Dev) (c : Nat) (f : Cluster → Cluster) : (setCluster d c f).marks = d.marks := rfl
@[simp] theorem setCluster_tags (d : Dev) (c : Nat) (f : Cluster → Cluster) : (setCluster d c f).tags = d.tags := rfl
@[simp] theorem setCluster_rels (d : Dev) (c : Nat) (f : Cluster → Cluster) : (setCluster d c f).rels = d.rels := rfl
@[simp] theorem setCluster_scratch (d : Dev) (c : Nat) (f : Cluster → Cluster) : (setCluster d c f).scratch = d.scratch := rfl
@[simp] theorem setCluster_scPoison (d : Dev) (c : Nat) (f : Cluster → Cluster) : (setCluster d c f).scPoison = d.scPoison := rfl
@[simp] theorem setCluster_opbuf (d : Dev) (c : Nat) (f : Cluster → Cluster) : (setCluster d c f).opbuf = d.opbuf := rfl
@[simp] theorem setCluster_bPoison (d : Dev) (c : Nat) (f : Cluster → Cluster) : (setCluster d c f).bPoison = d.bPoison := rfl
@[simp] theorem setCluster_squads (d : Dev) (c : Nat) (f : Cluster → Cluster) : (setCluster d c f).squads = d.squads := rfl
@[simp] theorem setCluster_groups (d : Dev) (c : Nat) (f : Cluster → Cluster) : (setCluster d c f).groups = d.groups := rfl
@[simp] theorem setCluster_accs (d : Dev) (c : Nat) (f : Cluster → Cluster) : (setCluster d c f).accs = d.accs := rfl
@[simp] theorem setCluster_cmds (d : Dev) (c : Nat) (f : Cluster → Cluster) : (setCluster d c f).cmds = d.cmds := rfl
@[simp] theorem setCluster_reqs (d : Dev) (c : Nat) (f : Cluster → Cluster) : (setCluster d c f).reqs = d.reqs := rfl
@[simp] theorem setCluster_cores (d : Dev) (c : Nat) (f : Cluster → Cluster) : (setCluster d c f).cores = d.cores := rfl
@[simp] theorem setCluster_samplers (d : Dev) (c : Nat) (f : Cluster → Cluster) : (setCluster d c f).samplers = d.samplers := rfl
@[simp] theorem setCluster_quays (d : Dev) (c : Nat) (f : Cluster → Cluster) : (setCluster d c f).quays = d.quays := rfl
@[simp] theorem setCluster_queues (d : Dev) (c : Nat) (f : Cluster → Cluster) : (setCluster d c f).queues = d.queues := rfl
@[simp] theorem setCluster_items (d : Dev) (c : Nat) (f : Cluster → Cluster) : (setCluster d c f).items = d.items := rfl
@[simp] theorem setCluster_shards (d : Dev) (c : Nat) (f : Cluster → Cluster) : (setCluster d c f).shards = d.shards := rfl
@[simp] theorem setCluster_tables (d : Dev) (c : Nat) (f : Cluster → Cluster) : (setCluster d c f).tables = d.tables := rfl
@[simp] theorem setCluster_watches (d : Dev) (c : Nat) (f : Cluster → Cluster) : (setCluster d c f).watches = d.watches := rfl
@[simp] theorem setCluster_drops (d : Dev) (c : Nat) (f : Cluster → Cluster) : (setCluster d c f).drops = d.drops := rfl
@[simp] theorem setCluster_host (d : Dev) (c : Nat) (f : Cluster → Cluster) : (setCluster d c f).host = d.host := rfl
@[simp] theorem setCluster_ages (d : Dev) (c : Nat) (f : Cluster → Cluster) : (setCluster d c f).ages = d.ages := rfl
/-! ### bump -/
@[simp] theorem bump_turns (d : Dev) : (bump d).turns = d.turns := rfl
@[simp] theorem bump_tick (d : Dev) : (bump d).tick = d.tick := rfl
@[simp] theorem bump_cur (d : Dev) : (bump d).cur = d.cur := rfl
@[simp] theorem bump_mem (d : Dev) : (bump d).mem = d.mem := rfl
@[simp] theorem bump_l2 (d : Dev) : (bump d).l2 = d.l2 := rfl
@[simp] theorem bump_l1 (d : Dev) : (bump d).l1 = d.l1 := rfl
@[simp] theorem bump_fetch (d : Dev) : (bump d).fetch = d.fetch := rfl
@[simp] theorem bump_tlb (d : Dev) : (bump d).tlb = d.tlb := rfl
@[simp] theorem bump_walks (d : Dev) : (bump d).walks = d.walks := rfl
@[simp] theorem bump_poison (d : Dev) : (bump d).poison = d.poison := rfl
@[simp] theorem bump_marks (d : Dev) : (bump d).marks = d.marks := rfl
@[simp] theorem bump_tags (d : Dev) : (bump d).tags = d.tags := rfl
@[simp] theorem bump_rels (d : Dev) : (bump d).rels = d.rels := rfl
@[simp] theorem bump_scratch (d : Dev) : (bump d).scratch = d.scratch := rfl
@[simp] theorem bump_scPoison (d : Dev) : (bump d).scPoison = d.scPoison := rfl
@[simp] theorem bump_opbuf (d : Dev) : (bump d).opbuf = d.opbuf := rfl
@[simp] theorem bump_bPoison (d : Dev) : (bump d).bPoison = d.bPoison := rfl
@[simp] theorem bump_squads (d : Dev) : (bump d).squads = d.squads := rfl
@[simp] theorem bump_groups (d : Dev) : (bump d).groups = d.groups := rfl
@[simp] theorem bump_accs (d : Dev) : (bump d).accs = d.accs := rfl
@[simp] theorem bump_cmds (d : Dev) : (bump d).cmds = d.cmds := rfl
@[simp] theorem bump_reqs (d : Dev) : (bump d).reqs = d.reqs := rfl
@[simp] theorem bump_cores (d : Dev) : (bump d).cores = d.cores := rfl
@[simp] theorem bump_samplers (d : Dev) : (bump d).samplers = d.samplers := rfl
@[simp] theorem bump_clusters (d : Dev) : (bump d).clusters = d.clusters := rfl
@[simp] theorem bump_quays (d : Dev) : (bump d).quays = d.quays := rfl
@[simp] theorem bump_queues (d : Dev) : (bump d).queues = d.queues := rfl
@[simp] theorem bump_items (d : Dev) : (bump d).items = d.items := rfl
@[simp] theorem bump_shards (d : Dev) : (bump d).shards = d.shards := rfl
@[simp] theorem bump_tables (d : Dev) : (bump d).tables = d.tables := rfl
@[simp] theorem bump_watches (d : Dev) : (bump d).watches = d.watches := rfl
@[simp] theorem bump_drops (d : Dev) : (bump d).drops = d.drops := rfl
@[simp] theorem bump_host (d : Dev) : (bump d).host = d.host := rfl
@[simp] theorem bump_ages (d : Dev) : (bump d).ages = d.ages := rfl
/-! ### unmark -/
@[simp] theorem unmark_turns (d : Dev) (a : Nat) : (unmark d a).turns = d.turns := rfl
@[simp] theorem unmark_tick (d : Dev) (a : Nat) : (unmark d a).tick = d.tick := rfl
@[simp] theorem unmark_fresh (d : Dev) (a : Nat) : (unmark d a).fresh = d.fresh := rfl
@[simp] theorem unmark_cur (d : Dev) (a : Nat) : (unmark d a).cur = d.cur := rfl
@[simp] theorem unmark_mem (d : Dev) (a : Nat) : (unmark d a).mem = d.mem := rfl
@[simp] theorem unmark_l2 (d : Dev) (a : Nat) : (unmark d a).l2 = d.l2 := rfl
@[simp] theorem unmark_l1 (d : Dev) (a : Nat) : (unmark d a).l1 = d.l1 := rfl
@[simp] theorem unmark_fetch (d : Dev) (a : Nat) : (unmark d a).fetch = d.fetch := rfl
@[simp] theorem unmark_tlb (d : Dev) (a : Nat) : (unmark d a).tlb = d.tlb := rfl
@[simp] theorem unmark_walks (d : Dev) (a : Nat) : (unmark d a).walks = d.walks := rfl
@[simp] theorem unmark_poison (d : Dev) (a : Nat) : (unmark d a).poison = d.poison := rfl
@[simp] theorem unmark_tags (d : Dev) (a : Nat) : (unmark d a).tags = d.tags := rfl
@[simp] theorem unmark_rels (d : Dev) (a : Nat) : (unmark d a).rels = d.rels := rfl
@[simp] theorem unmark_scratch (d : Dev) (a : Nat) : (unmark d a).scratch = d.scratch := rfl
@[simp] theorem unmark_scPoison (d : Dev) (a : Nat) : (unmark d a).scPoison = d.scPoison := rfl
@[simp] theorem unmark_opbuf (d : Dev) (a : Nat) : (unmark d a).opbuf = d.opbuf := rfl
@[simp] theorem unmark_bPoison (d : Dev) (a : Nat) : (unmark d a).bPoison = d.bPoison := rfl
@[simp] theorem unmark_squads (d : Dev) (a : Nat) : (unmark d a).squads = d.squads := rfl
@[simp] theorem unmark_groups (d : Dev) (a : Nat) : (unmark d a).groups = d.groups := rfl
@[simp] theorem unmark_accs (d : Dev) (a : Nat) : (unmark d a).accs = d.accs := rfl
@[simp] theorem unmark_cmds (d : Dev) (a : Nat) : (unmark d a).cmds = d.cmds := rfl
@[simp] theorem unmark_reqs (d : Dev) (a : Nat) : (unmark d a).reqs = d.reqs := rfl
@[simp] theorem unmark_cores (d : Dev) (a : Nat) : (unmark d a).cores = d.cores := rfl
@[simp] theorem unmark_samplers (d : Dev) (a : Nat) : (unmark d a).samplers = d.samplers := rfl
@[simp] theorem unmark_clusters (d : Dev) (a : Nat) : (unmark d a).clusters = d.clusters := rfl
@[simp] theorem unmark_quays (d : Dev) (a : Nat) : (unmark d a).quays = d.quays := rfl
@[simp] theorem unmark_queues (d : Dev) (a : Nat) : (unmark d a).queues = d.queues := rfl
@[simp] theorem unmark_items (d : Dev) (a : Nat) : (unmark d a).items = d.items := rfl
@[simp] theorem unmark_shards (d : Dev) (a : Nat) : (unmark d a).shards = d.shards := rfl
@[simp] theorem unmark_tables (d : Dev) (a : Nat) : (unmark d a).tables = d.tables := rfl
@[simp] theorem unmark_watches (d : Dev) (a : Nat) : (unmark d a).watches = d.watches := rfl
@[simp] theorem unmark_drops (d : Dev) (a : Nat) : (unmark d a).drops = d.drops := rfl
@[simp] theorem unmark_host (d : Dev) (a : Nat) : (unmark d a).host = d.host := rfl
@[simp] theorem unmark_ages (d : Dev) (a : Nat) : (unmark d a).ages = d.ages := rfl
/-! ### l2CleanLine, l2Make, l2Put -/
@[simp] theorem l2CleanLine_turns (d : Dev) (ln : Nat) : (l2CleanLine d ln).turns = d.turns := by unfold l2CleanLine; split <;> rfl
@[simp] theorem l2CleanLine_tick (d : Dev) (ln : Nat) : (l2CleanLine d ln).tick = d.tick := by unfold l2CleanLine; split <;> rfl
@[simp] theorem l2CleanLine_fresh (d : Dev) (ln : Nat) : (l2CleanLine d ln).fresh = d.fresh := by unfold l2CleanLine; split <;> rfl
@[simp] theorem l2CleanLine_cur (d : Dev) (ln : Nat) : (l2CleanLine d ln).cur = d.cur := by unfold l2CleanLine; split <;> rfl
@[simp] theorem l2CleanLine_l1 (d : Dev) (ln : Nat) : (l2CleanLine d ln).l1 = d.l1 := by unfold l2CleanLine; split <;> rfl
@[simp] theorem l2CleanLine_fetch (d : Dev) (ln : Nat) : (l2CleanLine d ln).fetch = d.fetch := by unfold l2CleanLine; split <;> rfl
@[simp] theorem l2CleanLine_tlb (d : Dev) (ln : Nat) : (l2CleanLine d ln).tlb = d.tlb := by unfold l2CleanLine; split <;> rfl
@[simp] theorem l2CleanLine_walks (d : Dev) (ln : Nat) : (l2CleanLine d ln).walks = d.walks := by unfold l2CleanLine; split <;> rfl
@[simp] theorem l2CleanLine_poison (d : Dev) (ln : Nat) : (l2CleanLine d ln).poison = d.poison := by unfold l2CleanLine; split <;> rfl
@[simp] theorem l2CleanLine_marks (d : Dev) (ln : Nat) : (l2CleanLine d ln).marks = d.marks := by unfold l2CleanLine; split <;> rfl
@[simp] theorem l2CleanLine_tags (d : Dev) (ln : Nat) : (l2CleanLine d ln).tags = d.tags := by unfold l2CleanLine; split <;> rfl
@[simp] theorem l2CleanLine_rels (d : Dev) (ln : Nat) : (l2CleanLine d ln).rels = d.rels := by unfold l2CleanLine; split <;> rfl
@[simp] theorem l2CleanLine_scratch (d : Dev) (ln : Nat) : (l2CleanLine d ln).scratch = d.scratch := by unfold l2CleanLine; split <;> rfl
@[simp] theorem l2CleanLine_scPoison (d : Dev) (ln : Nat) : (l2CleanLine d ln).scPoison = d.scPoison := by unfold l2CleanLine; split <;> rfl
@[simp] theorem l2CleanLine_opbuf (d : Dev) (ln : Nat) : (l2CleanLine d ln).opbuf = d.opbuf := by unfold l2CleanLine; split <;> rfl
@[simp] theorem l2CleanLine_bPoison (d : Dev) (ln : Nat) : (l2CleanLine d ln).bPoison = d.bPoison := by unfold l2CleanLine; split <;> rfl
@[simp] theorem l2CleanLine_squads (d : Dev) (ln : Nat) : (l2CleanLine d ln).squads = d.squads := by unfold l2CleanLine; split <;> rfl
@[simp] theorem l2CleanLine_groups (d : Dev) (ln : Nat) : (l2CleanLine d ln).groups = d.groups := by unfold l2CleanLine; split <;> rfl
@[simp] theorem l2CleanLine_accs (d : Dev) (ln : Nat) : (l2CleanLine d ln).accs = d.accs := by unfold l2CleanLine; split <;> rfl
@[simp] theorem l2CleanLine_cmds (d : Dev) (ln : Nat) : (l2CleanLine d ln).cmds = d.cmds := by unfold l2CleanLine; split <;> rfl
@[simp] theorem l2CleanLine_reqs (d : Dev) (ln : Nat) : (l2CleanLine d ln).reqs = d.reqs := by unfold l2CleanLine; split <;> rfl
@[simp] theorem l2CleanLine_cores (d : Dev) (ln : Nat) : (l2CleanLine d ln).cores = d.cores := by unfold l2CleanLine; split <;> rfl
@[simp] theorem l2CleanLine_samplers (d : Dev) (ln : Nat) : (l2CleanLine d ln).samplers = d.samplers := by unfold l2CleanLine; split <;> rfl
@[simp] theorem l2CleanLine_clusters (d : Dev) (ln : Nat) : (l2CleanLine d ln).clusters = d.clusters := by unfold l2CleanLine; split <;> rfl
@[simp] theorem l2CleanLine_quays (d : Dev) (ln : Nat) : (l2CleanLine d ln).quays = d.quays := by unfold l2CleanLine; split <;> rfl
@[simp] theorem l2CleanLine_queues (d : Dev) (ln : Nat) : (l2CleanLine d ln).queues = d.queues := by unfold l2CleanLine; split <;> rfl
@[simp] theorem l2CleanLine_items (d : Dev) (ln : Nat) : (l2CleanLine d ln).items = d.items := by unfold l2CleanLine; split <;> rfl
@[simp] theorem l2CleanLine_shards (d : Dev) (ln : Nat) : (l2CleanLine d ln).shards = d.shards := by unfold l2CleanLine; split <;> rfl
@[simp] theorem l2CleanLine_tables (d : Dev) (ln : Nat) : (l2CleanLine d ln).tables = d.tables := by unfold l2CleanLine; split <;> rfl
@[simp] theorem l2CleanLine_watches (d : Dev) (ln : Nat) : (l2CleanLine d ln).watches = d.watches := by unfold l2CleanLine; split <;> rfl
@[simp] theorem l2CleanLine_drops (d : Dev) (ln : Nat) : (l2CleanLine d ln).drops = d.drops := by unfold l2CleanLine; split <;> rfl
@[simp] theorem l2CleanLine_host (d : Dev) (ln : Nat) : (l2CleanLine d ln).host = d.host := by unfold l2CleanLine; split <;> rfl
@[simp] theorem l2CleanLine_ages (d : Dev) (ln : Nat) : (l2CleanLine d ln).ages = d.ages := by unfold l2CleanLine; split <;> rfl
/-- Making room in L2 changes nothing that no line's way to memory does. -/
theorem l2Make_keeps {α : Type} (p : Dev → α) (h : ∀ d ln, p (l2CleanLine d ln) = p d) (d : Dev) (ln n : Nat) : p (l2Make d ln n) = p d := by
  have hE : ∀ (l : List Nat) (d : Dev) (g : Nat → Nat), p (l.foldl (fun d i => l2CleanLine d (g i)) d) = p d := fun l => by
    induction l with
    | nil => intro d g; rfl
    | cons a t ih => intro d g; exact (ih _ g).trans (h _ _)
  have hF : ∀ (k : Nat) (d : Dev), p (l2MakeFuel k d ln n) = p d := fun k => by
    induction k with
    | zero => intro d; rfl
    | succ k ih =>
      intro d
      unfold l2MakeFuel
      split
      · rfl
      · dsimp only
        split
        · exact (ih _).trans (hE _ _ fun i => _)
        · rfl
  exact hF _ d
@[simp] theorem l2Put_turns (d : Dev) (a : Nat) (b : Byte) : (l2Put d a b).turns = d.turns := l2Make_keeps (·.turns) l2CleanLine_turns d (lineOf a) _
@[simp] theorem l2Put_tick (d : Dev) (a : Nat) (b : Byte) : (l2Put d a b).tick = d.tick := l2Make_keeps (·.tick) l2CleanLine_tick d (lineOf a) _
@[simp] theorem l2Put_fresh (d : Dev) (a : Nat) (b : Byte) : (l2Put d a b).fresh = d.fresh := l2Make_keeps (·.fresh) l2CleanLine_fresh d (lineOf a) _
@[simp] theorem l2Put_cur (d : Dev) (a : Nat) (b : Byte) : (l2Put d a b).cur = d.cur := l2Make_keeps (·.cur) l2CleanLine_cur d (lineOf a) _
@[simp] theorem l2Put_l1 (d : Dev) (a : Nat) (b : Byte) : (l2Put d a b).l1 = d.l1 := l2Make_keeps (·.l1) l2CleanLine_l1 d (lineOf a) _
@[simp] theorem l2Put_fetch (d : Dev) (a : Nat) (b : Byte) : (l2Put d a b).fetch = d.fetch := l2Make_keeps (·.fetch) l2CleanLine_fetch d (lineOf a) _
@[simp] theorem l2Put_tlb (d : Dev) (a : Nat) (b : Byte) : (l2Put d a b).tlb = d.tlb := l2Make_keeps (·.tlb) l2CleanLine_tlb d (lineOf a) _
@[simp] theorem l2Put_walks (d : Dev) (a : Nat) (b : Byte) : (l2Put d a b).walks = d.walks := l2Make_keeps (·.walks) l2CleanLine_walks d (lineOf a) _
@[simp] theorem l2Put_poison (d : Dev) (a : Nat) (b : Byte) : (l2Put d a b).poison = d.poison := l2Make_keeps (·.poison) l2CleanLine_poison d (lineOf a) _
@[simp] theorem l2Put_marks (d : Dev) (a : Nat) (b : Byte) : (l2Put d a b).marks = d.marks := l2Make_keeps (·.marks) l2CleanLine_marks d (lineOf a) _
@[simp] theorem l2Put_tags (d : Dev) (a : Nat) (b : Byte) : (l2Put d a b).tags = d.tags := l2Make_keeps (·.tags) l2CleanLine_tags d (lineOf a) _
@[simp] theorem l2Put_rels (d : Dev) (a : Nat) (b : Byte) : (l2Put d a b).rels = d.rels := l2Make_keeps (·.rels) l2CleanLine_rels d (lineOf a) _
@[simp] theorem l2Put_scratch (d : Dev) (a : Nat) (b : Byte) : (l2Put d a b).scratch = d.scratch := l2Make_keeps (·.scratch) l2CleanLine_scratch d (lineOf a) _
@[simp] theorem l2Put_scPoison (d : Dev) (a : Nat) (b : Byte) : (l2Put d a b).scPoison = d.scPoison := l2Make_keeps (·.scPoison) l2CleanLine_scPoison d (lineOf a) _
@[simp] theorem l2Put_opbuf (d : Dev) (a : Nat) (b : Byte) : (l2Put d a b).opbuf = d.opbuf := l2Make_keeps (·.opbuf) l2CleanLine_opbuf d (lineOf a) _
@[simp] theorem l2Put_bPoison (d : Dev) (a : Nat) (b : Byte) : (l2Put d a b).bPoison = d.bPoison := l2Make_keeps (·.bPoison) l2CleanLine_bPoison d (lineOf a) _
@[simp] theorem l2Put_squads (d : Dev) (a : Nat) (b : Byte) : (l2Put d a b).squads = d.squads := l2Make_keeps (·.squads) l2CleanLine_squads d (lineOf a) _
@[simp] theorem l2Put_groups (d : Dev) (a : Nat) (b : Byte) : (l2Put d a b).groups = d.groups := l2Make_keeps (·.groups) l2CleanLine_groups d (lineOf a) _
@[simp] theorem l2Put_accs (d : Dev) (a : Nat) (b : Byte) : (l2Put d a b).accs = d.accs := l2Make_keeps (·.accs) l2CleanLine_accs d (lineOf a) _
@[simp] theorem l2Put_cmds (d : Dev) (a : Nat) (b : Byte) : (l2Put d a b).cmds = d.cmds := l2Make_keeps (·.cmds) l2CleanLine_cmds d (lineOf a) _
@[simp] theorem l2Put_reqs (d : Dev) (a : Nat) (b : Byte) : (l2Put d a b).reqs = d.reqs := l2Make_keeps (·.reqs) l2CleanLine_reqs d (lineOf a) _
@[simp] theorem l2Put_cores (d : Dev) (a : Nat) (b : Byte) : (l2Put d a b).cores = d.cores := l2Make_keeps (·.cores) l2CleanLine_cores d (lineOf a) _
@[simp] theorem l2Put_samplers (d : Dev) (a : Nat) (b : Byte) : (l2Put d a b).samplers = d.samplers := l2Make_keeps (·.samplers) l2CleanLine_samplers d (lineOf a) _
@[simp] theorem l2Put_clusters (d : Dev) (a : Nat) (b : Byte) : (l2Put d a b).clusters = d.clusters := l2Make_keeps (·.clusters) l2CleanLine_clusters d (lineOf a) _
@[simp] theorem l2Put_quays (d : Dev) (a : Nat) (b : Byte) : (l2Put d a b).quays = d.quays := l2Make_keeps (·.quays) l2CleanLine_quays d (lineOf a) _
@[simp] theorem l2Put_queues (d : Dev) (a : Nat) (b : Byte) : (l2Put d a b).queues = d.queues := l2Make_keeps (·.queues) l2CleanLine_queues d (lineOf a) _
@[simp] theorem l2Put_items (d : Dev) (a : Nat) (b : Byte) : (l2Put d a b).items = d.items := l2Make_keeps (·.items) l2CleanLine_items d (lineOf a) _
@[simp] theorem l2Put_shards (d : Dev) (a : Nat) (b : Byte) : (l2Put d a b).shards = d.shards := l2Make_keeps (·.shards) l2CleanLine_shards d (lineOf a) _
@[simp] theorem l2Put_tables (d : Dev) (a : Nat) (b : Byte) : (l2Put d a b).tables = d.tables := l2Make_keeps (·.tables) l2CleanLine_tables d (lineOf a) _
@[simp] theorem l2Put_watches (d : Dev) (a : Nat) (b : Byte) : (l2Put d a b).watches = d.watches := l2Make_keeps (·.watches) l2CleanLine_watches d (lineOf a) _
@[simp] theorem l2Put_drops (d : Dev) (a : Nat) (b : Byte) : (l2Put d a b).drops = d.drops := l2Make_keeps (·.drops) l2CleanLine_drops d (lineOf a) _
@[simp] theorem l2Put_host (d : Dev) (a : Nat) (b : Byte) : (l2Put d a b).host = d.host := l2Make_keeps (·.host) l2CleanLine_host d (lineOf a) _
@[simp] theorem l2Put_ages (d : Dev) (a : Nat) (b : Byte) : (l2Put d a b).ages = d.ages := l2Make_keeps (·.ages) l2CleanLine_ages d (lineOf a) _
/-! ### sysPut -/
@[simp] theorem sysPut_turns (d : Dev) (a : Nat) (b : Byte) : (sysPut d a b).turns = d.turns := rfl
@[simp] theorem sysPut_tick (d : Dev) (a : Nat) (b : Byte) : (sysPut d a b).tick = d.tick := rfl
@[simp] theorem sysPut_fresh (d : Dev) (a : Nat) (b : Byte) : (sysPut d a b).fresh = d.fresh := rfl
@[simp] theorem sysPut_cur (d : Dev) (a : Nat) (b : Byte) : (sysPut d a b).cur = d.cur := rfl
@[simp] theorem sysPut_l1 (d : Dev) (a : Nat) (b : Byte) : (sysPut d a b).l1 = d.l1 := rfl
@[simp] theorem sysPut_fetch (d : Dev) (a : Nat) (b : Byte) : (sysPut d a b).fetch = d.fetch := rfl
@[simp] theorem sysPut_tlb (d : Dev) (a : Nat) (b : Byte) : (sysPut d a b).tlb = d.tlb := rfl
@[simp] theorem sysPut_walks (d : Dev) (a : Nat) (b : Byte) : (sysPut d a b).walks = d.walks := rfl
@[simp] theorem sysPut_poison (d : Dev) (a : Nat) (b : Byte) : (sysPut d a b).poison = d.poison := rfl
@[simp] theorem sysPut_marks (d : Dev) (a : Nat) (b : Byte) : (sysPut d a b).marks = d.marks := rfl
@[simp] theorem sysPut_tags (d : Dev) (a : Nat) (b : Byte) : (sysPut d a b).tags = d.tags := rfl
@[simp] theorem sysPut_rels (d : Dev) (a : Nat) (b : Byte) : (sysPut d a b).rels = d.rels := rfl
@[simp] theorem sysPut_scratch (d : Dev) (a : Nat) (b : Byte) : (sysPut d a b).scratch = d.scratch := rfl
@[simp] theorem sysPut_scPoison (d : Dev) (a : Nat) (b : Byte) : (sysPut d a b).scPoison = d.scPoison := rfl
@[simp] theorem sysPut_opbuf (d : Dev) (a : Nat) (b : Byte) : (sysPut d a b).opbuf = d.opbuf := rfl
@[simp] theorem sysPut_bPoison (d : Dev) (a : Nat) (b : Byte) : (sysPut d a b).bPoison = d.bPoison := rfl
@[simp] theorem sysPut_squads (d : Dev) (a : Nat) (b : Byte) : (sysPut d a b).squads = d.squads := rfl
@[simp] theorem sysPut_groups (d : Dev) (a : Nat) (b : Byte) : (sysPut d a b).groups = d.groups := rfl
@[simp] theorem sysPut_accs (d : Dev) (a : Nat) (b : Byte) : (sysPut d a b).accs = d.accs := rfl
@[simp] theorem sysPut_cmds (d : Dev) (a : Nat) (b : Byte) : (sysPut d a b).cmds = d.cmds := rfl
@[simp] theorem sysPut_reqs (d : Dev) (a : Nat) (b : Byte) : (sysPut d a b).reqs = d.reqs := rfl
@[simp] theorem sysPut_cores (d : Dev) (a : Nat) (b : Byte) : (sysPut d a b).cores = d.cores := rfl
@[simp] theorem sysPut_samplers (d : Dev) (a : Nat) (b : Byte) : (sysPut d a b).samplers = d.samplers := rfl
@[simp] theorem sysPut_clusters (d : Dev) (a : Nat) (b : Byte) : (sysPut d a b).clusters = d.clusters := rfl
@[simp] theorem sysPut_quays (d : Dev) (a : Nat) (b : Byte) : (sysPut d a b).quays = d.quays := rfl
@[simp] theorem sysPut_queues (d : Dev) (a : Nat) (b : Byte) : (sysPut d a b).queues = d.queues := rfl
@[simp] theorem sysPut_items (d : Dev) (a : Nat) (b : Byte) : (sysPut d a b).items = d.items := rfl
@[simp] theorem sysPut_shards (d : Dev) (a : Nat) (b : Byte) : (sysPut d a b).shards = d.shards := rfl
@[simp] theorem sysPut_tables (d : Dev) (a : Nat) (b : Byte) : (sysPut d a b).tables = d.tables := rfl
@[simp] theorem sysPut_watches (d : Dev) (a : Nat) (b : Byte) : (sysPut d a b).watches = d.watches := rfl
@[simp] theorem sysPut_drops (d : Dev) (a : Nat) (b : Byte) : (sysPut d a b).drops = d.drops := rfl
@[simp] theorem sysPut_host (d : Dev) (a : Nat) (b : Byte) : (sysPut d a b).host = d.host := rfl
@[simp] theorem sysPut_ages (d : Dev) (a : Nat) (b : Byte) : (sysPut d a b).ages = d.ages := rfl
/-! ### l1Update -/
@[simp] theorem l1Update_turns (d : Dev) (set a : Nat) (b : Byte) : (l1Update d set a b).turns = d.turns := rfl
@[simp] theorem l1Update_tick (d : Dev) (set a : Nat) (b : Byte) : (l1Update d set a b).tick = d.tick := rfl
@[simp] theorem l1Update_fresh (d : Dev) (set a : Nat) (b : Byte) : (l1Update d set a b).fresh = d.fresh := rfl
@[simp] theorem l1Update_cur (d : Dev) (set a : Nat) (b : Byte) : (l1Update d set a b).cur = d.cur := rfl
@[simp] theorem l1Update_mem (d : Dev) (set a : Nat) (b : Byte) : (l1Update d set a b).mem = d.mem := rfl
@[simp] theorem l1Update_l2 (d : Dev) (set a : Nat) (b : Byte) : (l1Update d set a b).l2 = d.l2 := rfl
@[simp] theorem l1Update_fetch (d : Dev) (set a : Nat) (b : Byte) : (l1Update d set a b).fetch = d.fetch := rfl
@[simp] theorem l1Update_tlb (d : Dev) (set a : Nat) (b : Byte) : (l1Update d set a b).tlb = d.tlb := rfl
@[simp] theorem l1Update_walks (d : Dev) (set a : Nat) (b : Byte) : (l1Update d set a b).walks = d.walks := rfl
@[simp] theorem l1Update_poison (d : Dev) (set a : Nat) (b : Byte) : (l1Update d set a b).poison = d.poison := rfl
@[simp] theorem l1Update_marks (d : Dev) (set a : Nat) (b : Byte) : (l1Update d set a b).marks = d.marks := rfl
@[simp] theorem l1Update_tags (d : Dev) (set a : Nat) (b : Byte) : (l1Update d set a b).tags = d.tags := rfl
@[simp] theorem l1Update_rels (d : Dev) (set a : Nat) (b : Byte) : (l1Update d set a b).rels = d.rels := rfl
@[simp] theorem l1Update_scratch (d : Dev) (set a : Nat) (b : Byte) : (l1Update d set a b).scratch = d.scratch := rfl
@[simp] theorem l1Update_scPoison (d : Dev) (set a : Nat) (b : Byte) : (l1Update d set a b).scPoison = d.scPoison := rfl
@[simp] theorem l1Update_opbuf (d : Dev) (set a : Nat) (b : Byte) : (l1Update d set a b).opbuf = d.opbuf := rfl
@[simp] theorem l1Update_bPoison (d : Dev) (set a : Nat) (b : Byte) : (l1Update d set a b).bPoison = d.bPoison := rfl
@[simp] theorem l1Update_squads (d : Dev) (set a : Nat) (b : Byte) : (l1Update d set a b).squads = d.squads := rfl
@[simp] theorem l1Update_groups (d : Dev) (set a : Nat) (b : Byte) : (l1Update d set a b).groups = d.groups := rfl
@[simp] theorem l1Update_accs (d : Dev) (set a : Nat) (b : Byte) : (l1Update d set a b).accs = d.accs := rfl
@[simp] theorem l1Update_cmds (d : Dev) (set a : Nat) (b : Byte) : (l1Update d set a b).cmds = d.cmds := rfl
@[simp] theorem l1Update_reqs (d : Dev) (set a : Nat) (b : Byte) : (l1Update d set a b).reqs = d.reqs := rfl
@[simp] theorem l1Update_cores (d : Dev) (set a : Nat) (b : Byte) : (l1Update d set a b).cores = d.cores := rfl
@[simp] theorem l1Update_samplers (d : Dev) (set a : Nat) (b : Byte) : (l1Update d set a b).samplers = d.samplers := rfl
@[simp] theorem l1Update_clusters (d : Dev) (set a : Nat) (b : Byte) : (l1Update d set a b).clusters = d.clusters := rfl
@[simp] theorem l1Update_quays (d : Dev) (set a : Nat) (b : Byte) : (l1Update d set a b).quays = d.quays := rfl
@[simp] theorem l1Update_queues (d : Dev) (set a : Nat) (b : Byte) : (l1Update d set a b).queues = d.queues := rfl
@[simp] theorem l1Update_items (d : Dev) (set a : Nat) (b : Byte) : (l1Update d set a b).items = d.items := rfl
@[simp] theorem l1Update_shards (d : Dev) (set a : Nat) (b : Byte) : (l1Update d set a b).shards = d.shards := rfl
@[simp] theorem l1Update_tables (d : Dev) (set a : Nat) (b : Byte) : (l1Update d set a b).tables = d.tables := rfl
@[simp] theorem l1Update_watches (d : Dev) (set a : Nat) (b : Byte) : (l1Update d set a b).watches = d.watches := rfl
@[simp] theorem l1Update_drops (d : Dev) (set a : Nat) (b : Byte) : (l1Update d set a b).drops = d.drops := rfl
@[simp] theorem l1Update_host (d : Dev) (set a : Nat) (b : Byte) : (l1Update d set a b).host = d.host := rfl
@[simp] theorem l1Update_ages (d : Dev) (set a : Nat) (b : Byte) : (l1Update d set a b).ages = d.ages := rfl
/-! ### poisonLine -/
@[simp] theorem poisonLine_turns (d : Dev) (a : Nat) : (poisonLine d a).turns = d.turns := rfl
@[simp] theorem poisonLine_tick (d : Dev) (a : Nat) : (poisonLine d a).tick = d.tick := rfl
@[simp] theorem poisonLine_fresh (d : Dev) (a : Nat) : (poisonLine d a).fresh = d.fresh := rfl
@[simp] theorem poisonLine_cur (d : Dev) (a : Nat) : (poisonLine d a).cur = d.cur := rfl
@[simp] theorem poisonLine_mem (d : Dev) (a : Nat) : (poisonLine d a).mem = d.mem := rfl
@[simp] theorem poisonLine_l2 (d : Dev) (a : Nat) : (poisonLine d a).l2 = d.l2 := rfl
@[simp] theorem poisonLine_l1 (d : Dev) (a : Nat) : (poisonLine d a).l1 = d.l1 := rfl
@[simp] theorem poisonLine_fetch (d : Dev) (a : Nat) : (poisonLine d a).fetch = d.fetch := rfl
@[simp] theorem poisonLine_tlb (d : Dev) (a : Nat) : (poisonLine d a).tlb = d.tlb := rfl
@[simp] theorem poisonLine_walks (d : Dev) (a : Nat) : (poisonLine d a).walks = d.walks := rfl
@[simp] theorem poisonLine_marks (d : Dev) (a : Nat) : (poisonLine d a).marks = d.marks := rfl
@[simp] theorem poisonLine_tags (d : Dev) (a : Nat) : (poisonLine d a).tags = d.tags := rfl
@[simp] theorem poisonLine_rels (d : Dev) (a : Nat) : (poisonLine d a).rels = d.rels := rfl
@[simp] theorem poisonLine_scratch (d : Dev) (a : Nat) : (poisonLine d a).scratch = d.scratch := rfl
@[simp] theorem poisonLine_scPoison (d : Dev) (a : Nat) : (poisonLine d a).scPoison = d.scPoison := rfl
@[simp] theorem poisonLine_opbuf (d : Dev) (a : Nat) : (poisonLine d a).opbuf = d.opbuf := rfl
@[simp] theorem poisonLine_bPoison (d : Dev) (a : Nat) : (poisonLine d a).bPoison = d.bPoison := rfl
@[simp] theorem poisonLine_squads (d : Dev) (a : Nat) : (poisonLine d a).squads = d.squads := rfl
@[simp] theorem poisonLine_groups (d : Dev) (a : Nat) : (poisonLine d a).groups = d.groups := rfl
@[simp] theorem poisonLine_accs (d : Dev) (a : Nat) : (poisonLine d a).accs = d.accs := rfl
@[simp] theorem poisonLine_cmds (d : Dev) (a : Nat) : (poisonLine d a).cmds = d.cmds := rfl
@[simp] theorem poisonLine_reqs (d : Dev) (a : Nat) : (poisonLine d a).reqs = d.reqs := rfl
@[simp] theorem poisonLine_cores (d : Dev) (a : Nat) : (poisonLine d a).cores = d.cores := rfl
@[simp] theorem poisonLine_samplers (d : Dev) (a : Nat) : (poisonLine d a).samplers = d.samplers := rfl
@[simp] theorem poisonLine_clusters (d : Dev) (a : Nat) : (poisonLine d a).clusters = d.clusters := rfl
@[simp] theorem poisonLine_quays (d : Dev) (a : Nat) : (poisonLine d a).quays = d.quays := rfl
@[simp] theorem poisonLine_queues (d : Dev) (a : Nat) : (poisonLine d a).queues = d.queues := rfl
@[simp] theorem poisonLine_items (d : Dev) (a : Nat) : (poisonLine d a).items = d.items := rfl
@[simp] theorem poisonLine_shards (d : Dev) (a : Nat) : (poisonLine d a).shards = d.shards := rfl
@[simp] theorem poisonLine_tables (d : Dev) (a : Nat) : (poisonLine d a).tables = d.tables := rfl
@[simp] theorem poisonLine_watches (d : Dev) (a : Nat) : (poisonLine d a).watches = d.watches := rfl
@[simp] theorem poisonLine_drops (d : Dev) (a : Nat) : (poisonLine d a).drops = d.drops := rfl
@[simp] theorem poisonLine_host (d : Dev) (a : Nat) : (poisonLine d a).host = d.host := rfl
@[simp] theorem poisonLine_ages (d : Dev) (a : Nat) : (poisonLine d a).ages = d.ages := rfl
/-! ### Squad.setV -/
@[simp] theorem Squad.setV_ctx (s : Squad) (i ln : Nat) (x : Word) : (s.setV i ln x).ctx = s.ctx := rfl
@[simp] theorem Squad.setV_asid (s : Squad) (i ln : Nat) (x : Word) : (s.setV i ln x).asid = s.asid := rfl
@[simp] theorem Squad.setV_vmid (s : Squad) (i ln : Nat) (x : Word) : (s.setV i ln x).vmid = s.vmid := rfl
@[simp] theorem Squad.setV_state (s : Squad) (i ln : Nat) (x : Word) : (s.setV i ln x).state = s.state := rfl
@[simp] theorem Squad.setV_res (s : Squad) (i ln : Nat) (x : Word) : (s.setV i ln x).res = s.res := rfl
@[simp] theorem Squad.setV_onChip (s : Squad) (i ln : Nat) (x : Word) : (s.setV i ln x).onChip = s.onChip := rfl
@[simp] theorem Squad.setV_core (s : Squad) (i ln : Nat) (x : Word) : (s.setV i ln x).core = s.core := rfl
@[simp] theorem Squad.setV_bound (s : Squad) (i ln : Nat) (x : Word) : (s.setV i ln x).bound = s.bound := rfl
@[simp] theorem Squad.setV_prio (s : Squad) (i ln : Nat) (x : Word) : (s.setV i ln x).prio = s.prio := rfl
@[simp] theorem Squad.setV_ext (s : Squad) (i ln : Nat) (x : Word) : (s.setV i ln x).ext = s.ext := rfl
@[simp] theorem Squad.setV_det (s : Squad) (i ln : Nat) (x : Word) : (s.setV i ln x).det = s.det := rfl
@[simp] theorem Squad.setV_dbg (s : Squad) (i ln : Nat) (x : Word) : (s.setV i ln x).dbg = s.dbg := rfl
@[simp] theorem Squad.setV_pin (s : Squad) (i ln : Nat) (x : Word) : (s.setV i ln x).pin = s.pin := rfl
@[simp] theorem Squad.setV_fuse (s : Squad) (i ln : Nat) (x : Word) : (s.setV i ln x).fuse = s.fuse := rfl
@[simp] theorem Squad.setV_kh (s : Squad) (i ln : Nat) (x : Word) : (s.setV i ln x).kh = s.kh := rfl
@[simp] theorem Squad.setV_kern (s : Squad) (i ln : Nat) (x : Word) : (s.setV i ln x).kern = s.kern := rfl
@[simp] theorem Squad.setV_sqidx (s : Squad) (i ln : Nat) (x : Word) : (s.setV i ln x).sqidx = s.sqidx := rfl
@[simp] theorem Squad.setV_gpidx (s : Squad) (i ln : Nat) (x : Word) : (s.setV i ln x).gpidx = s.gpidx := rfl
@[simp] theorem Squad.setV_privb (s : Squad) (i ln : Nat) (x : Word) : (s.setV i ln x).privb = s.privb := rfl
@[simp] theorem Squad.setV_privl (s : Squad) (i ln : Nat) (x : Word) : (s.setV i ln x).privl = s.privl := rfl
@[simp] theorem Squad.setV_fpsr (s : Squad) (i ln : Nat) (x : Word) : (s.setV i ln x).fpsr = s.fpsr := rfl
@[simp] theorem Squad.setV_fpcr (s : Squad) (i ln : Nat) (x : Word) : (s.setV i ln x).fpcr = s.fpcr := rfl
@[simp] theorem Squad.setV_age (s : Squad) (i ln : Nat) (x : Word) : (s.setV i ln x).age = s.age := rfl
@[simp] theorem Squad.setV_qspill (s : Squad) (i ln : Nat) (x : Word) : (s.setV i ln x).qspill = s.qspill := rfl
@[simp] theorem Squad.setV_wantExt (s : Squad) (i ln : Nat) (x : Word) : (s.setV i ln x).wantExt = s.wantExt := rfl
@[simp] theorem Squad.setV_fcnt (s : Squad) (i ln : Nat) (x : Word) : (s.setV i ln x).fcnt = s.fcnt := rfl
@[simp] theorem Squad.setV_masks (s : Squad) (i ln : Nat) (x : Word) : (s.setV i ln x).masks = s.masks := rfl
@[simp] theorem Squad.setV_kbank (s : Squad) (i ln : Nat) (x : Word) : (s.setV i ln x).kbank = s.kbank := rfl
@[simp] theorem Squad.setV_hbank (s : Squad) (i ln : Nat) (x : Word) : (s.setV i ln x).hbank = s.hbank := rfl
@[simp] theorem Squad.setV_lanes (s : Squad) (i ln : Nat) (x : Word) : (s.setV i ln x).lanes = s.lanes := rfl
@[simp] theorem Squad.setV_group (s : Squad) (i ln : Nat) (x : Word) : (s.setV i ln x).group = s.group := rfl
@[simp] theorem Squad.setV_arr (s : Squad) (i ln : Nat) (x : Word) : (s.setV i ln x).arr = s.arr := rfl
@[simp] theorem Squad.setV_insts (s : Squad) (i ln : Nat) (x : Word) : (s.setV i ln x).insts = s.insts := rfl
@[simp] theorem Squad.setV_claims (s : Squad) (i ln : Nat) (x : Word) : (s.setV i ln x).claims = s.claims := rfl
@[simp] theorem Squad.setV_fdone (s : Squad) (i ln : Nat) (x : Word) : (s.setV i ln x).fdone = s.fdone := rfl
@[simp] theorem Squad.setV_form (s : Squad) (i ln : Nat) (x : Word) : (s.setV i ln x).form = s.form := rfl
@[simp] theorem Squad.setV_fills (s : Squad) (i ln : Nat) (x : Word) : (s.setV i ln x).fills = s.fills := rfl
@[simp] theorem Squad.setV_fillFor (s : Squad) (i ln : Nat) (x : Word) : (s.setV i ln x).fillFor = s.fillFor := rfl
@[simp] theorem Squad.setV_fillBad (s : Squad) (i ln : Nat) (x : Word) : (s.setV i ln x).fillBad = s.fillBad := rfl
@[simp] theorem Squad.setV_path (s : Squad) (i ln : Nat) (x : Word) : (s.setV i ln x).path = s.path := rfl
@[simp] theorem Squad.setV_exited (s : Squad) (i ln : Nat) (x : Word) : (s.setV i ln x).exited = s.exited := rfl
@[simp] theorem Squad.setV_pinSet (s : Squad) (i ln : Nat) (x : Word) : (s.setV i ln x).pinSet = s.pinSet := rfl
@[simp] theorem Squad.setV_since (s : Squad) (i ln : Nat) (x : Word) : (s.setV i ln x).since = s.since := rfl
@[simp] theorem Squad.setV_late (s : Squad) (i ln : Nat) (x : Word) : (s.setV i ln x).late = s.late := rfl
@[simp] theorem Squad.setV_deqTask (s : Squad) (i ln : Nat) (x : Word) : (s.setV i ln x).deqTask = s.deqTask := rfl
@[simp] theorem Squad.setV_awaits (s : Squad) (i ln : Nat) (x : Word) : (s.setV i ln x).awaits = s.awaits := rfl
@[simp] theorem Squad.setV_undo (s : Squad) (i ln : Nat) (x : Word) : (s.setV i ln x).undo = s.undo := rfl
@[simp] theorem Squad.setV_debug (s : Squad) (i ln : Nat) (x : Word) : (s.setV i ln x).debug = s.debug := rfl
@[simp] theorem Squad.setV_stop (s : Squad) (i ln : Nat) (x : Word) : (s.setV i ln x).stop = s.stop := rfl
@[simp] theorem Squad.setV_slot (s : Squad) (i ln : Nat) (x : Word) : (s.setV i ln x).slot = s.slot := rfl
@[simp] theorem Squad.setV_ending (s : Squad) (i ln : Nat) (x : Word) : (s.setV i ln x).ending = s.ending := rfl
@[simp] theorem Squad.setV_gone (s : Squad) (i ln : Nat) (x : Word) : (s.setV i ln x).gone = s.gone := rfl
@[simp] theorem Squad.setV_freed (s : Squad) (i ln : Nat) (x : Word) : (s.setV i ln x).freed = s.freed := rfl
@[simp] theorem Squad.setV_unrun (s : Squad) (i ln : Nat) (x : Word) : (s.setV i ln x).unrun = s.unrun := rfl
/-! ### Squad.setK -/
@[simp] theorem Squad.setK_ctx (s : Squad) (i ln : Nat) (x : Word) : (s.setK i ln x).ctx = s.ctx := rfl
@[simp] theorem Squad.setK_asid (s : Squad) (i ln : Nat) (x : Word) : (s.setK i ln x).asid = s.asid := rfl
@[simp] theorem Squad.setK_vmid (s : Squad) (i ln : Nat) (x : Word) : (s.setK i ln x).vmid = s.vmid := rfl
@[simp] theorem Squad.setK_state (s : Squad) (i ln : Nat) (x : Word) : (s.setK i ln x).state = s.state := rfl
@[simp] theorem Squad.setK_res (s : Squad) (i ln : Nat) (x : Word) : (s.setK i ln x).res = s.res := rfl
@[simp] theorem Squad.setK_onChip (s : Squad) (i ln : Nat) (x : Word) : (s.setK i ln x).onChip = s.onChip := rfl
@[simp] theorem Squad.setK_core (s : Squad) (i ln : Nat) (x : Word) : (s.setK i ln x).core = s.core := rfl
@[simp] theorem Squad.setK_bound (s : Squad) (i ln : Nat) (x : Word) : (s.setK i ln x).bound = s.bound := rfl
@[simp] theorem Squad.setK_prio (s : Squad) (i ln : Nat) (x : Word) : (s.setK i ln x).prio = s.prio := rfl
@[simp] theorem Squad.setK_ext (s : Squad) (i ln : Nat) (x : Word) : (s.setK i ln x).ext = s.ext := rfl
@[simp] theorem Squad.setK_det (s : Squad) (i ln : Nat) (x : Word) : (s.setK i ln x).det = s.det := rfl
@[simp] theorem Squad.setK_dbg (s : Squad) (i ln : Nat) (x : Word) : (s.setK i ln x).dbg = s.dbg := rfl
@[simp] theorem Squad.setK_pin (s : Squad) (i ln : Nat) (x : Word) : (s.setK i ln x).pin = s.pin := rfl
@[simp] theorem Squad.setK_fuse (s : Squad) (i ln : Nat) (x : Word) : (s.setK i ln x).fuse = s.fuse := rfl
@[simp] theorem Squad.setK_kh (s : Squad) (i ln : Nat) (x : Word) : (s.setK i ln x).kh = s.kh := rfl
@[simp] theorem Squad.setK_kern (s : Squad) (i ln : Nat) (x : Word) : (s.setK i ln x).kern = s.kern := rfl
@[simp] theorem Squad.setK_sqidx (s : Squad) (i ln : Nat) (x : Word) : (s.setK i ln x).sqidx = s.sqidx := rfl
@[simp] theorem Squad.setK_gpidx (s : Squad) (i ln : Nat) (x : Word) : (s.setK i ln x).gpidx = s.gpidx := rfl
@[simp] theorem Squad.setK_privb (s : Squad) (i ln : Nat) (x : Word) : (s.setK i ln x).privb = s.privb := rfl
@[simp] theorem Squad.setK_privl (s : Squad) (i ln : Nat) (x : Word) : (s.setK i ln x).privl = s.privl := rfl
@[simp] theorem Squad.setK_fpsr (s : Squad) (i ln : Nat) (x : Word) : (s.setK i ln x).fpsr = s.fpsr := rfl
@[simp] theorem Squad.setK_fpcr (s : Squad) (i ln : Nat) (x : Word) : (s.setK i ln x).fpcr = s.fpcr := rfl
@[simp] theorem Squad.setK_age (s : Squad) (i ln : Nat) (x : Word) : (s.setK i ln x).age = s.age := rfl
@[simp] theorem Squad.setK_qspill (s : Squad) (i ln : Nat) (x : Word) : (s.setK i ln x).qspill = s.qspill := rfl
@[simp] theorem Squad.setK_wantExt (s : Squad) (i ln : Nat) (x : Word) : (s.setK i ln x).wantExt = s.wantExt := rfl
@[simp] theorem Squad.setK_fcnt (s : Squad) (i ln : Nat) (x : Word) : (s.setK i ln x).fcnt = s.fcnt := rfl
@[simp] theorem Squad.setK_rwr (s : Squad) (i ln : Nat) (x : Word) : (s.setK i ln x).rwr = s.rwr := rfl
@[simp] theorem Squad.setK_masks (s : Squad) (i ln : Nat) (x : Word) : (s.setK i ln x).masks = s.masks := rfl
@[simp] theorem Squad.setK_hbank (s : Squad) (i ln : Nat) (x : Word) : (s.setK i ln x).hbank = s.hbank := rfl
@[simp] theorem Squad.setK_rows (s : Squad) (i ln : Nat) (x : Word) : (s.setK i ln x).rows = s.rows := rfl
@[simp] theorem Squad.setK_lanes (s : Squad) (i ln : Nat) (x : Word) : (s.setK i ln x).lanes = s.lanes := rfl
@[simp] theorem Squad.setK_group (s : Squad) (i ln : Nat) (x : Word) : (s.setK i ln x).group = s.group := rfl
@[simp] theorem Squad.setK_arr (s : Squad) (i ln : Nat) (x : Word) : (s.setK i ln x).arr = s.arr := rfl
@[simp] theorem Squad.setK_insts (s : Squad) (i ln : Nat) (x : Word) : (s.setK i ln x).insts = s.insts := rfl
@[simp] theorem Squad.setK_claims (s : Squad) (i ln : Nat) (x : Word) : (s.setK i ln x).claims = s.claims := rfl
@[simp] theorem Squad.setK_fdone (s : Squad) (i ln : Nat) (x : Word) : (s.setK i ln x).fdone = s.fdone := rfl
@[simp] theorem Squad.setK_form (s : Squad) (i ln : Nat) (x : Word) : (s.setK i ln x).form = s.form := rfl
@[simp] theorem Squad.setK_fills (s : Squad) (i ln : Nat) (x : Word) : (s.setK i ln x).fills = s.fills := rfl
@[simp] theorem Squad.setK_fillFor (s : Squad) (i ln : Nat) (x : Word) : (s.setK i ln x).fillFor = s.fillFor := rfl
@[simp] theorem Squad.setK_fillBad (s : Squad) (i ln : Nat) (x : Word) : (s.setK i ln x).fillBad = s.fillBad := rfl
@[simp] theorem Squad.setK_path (s : Squad) (i ln : Nat) (x : Word) : (s.setK i ln x).path = s.path := rfl
@[simp] theorem Squad.setK_exited (s : Squad) (i ln : Nat) (x : Word) : (s.setK i ln x).exited = s.exited := rfl
@[simp] theorem Squad.setK_pinSet (s : Squad) (i ln : Nat) (x : Word) : (s.setK i ln x).pinSet = s.pinSet := rfl
@[simp] theorem Squad.setK_since (s : Squad) (i ln : Nat) (x : Word) : (s.setK i ln x).since = s.since := rfl
@[simp] theorem Squad.setK_late (s : Squad) (i ln : Nat) (x : Word) : (s.setK i ln x).late = s.late := rfl
@[simp] theorem Squad.setK_deqTask (s : Squad) (i ln : Nat) (x : Word) : (s.setK i ln x).deqTask = s.deqTask := rfl
@[simp] theorem Squad.setK_awaits (s : Squad) (i ln : Nat) (x : Word) : (s.setK i ln x).awaits = s.awaits := rfl
@[simp] theorem Squad.setK_undo (s : Squad) (i ln : Nat) (x : Word) : (s.setK i ln x).undo = s.undo := rfl
@[simp] theorem Squad.setK_debug (s : Squad) (i ln : Nat) (x : Word) : (s.setK i ln x).debug = s.debug := rfl
@[simp] theorem Squad.setK_stop (s : Squad) (i ln : Nat) (x : Word) : (s.setK i ln x).stop = s.stop := rfl
@[simp] theorem Squad.setK_slot (s : Squad) (i ln : Nat) (x : Word) : (s.setK i ln x).slot = s.slot := rfl
@[simp] theorem Squad.setK_ending (s : Squad) (i ln : Nat) (x : Word) : (s.setK i ln x).ending = s.ending := rfl
@[simp] theorem Squad.setK_gone (s : Squad) (i ln : Nat) (x : Word) : (s.setK i ln x).gone = s.gone := rfl
@[simp] theorem Squad.setK_freed (s : Squad) (i ln : Nat) (x : Word) : (s.setK i ln x).freed = s.freed := rfl
@[simp] theorem Squad.setK_unrun (s : Squad) (i ln : Nat) (x : Word) : (s.setK i ln x).unrun = s.unrun := rfl
/-! ### Squad.setH -/
@[simp] theorem Squad.setH_ctx (s : Squad) (i ln : Nat) (x : Word) : (s.setH i ln x).ctx = s.ctx := rfl
@[simp] theorem Squad.setH_asid (s : Squad) (i ln : Nat) (x : Word) : (s.setH i ln x).asid = s.asid := rfl
@[simp] theorem Squad.setH_vmid (s : Squad) (i ln : Nat) (x : Word) : (s.setH i ln x).vmid = s.vmid := rfl
@[simp] theorem Squad.setH_state (s : Squad) (i ln : Nat) (x : Word) : (s.setH i ln x).state = s.state := rfl
@[simp] theorem Squad.setH_res (s : Squad) (i ln : Nat) (x : Word) : (s.setH i ln x).res = s.res := rfl
@[simp] theorem Squad.setH_onChip (s : Squad) (i ln : Nat) (x : Word) : (s.setH i ln x).onChip = s.onChip := rfl
@[simp] theorem Squad.setH_core (s : Squad) (i ln : Nat) (x : Word) : (s.setH i ln x).core = s.core := rfl
@[simp] theorem Squad.setH_bound (s : Squad) (i ln : Nat) (x : Word) : (s.setH i ln x).bound = s.bound := rfl
@[simp] theorem Squad.setH_prio (s : Squad) (i ln : Nat) (x : Word) : (s.setH i ln x).prio = s.prio := rfl
@[simp] theorem Squad.setH_ext (s : Squad) (i ln : Nat) (x : Word) : (s.setH i ln x).ext = s.ext := rfl
@[simp] theorem Squad.setH_det (s : Squad) (i ln : Nat) (x : Word) : (s.setH i ln x).det = s.det := rfl
@[simp] theorem Squad.setH_dbg (s : Squad) (i ln : Nat) (x : Word) : (s.setH i ln x).dbg = s.dbg := rfl
@[simp] theorem Squad.setH_pin (s : Squad) (i ln : Nat) (x : Word) : (s.setH i ln x).pin = s.pin := rfl
@[simp] theorem Squad.setH_fuse (s : Squad) (i ln : Nat) (x : Word) : (s.setH i ln x).fuse = s.fuse := rfl
@[simp] theorem Squad.setH_kh (s : Squad) (i ln : Nat) (x : Word) : (s.setH i ln x).kh = s.kh := rfl
@[simp] theorem Squad.setH_kern (s : Squad) (i ln : Nat) (x : Word) : (s.setH i ln x).kern = s.kern := rfl
@[simp] theorem Squad.setH_sqidx (s : Squad) (i ln : Nat) (x : Word) : (s.setH i ln x).sqidx = s.sqidx := rfl
@[simp] theorem Squad.setH_gpidx (s : Squad) (i ln : Nat) (x : Word) : (s.setH i ln x).gpidx = s.gpidx := rfl
@[simp] theorem Squad.setH_privb (s : Squad) (i ln : Nat) (x : Word) : (s.setH i ln x).privb = s.privb := rfl
@[simp] theorem Squad.setH_privl (s : Squad) (i ln : Nat) (x : Word) : (s.setH i ln x).privl = s.privl := rfl
@[simp] theorem Squad.setH_fpsr (s : Squad) (i ln : Nat) (x : Word) : (s.setH i ln x).fpsr = s.fpsr := rfl
@[simp] theorem Squad.setH_fpcr (s : Squad) (i ln : Nat) (x : Word) : (s.setH i ln x).fpcr = s.fpcr := rfl
@[simp] theorem Squad.setH_age (s : Squad) (i ln : Nat) (x : Word) : (s.setH i ln x).age = s.age := rfl
@[simp] theorem Squad.setH_qspill (s : Squad) (i ln : Nat) (x : Word) : (s.setH i ln x).qspill = s.qspill := rfl
@[simp] theorem Squad.setH_wantExt (s : Squad) (i ln : Nat) (x : Word) : (s.setH i ln x).wantExt = s.wantExt := rfl
@[simp] theorem Squad.setH_fcnt (s : Squad) (i ln : Nat) (x : Word) : (s.setH i ln x).fcnt = s.fcnt := rfl
@[simp] theorem Squad.setH_rwr (s : Squad) (i ln : Nat) (x : Word) : (s.setH i ln x).rwr = s.rwr := rfl
@[simp] theorem Squad.setH_masks (s : Squad) (i ln : Nat) (x : Word) : (s.setH i ln x).masks = s.masks := rfl
@[simp] theorem Squad.setH_kbank (s : Squad) (i ln : Nat) (x : Word) : (s.setH i ln x).kbank = s.kbank := rfl
@[simp] theorem Squad.setH_rows (s : Squad) (i ln : Nat) (x : Word) : (s.setH i ln x).rows = s.rows := rfl
@[simp] theorem Squad.setH_lanes (s : Squad) (i ln : Nat) (x : Word) : (s.setH i ln x).lanes = s.lanes := rfl
@[simp] theorem Squad.setH_group (s : Squad) (i ln : Nat) (x : Word) : (s.setH i ln x).group = s.group := rfl
@[simp] theorem Squad.setH_arr (s : Squad) (i ln : Nat) (x : Word) : (s.setH i ln x).arr = s.arr := rfl
@[simp] theorem Squad.setH_insts (s : Squad) (i ln : Nat) (x : Word) : (s.setH i ln x).insts = s.insts := rfl
@[simp] theorem Squad.setH_claims (s : Squad) (i ln : Nat) (x : Word) : (s.setH i ln x).claims = s.claims := rfl
@[simp] theorem Squad.setH_fdone (s : Squad) (i ln : Nat) (x : Word) : (s.setH i ln x).fdone = s.fdone := rfl
@[simp] theorem Squad.setH_form (s : Squad) (i ln : Nat) (x : Word) : (s.setH i ln x).form = s.form := rfl
@[simp] theorem Squad.setH_fills (s : Squad) (i ln : Nat) (x : Word) : (s.setH i ln x).fills = s.fills := rfl
@[simp] theorem Squad.setH_fillFor (s : Squad) (i ln : Nat) (x : Word) : (s.setH i ln x).fillFor = s.fillFor := rfl
@[simp] theorem Squad.setH_fillBad (s : Squad) (i ln : Nat) (x : Word) : (s.setH i ln x).fillBad = s.fillBad := rfl
@[simp] theorem Squad.setH_path (s : Squad) (i ln : Nat) (x : Word) : (s.setH i ln x).path = s.path := rfl
@[simp] theorem Squad.setH_exited (s : Squad) (i ln : Nat) (x : Word) : (s.setH i ln x).exited = s.exited := rfl
@[simp] theorem Squad.setH_pinSet (s : Squad) (i ln : Nat) (x : Word) : (s.setH i ln x).pinSet = s.pinSet := rfl
@[simp] theorem Squad.setH_since (s : Squad) (i ln : Nat) (x : Word) : (s.setH i ln x).since = s.since := rfl
@[simp] theorem Squad.setH_late (s : Squad) (i ln : Nat) (x : Word) : (s.setH i ln x).late = s.late := rfl
@[simp] theorem Squad.setH_deqTask (s : Squad) (i ln : Nat) (x : Word) : (s.setH i ln x).deqTask = s.deqTask := rfl
@[simp] theorem Squad.setH_awaits (s : Squad) (i ln : Nat) (x : Word) : (s.setH i ln x).awaits = s.awaits := rfl
@[simp] theorem Squad.setH_undo (s : Squad) (i ln : Nat) (x : Word) : (s.setH i ln x).undo = s.undo := rfl
@[simp] theorem Squad.setH_debug (s : Squad) (i ln : Nat) (x : Word) : (s.setH i ln x).debug = s.debug := rfl
@[simp] theorem Squad.setH_stop (s : Squad) (i ln : Nat) (x : Word) : (s.setH i ln x).stop = s.stop := rfl
@[simp] theorem Squad.setH_slot (s : Squad) (i ln : Nat) (x : Word) : (s.setH i ln x).slot = s.slot := rfl
@[simp] theorem Squad.setH_ending (s : Squad) (i ln : Nat) (x : Word) : (s.setH i ln x).ending = s.ending := rfl
@[simp] theorem Squad.setH_gone (s : Squad) (i ln : Nat) (x : Word) : (s.setH i ln x).gone = s.gone := rfl
@[simp] theorem Squad.setH_freed (s : Squad) (i ln : Nat) (x : Word) : (s.setH i ln x).freed = s.freed := rfl
@[simp] theorem Squad.setH_unrun (s : Squad) (i ln : Nat) (x : Word) : (s.setH i ln x).unrun = s.unrun := rfl
/-! ### Squad.setLane -/
@[simp] theorem Squad.setLane_ctx (s : Squad) (ln : Nat) (f : Lane → Lane) : (s.setLane ln f).ctx = s.ctx := rfl
@[simp] theorem Squad.setLane_asid (s : Squad) (ln : Nat) (f : Lane → Lane) : (s.setLane ln f).asid = s.asid := rfl
@[simp] theorem Squad.setLane_vmid (s : Squad) (ln : Nat) (f : Lane → Lane) : (s.setLane ln f).vmid = s.vmid := rfl
@[simp] theorem Squad.setLane_state (s : Squad) (ln : Nat) (f : Lane → Lane) : (s.setLane ln f).state = s.state := rfl
@[simp] theorem Squad.setLane_res (s : Squad) (ln : Nat) (f : Lane → Lane) : (s.setLane ln f).res = s.res := rfl
@[simp] theorem Squad.setLane_onChip (s : Squad) (ln : Nat) (f : Lane → Lane) : (s.setLane ln f).onChip = s.onChip := rfl
@[simp] theorem Squad.setLane_core (s : Squad) (ln : Nat) (f : Lane → Lane) : (s.setLane ln f).core = s.core := rfl
@[simp] theorem Squad.setLane_bound (s : Squad) (ln : Nat) (f : Lane → Lane) : (s.setLane ln f).bound = s.bound := rfl
@[simp] theorem Squad.setLane_prio (s : Squad) (ln : Nat) (f : Lane → Lane) : (s.setLane ln f).prio = s.prio := rfl
@[simp] theorem Squad.setLane_ext (s : Squad) (ln : Nat) (f : Lane → Lane) : (s.setLane ln f).ext = s.ext := rfl
@[simp] theorem Squad.setLane_det (s : Squad) (ln : Nat) (f : Lane → Lane) : (s.setLane ln f).det = s.det := rfl
@[simp] theorem Squad.setLane_dbg (s : Squad) (ln : Nat) (f : Lane → Lane) : (s.setLane ln f).dbg = s.dbg := rfl
@[simp] theorem Squad.setLane_pin (s : Squad) (ln : Nat) (f : Lane → Lane) : (s.setLane ln f).pin = s.pin := rfl
@[simp] theorem Squad.setLane_fuse (s : Squad) (ln : Nat) (f : Lane → Lane) : (s.setLane ln f).fuse = s.fuse := rfl
@[simp] theorem Squad.setLane_kh (s : Squad) (ln : Nat) (f : Lane → Lane) : (s.setLane ln f).kh = s.kh := rfl
@[simp] theorem Squad.setLane_kern (s : Squad) (ln : Nat) (f : Lane → Lane) : (s.setLane ln f).kern = s.kern := rfl
@[simp] theorem Squad.setLane_sqidx (s : Squad) (ln : Nat) (f : Lane → Lane) : (s.setLane ln f).sqidx = s.sqidx := rfl
@[simp] theorem Squad.setLane_gpidx (s : Squad) (ln : Nat) (f : Lane → Lane) : (s.setLane ln f).gpidx = s.gpidx := rfl
@[simp] theorem Squad.setLane_privb (s : Squad) (ln : Nat) (f : Lane → Lane) : (s.setLane ln f).privb = s.privb := rfl
@[simp] theorem Squad.setLane_privl (s : Squad) (ln : Nat) (f : Lane → Lane) : (s.setLane ln f).privl = s.privl := rfl
@[simp] theorem Squad.setLane_fpsr (s : Squad) (ln : Nat) (f : Lane → Lane) : (s.setLane ln f).fpsr = s.fpsr := rfl
@[simp] theorem Squad.setLane_fpcr (s : Squad) (ln : Nat) (f : Lane → Lane) : (s.setLane ln f).fpcr = s.fpcr := rfl
@[simp] theorem Squad.setLane_age (s : Squad) (ln : Nat) (f : Lane → Lane) : (s.setLane ln f).age = s.age := rfl
@[simp] theorem Squad.setLane_qspill (s : Squad) (ln : Nat) (f : Lane → Lane) : (s.setLane ln f).qspill = s.qspill := rfl
@[simp] theorem Squad.setLane_wantExt (s : Squad) (ln : Nat) (f : Lane → Lane) : (s.setLane ln f).wantExt = s.wantExt := rfl
@[simp] theorem Squad.setLane_fcnt (s : Squad) (ln : Nat) (f : Lane → Lane) : (s.setLane ln f).fcnt = s.fcnt := rfl
@[simp] theorem Squad.setLane_rwr (s : Squad) (ln : Nat) (f : Lane → Lane) : (s.setLane ln f).rwr = s.rwr := rfl
@[simp] theorem Squad.setLane_masks (s : Squad) (ln : Nat) (f : Lane → Lane) : (s.setLane ln f).masks = s.masks := rfl
@[simp] theorem Squad.setLane_kbank (s : Squad) (ln : Nat) (f : Lane → Lane) : (s.setLane ln f).kbank = s.kbank := rfl
@[simp] theorem Squad.setLane_hbank (s : Squad) (ln : Nat) (f : Lane → Lane) : (s.setLane ln f).hbank = s.hbank := rfl
@[simp] theorem Squad.setLane_rows (s : Squad) (ln : Nat) (f : Lane → Lane) : (s.setLane ln f).rows = s.rows := rfl
@[simp] theorem Squad.setLane_group (s : Squad) (ln : Nat) (f : Lane → Lane) : (s.setLane ln f).group = s.group := rfl
@[simp] theorem Squad.setLane_arr (s : Squad) (ln : Nat) (f : Lane → Lane) : (s.setLane ln f).arr = s.arr := rfl
@[simp] theorem Squad.setLane_insts (s : Squad) (ln : Nat) (f : Lane → Lane) : (s.setLane ln f).insts = s.insts := rfl
@[simp] theorem Squad.setLane_claims (s : Squad) (ln : Nat) (f : Lane → Lane) : (s.setLane ln f).claims = s.claims := rfl
@[simp] theorem Squad.setLane_fdone (s : Squad) (ln : Nat) (f : Lane → Lane) : (s.setLane ln f).fdone = s.fdone := rfl
@[simp] theorem Squad.setLane_form (s : Squad) (ln : Nat) (f : Lane → Lane) : (s.setLane ln f).form = s.form := rfl
@[simp] theorem Squad.setLane_fills (s : Squad) (ln : Nat) (f : Lane → Lane) : (s.setLane ln f).fills = s.fills := rfl
@[simp] theorem Squad.setLane_fillFor (s : Squad) (ln : Nat) (f : Lane → Lane) : (s.setLane ln f).fillFor = s.fillFor := rfl
@[simp] theorem Squad.setLane_fillBad (s : Squad) (ln : Nat) (f : Lane → Lane) : (s.setLane ln f).fillBad = s.fillBad := rfl
@[simp] theorem Squad.setLane_path (s : Squad) (ln : Nat) (f : Lane → Lane) : (s.setLane ln f).path = s.path := rfl
@[simp] theorem Squad.setLane_exited (s : Squad) (ln : Nat) (f : Lane → Lane) : (s.setLane ln f).exited = s.exited := rfl
@[simp] theorem Squad.setLane_pinSet (s : Squad) (ln : Nat) (f : Lane → Lane) : (s.setLane ln f).pinSet = s.pinSet := rfl
@[simp] theorem Squad.setLane_since (s : Squad) (ln : Nat) (f : Lane → Lane) : (s.setLane ln f).since = s.since := rfl
@[simp] theorem Squad.setLane_late (s : Squad) (ln : Nat) (f : Lane → Lane) : (s.setLane ln f).late = s.late := rfl
@[simp] theorem Squad.setLane_deqTask (s : Squad) (ln : Nat) (f : Lane → Lane) : (s.setLane ln f).deqTask = s.deqTask := rfl
@[simp] theorem Squad.setLane_awaits (s : Squad) (ln : Nat) (f : Lane → Lane) : (s.setLane ln f).awaits = s.awaits := rfl
@[simp] theorem Squad.setLane_undo (s : Squad) (ln : Nat) (f : Lane → Lane) : (s.setLane ln f).undo = s.undo := rfl
@[simp] theorem Squad.setLane_debug (s : Squad) (ln : Nat) (f : Lane → Lane) : (s.setLane ln f).debug = s.debug := rfl
@[simp] theorem Squad.setLane_stop (s : Squad) (ln : Nat) (f : Lane → Lane) : (s.setLane ln f).stop = s.stop := rfl
@[simp] theorem Squad.setLane_slot (s : Squad) (ln : Nat) (f : Lane → Lane) : (s.setLane ln f).slot = s.slot := rfl
@[simp] theorem Squad.setLane_ending (s : Squad) (ln : Nat) (f : Lane → Lane) : (s.setLane ln f).ending = s.ending := rfl
@[simp] theorem Squad.setLane_gone (s : Squad) (ln : Nat) (f : Lane → Lane) : (s.setLane ln f).gone = s.gone := rfl
@[simp] theorem Squad.setLane_freed (s : Squad) (ln : Nat) (f : Lane → Lane) : (s.setLane ln f).freed = s.freed := rfl
@[simp] theorem Squad.setLane_unrun (s : Squad) (ln : Nat) (f : Lane → Lane) : (s.setLane ln f).unrun = s.unrun := rfl
/-! ### Squad.setMask -/
@[simp] theorem Squad.setMask_ctx (s : Squad) (i : Nat) (x : BitVec 128) : (s.setMask i x).ctx = s.ctx := rfl
@[simp] theorem Squad.setMask_asid (s : Squad) (i : Nat) (x : BitVec 128) : (s.setMask i x).asid = s.asid := rfl
@[simp] theorem Squad.setMask_vmid (s : Squad) (i : Nat) (x : BitVec 128) : (s.setMask i x).vmid = s.vmid := rfl
@[simp] theorem Squad.setMask_state (s : Squad) (i : Nat) (x : BitVec 128) : (s.setMask i x).state = s.state := rfl
@[simp] theorem Squad.setMask_res (s : Squad) (i : Nat) (x : BitVec 128) : (s.setMask i x).res = s.res := rfl
@[simp] theorem Squad.setMask_onChip (s : Squad) (i : Nat) (x : BitVec 128) : (s.setMask i x).onChip = s.onChip := rfl
@[simp] theorem Squad.setMask_core (s : Squad) (i : Nat) (x : BitVec 128) : (s.setMask i x).core = s.core := rfl
@[simp] theorem Squad.setMask_bound (s : Squad) (i : Nat) (x : BitVec 128) : (s.setMask i x).bound = s.bound := rfl
@[simp] theorem Squad.setMask_prio (s : Squad) (i : Nat) (x : BitVec 128) : (s.setMask i x).prio = s.prio := rfl
@[simp] theorem Squad.setMask_ext (s : Squad) (i : Nat) (x : BitVec 128) : (s.setMask i x).ext = s.ext := rfl
@[simp] theorem Squad.setMask_det (s : Squad) (i : Nat) (x : BitVec 128) : (s.setMask i x).det = s.det := rfl
@[simp] theorem Squad.setMask_dbg (s : Squad) (i : Nat) (x : BitVec 128) : (s.setMask i x).dbg = s.dbg := rfl
@[simp] theorem Squad.setMask_pin (s : Squad) (i : Nat) (x : BitVec 128) : (s.setMask i x).pin = s.pin := rfl
@[simp] theorem Squad.setMask_fuse (s : Squad) (i : Nat) (x : BitVec 128) : (s.setMask i x).fuse = s.fuse := rfl
@[simp] theorem Squad.setMask_kh (s : Squad) (i : Nat) (x : BitVec 128) : (s.setMask i x).kh = s.kh := rfl
@[simp] theorem Squad.setMask_kern (s : Squad) (i : Nat) (x : BitVec 128) : (s.setMask i x).kern = s.kern := rfl
@[simp] theorem Squad.setMask_sqidx (s : Squad) (i : Nat) (x : BitVec 128) : (s.setMask i x).sqidx = s.sqidx := rfl
@[simp] theorem Squad.setMask_gpidx (s : Squad) (i : Nat) (x : BitVec 128) : (s.setMask i x).gpidx = s.gpidx := rfl
@[simp] theorem Squad.setMask_privb (s : Squad) (i : Nat) (x : BitVec 128) : (s.setMask i x).privb = s.privb := rfl
@[simp] theorem Squad.setMask_privl (s : Squad) (i : Nat) (x : BitVec 128) : (s.setMask i x).privl = s.privl := rfl
@[simp] theorem Squad.setMask_fpsr (s : Squad) (i : Nat) (x : BitVec 128) : (s.setMask i x).fpsr = s.fpsr := rfl
@[simp] theorem Squad.setMask_fpcr (s : Squad) (i : Nat) (x : BitVec 128) : (s.setMask i x).fpcr = s.fpcr := rfl
@[simp] theorem Squad.setMask_age (s : Squad) (i : Nat) (x : BitVec 128) : (s.setMask i x).age = s.age := rfl
@[simp] theorem Squad.setMask_qspill (s : Squad) (i : Nat) (x : BitVec 128) : (s.setMask i x).qspill = s.qspill := rfl
@[simp] theorem Squad.setMask_wantExt (s : Squad) (i : Nat) (x : BitVec 128) : (s.setMask i x).wantExt = s.wantExt := rfl
@[simp] theorem Squad.setMask_fcnt (s : Squad) (i : Nat) (x : BitVec 128) : (s.setMask i x).fcnt = s.fcnt := rfl
@[simp] theorem Squad.setMask_rwr (s : Squad) (i : Nat) (x : BitVec 128) : (s.setMask i x).rwr = s.rwr := rfl
@[simp] theorem Squad.setMask_kbank (s : Squad) (i : Nat) (x : BitVec 128) : (s.setMask i x).kbank = s.kbank := rfl
@[simp] theorem Squad.setMask_hbank (s : Squad) (i : Nat) (x : BitVec 128) : (s.setMask i x).hbank = s.hbank := rfl
@[simp] theorem Squad.setMask_rows (s : Squad) (i : Nat) (x : BitVec 128) : (s.setMask i x).rows = s.rows := rfl
@[simp] theorem Squad.setMask_lanes (s : Squad) (i : Nat) (x : BitVec 128) : (s.setMask i x).lanes = s.lanes := rfl
@[simp] theorem Squad.setMask_group (s : Squad) (i : Nat) (x : BitVec 128) : (s.setMask i x).group = s.group := rfl
@[simp] theorem Squad.setMask_arr (s : Squad) (i : Nat) (x : BitVec 128) : (s.setMask i x).arr = s.arr := rfl
@[simp] theorem Squad.setMask_insts (s : Squad) (i : Nat) (x : BitVec 128) : (s.setMask i x).insts = s.insts := rfl
@[simp] theorem Squad.setMask_claims (s : Squad) (i : Nat) (x : BitVec 128) : (s.setMask i x).claims = s.claims := rfl
@[simp] theorem Squad.setMask_fdone (s : Squad) (i : Nat) (x : BitVec 128) : (s.setMask i x).fdone = s.fdone := rfl
@[simp] theorem Squad.setMask_form (s : Squad) (i : Nat) (x : BitVec 128) : (s.setMask i x).form = s.form := rfl
@[simp] theorem Squad.setMask_fills (s : Squad) (i : Nat) (x : BitVec 128) : (s.setMask i x).fills = s.fills := rfl
@[simp] theorem Squad.setMask_fillFor (s : Squad) (i : Nat) (x : BitVec 128) : (s.setMask i x).fillFor = s.fillFor := rfl
@[simp] theorem Squad.setMask_fillBad (s : Squad) (i : Nat) (x : BitVec 128) : (s.setMask i x).fillBad = s.fillBad := rfl
@[simp] theorem Squad.setMask_path (s : Squad) (i : Nat) (x : BitVec 128) : (s.setMask i x).path = s.path := rfl
@[simp] theorem Squad.setMask_exited (s : Squad) (i : Nat) (x : BitVec 128) : (s.setMask i x).exited = s.exited := rfl
@[simp] theorem Squad.setMask_pinSet (s : Squad) (i : Nat) (x : BitVec 128) : (s.setMask i x).pinSet = s.pinSet := rfl
@[simp] theorem Squad.setMask_since (s : Squad) (i : Nat) (x : BitVec 128) : (s.setMask i x).since = s.since := rfl
@[simp] theorem Squad.setMask_late (s : Squad) (i : Nat) (x : BitVec 128) : (s.setMask i x).late = s.late := rfl
@[simp] theorem Squad.setMask_deqTask (s : Squad) (i : Nat) (x : BitVec 128) : (s.setMask i x).deqTask = s.deqTask := rfl
@[simp] theorem Squad.setMask_awaits (s : Squad) (i : Nat) (x : BitVec 128) : (s.setMask i x).awaits = s.awaits := rfl
@[simp] theorem Squad.setMask_undo (s : Squad) (i : Nat) (x : BitVec 128) : (s.setMask i x).undo = s.undo := rfl
@[simp] theorem Squad.setMask_debug (s : Squad) (i : Nat) (x : BitVec 128) : (s.setMask i x).debug = s.debug := rfl
@[simp] theorem Squad.setMask_stop (s : Squad) (i : Nat) (x : BitVec 128) : (s.setMask i x).stop = s.stop := rfl
@[simp] theorem Squad.setMask_slot (s : Squad) (i : Nat) (x : BitVec 128) : (s.setMask i x).slot = s.slot := rfl
@[simp] theorem Squad.setMask_ending (s : Squad) (i : Nat) (x : BitVec 128) : (s.setMask i x).ending = s.ending := rfl
@[simp] theorem Squad.setMask_gone (s : Squad) (i : Nat) (x : BitVec 128) : (s.setMask i x).gone = s.gone := rfl
@[simp] theorem Squad.setMask_freed (s : Squad) (i : Nat) (x : BitVec 128) : (s.setMask i x).freed = s.freed := rfl
@[simp] theorem Squad.setMask_unrun (s : Squad) (i : Nat) (x : BitVec 128) : (s.setMask i x).unrun = s.unrun := rfl
/-! ### Squad.raise -/
@[simp] theorem Squad.raise_ctx (s : Squad) (f : Fl) : (s.raise f).ctx = s.ctx := rfl
@[simp] theorem Squad.raise_asid (s : Squad) (f : Fl) : (s.raise f).asid = s.asid := rfl
@[simp] theorem Squad.raise_vmid (s : Squad) (f : Fl) : (s.raise f).vmid = s.vmid := rfl
@[simp] theorem Squad.raise_state (s : Squad) (f : Fl) : (s.raise f).state = s.state := rfl
@[simp] theorem Squad.raise_res (s : Squad) (f : Fl) : (s.raise f).res = s.res := rfl
@[simp] theorem Squad.raise_onChip (s : Squad) (f : Fl) : (s.raise f).onChip = s.onChip := rfl
@[simp] theorem Squad.raise_core (s : Squad) (f : Fl) : (s.raise f).core = s.core := rfl
@[simp] theorem Squad.raise_bound (s : Squad) (f : Fl) : (s.raise f).bound = s.bound := rfl
@[simp] theorem Squad.raise_prio (s : Squad) (f : Fl) : (s.raise f).prio = s.prio := rfl
@[simp] theorem Squad.raise_ext (s : Squad) (f : Fl) : (s.raise f).ext = s.ext := rfl
@[simp] theorem Squad.raise_det (s : Squad) (f : Fl) : (s.raise f).det = s.det := rfl
@[simp] theorem Squad.raise_dbg (s : Squad) (f : Fl) : (s.raise f).dbg = s.dbg := rfl
@[simp] theorem Squad.raise_pin (s : Squad) (f : Fl) : (s.raise f).pin = s.pin := rfl
@[simp] theorem Squad.raise_fuse (s : Squad) (f : Fl) : (s.raise f).fuse = s.fuse := rfl
@[simp] theorem Squad.raise_kh (s : Squad) (f : Fl) : (s.raise f).kh = s.kh := rfl
@[simp] theorem Squad.raise_kern (s : Squad) (f : Fl) : (s.raise f).kern = s.kern := rfl
@[simp] theorem Squad.raise_sqidx (s : Squad) (f : Fl) : (s.raise f).sqidx = s.sqidx := rfl
@[simp] theorem Squad.raise_gpidx (s : Squad) (f : Fl) : (s.raise f).gpidx = s.gpidx := rfl
@[simp] theorem Squad.raise_privb (s : Squad) (f : Fl) : (s.raise f).privb = s.privb := rfl
@[simp] theorem Squad.raise_privl (s : Squad) (f : Fl) : (s.raise f).privl = s.privl := rfl
@[simp] theorem Squad.raise_fpcr (s : Squad) (f : Fl) : (s.raise f).fpcr = s.fpcr := rfl
@[simp] theorem Squad.raise_age (s : Squad) (f : Fl) : (s.raise f).age = s.age := rfl
@[simp] theorem Squad.raise_qspill (s : Squad) (f : Fl) : (s.raise f).qspill = s.qspill := rfl
@[simp] theorem Squad.raise_wantExt (s : Squad) (f : Fl) : (s.raise f).wantExt = s.wantExt := rfl
@[simp] theorem Squad.raise_fcnt (s : Squad) (f : Fl) : (s.raise f).fcnt = s.fcnt := rfl
@[simp] theorem Squad.raise_rwr (s : Squad) (f : Fl) : (s.raise f).rwr = s.rwr := rfl
@[simp] theorem Squad.raise_masks (s : Squad) (f : Fl) : (s.raise f).masks = s.masks := rfl
@[simp] theorem Squad.raise_kbank (s : Squad) (f : Fl) : (s.raise f).kbank = s.kbank := rfl
@[simp] theorem Squad.raise_hbank (s : Squad) (f : Fl) : (s.raise f).hbank = s.hbank := rfl
@[simp] theorem Squad.raise_rows (s : Squad) (f : Fl) : (s.raise f).rows = s.rows := rfl
@[simp] theorem Squad.raise_lanes (s : Squad) (f : Fl) : (s.raise f).lanes = s.lanes := rfl
@[simp] theorem Squad.raise_group (s : Squad) (f : Fl) : (s.raise f).group = s.group := rfl
@[simp] theorem Squad.raise_arr (s : Squad) (f : Fl) : (s.raise f).arr = s.arr := rfl
@[simp] theorem Squad.raise_insts (s : Squad) (f : Fl) : (s.raise f).insts = s.insts := rfl
@[simp] theorem Squad.raise_claims (s : Squad) (f : Fl) : (s.raise f).claims = s.claims := rfl
@[simp] theorem Squad.raise_fdone (s : Squad) (f : Fl) : (s.raise f).fdone = s.fdone := rfl
@[simp] theorem Squad.raise_form (s : Squad) (f : Fl) : (s.raise f).form = s.form := rfl
@[simp] theorem Squad.raise_fills (s : Squad) (f : Fl) : (s.raise f).fills = s.fills := rfl
@[simp] theorem Squad.raise_fillFor (s : Squad) (f : Fl) : (s.raise f).fillFor = s.fillFor := rfl
@[simp] theorem Squad.raise_fillBad (s : Squad) (f : Fl) : (s.raise f).fillBad = s.fillBad := rfl
@[simp] theorem Squad.raise_path (s : Squad) (f : Fl) : (s.raise f).path = s.path := rfl
@[simp] theorem Squad.raise_exited (s : Squad) (f : Fl) : (s.raise f).exited = s.exited := rfl
@[simp] theorem Squad.raise_pinSet (s : Squad) (f : Fl) : (s.raise f).pinSet = s.pinSet := rfl
@[simp] theorem Squad.raise_since (s : Squad) (f : Fl) : (s.raise f).since = s.since := rfl
@[simp] theorem Squad.raise_late (s : Squad) (f : Fl) : (s.raise f).late = s.late := rfl
@[simp] theorem Squad.raise_deqTask (s : Squad) (f : Fl) : (s.raise f).deqTask = s.deqTask := rfl
@[simp] theorem Squad.raise_awaits (s : Squad) (f : Fl) : (s.raise f).awaits = s.awaits := rfl
@[simp] theorem Squad.raise_undo (s : Squad) (f : Fl) : (s.raise f).undo = s.undo := rfl
@[simp] theorem Squad.raise_debug (s : Squad) (f : Fl) : (s.raise f).debug = s.debug := rfl
@[simp] theorem Squad.raise_stop (s : Squad) (f : Fl) : (s.raise f).stop = s.stop := rfl
@[simp] theorem Squad.raise_slot (s : Squad) (f : Fl) : (s.raise f).slot = s.slot := rfl
@[simp] theorem Squad.raise_ending (s : Squad) (f : Fl) : (s.raise f).ending = s.ending := rfl
@[simp] theorem Squad.raise_gone (s : Squad) (f : Fl) : (s.raise f).gone = s.gone := rfl
@[simp] theorem Squad.raise_freed (s : Squad) (f : Fl) : (s.raise f).freed = s.freed := rfl
@[simp] theorem Squad.raise_unrun (s : Squad) (f : Fl) : (s.raise f).unrun = s.unrun := rfl
/-! ### Squad.dropClaim -/
@[simp] theorem Squad.dropClaim_ctx (s : Squad) (c : Nat) (k : Claim) : (s.dropClaim c k).ctx = s.ctx := rfl
@[simp] theorem Squad.dropClaim_asid (s : Squad) (c : Nat) (k : Claim) : (s.dropClaim c k).asid = s.asid := rfl
@[simp] theorem Squad.dropClaim_vmid (s : Squad) (c : Nat) (k : Claim) : (s.dropClaim c k).vmid = s.vmid := rfl
@[simp] theorem Squad.dropClaim_state (s : Squad) (c : Nat) (k : Claim) : (s.dropClaim c k).state = s.state := rfl
@[simp] theorem Squad.dropClaim_res (s : Squad) (c : Nat) (k : Claim) : (s.dropClaim c k).res = s.res := rfl
@[simp] theorem Squad.dropClaim_onChip (s : Squad) (c : Nat) (k : Claim) : (s.dropClaim c k).onChip = s.onChip := rfl
@[simp] theorem Squad.dropClaim_core (s : Squad) (c : Nat) (k : Claim) : (s.dropClaim c k).core = s.core := rfl
@[simp] theorem Squad.dropClaim_bound (s : Squad) (c : Nat) (k : Claim) : (s.dropClaim c k).bound = s.bound := rfl
@[simp] theorem Squad.dropClaim_prio (s : Squad) (c : Nat) (k : Claim) : (s.dropClaim c k).prio = s.prio := rfl
@[simp] theorem Squad.dropClaim_ext (s : Squad) (c : Nat) (k : Claim) : (s.dropClaim c k).ext = s.ext := rfl
@[simp] theorem Squad.dropClaim_det (s : Squad) (c : Nat) (k : Claim) : (s.dropClaim c k).det = s.det := rfl
@[simp] theorem Squad.dropClaim_dbg (s : Squad) (c : Nat) (k : Claim) : (s.dropClaim c k).dbg = s.dbg := rfl
@[simp] theorem Squad.dropClaim_pin (s : Squad) (c : Nat) (k : Claim) : (s.dropClaim c k).pin = s.pin := rfl
@[simp] theorem Squad.dropClaim_fuse (s : Squad) (c : Nat) (k : Claim) : (s.dropClaim c k).fuse = s.fuse := rfl
@[simp] theorem Squad.dropClaim_kh (s : Squad) (c : Nat) (k : Claim) : (s.dropClaim c k).kh = s.kh := rfl
@[simp] theorem Squad.dropClaim_kern (s : Squad) (c : Nat) (k : Claim) : (s.dropClaim c k).kern = s.kern := rfl
@[simp] theorem Squad.dropClaim_sqidx (s : Squad) (c : Nat) (k : Claim) : (s.dropClaim c k).sqidx = s.sqidx := rfl
@[simp] theorem Squad.dropClaim_gpidx (s : Squad) (c : Nat) (k : Claim) : (s.dropClaim c k).gpidx = s.gpidx := rfl
@[simp] theorem Squad.dropClaim_privb (s : Squad) (c : Nat) (k : Claim) : (s.dropClaim c k).privb = s.privb := rfl
@[simp] theorem Squad.dropClaim_privl (s : Squad) (c : Nat) (k : Claim) : (s.dropClaim c k).privl = s.privl := rfl
@[simp] theorem Squad.dropClaim_fpsr (s : Squad) (c : Nat) (k : Claim) : (s.dropClaim c k).fpsr = s.fpsr := rfl
@[simp] theorem Squad.dropClaim_fpcr (s : Squad) (c : Nat) (k : Claim) : (s.dropClaim c k).fpcr = s.fpcr := rfl
@[simp] theorem Squad.dropClaim_age (s : Squad) (c : Nat) (k : Claim) : (s.dropClaim c k).age = s.age := rfl
@[simp] theorem Squad.dropClaim_qspill (s : Squad) (c : Nat) (k : Claim) : (s.dropClaim c k).qspill = s.qspill := rfl
@[simp] theorem Squad.dropClaim_wantExt (s : Squad) (c : Nat) (k : Claim) : (s.dropClaim c k).wantExt = s.wantExt := rfl
@[simp] theorem Squad.dropClaim_rwr (s : Squad) (c : Nat) (k : Claim) : (s.dropClaim c k).rwr = s.rwr := rfl
@[simp] theorem Squad.dropClaim_masks (s : Squad) (c : Nat) (k : Claim) : (s.dropClaim c k).masks = s.masks := rfl
@[simp] theorem Squad.dropClaim_kbank (s : Squad) (c : Nat) (k : Claim) : (s.dropClaim c k).kbank = s.kbank := rfl
@[simp] theorem Squad.dropClaim_hbank (s : Squad) (c : Nat) (k : Claim) : (s.dropClaim c k).hbank = s.hbank := rfl
@[simp] theorem Squad.dropClaim_rows (s : Squad) (c : Nat) (k : Claim) : (s.dropClaim c k).rows = s.rows := rfl
@[simp] theorem Squad.dropClaim_lanes (s : Squad) (c : Nat) (k : Claim) : (s.dropClaim c k).lanes = s.lanes := rfl
@[simp] theorem Squad.dropClaim_group (s : Squad) (c : Nat) (k : Claim) : (s.dropClaim c k).group = s.group := rfl
@[simp] theorem Squad.dropClaim_arr (s : Squad) (c : Nat) (k : Claim) : (s.dropClaim c k).arr = s.arr := rfl
@[simp] theorem Squad.dropClaim_insts (s : Squad) (c : Nat) (k : Claim) : (s.dropClaim c k).insts = s.insts := rfl
@[simp] theorem Squad.dropClaim_form (s : Squad) (c : Nat) (k : Claim) : (s.dropClaim c k).form = s.form := rfl
@[simp] theorem Squad.dropClaim_fills (s : Squad) (c : Nat) (k : Claim) : (s.dropClaim c k).fills = s.fills := rfl
@[simp] theorem Squad.dropClaim_fillFor (s : Squad) (c : Nat) (k : Claim) : (s.dropClaim c k).fillFor = s.fillFor := rfl
@[simp] theorem Squad.dropClaim_fillBad (s : Squad) (c : Nat) (k : Claim) : (s.dropClaim c k).fillBad = s.fillBad := rfl
@[simp] theorem Squad.dropClaim_path (s : Squad) (c : Nat) (k : Claim) : (s.dropClaim c k).path = s.path := rfl
@[simp] theorem Squad.dropClaim_exited (s : Squad) (c : Nat) (k : Claim) : (s.dropClaim c k).exited = s.exited := rfl
@[simp] theorem Squad.dropClaim_pinSet (s : Squad) (c : Nat) (k : Claim) : (s.dropClaim c k).pinSet = s.pinSet := rfl
@[simp] theorem Squad.dropClaim_since (s : Squad) (c : Nat) (k : Claim) : (s.dropClaim c k).since = s.since := rfl
@[simp] theorem Squad.dropClaim_late (s : Squad) (c : Nat) (k : Claim) : (s.dropClaim c k).late = s.late := rfl
@[simp] theorem Squad.dropClaim_deqTask (s : Squad) (c : Nat) (k : Claim) : (s.dropClaim c k).deqTask = s.deqTask := rfl
@[simp] theorem Squad.dropClaim_awaits (s : Squad) (c : Nat) (k : Claim) : (s.dropClaim c k).awaits = s.awaits := rfl
@[simp] theorem Squad.dropClaim_undo (s : Squad) (c : Nat) (k : Claim) : (s.dropClaim c k).undo = s.undo := rfl
@[simp] theorem Squad.dropClaim_debug (s : Squad) (c : Nat) (k : Claim) : (s.dropClaim c k).debug = s.debug := rfl
@[simp] theorem Squad.dropClaim_stop (s : Squad) (c : Nat) (k : Claim) : (s.dropClaim c k).stop = s.stop := rfl
@[simp] theorem Squad.dropClaim_slot (s : Squad) (c : Nat) (k : Claim) : (s.dropClaim c k).slot = s.slot := rfl
@[simp] theorem Squad.dropClaim_ending (s : Squad) (c : Nat) (k : Claim) : (s.dropClaim c k).ending = s.ending := rfl
@[simp] theorem Squad.dropClaim_gone (s : Squad) (c : Nat) (k : Claim) : (s.dropClaim c k).gone = s.gone := rfl
@[simp] theorem Squad.dropClaim_freed (s : Squad) (c : Nat) (k : Claim) : (s.dropClaim c k).freed = s.freed := rfl
@[simp] theorem Squad.dropClaim_unrun (s : Squad) (c : Nat) (k : Claim) : (s.dropClaim c k).unrun = s.unrun := rfl
/-! ### Squad.closeInsts -/
@[simp] theorem Squad.closeInsts_ctx (s : Squad) : (s.closeInsts).ctx = s.ctx := rfl
@[simp] theorem Squad.closeInsts_asid (s : Squad) : (s.closeInsts).asid = s.asid := rfl
@[simp] theorem Squad.closeInsts_vmid (s : Squad) : (s.closeInsts).vmid = s.vmid := rfl
@[simp] theorem Squad.closeInsts_state (s : Squad) : (s.closeInsts).state = s.state := rfl
@[simp] theorem Squad.closeInsts_res (s : Squad) : (s.closeInsts).res = s.res := rfl
@[simp] theorem Squad.closeInsts_onChip (s : Squad) : (s.closeInsts).onChip = s.onChip := rfl
@[simp] theorem Squad.closeInsts_core (s : Squad) : (s.closeInsts).core = s.core := rfl
@[simp] theorem Squad.closeInsts_bound (s : Squad) : (s.closeInsts).bound = s.bound := rfl
@[simp] theorem Squad.closeInsts_prio (s : Squad) : (s.closeInsts).prio = s.prio := rfl
@[simp] theorem Squad.closeInsts_ext (s : Squad) : (s.closeInsts).ext = s.ext := rfl
@[simp] theorem Squad.closeInsts_det (s : Squad) : (s.closeInsts).det = s.det := rfl
@[simp] theorem Squad.closeInsts_dbg (s : Squad) : (s.closeInsts).dbg = s.dbg := rfl
@[simp] theorem Squad.closeInsts_pin (s : Squad) : (s.closeInsts).pin = s.pin := rfl
@[simp] theorem Squad.closeInsts_fuse (s : Squad) : (s.closeInsts).fuse = s.fuse := rfl
@[simp] theorem Squad.closeInsts_kh (s : Squad) : (s.closeInsts).kh = s.kh := rfl
@[simp] theorem Squad.closeInsts_kern (s : Squad) : (s.closeInsts).kern = s.kern := rfl
@[simp] theorem Squad.closeInsts_sqidx (s : Squad) : (s.closeInsts).sqidx = s.sqidx := rfl
@[simp] theorem Squad.closeInsts_gpidx (s : Squad) : (s.closeInsts).gpidx = s.gpidx := rfl
@[simp] theorem Squad.closeInsts_privb (s : Squad) : (s.closeInsts).privb = s.privb := rfl
@[simp] theorem Squad.closeInsts_privl (s : Squad) : (s.closeInsts).privl = s.privl := rfl
@[simp] theorem Squad.closeInsts_fpsr (s : Squad) : (s.closeInsts).fpsr = s.fpsr := rfl
@[simp] theorem Squad.closeInsts_fpcr (s : Squad) : (s.closeInsts).fpcr = s.fpcr := rfl
@[simp] theorem Squad.closeInsts_age (s : Squad) : (s.closeInsts).age = s.age := rfl
@[simp] theorem Squad.closeInsts_qspill (s : Squad) : (s.closeInsts).qspill = s.qspill := rfl
@[simp] theorem Squad.closeInsts_wantExt (s : Squad) : (s.closeInsts).wantExt = s.wantExt := rfl
@[simp] theorem Squad.closeInsts_fcnt (s : Squad) : (s.closeInsts).fcnt = s.fcnt := rfl
@[simp] theorem Squad.closeInsts_rwr (s : Squad) : (s.closeInsts).rwr = s.rwr := rfl
@[simp] theorem Squad.closeInsts_masks (s : Squad) : (s.closeInsts).masks = s.masks := rfl
@[simp] theorem Squad.closeInsts_kbank (s : Squad) : (s.closeInsts).kbank = s.kbank := rfl
@[simp] theorem Squad.closeInsts_hbank (s : Squad) : (s.closeInsts).hbank = s.hbank := rfl
@[simp] theorem Squad.closeInsts_rows (s : Squad) : (s.closeInsts).rows = s.rows := rfl
@[simp] theorem Squad.closeInsts_lanes (s : Squad) : (s.closeInsts).lanes = s.lanes := rfl
@[simp] theorem Squad.closeInsts_group (s : Squad) : (s.closeInsts).group = s.group := rfl
@[simp] theorem Squad.closeInsts_arr (s : Squad) : (s.closeInsts).arr = s.arr := rfl
@[simp] theorem Squad.closeInsts_claims (s : Squad) : (s.closeInsts).claims = s.claims := rfl
@[simp] theorem Squad.closeInsts_fdone (s : Squad) : (s.closeInsts).fdone = s.fdone := rfl
@[simp] theorem Squad.closeInsts_form (s : Squad) : (s.closeInsts).form = s.form := rfl
@[simp] theorem Squad.closeInsts_fills (s : Squad) : (s.closeInsts).fills = s.fills := rfl
@[simp] theorem Squad.closeInsts_fillFor (s : Squad) : (s.closeInsts).fillFor = s.fillFor := rfl
@[simp] theorem Squad.closeInsts_fillBad (s : Squad) : (s.closeInsts).fillBad = s.fillBad := rfl
@[simp] theorem Squad.closeInsts_path (s : Squad) : (s.closeInsts).path = s.path := rfl
@[simp] theorem Squad.closeInsts_exited (s : Squad) : (s.closeInsts).exited = s.exited := rfl
@[simp] theorem Squad.closeInsts_pinSet (s : Squad) : (s.closeInsts).pinSet = s.pinSet := rfl
@[simp] theorem Squad.closeInsts_since (s : Squad) : (s.closeInsts).since = s.since := rfl
@[simp] theorem Squad.closeInsts_late (s : Squad) : (s.closeInsts).late = s.late := rfl
@[simp] theorem Squad.closeInsts_deqTask (s : Squad) : (s.closeInsts).deqTask = s.deqTask := rfl
@[simp] theorem Squad.closeInsts_awaits (s : Squad) : (s.closeInsts).awaits = s.awaits := rfl
@[simp] theorem Squad.closeInsts_undo (s : Squad) : (s.closeInsts).undo = s.undo := rfl
@[simp] theorem Squad.closeInsts_debug (s : Squad) : (s.closeInsts).debug = s.debug := rfl
@[simp] theorem Squad.closeInsts_stop (s : Squad) : (s.closeInsts).stop = s.stop := rfl
@[simp] theorem Squad.closeInsts_slot (s : Squad) : (s.closeInsts).slot = s.slot := rfl
@[simp] theorem Squad.closeInsts_ending (s : Squad) : (s.closeInsts).ending = s.ending := rfl
@[simp] theorem Squad.closeInsts_gone (s : Squad) : (s.closeInsts).gone = s.gone := rfl
@[simp] theorem Squad.closeInsts_freed (s : Squad) : (s.closeInsts).freed = s.freed := rfl
@[simp] theorem Squad.closeInsts_unrun (s : Squad) : (s.closeInsts).unrun = s.unrun := rfl
/-! ### Lane.leave -/
@[simp] theorem Lane.leave_pc (l : Lane) : (l.leave).pc = l.pc := rfl
@[simp] theorem Lane.leave_mode (l : Lane) : (l.leave).mode = l.mode := rfl
@[simp] theorem Lane.leave_depth (l : Lane) : (l.leave).depth = l.depth := rfl
@[simp] theorem Lane.leave_udt (l : Lane) : (l.leave).udt = l.udt := rfl
@[simp] theorem Lane.leave_ovf (l : Lane) : (l.leave).ovf = l.ovf := rfl
@[simp] theorem Lane.leave_q (l : Lane) : (l.leave).q = l.q := rfl
@[simp] theorem Lane.leave_moor (l : Lane) : (l.leave).moor = l.moor := rfl
@[simp] theorem Lane.leave_rege (l : Lane) : (l.leave).rege = l.rege := rfl
@[simp] theorem Lane.leave_regc (l : Lane) : (l.leave).regc = l.regc := rfl
@[simp] theorem Lane.leave_srkey (l : Lane) : (l.leave).srkey = l.srkey := rfl
@[simp] theorem Lane.leave_srcnt (l : Lane) : (l.leave).srcnt = l.srcnt := rfl
@[simp] theorem Lane.leave_f0 (l : Lane) : (l.leave).f0 = l.f0 := rfl
@[simp] theorem Lane.leave_f1 (l : Lane) : (l.leave).f1 = l.f1 := rfl
@[simp] theorem Lane.leave_f2 (l : Lane) : (l.leave).f2 = l.f2 := rfl
@[simp] theorem Lane.leave_xf (l : Lane) : (l.leave).xf = l.xf := rfl
@[simp] theorem Lane.leave_hofs (l : Lane) : (l.leave).hofs = l.hofs := rfl
@[simp] theorem Lane.leave_clause (l : Lane) : (l.leave).clause = l.clause := rfl
@[simp] theorem Lane.leave_reload (l : Lane) : (l.leave).reload = l.reload := rfl
@[simp] theorem Lane.leave_imps (l : Lane) : (l.leave).imps = l.imps := rfl
@[simp] theorem Lane.leave_vc (l : Lane) : (l.leave).vc = l.vc := rfl
@[simp] theorem Lane.leave_acq (l : Lane) : (l.leave).acq = l.acq := rfl
@[simp] theorem Lane.leave_seen (l : Lane) : (l.leave).seen = l.seen := rfl
@[simp] theorem Lane.leave_frel (l : Lane) : (l.leave).frel = l.frel := rfl
@[simp] theorem Lane.leave_issued (l : Lane) : (l.leave).issued = false := rfl
/-! ### Lane.advance -/
@[simp] theorem Lane.advance_mode (l : Lane) : (l.advance).mode = l.mode := rfl
@[simp] theorem Lane.advance_depth (l : Lane) : (l.advance).depth = l.depth := rfl
@[simp] theorem Lane.advance_udt (l : Lane) : (l.advance).udt = l.udt := rfl
@[simp] theorem Lane.advance_ovf (l : Lane) : (l.advance).ovf = l.ovf := rfl
@[simp] theorem Lane.advance_q (l : Lane) : (l.advance).q = l.q := rfl
@[simp] theorem Lane.advance_moor (l : Lane) : (l.advance).moor = l.moor := rfl
@[simp] theorem Lane.advance_rege (l : Lane) : (l.advance).rege = l.rege := rfl
@[simp] theorem Lane.advance_regc (l : Lane) : (l.advance).regc = l.regc := rfl
@[simp] theorem Lane.advance_srkey (l : Lane) : (l.advance).srkey = l.srkey := rfl
@[simp] theorem Lane.advance_srcnt (l : Lane) : (l.advance).srcnt = l.srcnt := rfl
@[simp] theorem Lane.advance_f0 (l : Lane) : (l.advance).f0 = l.f0 := rfl
@[simp] theorem Lane.advance_f1 (l : Lane) : (l.advance).f1 = l.f1 := rfl
@[simp] theorem Lane.advance_f2 (l : Lane) : (l.advance).f2 = l.f2 := rfl
@[simp] theorem Lane.advance_xf (l : Lane) : (l.advance).xf = l.xf := rfl
@[simp] theorem Lane.advance_clause (l : Lane) : (l.advance).clause = l.clause := rfl
@[simp] theorem Lane.advance_reload (l : Lane) : (l.advance).reload = l.reload := rfl
@[simp] theorem Lane.advance_imps (l : Lane) : (l.advance).imps = l.imps := rfl
@[simp] theorem Lane.advance_vc (l : Lane) : (l.advance).vc = l.vc := rfl
@[simp] theorem Lane.advance_acq (l : Lane) : (l.advance).acq = l.acq := rfl
@[simp] theorem Lane.advance_seen (l : Lane) : (l.advance).seen = l.seen := rfl
@[simp] theorem Lane.advance_frel (l : Lane) : (l.advance).frel = l.frel := rfl
@[simp] theorem Lane.advance_issued (l : Lane) : (l.advance).issued = false := rfl
/-! ### Lane.goto -/
@[simp] theorem Lane.goto_mode (l : Lane) (a : Pc) : (l.goto a).mode = l.mode := rfl
@[simp] theorem Lane.goto_depth (l : Lane) (a : Pc) : (l.goto a).depth = l.depth := rfl
@[simp] theorem Lane.goto_udt (l : Lane) (a : Pc) : (l.goto a).udt = l.udt := rfl
@[simp] theorem Lane.goto_ovf (l : Lane) (a : Pc) : (l.goto a).ovf = l.ovf := rfl
@[simp] theorem Lane.goto_q (l : Lane) (a : Pc) : (l.goto a).q = l.q := rfl
@[simp] theorem Lane.goto_moor (l : Lane) (a : Pc) : (l.goto a).moor = l.moor := rfl
@[simp] theorem Lane.goto_rege (l : Lane) (a : Pc) : (l.goto a).rege = l.rege := rfl
@[simp] theorem Lane.goto_regc (l : Lane) (a : Pc) : (l.goto a).regc = l.regc := rfl
@[simp] theorem Lane.goto_srkey (l : Lane) (a : Pc) : (l.goto a).srkey = l.srkey := rfl
@[simp] theorem Lane.goto_srcnt (l : Lane) (a : Pc) : (l.goto a).srcnt = l.srcnt := rfl
@[simp] theorem Lane.goto_f0 (l : Lane) (a : Pc) : (l.goto a).f0 = l.f0 := rfl
@[simp] theorem Lane.goto_f1 (l : Lane) (a : Pc) : (l.goto a).f1 = l.f1 := rfl
@[simp] theorem Lane.goto_f2 (l : Lane) (a : Pc) : (l.goto a).f2 = l.f2 := rfl
@[simp] theorem Lane.goto_xf (l : Lane) (a : Pc) : (l.goto a).xf = l.xf := rfl
@[simp] theorem Lane.goto_clause (l : Lane) (a : Pc) : (l.goto a).clause = l.clause := rfl
@[simp] theorem Lane.goto_reload (l : Lane) (a : Pc) : (l.goto a).reload = l.reload := rfl
@[simp] theorem Lane.goto_imps (l : Lane) (a : Pc) : (l.goto a).imps = l.imps := rfl
@[simp] theorem Lane.goto_vc (l : Lane) (a : Pc) : (l.goto a).vc = l.vc := rfl
@[simp] theorem Lane.goto_acq (l : Lane) (a : Pc) : (l.goto a).acq = l.acq := rfl
@[simp] theorem Lane.goto_seen (l : Lane) (a : Pc) : (l.goto a).seen = l.seen := rfl
@[simp] theorem Lane.goto_frel (l : Lane) (a : Pc) : (l.goto a).frel = l.frel := rfl
@[simp] theorem Lane.goto_issued (l : Lane) (a : Pc) : (l.goto a).issued = false := rfl
/-! ### Lane.release -/
@[simp] theorem Lane.release_pc (l : Lane) (t : Nat) : (l.release t).pc = l.pc := rfl
@[simp] theorem Lane.release_mode (l : Lane) (t : Nat) : (l.release t).mode = l.mode := rfl
@[simp] theorem Lane.release_depth (l : Lane) (t : Nat) : (l.release t).depth = l.depth := rfl
@[simp] theorem Lane.release_udt (l : Lane) (t : Nat) : (l.release t).udt = l.udt := rfl
@[simp] theorem Lane.release_ovf (l : Lane) (t : Nat) : (l.release t).ovf = l.ovf := rfl
@[simp] theorem Lane.release_q (l : Lane) (t : Nat) : (l.release t).q = l.q := rfl
@[simp] theorem Lane.release_moor (l : Lane) (t : Nat) : (l.release t).moor = l.moor := rfl
@[simp] theorem Lane.release_rege (l : Lane) (t : Nat) : (l.release t).rege = l.rege := rfl
@[simp] theorem Lane.release_regc (l : Lane) (t : Nat) : (l.release t).regc = l.regc := rfl
@[simp] theorem Lane.release_srkey (l : Lane) (t : Nat) : (l.release t).srkey = l.srkey := rfl
@[simp] theorem Lane.release_srcnt (l : Lane) (t : Nat) : (l.release t).srcnt = l.srcnt := rfl
@[simp] theorem Lane.release_f0 (l : Lane) (t : Nat) : (l.release t).f0 = l.f0 := rfl
@[simp] theorem Lane.release_f1 (l : Lane) (t : Nat) : (l.release t).f1 = l.f1 := rfl
@[simp] theorem Lane.release_f2 (l : Lane) (t : Nat) : (l.release t).f2 = l.f2 := rfl
@[simp] theorem Lane.release_xf (l : Lane) (t : Nat) : (l.release t).xf = l.xf := rfl
@[simp] theorem Lane.release_hofs (l : Lane) (t : Nat) : (l.release t).hofs = l.hofs := rfl
@[simp] theorem Lane.release_clause (l : Lane) (t : Nat) : (l.release t).clause = l.clause := rfl
@[simp] theorem Lane.release_recheck (l : Lane) (t : Nat) : (l.release t).recheck = l.recheck := rfl
@[simp] theorem Lane.release_reload (l : Lane) (t : Nat) : (l.release t).reload = l.reload := rfl
@[simp] theorem Lane.release_wait (l : Lane) (t : Nat) : (l.release t).wait = l.wait := rfl
@[simp] theorem Lane.release_watch (l : Lane) (t : Nat) : (l.release t).watch = l.watch := rfl
@[simp] theorem Lane.release_claim (l : Lane) (t : Nat) : (l.release t).claim = l.claim := rfl
@[simp] theorem Lane.release_imps (l : Lane) (t : Nat) : (l.release t).imps = l.imps := rfl
@[simp] theorem Lane.release_acq (l : Lane) (t : Nat) : (l.release t).acq = l.acq := rfl
@[simp] theorem Lane.release_seen (l : Lane) (t : Nat) : (l.release t).seen = l.seen := rfl
@[simp] theorem Lane.release_frel (l : Lane) (t : Nat) : (l.release t).frel = l.frel := rfl
@[simp] theorem Lane.release_seq (l : Lane) (t : Nat) : (l.release t).seq = l.seq := rfl
@[simp] theorem Lane.release_issued (l : Lane) (t : Nat) : (l.release t).issued = l.issued := rfl
/-! ### Lane.acquire -/
@[simp] theorem Lane.acquire_pc (l : Lane) (vc : Clock) (tick : Nat) (wide : Bool) : (l.acquire vc tick wide).pc = l.pc := rfl
@[simp] theorem Lane.acquire_mode (l : Lane) (vc : Clock) (tick : Nat) (wide : Bool) : (l.acquire vc tick wide).mode = l.mode := rfl
@[simp] theorem Lane.acquire_depth (l : Lane) (vc : Clock) (tick : Nat) (wide : Bool) : (l.acquire vc tick wide).depth = l.depth := rfl
@[simp] theorem Lane.acquire_udt (l : Lane) (vc : Clock) (tick : Nat) (wide : Bool) : (l.acquire vc tick wide).udt = l.udt := rfl
@[simp] theorem Lane.acquire_ovf (l : Lane) (vc : Clock) (tick : Nat) (wide : Bool) : (l.acquire vc tick wide).ovf = l.ovf := rfl
@[simp] theorem Lane.acquire_q (l : Lane) (vc : Clock) (tick : Nat) (wide : Bool) : (l.acquire vc tick wide).q = l.q := rfl
@[simp] theorem Lane.acquire_moor (l : Lane) (vc : Clock) (tick : Nat) (wide : Bool) : (l.acquire vc tick wide).moor = l.moor := rfl
@[simp] theorem Lane.acquire_rege (l : Lane) (vc : Clock) (tick : Nat) (wide : Bool) : (l.acquire vc tick wide).rege = l.rege := rfl
@[simp] theorem Lane.acquire_regc (l : Lane) (vc : Clock) (tick : Nat) (wide : Bool) : (l.acquire vc tick wide).regc = l.regc := rfl
@[simp] theorem Lane.acquire_srkey (l : Lane) (vc : Clock) (tick : Nat) (wide : Bool) : (l.acquire vc tick wide).srkey = l.srkey := rfl
@[simp] theorem Lane.acquire_srcnt (l : Lane) (vc : Clock) (tick : Nat) (wide : Bool) : (l.acquire vc tick wide).srcnt = l.srcnt := rfl
@[simp] theorem Lane.acquire_f0 (l : Lane) (vc : Clock) (tick : Nat) (wide : Bool) : (l.acquire vc tick wide).f0 = l.f0 := rfl
@[simp] theorem Lane.acquire_f1 (l : Lane) (vc : Clock) (tick : Nat) (wide : Bool) : (l.acquire vc tick wide).f1 = l.f1 := rfl
@[simp] theorem Lane.acquire_f2 (l : Lane) (vc : Clock) (tick : Nat) (wide : Bool) : (l.acquire vc tick wide).f2 = l.f2 := rfl
@[simp] theorem Lane.acquire_xf (l : Lane) (vc : Clock) (tick : Nat) (wide : Bool) : (l.acquire vc tick wide).xf = l.xf := rfl
@[simp] theorem Lane.acquire_hofs (l : Lane) (vc : Clock) (tick : Nat) (wide : Bool) : (l.acquire vc tick wide).hofs = l.hofs := rfl
@[simp] theorem Lane.acquire_clause (l : Lane) (vc : Clock) (tick : Nat) (wide : Bool) : (l.acquire vc tick wide).clause = l.clause := rfl
@[simp] theorem Lane.acquire_recheck (l : Lane) (vc : Clock) (tick : Nat) (wide : Bool) : (l.acquire vc tick wide).recheck = l.recheck := rfl
@[simp] theorem Lane.acquire_reload (l : Lane) (vc : Clock) (tick : Nat) (wide : Bool) : (l.acquire vc tick wide).reload = l.reload := rfl
@[simp] theorem Lane.acquire_wait (l : Lane) (vc : Clock) (tick : Nat) (wide : Bool) : (l.acquire vc tick wide).wait = l.wait := rfl
@[simp] theorem Lane.acquire_watch (l : Lane) (vc : Clock) (tick : Nat) (wide : Bool) : (l.acquire vc tick wide).watch = l.watch := rfl
@[simp] theorem Lane.acquire_claim (l : Lane) (vc : Clock) (tick : Nat) (wide : Bool) : (l.acquire vc tick wide).claim = l.claim := rfl
@[simp] theorem Lane.acquire_imps (l : Lane) (vc : Clock) (tick : Nat) (wide : Bool) : (l.acquire vc tick wide).imps = l.imps := rfl
@[simp] theorem Lane.acquire_seen (l : Lane) (vc : Clock) (tick : Nat) (wide : Bool) : (l.acquire vc tick wide).seen = l.seen := rfl
@[simp] theorem Lane.acquire_frel (l : Lane) (vc : Clock) (tick : Nat) (wide : Bool) : (l.acquire vc tick wide).frel = l.frel := rfl
@[simp] theorem Lane.acquire_seq (l : Lane) (vc : Clock) (tick : Nat) (wide : Bool) : (l.acquire vc tick wide).seq = l.seq := rfl
@[simp] theorem Lane.acquire_issued (l : Lane) (vc : Clock) (tick : Nat) (wide : Bool) : (l.acquire vc tick wide).issued = l.issued := rfl
/-! ### Lane.enterClause -/
@[simp] theorem Lane.enterClause_mode (l : Lane) (c : Clause) : (l.enterClause c).mode = l.mode := rfl
@[simp] theorem Lane.enterClause_depth (l : Lane) (c : Clause) : (l.enterClause c).depth = l.depth := rfl
@[simp] theorem Lane.enterClause_udt (l : Lane) (c : Clause) : (l.enterClause c).udt = l.udt := rfl
@[simp] theorem Lane.enterClause_ovf (l : Lane) (c : Clause) : (l.enterClause c).ovf = l.ovf := rfl
@[simp] theorem Lane.enterClause_q (l : Lane) (c : Clause) : (l.enterClause c).q = l.q := rfl
@[simp] theorem Lane.enterClause_moor (l : Lane) (c : Clause) : (l.enterClause c).moor = l.moor := rfl
@[simp] theorem Lane.enterClause_rege (l : Lane) (c : Clause) : (l.enterClause c).rege = l.rege := rfl
@[simp] theorem Lane.enterClause_regc (l : Lane) (c : Clause) : (l.enterClause c).regc = l.regc := rfl
@[simp] theorem Lane.enterClause_srkey (l : Lane) (c : Clause) : (l.enterClause c).srkey = l.srkey := rfl
@[simp] theorem Lane.enterClause_srcnt (l : Lane) (c : Clause) : (l.enterClause c).srcnt = l.srcnt := rfl
@[simp] theorem Lane.enterClause_f0 (l : Lane) (c : Clause) : (l.enterClause c).f0 = l.f0 := rfl
@[simp] theorem Lane.enterClause_f1 (l : Lane) (c : Clause) : (l.enterClause c).f1 = l.f1 := rfl
@[simp] theorem Lane.enterClause_f2 (l : Lane) (c : Clause) : (l.enterClause c).f2 = l.f2 := rfl
@[simp] theorem Lane.enterClause_xf (l : Lane) (c : Clause) : (l.enterClause c).xf = l.xf := rfl
@[simp] theorem Lane.enterClause_imps (l : Lane) (c : Clause) : (l.enterClause c).imps = l.imps := rfl
@[simp] theorem Lane.enterClause_vc (l : Lane) (c : Clause) : (l.enterClause c).vc = l.vc := rfl
@[simp] theorem Lane.enterClause_acq (l : Lane) (c : Clause) : (l.enterClause c).acq = l.acq := rfl
@[simp] theorem Lane.enterClause_seen (l : Lane) (c : Clause) : (l.enterClause c).seen = l.seen := rfl
@[simp] theorem Lane.enterClause_frel (l : Lane) (c : Clause) : (l.enterClause c).frel = l.frel := rfl
@[simp] theorem Lane.enterClause_issued (l : Lane) (c : Clause) : (l.enterClause c).issued = false := rfl
/-! ### Lane.enterOverflow -/
@[simp] theorem Lane.enterOverflow_depth (l : Lane) (vec : DWord) (fr : Frame) : (l.enterOverflow vec fr).depth = l.depth := rfl
@[simp] theorem Lane.enterOverflow_udt (l : Lane) (vec : DWord) (fr : Frame) : (l.enterOverflow vec fr).udt = l.udt := rfl
@[simp] theorem Lane.enterOverflow_q (l : Lane) (vec : DWord) (fr : Frame) : (l.enterOverflow vec fr).q = l.q := rfl
@[simp] theorem Lane.enterOverflow_moor (l : Lane) (vec : DWord) (fr : Frame) : (l.enterOverflow vec fr).moor = l.moor := rfl
@[simp] theorem Lane.enterOverflow_rege (l : Lane) (vec : DWord) (fr : Frame) : (l.enterOverflow vec fr).rege = l.rege := rfl
@[simp] theorem Lane.enterOverflow_regc (l : Lane) (vec : DWord) (fr : Frame) : (l.enterOverflow vec fr).regc = l.regc := rfl
@[simp] theorem Lane.enterOverflow_srkey (l : Lane) (vec : DWord) (fr : Frame) : (l.enterOverflow vec fr).srkey = l.srkey := rfl
@[simp] theorem Lane.enterOverflow_srcnt (l : Lane) (vec : DWord) (fr : Frame) : (l.enterOverflow vec fr).srcnt = l.srcnt := rfl
@[simp] theorem Lane.enterOverflow_f0 (l : Lane) (vec : DWord) (fr : Frame) : (l.enterOverflow vec fr).f0 = l.f0 := rfl
@[simp] theorem Lane.enterOverflow_f1 (l : Lane) (vec : DWord) (fr : Frame) : (l.enterOverflow vec fr).f1 = l.f1 := rfl
@[simp] theorem Lane.enterOverflow_f2 (l : Lane) (vec : DWord) (fr : Frame) : (l.enterOverflow vec fr).f2 = l.f2 := rfl
@[simp] theorem Lane.enterOverflow_clause (l : Lane) (vec : DWord) (fr : Frame) : (l.enterOverflow vec fr).clause = l.clause := rfl
@[simp] theorem Lane.enterOverflow_reload (l : Lane) (vec : DWord) (fr : Frame) : (l.enterOverflow vec fr).reload = l.reload := rfl
@[simp] theorem Lane.enterOverflow_imps (l : Lane) (vec : DWord) (fr : Frame) : (l.enterOverflow vec fr).imps = l.imps := rfl
@[simp] theorem Lane.enterOverflow_vc (l : Lane) (vec : DWord) (fr : Frame) : (l.enterOverflow vec fr).vc = l.vc := rfl
@[simp] theorem Lane.enterOverflow_acq (l : Lane) (vec : DWord) (fr : Frame) : (l.enterOverflow vec fr).acq = l.acq := rfl
@[simp] theorem Lane.enterOverflow_seen (l : Lane) (vec : DWord) (fr : Frame) : (l.enterOverflow vec fr).seen = l.seen := rfl
@[simp] theorem Lane.enterOverflow_frel (l : Lane) (vec : DWord) (fr : Frame) : (l.enterOverflow vec fr).frel = l.frel := rfl
@[simp] theorem Lane.enterOverflow_issued (l : Lane) (vec : DWord) (fr : Frame) : (l.enterOverflow vec fr).issued = false := rfl
/-! ### Group.setBar -/
@[simp] theorem Group.setBar_item (g : Group) (b : Nat) (x : Bar) : (g.setBar b x).item = g.item := rfl
@[simp] theorem Group.setBar_idx (g : Group) (b : Nat) (x : Bar) : (g.setBar b x).idx = g.idx := rfl
@[simp] theorem Group.setBar_members (g : Group) (b : Nat) (x : Bar) : (g.setBar b x).members = g.members := rfl
@[simp] theorem Group.setBar_cap (g : Group) (b : Nat) (x : Bar) : (g.setBar b x).cap = g.cap := rfl
@[simp] theorem Group.setBar_key (g : Group) (b : Nat) (x : Bar) : (g.setBar b x).key = g.key := rfl
@[simp] theorem Group.setBar_joined (g : Group) (b : Nat) (x : Bar) : (g.setBar b x).joined = g.joined := rfl
@[simp] theorem Group.setBar_unif (g : Group) (b : Nat) (x : Bar) : (g.setBar b x).unif = g.unif := rfl
@[simp] theorem Group.setBar_scr (g : Group) (b : Nat) (x : Bar) : (g.setBar b x).scr = g.scr := rfl
@[simp] theorem Group.setBar_base (g : Group) (b : Nat) (x : Bar) : (g.setBar b x).base = g.base := rfl
@[simp] theorem Group.setBar_cluster (g : Group) (b : Nat) (x : Bar) : (g.setBar b x).cluster = g.cluster := rfl
@[simp] theorem Group.setBar_upper (g : Group) (b : Nat) (x : Bar) : (g.setBar b x).upper = g.upper := rfl
@[simp] theorem Group.setBar_w (g : Group) (b : Nat) (x : Bar) : (g.setBar b x).w = g.w := rfl
@[simp] theorem Group.setBar_wold (g : Group) (b : Nat) (x : Bar) : (g.setBar b x).wold = g.wold := rfl
@[simp] theorem Group.setBar_wwriter (g : Group) (b : Nat) (x : Bar) : (g.setBar b x).wwriter = g.wwriter := rfl
@[simp] theorem Group.setBar_stsa (g : Group) (b : Nat) (x : Bar) : (g.setBar b x).stsa = g.stsa := rfl
@[simp] theorem Group.setBar_ticketed (g : Group) (b : Nat) (x : Bar) : (g.setBar b x).ticketed = g.ticketed := rfl
@[simp] theorem Group.setBar_passed (g : Group) (b : Nat) (x : Bar) : (g.setBar b x).passed = g.passed := rfl
@[simp] theorem Group.setBar_tls (g : Group) (b : Nat) (x : Bar) : (g.setBar b x).tls = g.tls := rfl
@[simp] theorem Group.setBar_forks (g : Group) (b : Nat) (x : Bar) : (g.setBar b x).forks = g.forks := rfl
@[simp] theorem Group.setBar_nfork (g : Group) (b : Nat) (x : Bar) : (g.setBar b x).nfork = g.nfork := rfl
@[simp] theorem Group.setBar_hash (g : Group) (b : Nat) (x : Bar) : (g.setBar b x).hash = g.hash := rfl
@[simp] theorem Group.setBar_chk (g : Group) (b : Nat) (x : Bar) : (g.setBar b x).chk = g.chk := rfl
@[simp] theorem Group.setBar_state (g : Group) (b : Nat) (x : Bar) : (g.setBar b x).state = g.state := rfl
@[simp] theorem Group.setBar_killed (g : Group) (b : Nat) (x : Bar) : (g.setBar b x).killed = g.killed := rfl
@[simp] theorem Group.setBar_kh (g : Group) (b : Nat) (x : Bar) : (g.setBar b x).kh = g.kh := rfl
@[simp] theorem Group.setBar_asid (g : Group) (b : Nat) (x : Bar) : (g.setBar b x).asid = g.asid := rfl
@[simp] theorem Group.setBar_vmid (g : Group) (b : Nat) (x : Bar) : (g.setBar b x).vmid = g.vmid := rfl
@[simp] theorem Group.setBar_peak (g : Group) (b : Nat) (x : Bar) : (g.setBar b x).peak = g.peak := rfl
/-! ### Group.setTl -/
@[simp] theorem Group.setTl_item (g : Group) (t : Nat) (x : Timeline) : (g.setTl t x).item = g.item := rfl
@[simp] theorem Group.setTl_idx (g : Group) (t : Nat) (x : Timeline) : (g.setTl t x).idx = g.idx := rfl
@[simp] theorem Group.setTl_members (g : Group) (t : Nat) (x : Timeline) : (g.setTl t x).members = g.members := rfl
@[simp] theorem Group.setTl_cap (g : Group) (t : Nat) (x : Timeline) : (g.setTl t x).cap = g.cap := rfl
@[simp] theorem Group.setTl_key (g : Group) (t : Nat) (x : Timeline) : (g.setTl t x).key = g.key := rfl
@[simp] theorem Group.setTl_joined (g : Group) (t : Nat) (x : Timeline) : (g.setTl t x).joined = g.joined := rfl
@[simp] theorem Group.setTl_unif (g : Group) (t : Nat) (x : Timeline) : (g.setTl t x).unif = g.unif := rfl
@[simp] theorem Group.setTl_scr (g : Group) (t : Nat) (x : Timeline) : (g.setTl t x).scr = g.scr := rfl
@[simp] theorem Group.setTl_base (g : Group) (t : Nat) (x : Timeline) : (g.setTl t x).base = g.base := rfl
@[simp] theorem Group.setTl_cluster (g : Group) (t : Nat) (x : Timeline) : (g.setTl t x).cluster = g.cluster := rfl
@[simp] theorem Group.setTl_upper (g : Group) (t : Nat) (x : Timeline) : (g.setTl t x).upper = g.upper := rfl
@[simp] theorem Group.setTl_w (g : Group) (t : Nat) (x : Timeline) : (g.setTl t x).w = g.w := rfl
@[simp] theorem Group.setTl_wold (g : Group) (t : Nat) (x : Timeline) : (g.setTl t x).wold = g.wold := rfl
@[simp] theorem Group.setTl_wwriter (g : Group) (t : Nat) (x : Timeline) : (g.setTl t x).wwriter = g.wwriter := rfl
@[simp] theorem Group.setTl_bars (g : Group) (t : Nat) (x : Timeline) : (g.setTl t x).bars = g.bars := rfl
@[simp] theorem Group.setTl_stsa (g : Group) (t : Nat) (x : Timeline) : (g.setTl t x).stsa = g.stsa := rfl
@[simp] theorem Group.setTl_ticketed (g : Group) (t : Nat) (x : Timeline) : (g.setTl t x).ticketed = g.ticketed := rfl
@[simp] theorem Group.setTl_passed (g : Group) (t : Nat) (x : Timeline) : (g.setTl t x).passed = g.passed := rfl
@[simp] theorem Group.setTl_forks (g : Group) (t : Nat) (x : Timeline) : (g.setTl t x).forks = g.forks := rfl
@[simp] theorem Group.setTl_nfork (g : Group) (t : Nat) (x : Timeline) : (g.setTl t x).nfork = g.nfork := rfl
@[simp] theorem Group.setTl_hash (g : Group) (t : Nat) (x : Timeline) : (g.setTl t x).hash = g.hash := rfl
@[simp] theorem Group.setTl_chk (g : Group) (t : Nat) (x : Timeline) : (g.setTl t x).chk = g.chk := rfl
@[simp] theorem Group.setTl_state (g : Group) (t : Nat) (x : Timeline) : (g.setTl t x).state = g.state := rfl
@[simp] theorem Group.setTl_killed (g : Group) (t : Nat) (x : Timeline) : (g.setTl t x).killed = g.killed := rfl
@[simp] theorem Group.setTl_kh (g : Group) (t : Nat) (x : Timeline) : (g.setTl t x).kh = g.kh := rfl
@[simp] theorem Group.setTl_asid (g : Group) (t : Nat) (x : Timeline) : (g.setTl t x).asid = g.asid := rfl
@[simp] theorem Group.setTl_vmid (g : Group) (t : Nat) (x : Timeline) : (g.setTl t x).vmid = g.vmid := rfl
@[simp] theorem Group.setTl_peak (g : Group) (t : Nat) (x : Timeline) : (g.setTl t x).peak = g.peak := rfl
/-! ### The fields the updates change -/
@[simp] theorem setSquad_squads (d : Dev) (u : Nat) (f : Squad → Squad) : (setSquad d u f).squads = fmod d.squads u f := rfl
@[simp] theorem setGroup_groups (d : Dev) (g : Nat) (f : Group → Group) : (setGroup d g f).groups = fmod d.groups g f := rfl
@[simp] theorem setCore_cores (d : Dev) (k : Nat) (f : Core → Core) : (setCore d k f).cores = fput d.cores k (f (coreOf d k)) := rfl
@[simp] theorem setCluster_clusters (d : Dev) (c : Nat) (f : Cluster → Cluster) : (setCluster d c f).clusters = fput d.clusters c (f (clusterOf d c)) := rfl
@[simp] theorem bump_fresh (d : Dev) : (bump d).fresh = d.fresh + 1 := rfl
@[simp] theorem unmark_marks (d : Dev) (a : Nat) : (unmark d a).marks = sdel d.marks (a / 64) := rfl
@[simp] theorem sysPut_mem (d : Dev) (a : Nat) (b : Byte) : (sysPut d a b).mem = memWrite d.mem a b := rfl
@[simp] theorem poisonLine_poison (d : Dev) (a : Nat) : (poisonLine d a).poison = sadd d.poison (lineOf a) := rfl
@[simp] theorem Squad.setLane_lanes (s : Squad) (ln : Nat) (f : Lane → Lane) : (s.setLane ln f).lanes = fmod s.lanes ln f := rfl
@[simp] theorem Squad.raise_fpsr (s : Squad) (f : Fl) : (s.raise f).fpsr = s.fpsr ||| f := rfl
@[simp] theorem Lane.leave_wait (l : Lane) : l.leave.wait = .run := rfl
@[simp] theorem Lane.leave_watch (l : Lane) : l.leave.watch = none := rfl
@[simp] theorem Lane.leave_claim (l : Lane) : l.leave.claim = none := rfl
@[simp] theorem Lane.leave_recheck (l : Lane) : l.leave.recheck = false := rfl
@[simp] theorem Lane.advance_pc (l : Lane) : l.advance.pc = l.pc + 12 := rfl
@[simp] theorem Lane.advance_hofs (l : Lane) : l.advance.hofs = if l.hofs = l.clause.len then 0 else l.hofs + 1 := rfl
@[simp] theorem Lane.advance_wait (l : Lane) : l.advance.wait = .run := rfl
@[simp] theorem Lane.goto_pc (l : Lane) (a : Pc) : (l.goto a).pc = a := rfl
@[simp] theorem Lane.goto_hofs (l : Lane) (a : Pc) : (l.goto a).hofs = 0 := rfl
@[simp] theorem Lane.goto_wait (l : Lane) (a : Pc) : (l.goto a).wait = .run := rfl
@[simp] theorem Lane.enterClause_pc (l : Lane) (c : Clause) : (l.enterClause c).pc = l.pc + 12 := rfl
@[simp] theorem Lane.enterClause_hofs (l : Lane) (c : Clause) : (l.enterClause c).hofs = 1 := rfl
@[simp] theorem Lane.enterClause_clause (l : Lane) (c : Clause) : (l.enterClause c).clause = c := rfl

end Sys2Proof.Machine
end

