-- ==== Sys2Proof/Laws/Registers.lean ====
section
/-! SUPPORT. The shared operations of register forms, transfers and waits: once each, what they do. -/
namespace Sys2Proof.Machine

theorem drawOf_alike {g} {e e' : Env} (h : Env.Alike g e e') (ln j : Nat) : drawOf e ln j = drawOf e' ln j := by
  have h1 : (e.s.lane ln).srkey = (e'.s.lane ln).srkey := by simpa [Lane.bare] using congrArg Lane.srkey (h.s.lane ln)
  have h2 : (e.s.lane ln).srcnt = (e'.s.lane ln).srcnt := by simpa [Lane.bare] using congrArg Lane.srcnt (h.s.lane ln)
  simp only [drawOf, h1, h2]
theorem opFV_alike {g} {e e' : Env} (h : Env.Alike g e e') (ln : Nat) (t : Ty) (o : Opnd) : opFV e ln t o = opFV e' ln t o := by
  simp only [opFV, readOp_alike h]

theorem adv_spec {e : Env} {lns : List Nat} {d : Dev} (hs : (fget d.squads e.sq).isSome = true) :
    Kept e.sq d (advanceAll d e.sq lns) ∧ squadOf (advanceAll d e.sq lns) e.sq = ranLanes (fun _ q => q) lns (squadOf d e.sq) := by
  unfold advanceAll
  split
  · rename_i h; have : lns = [] := by simpa using h
    subst this; exact ⟨.refl _ _, rfl⟩
  · exact ⟨kept_setSquad _ _ _, squadOf_setSquad _ hs⟩

theorem writeAll_spec {e : Env} {lns : List Nat} {d : Dev} {o t x} (hs : (fget d.squads e.sq).isSome = true) :
    Kept e.sq d (writeAll o t x e lns d) ∧ squadOf (writeAll o t x e lns d) e.sq = ranLanes (fun ln q => q.write ln o t x) lns (squadOf d e.sq) :=
  ⟨kept_setSquad _ _ _, squadOf_setSquad _ hs⟩

theorem writeEach_spec {e : Env} {lns : List Nat} {d : Dev} {o t} {f : Nat → DWord} (hs : (fget d.squads e.sq).isSome = true) :
    Kept e.sq d (writeEach o t f e lns d) ∧ squadOf (writeEach o t f e lns d) e.sq = ranLanes (fun ln q => q.write ln o t (f ln)) lns (squadOf d e.sq) := by
  have := applyEach_ranLanes (n := 0) (e := e) (lns := lns) (d := d) (f := fun ln s => s.write ln o t (f ln)) (fl := fun _ => 0) hs (fun _ _ => flTraps_zero _)
  simp only [raise_zero] at this
  unfold writeEach applyShared
  rw [List.map_map]
  exact this

theorem readPacked_alike {g : Bool} {e e' : Env} (h : Env.Alike g e e') (ln : Nat) (o : Opnd) : readPacked e ln o = readPacked e' ln o := by
  cases o <;> simp only [readPacked, h.s.v, h.g, h.sq]

/-- A transfer whose target is a header at hand lands there (R35, R96). -/
theorem transfer_ok {d : Dev} {u ln a : Nat} {pre : Squad → Squad} (h : jumps d u ln a) : transfer d u ln a pre = landing d u ln a pre := by
  obtain ⟨h1, i, h2⟩ := h
  unfold transfer landing
  rw [if_neg (by omega)]
  rcases hh : headerAt d (fetcherOf d u ln) a with ⟨d', r⟩
  rw [hh] at h2
  simp only at h2
  subst h2
  rfl

/-- A transfer whose target is no header traps at the transfer (R35, R96). -/
theorem transfer_bad {d : Dev} {u ln a : Nat} {pre : Squad → Squad} (h : noHeader d u ln a) : transfer d u ln a pre = badLanding d u ln a := by
  unfold transfer badLanding noHeader at *
  by_cases ha : 2 ^ 54 ≤ a
  · simp only [ge_iff_le, ha, if_true]; rfl
  · rw [if_neg ha, if_neg ha]
    rcases hh : headerAt d (fetcherOf d u ln) a with ⟨d', r⟩
    rw [hh] at h
    simp only [ha, false_or] at h
    subst h
    rfl

/-- A wait that is over for every lane goes on in each, in order. -/
theorem waitLanes_over {dst : Opnd} {val : Dev → Nat → Option (Bool × Clock)} {on : Nat → Await} {e : Env} {lns : List Nat} {d : Dev} {w : Nat → Bool × Clock}
    (h : ∀ d' : Dev, d'.groups = d.groups → d'.cmds = d.cmds → ∀ ln ∈ lns, val d' ln = some (w ln)) :
    waitLanes dst val on e lns d = lns.foldl (fun d' ln => waitDone dst (w ln).1 (w ln).2 e ln d') d := by
  have h1 : lns.filter (fun ln => (val d ln).isNone) = [] := filter_none_of_all fun ln hl => by rw [h d rfl rfl ln hl]; rfl
  have h2 : ∀ l : List Nat, (∀ ln ∈ l, ln ∈ lns) → ∀ d' : Dev, d'.groups = d.groups → d'.cmds = d.cmds → l.foldl (fun d ln => match val d ln with
    | some (b, vc) => waitDone dst b vc e ln d
    | none => d) d' = l.foldl (fun d' ln => waitDone dst (w ln).1 (w ln).2 e ln d') d' := by
    intro l
    induction l with
    | nil => intros; rfl
    | cons a t ih =>
      intro hl d' g1 g2
      rw [List.foldl_cons, List.foldl_cons, h d' g1 g2 a (hl a (by simp))]
      exact ih (fun ln hh => hl ln (by simp [hh])) _ g1 g2
  unfold waitLanes
  simp only [h1, List.isEmpty_nil, if_true]
  exact h2 lns (fun _ h => h) d rfl rfl

end Sys2Proof.Machine
end

