-- ==== Sys2Proof/Tests/Words.lean ====
section
/-! SUPPORT. Words written out from the spec's encodings, and the instructions they stand for. Each word is put together field by field from R11, the
opcode of R41, the descriptors of R24 and the modifier bits that the form's own table gives (R95 to R231); none is taken from the encoder. -/
namespace Sys2Proof.Tests
open Sys2Proof

/-- No guard, no hint. -/
abbrev h0 : Hd := ⟨0, 0⟩
/-- A v register as an operand. -/
abbrev vr (n : BitVec 6) : Opnd := .v n false false false
/-- A w register as an operand. -/
abbrev wr (n : BitVec 10) : Opnd := .w n false false false

/-- Class 0x0 of R41: a word of each form, and what it stands for. -/
def controlWords : List (Nat × Instr) :=
  [(0xFFFFFFC4E000E00080000000, .bra h0 (.lit 0xFFFFFFC4)),
   (0xE000E0000002E00000000001, .brx h0 (vr 2)),
   (0x00000078E000000480000002, .call h0 (vr 4) (.lit 0x78)),
   (0xE000E0002006000400000003, .callx h0 (vr 4) (wr 6)),
   (0xE000E0000004E00000000004, .ret h0 (vr 4)),
   (0xE000E000E000E00000000005, .exit h0),
   (0xE000E000E000E00000000006, .nop h0),
   (0xE000E000E000E00000000007, .yield h0),
   (0x0000003C6005E00080000008, .meet h0 (.m 5) (.lit 0x3C)),
   (0xE000E0008009E00000000009, .brk h0 (.imm 9)),
   (0xE00020090004400254C0000A, .waitv h0 .s32 .l2 5 (.q 2 false) (vr 4) (wr 9))]

/-- Class 0x1 of R41: a word of each form, and what it stands for. -/
def membershipWords : List (Nat × Instr) :=
  [(0xE00080072002000100000040, .gjoin h0 (vr 1) (wr 2) (.imm 7)),
   (0xE000E000E000E00000000041, .gleave h0),
   (0xE000E000800FE00000000042, .gbar h0 (.imm 15)),
   (0xE000E0008003E00000000043, .garv h0 (.imm 3)),
   (0xE000E0008004E00000000044, .gwait h0 (.imm 4)),
   (0xE000E0008001E00000000045, .tkwait h0 (.imm 1)),
   (0xE000E0008002E00000000046, .tkpass h0 (.imm 2)),
   (0xE000E0006003E00000000047, .mjoin h0 (.m 3)),
   (0xE000E0006004E00000000048, .mleave h0 (.m 4)),
   (0xE000E000600BE00000000049, .mwait h0 (.m 11)),
   (0xE0008003600200010000004A, .mget h0 (vr 1) (.m 2) (.imm 3)),
   (0xE0000003800260010000004B, .mset h0 (.m 1) (.imm 2) (vr 3))] ++
  [(0x6003E000400240010080004C, .vote h0 .uni (.q 1 false) (.q 2 false) (.m 3)),
   (0x60048003400200010000004D, .ballot h0 (vr 1) (.q 2 false) (.imm 3) (.m 4)),
   (0x60068001000400020E00004E, .shfl h0 .xor .n64 (vr 2) (vr 4) (.imm 1) (.m 6)),
   (0x6003E0000002000104C0004F, .lred h0 .min .s32 false (vr 1) (vr 2) (.m 3)),
   (0xE000E0000002000155C00050, .lscan h0 .xor true .n32 false (vr 1) (vr 2) .none),
   (0x600480030002000100000051, .lbcast h0 .none (vr 1) (vr 2) (.imm 3) (.m 4)),
   (0x6004E0000004000202000052, .lmatch h0 .n64 (vr 2) (vr 4) (.m 4))]

/-- Class 0x2 of R41: a word of each form, and what it stands for. -/
def integerWords : List (Nat × Instr) :=
  [(0xE00080640000000100C00080, .iadd h0 .s32 false (vr 1) (vr 0) (.imm 100)),
   (0xE00023FF0002000120C00081, .isub h0 .s32 true (vr 1) (vr 2) (wr 1023)),
   (0x000400030002000101C00082, .iadd3 h0 .n32 false (vr 1) (vr 2) (vr 3) (vr 4)),
   (0x123456780002000181C00083, .imul h0 .n32 false (vr 1) (vr 2) (.lit 0x12345678)),
   (0xE00000030002000100C00084, .imulh h0 .s32 (vr 1) (vr 2) (vr 3)),
   (0x0004000C0005000D01C00085, .imad h0 .n32 false false (vr 13) (vr 5) (vr 12) (vr 4)),
   (0x000800070005000200C00086, .imadw h0 .s32 false false (vr 2) (vr 5) (vr 7) (vr 8)),
   (0xE00000030002000100C00087, .idiv h0 .s32 false (vr 1) (vr 2) (vr 3)),
   (0xE00000030002000101C00088, .irem h0 .n32 (vr 1) (vr 2) (vr 3)),
   (0xE00000030002000100C00089, .imin h0 .s32 (vr 1) (vr 2) (vr 3)),
   (0xE00000030002000101C0008A, .imax h0 .n32 (vr 1) (vr 2) (vr 3)),
   (0xE000E0000002000100C0008B, .iabs h0 .s32 false (vr 1) (vr 2))] ++
  [(0xE000E0000002000120C0008C, .ineg h0 .s32 true (vr 1) (vr 2)),
   (0xE0000015001A400410C0008D, .icmp h0 4 .s32 (.q 4 false) (vr 26) (vr 21)),
   (0x400C0003000200010000008E, .isel h0 .none (vr 1) (vr 2) (vr 3) (.q 4 true)),
   (0xE0000006000400020200008F, .iadd64 h0 .n64 false (vr 2) (vr 4) (vr 6)),
   (0xE0009FFF0004000201000090, .isub64 h0 .s64 false (vr 2) (vr 4) (.imm (-1))),
   (0xE00000060004000241000091, .imul64 h0 .s64 true (vr 2) (vr 4) (vr 6))]

/-- Class 0x3 of R41: a word of each form, and what it stands for. -/
def bitWords : List (Nat × Instr) :=
  [(0xE000000300020001000000C0, .and h0 .none (vr 1) (vr 2) (vr 3)),
   (0xE000000600040002020000C1, .or h0 .n64 (vr 2) (vr 4) (vr 6)),
   (0xE0009FFF00020001000000C2, .xor h0 .none (vr 1) (vr 2) (.imm (-1))),
   (0xE000E00000020001000000C3, .not h0 .none (vr 1) (vr 2)),
   (0x80A8000300020001000000C4, .blut h0 .none (vr 1) (vr 2) (vr 3) (.imm 168)),
   (0xE000801F00020001000000C5, .shl h0 .none (vr 1) (vr 2) (.imm 31)),
   (0xE000000300020001000000C6, .shr h0 .none (vr 1) (vr 2) (vr 3)),
   (0xE000803F00040002020000C7, .sra h0 .n64 (vr 2) (vr 4) (.imm 63)),
   (0xE000800500020001400000C8, .rot h0 .none true (vr 1) (vr 2) (.imm 5)),
   (0x8008000300020001400000C9, .shcat h0 true (vr 1) (vr 2) (vr 3) (.imm 8)),
   (0xE000E00000190015000000CA, .clz h0 .none (vr 21) (vr 25)),
   (0xE000E00000020001000000CB, .ctz h0 .none (vr 1) (vr 2))] ++
  [(0xE000E00000020001020000CC, .popc h0 .n64 (vr 1) (vr 2)),
   (0xE000E00000020001000000CD, .brev h0 .none (vr 1) (vr 2)),
   (0x800580040002000100C000CE, .bfx h0 .s32 (vr 1) (vr 2) (.imm 4) (.imm 5)),
   (0x8005800400020001000000CF, .bfi h0 (vr 1) (vr 2) (.imm 4) (.imm 5)),
   (0x0012001100100015400000D0, .bint h0 .none true (vr 21) (vr 16) (vr 17) (vr 18)),
   (0xE000800200020001400000D1, .bdin h0 .none true (vr 1) (vr 2) (.imm 2)),
   (0x801F000300020001000000D2, .lea h0 (vr 1) (vr 2) (vr 3) (.imm 31)),
   (0x800200050004000200C000D3, .lea64 h0 .s32 (vr 2) (vr 4) (vr 5) (.imm 2)),
   (0x0004000300020001000000D4, .bsel h0 (vr 1) (vr 2) (vr 3) (vr 4)),
   (0x80FF400340024001000000D5, .qlop h0 (.q 1 false) (.q 2 false) (.q 3 false) (.imm 255))]

/-- Class 0x4 of R41: a word of each form, and what it stands for. -/
def floatWords : List (Nat × Instr) :=
  [(0xE00000030002000112C00100, .fadd h0 .f32 .rs false (vr 1) (vr 2) (vr 3)),
   (0xE00000030002000106400101, .fsub h0 .f16 .rtz false (vr 1) (vr 2) (vr 3)),
   (0x3F0000000003000382C00102, .fmul h0 .f32 .rne false (vr 3) (vr 3) (.lit 0x3F000000)),
   (0x00090007000400032AC00103, .ffma h0 .f32 .rup true false (vr 3) (vr 4) (vr 7) (vr 9)),
   (0xE00000030002000102800104, .fmin h0 .bf16 (vr 1) (vr 2) (vr 3)),
   (0xE00000030002000102C00105, .fmax h0 .f32 (vr 1) (vr 2) (vr 3)),
   (0xE0000003000240010AC00106, .fcmp h0 2 .f32 (.q 1 false) (vr 2) (vr 3)),
   (0xE000E0000002000103000107, .fclass h0 .f64 (vr 1) (vr 2)),
   (0xE000E000000200014EC00108, .frnd h0 .f32 .rdn true (vr 1) (vr 2)),
   (0xE00000030002000102400109, .hadd2 h0 .f16 .rne false (vr 1) (vr 2) (vr 3)),
   (0xE0000003000200010280010B, .hmul2 h0 .bf16 .rne false (vr 1) (vr 2) (vr 3)),
   (0x00040003000200010240010A, .hfma2 h0 .f16 .rne false false (vr 1) (vr 2) (vr 3) (vr 4))] ++
  [(0x00040003000200010280010C, .fdot2 h0 .bf16 .rne false false (vr 1) (vr 2) (vr 3) (vr 4))]

/-- Class 0x5 of R41: a word of each form, and what it stands for. -/
def doubleWords : List (Nat × Instr) :=
  [(0xE00000060004000203000140, .dadd h0 .rne false (vr 2) (vr 4) (vr 6)),
   (0xE00000060004000207000141, .dmul h0 .rtz false (vr 2) (vr 4) (vr 6)),
   (0x000800060004000203000142, .dfma h0 .rne false false (vr 2) (vr 4) (vr 6) (vr 8)),
   (0xE00000060004000203000143, .dmin h0 (vr 2) (vr 4) (vr 6)),
   (0xE00000060004000203000144, .dmax h0 (vr 2) (vr 4) (vr 6)),
   (0xE00000060004000107000145, .dcmp h0 1 (vr 1) (vr 4) (vr 6)),
   (0xE000E0000002000102C00146, .frcp h0 .f32 .rne false (vr 1) (vr 2)),
   (0xE000E0000004000203000147, .frsq h0 .f64 .rne false (vr 2) (vr 4)),
   (0xE000E0000002000102C00148, .fsqrt h0 .f32 .rne false (vr 1) (vr 2)),
   (0xE00000030002000102C00149, .fdiv h0 .f32 .rne false (vr 1) (vr 2) (vr 3)),
   (0xE000E0000002000102C0014A, .fex2 h0 false (vr 1) (vr 2)),
   (0xE000E0000002000122C0014B, .flg2 h0 true (vr 1) (vr 2))] ++
  [(0xE000E0000002000102C0014C, .fsin h0 (vr 1) (vr 2)),
   (0xE000E0000002000102C0014D, .fcos h0 (vr 1) (vr 2))]

/-- Class 0x6 of R41: a word of each form, and what it stands for. -/
def convertWords : List (Nat × Instr) :=
  [(0x80010002E00000014EC00180, .cvt h0 .f32 .s32 true (vr 1) (vr 2) (.imm 1)),
   (0xE000801E0011001303800181, .qscale h0 (.ty .e2m1) .rne (vr 19) (vr 17) (.imm 30) .none),
   (0xE0000003000200014F000182, .qcvt h0 (.b8 true true 4) .rs (vr 1) (vr 2) (vr 3)),
   (0xE00000130010001203800183, .qcvtEf h0 (.ty .e2m1) .rne (vr 18) (vr 16) (vr 19)),
   (0xE00080070002000143400184, .qpack h0 (.ty .s4) true (vr 1) (vr 2) (.imm 7)),
   (0x000480030002000100400185, .qunpk h0 (.ty .s8) (vr 1) (vr 2) (.imm 3) (vr 4)),
   (0x801D80070010001002C00186, .qsplit h0 (vr 16) (vr 16) (.imm 7) (.imm 29))]

/-- Class 0x7 of R41: a word of each form, and what it stands for. -/
def moveWords : List (Nat × Instr) :=
  [(0xE000C003E0000001000001C0, .mov h0 .none (vr 1) (.k 3)),
   (0xE0000004E0002002020001C1, .movw h0 .n64 (wr 2) (vr 4)),
   (0xE000E00000024001000001C2, .movq h0 (.q 1 false) (vr 2)),
   (0xE000E000E0000001400001C2, .movqAll h0 (vr 1) .none),
   (0xE000E000A0410002020001C3, .srd h0 true (vr 2) (.sys 0x41)),
   (0xE0000002E000A001020001C4, .moorWrite h0 true false (vr 2)),
   (0xE0000002E000A010000001C4, .regoWrite h0 false (vr 2)),
   (0xE0000002E000A026000001C4, .privlWrite h0 false (vr 2)),
   (0xE0000003E000A021000001C4, .swr h0 false (.sys 0x021) (vr 3))]

/-- Class 0x8 of R41: a word of each form, and what it stands for. -/
def accessWords : List (Nat × Instr) :=
  [(0xE0009FF8000200010AC00200, .ld h0 .f32 false .sys (vr 1) (vr 2) (.imm (-8))),
   (0xE000000C2002001206400201, .st h0 .f16 false .l2 (vr 18) (wr 2) (vr 12)),
   (0xE000801C8000000700000202, .ldp h0 .none false (vr 7) (.imm 0) (.imm 28)),
   (0xE00080000002000300000203, .stp h0 .none false (vr 3) (vr 2) (.imm 0)),
   (0xE00080042002000101400204, .lds h0 .n8 false (vr 1) (wr 2) (.imm 4)),
   (0xE00080100002000440000205, .sts h0 .none true (vr 4) (vr 2) (.imm 16)),
   (0xE00080040002000102C00206, .stsa h0 .f32 (vr 1) (vr 2) (.imm 4)),
   (0xE00080080002200402000207, .ldw h0 .n64 .l1 (wr 4) (vr 2) (.imm 8)),
   (0xE00080000002E00008000208, .pref h0 .sys (vr 2) (.imm 0)),
   (0xE00080000002E00000000209, .cctlWb h0 (vr 2) (.imm 0)),
   (0xE00080000002E00000400209, .cctlInv h0 (vr 2) (.imm 0)),
   (0xE00080000002E00010800209, .cctlIinv h0 .gp (vr 2) (.imm 0))] ++
  [(0xE000E000E000E00000C00209, .cctlWball h0)]

/-- Class 0x9 of R41: a word of each form, and what it stands for. -/
def atomicWords : List (Nat × Instr) :=
  [(0x800700050002000179C00240, .atom h0 .inc .n32 .sys .sys true (vr 1) (vr 2) (vr 5)),
   (0x000600050002000105C00241, .cas h0 .n32 .l2 .sq false (vr 1) (vr 2) (vr 5) (vr 6)),
   (0x800100050002E00025C00242, .red h0 .min .n32 .l2 .dev false (vr 2) (vr 5)),
   (0xE000E000E000E00020400243, .fence h0 .acq .dev),
   (0xE00080800000000524000244, .ldacq h0 .none .l2 .dev (vr 5) (vr 0) (.imm 128)),
   (0xE00080800000000324000245, .strel h0 .none .l2 .dev (vr 3) (vr 0) (.imm 128))]

/-- Class 0xA of R41: a word of each form, and what it stands for. -/
def engineWords : List (Nat × Instr) :=
  [(0xE00080032010001600000280, .cpy h0 (vr 22) (wr 16) (.imm 3)),
   (0xE000E000800F000220000281, .tlsig h0 .dev (vr 2) (.imm 15)),
   (0xE00000048002400110000282, .tlwait h0 .gp (.q 1 false) (.imm 2) (vr 4)),
   (0xE000E0008003000200800283, .tlread h0 .fail (vr 2) (.imm 3)),
   (0x804000048002400100000284, .wpwait h0 (.q 1 false) (.imm 2) (vr 4) (.imm 64)),
   (0xE00020088009000200000285, .fork h0 (vr 2) (.imm 9) (wr 8)),
   (0xE000E0000002400100000286, .rdv h0 (.q 1 false) (vr 2)),
   (0xE000E0000004000200000287, .shape h0 (vr 2) (vr 4)),
   (0xE000E0000004E00000000288, .shdrop h0 (vr 4)),
   (0xE000E0000004000200000289, .xtbl h0 (vr 2) (vr 4)),
   (0xE0008001000800020000028A, .xform h0 (vr 2) (vr 8) (.imm 1)),
   (0xE000000480FF40010000028B, .enq h0 (.q 1 false) (.imm 255) (vr 4))] ++
  [(0xE000E000800320105000028C, .deq h0 5 (wr 16) (.imm 3))]

/-- Class 0xB of R41: a word of each form, and what it stands for. -/
def matrixWords : List (Nat × Instr) :=
  [(0xE000E00000040002000002C0, .berth h0 (vr 2) (vr 4)),
   (0xE000E0002004E000000002C1, .unberth h0 (wr 4)),
   (0xE000200520042008048002C2, .mma h0 true 2 (wr 8) (wr 4) (wr 5)),
   (0x200620052004200803C002C3, .mmad h0 false 15 (wr 8) (wr 4) (wr 5) (wr 6)),
   (0xE000E000E0002008080002C4, .mzero h0 false 0 true (wr 8)),
   (0xE000E000200C2008044002C5, .lmm h0 true 1 (wr 8) (wr 12))]

/-- Class 0xC of R41: a word of each form, and what it stands for. -/
def samplerWords : List (Nat × Instr) :=
  [(0xE00000082002000400000300, .smp h0 (vr 4) (wr 2) (vr 8)),
   (0x000300082002000400000301, .smpl h0 (vr 4) (wr 2) (vr 8) (vr 3)),
   (0x800300082002000400000302, .smpg h0 (vr 4) (wr 2) (vr 8) (.imm 3)),
   (0x000C00082002000400000303, .smps h0 (vr 4) (wr 2) (vr 8) (vr 12)),
   (0xE00000042000000800000304, .smpn h0 (vr 8) (wr 0) (vr 4)),
   (0xE000E0000000E00000000305, .hdrinv h0 (vr 0)),
   (0xE000E0000002400100000306, .wcpin h0 (.q 1 false) (vr 2)),
   (0xE000E0002002E00000000307, .wcunp h0 (wr 2)),
   (0xE00000040002000100400308, .rndseq h0 true (vr 1) (vr 2) (vr 4)),
   (0xE00000040008000200000309, .raybox h0 (vr 2) (vr 8) (vr 4)),
   (0xE0000002000800040040030A, .raytri h0 true (vr 4) (vr 8) (vr 2))]

/-- Class 0xD of R41: a word of each form, and what it stands for. -/
def quayWords : List (Nat × Instr) :=
  [(0xE00080000004E00000000340, .qysend h0 (vr 4) (.imm 0)),
   (0xE000E0008005000100000341, .qyrecv h0 (vr 1) (.imm 5)),
   (0xE000E0008000000100000342, .qyfree h0 (vr 1) (.imm 0)),
   (0xE00000060004E0003AC00343, .rbexp h0 .f32 .sys .sys (vr 4) (vr 6)),
   (0xE00000060004E00027000344, .rbadd h0 .f64 .l2 .dev (vr 4) (vr 6)),
   (0xE000E0000004000116C00345, .rbres h0 .f32 .l2 .gp (vr 1) (vr 4))]

/-- Class 0xE of R41: a word of each form, and what it stands for. -/
def systemWords : List (Nat × Instr) :=
  [(0xE000E0008001E00000000380, .sysc h0 (.imm 1)),
   (0xE000E000E000E00000000381, .sret h0),
   (0xE000E0008FFFE00000000382, .hcall h0 (.imm 4095)),
   (0xE000E000E000E00000000383, .hret h0),
   (0xE00000040002000100000384, .ctxnew h0 (vr 1) (vr 2) (vr 4)),
   (0xE000E0000002000100000385, .ctxfree h0 (vr 1) (vr 2)),
   (0xE000E0000002000100400386, .ctxpinOn h0 (vr 1) (vr 2)),
   (0xE000E0000002000100000386, .ctxpinOff h0 (vr 1) (vr 2)),
   (0xE000E0002002000100000387, .sqact h0 (vr 1) (wr 2)),
   (0xE000E0000002000100400388, .sqpark h0 true (vr 1) (vr 2)),
   (0xE000E000E000E00000000389, .xacq h0),
   (0xE000E000E000E0000000038A, .xrel h0)] ++
  [(0xE000E000E000E0000000038B, .regn h0),
   (0xE00080050002E0000000038C, .tlbinvVa h0 (vr 2) (.imm 5)),
   (0xE0000005E000E0000040038C, .tlbinvAsid h0 (vr 5)),
   (0xE0000005E000E0000080038C, .tlbinvVm h0 (vr 5)),
   (0xE000E000E000E00000C0038C, .tlbinvAll h0),
   (0xE000E000001E001C0000038D, .ordctlRec h0 (vr 28) (vr 30)),
   (0xE000E000001E001C0040038D, .ordctlPlay h0 (vr 28) (vr 30)),
   (0xE000E000001E001C0080038D, .ordctlOff h0 (vr 28) (vr 30)),
   (0xE000E000001E001C00C0038D, .ordctlChk h0 (vr 28) (vr 30)),
   (0xE0008FFF000200010000038E, .stepb h0 (vr 1) (vr 2) (.imm 4095))]

/-- A word reads as its instruction, which is well formed and encodes to that word. -/
def reads (p : Nat × Instr) : Bool :=
  decodeTableWord 96 p.1 == some p.2 && p.2.wf && encode p.2 == some (BitVec.ofNat 96 p.1)

theorem test_words_control : controlWords.all reads = true := by decide
theorem test_words_membership : membershipWords.all reads = true := by decide
theorem test_words_integer : integerWords.all reads = true := by decide
theorem test_words_bit : bitWords.all reads = true := by decide
theorem test_words_float : floatWords.all reads = true := by decide
theorem test_words_double : doubleWords.all reads = true := by decide
theorem test_words_convert : convertWords.all reads = true := by decide
theorem test_words_move : moveWords.all reads = true := by decide
theorem test_words_access : accessWords.all reads = true := by decide
theorem test_words_atomic : atomicWords.all reads = true := by decide
theorem test_words_engine : engineWords.all reads = true := by decide
theorem test_words_matrix : matrixWords.all reads = true := by decide
theorem test_words_sampler : samplerWords.all reads = true := by decide
theorem test_words_quay : quayWords.all reads = true := by decide
theorem test_words_system : systemWords.all reads = true := by decide

/-! Words of the spec's worked examples: guards, hints, literals, headers (R33), and the all-zero word (R42). -/
theorem test_word_header : decodeTableWord 96 0x0000000000400000000033FF = some (.clauseEntry 12 0 ⟨false, 0⟩ ⟨false, 0⟩ 1 false) := by decide
theorem test_word_header_seta : decodeTableWord 96 0x0000000000011000000007FF = some (.clauseEntry 1 0 ⟨true, 1⟩ ⟨false, 0⟩ 0 false) := by decide
theorem test_word_header_wait : decodeTableWord 96 0x0000000000400002000013FF = some (.clauseEntry 4 2 ⟨false, 0⟩ ⟨false, 0⟩ 1 false) := by decide
theorem test_word_guard : decodeTableWord 96 0xFFFFFFC4E000E00080000400 = some (.bra ⟨1, 0⟩ (.lit 0xFFFFFFC4)) := by decide
theorem test_word_flag : decodeTableWord 96 0xE000E0000000E00000010305 = some (.hdrinv ⟨0, 4⟩ (vr 0)) := by decide
theorem test_word_hi_half : decodeTableWord 96 0xE000000C2002101206410201 =
  some (.st ⟨0, 4⟩ .f16 false .l2 (.v 18 false false true) (wr 2) (vr 12)) := by decide
/-- The worked FFMA of spec/01: `@!q3`, SETA selected, stall count 2. -/
theorem test_word_ffma : decodeTableWord 96 0x000920070001000402D12D03 =
  some (.ffma ⟨0xB, 0x44⟩ .f32 .rne false false (vr 4) (vr 1) (wr 7) (vr 9)) := by decide
theorem test_word_zero : decodeTableWord 96 0 = none := by decide

end Sys2Proof.Tests
end

