-- ==== Sys2Proof/Tests/Slice0.lean ====
section
/-! SUPPORT. Small tests: an ill-formed term for each check of well-formedness, and single steps whose results the spec's rules or worked examples give. -/
namespace Sys2Proof.Tests
open Sys2Proof Sys2Proof.Machine

/-! ### Ill-formed terms -/

/-- One term for each check of R45 on a word: the type, rounding, a modifier bit, a literal where none may stand, FSEL = 3, and each slot's kind, index,
modifier and range. -/
def illFormedWords : List Instr :=
  [.iadd h0 .f32 false (vr 1) (vr 2) (vr 3),
   .frnd h0 .f32 .rs false (vr 1) (vr 2),
   .imulh h0 .n8 (vr 1) (vr 2) (vr 3),
   .iadd3 h0 .s32 false (vr 1) (vr 2) (.lit 1) (vr 4),
   .bra h0 (.imm 4),
   .nop ⟨0, 12⟩,
   .iadd h0 .s32 false (wr 1) (vr 2) (vr 3),
   .iadd h0 .s32 false (vr 1) (.q 2 false) (vr 3),
   .iadd h0 .s32 false (vr 1) (vr 2) (.m 3),
   .iadd3 h0 .s32 false (vr 1) (vr 2) (vr 3) .none,
   .iadd64 h0 .n64 false (vr 1) (vr 2) (vr 4),
   .and h0 .none (vr 1) (.v 2 true false false) (vr 3),
   .iadd h0 .s32 false (vr 1) (.v 2 false false true) (vr 3),
   .blut h0 .none (vr 1) (vr 2) (vr 3) (.imm 256),
   .qlop h0 (.q 1 true) (.q 2 false) (.q 3 false) (.imm 0),
   .mjoin h0 (.m 12),
   .srd h0 false (vr 1) (.sys 0x012),
   .berth h0 (vr 2) (vr 3),
   .deq h0 0 (wr 8) (.imm 0)]
theorem test_ill_formed_words : illFormedWords.all (fun i => !i.wf) = true := by decide

/-- A term that is not the constructor its fields stand for: SWR to MOOR, to REGO and to PRIVL are forms of their own, and MOVQ of no kind pairs with none. -/
def illFormedForms : List Instr :=
  [.swr h0 true (.sys 0x001) (vr 2), .swr h0 false (.sys 0x010) (vr 2), .swr h0 false (.sys 0x026) (vr 2), .movq h0 .none (vr 2)]
theorem test_ill_formed_forms : illFormedForms.all (fun i => !i.wf) = true := by decide

/-- Headers: LEN = 0, and a flag beyond f11 in SETA or SETB (R33, R34). -/
theorem test_ill_formed_headers : ([.clauseEntry 0 0 ⟨false, 0⟩ ⟨false, 0⟩ 0 false, .clauseEntry 1 0 ⟨true, 12⟩ ⟨false, 0⟩ 0 false,
  .clauseEntry 1 0 ⟨false, 0⟩ ⟨true, 15⟩ 0 false] : List Instr).all (fun i => !i.wf) = true := by decide

/-- Events whose part does not exist: one term for each bound of an event. -/
theorem test_ill_formed_engine_events : ([.deqItemDelivery 24 0, .deqItemDelivery 0 256, .berthEnd 24 0, .berthEnd 0 32, .matrixCommandStart 24 0,
  .matrixCommandStart 0 2, .matrixKblockComplete 24 0 .none, .matrixKblockComplete 0 2 .none] : List Instr).all (fun i => !i.wf) = true := by decide
theorem test_ill_formed_core_events : ([.lmmPassComplete 168 .none, .lmmWaitExpiry 168, .samplerHeaderReadComplete 168 0 .none,
  .texelFillComplete 168 0 0 .none, .weightFillComplete 168 0 .none, .extensionBlockGrant 168, .squadActivation 168, .squadDeactivation 168,
  .bundleFormation 168, .coreClockStart 168] : List Instr).all (fun i => !i.wf) = true := by decide
theorem test_ill_formed_launch_events : ([.registerFillComplete 1 64 .none, .registerRowEviction 1 64, .apertureWrite 4096 0 true [], .apertureWrite 0 256 true [],
  .groupPlacement 24, .kernelLoadComplete 24, .admissionInterval 24, .queueBalancing 24, .quantumExpiry 1 24] : List Instr).all (fun i => !i.wf) = true := by decide
theorem test_ill_formed_device_events : ([.railSample 51 false 0, .weightRefit [], .sensorSample [], .thermalRelease 24,
  .gateReq 24, .idleGateTimer 24, .gateWritebackComplete 24, .spillComplete 24, .refillComplete 24, .wgtWrite true 9 0, .peerLinkTraining 8 true,
  .peerAccess ⟨8, 0, 0, false, 0, .read 1⟩] : List Instr).all (fun i => !i.wf) = true := by decide
/-- Host accesses beyond the memory range and beyond either window (R438). -/
theorem test_ill_formed_host_accesses : ([.hostRead (.hdm 549755813888) 1, .hostWrite (.bar0 16777215) [0, 0], .hostRead (.bar2 268435456) 1] : List Instr).all (fun i => !i.wf) = true := by
  decide

/-! ### Single steps of a placed word -/

/-- The device after the next step, where it answers one. -/
def stepped (s : State) : Option Dev :=
  match step s with
  | .next t => some t.dev
  | _ => none

/-- The device after a placed word's step from reset. -/
def ran (w : Nat) : Option Dev := stepped (State.reset.withFetchWord 96 w)

/-- The device after a placed word's step in S mode: HDELEG is 0, so its traps go to S (R234). -/
def ranInS (w : Nat) : Option Dev :=
  let s := State.reset.withFetchWord 96 w
  stepped { s with dev := setLane s.dev 1 0 fun l => { l with mode := .s } }

/-- `IADD.s32 v1, v0, 100`: v0 reads +0 (R258). -/
theorem test_step_iadd : (ran 0xE00080640000000100C00080).map (fun d => ((squadOf d 1).v 1 0, (laneOf d 1 0).pc)) = some (100, 65560) := by decide
/-- `IADD.s32 v2, v0, 5000`, by literal. -/
theorem test_step_iadd_literal : (ran 0x000013880000000280C00080).map (fun d => (squadOf d 1).v 2 0) = some 5000 := by decide
/-- A header is entered: the lane stands at the word behind it (R36). -/
theorem test_step_header : (ran 0x0000000000400000000033FF).map (fun d => ((laneOf d 1 0).pc, (laneOf d 1 0).hofs)) = some (65548, 1) := by decide
/-- The all-zero word is an illegal instruction (R42): the lane traps with cause 0x01, its word's address in TEPC. -/
theorem test_step_zero_word : (ranInS 0).map (fun d => ((laneOf d 1 0).depth, (laneOf d 1 0).f0.code, (laneOf d 1 0).f0.epc)) = some (1, 0x01, 65548) := by decide
/-- SYSC 1 (R237): cause 0x10, TVAL the code, to resume at the next word, which is the next header. -/
theorem test_step_sysc : (ranInS 0xE000E0008001E00000000380).map (fun d =>
  let f := (laneOf d 1 0).f0
  (f.code, f.tval, f.epc, f.hdr)) = some (0x10, 1, 65560, 65560) := by decide
/-- A step of the machine without power stops (R322). -/
theorem test_step_no_power : (let s := State.reset.withFetchWord 96 0
    step { s with trust := { s.trust with power := false } }) = .fault .powerOff := rfl

/-! ### Single instructions on small states -/

/-- A lane at hand with the given words in its v registers. -/
def withV (l : List (Nat × Word)) : Dev :=
  setSquad { (State.reset.withFetchWord 96 0).dev with cur := some ⟨1, [0]⟩, turns := [] } 1 fun s => l.foldl (fun s p => s.setV p.1 0 p.2) s

/-- The squad after an instruction. -/
def did (i : Instr) (l : List (Nat × Word)) : Option Squad :=
  match exec i { State.reset with dev := withV l } with
  | .next t => some (squadOf t.dev 1)
  | _ => none

/-- The value of v1 and FPSR afterwards. -/
def gives (i : Instr) (l : List (Nat × Word)) : Option (Word × BitVec 7) := (did i l).map fun s => (s.v 1 0, s.fpsr)

/-- R127: a difference wraps modulo 2^32. -/
theorem test_isub_wraps : gives (.isub h0 .n32 false (vr 1) (vr 2) (vr 3)) [(2, 0), (3, 1)] = some (0xFFFFFFFF, 0) := by decide
/-- R127: with SAT the sum is clamped and SAT, bit 6 of FPSR, is set. -/
theorem test_iadd_saturates : (gives (.iadd h0 .s32 true (vr 1) (vr 2) (vr 3)) [(2, 0x7FFFFFFF), (3, 1)]).map Prod.fst = some 0x7FFFFFFF := by decide
/-- R129: the high half of a signed product. -/
theorem test_imulh_signed : gives (.imulh h0 .s32 (vr 1) (vr 2) (vr 3)) [(2, 0xFFFFFFFF), (3, 2)] = some (0xFFFFFFFF, 0) := by decide
/-- R129: the destination is read before it is written. -/
theorem test_imad_in_place : gives (.imad h0 .n32 false false (vr 1) (vr 1) (vr 1) (vr 1)) [(1, 5)] = some (30, 0) := by decide
/-- R130: a signed division of a natural dividend by 0 gives the largest value. -/
theorem test_idiv_zero : (gives (.idiv h0 .s32 false (vr 1) (vr 2) (vr 3)) [(2, 7)]).map Prod.fst = some 0x7FFFFFFF := by decide
/-- R130: the remainder takes the dividend's sign. -/
theorem test_irem_sign : gives (.irem h0 .s32 (vr 1) (vr 2) (vr 3)) [(2, 0xFFFFFFF9), (3, 4)] = some (0xFFFFFFFD, 0) := by decide
/-- R133: a AND (b OR c) is table 0xA8. -/
theorem test_blut_table : gives (.blut h0 .none (vr 1) (vr 2) (vr 3) (.imm 168)) [(1, 0xC), (2, 0xA), (3, 0x2)] = some (0xA, 0) := by decide
/-- R134: a shift by the width gives 0. -/
theorem test_shl_width : gives (.shl h0 .none (vr 1) (vr 2) (.imm 32)) [(2, 0xFFFFFFFF)] = some (0, 0) := by decide
/-- R134: copies of the top bit fill from the left. -/
theorem test_sra_fills : gives (.sra h0 .none (vr 1) (vr 2) (.imm 40)) [(2, 0x80000000)] = some (0xFFFFFFFF, 0) := by decide
/-- R135: no bit is set. -/
theorem test_clz_zero : gives (.clz h0 .none (vr 1) (vr 2)) [] = some (32, 0) := by decide
/-- R136: a signed field is extended from its top bit. -/
theorem test_bfx_signed : gives (.bfx h0 .s32 (vr 1) (vr 2) (.imm 4) (.imm 4)) [(2, 0xF0)] = some (0xFFFFFFFF, 0) := by decide
/-- R141: 1.0 + 1.0. -/
theorem test_fadd_exact : gives (.fadd h0 .f32 .rne false (vr 1) (vr 2) (vr 3)) [(2, 0x3F800000), (3, 0x3F800000)] = some (0x40000000, 0) := by decide
/-- R72: 2^24 + 1 is a tie and goes to the even significand, 2^24, toward zero as well, and up to 2^24 + 2. -/
theorem test_fadd_tie : (gives (.fadd h0 .f32 .rne false (vr 1) (vr 2) (vr 3)) [(2, 0x4B800000), (3, 0x3F800000)]).map Prod.fst = some 0x4B800000 := by decide
theorem test_fadd_up : (gives (.fadd h0 .f32 .rup false (vr 1) (vr 2) (vr 3)) [(2, 0x4B800000), (3, 0x3F800000)]).map Prod.fst = some 0x4B800001 := by decide
/-- R141: FFMA rounds once: (1 + 2^-12)^2 − (1 + 2^-11) = 2^-24. -/
theorem test_ffma_once : gives (.ffma h0 .f32 .rne false false (vr 1) (vr 2) (vr 2) (vr 3)) [(2, 0x3F800800), (3, 0xBF801000)] = some (0x33800000, 0) := by decide
/-- R147: 1 / 2. -/
theorem test_frcp_half : gives (.frcp h0 .f32 .rne false (vr 1) (vr 2)) [(2, 0x40000000)] = some (0x3F000000, 0) := by decide
/-- R147: the square root of 4. -/
theorem test_fsqrt_four : gives (.fsqrt h0 .f32 .rne false (vr 1) (vr 2)) [(2, 0x40800000)] = some (0x40000000, 0) := by decide +kernel
/-- R149: −1.5 to an integer goes to the even −2. -/
theorem test_cvt_ties_even : (gives (.cvt h0 .f32 .s32 false (vr 1) (vr 2) .none) [(2, 0xBFC00000)]).map Prod.fst = some 0xFFFFFFFE := by decide
/-- R26: a write of q0 is discarded. -/
theorem test_movq_q0 : (did (.movq h0 (.q 0 false) (vr 2)) []).map (fun s => (s.lane 0).qbit 0) = some true := by decide
/-- R131: a comparison of signed values. -/
theorem test_icmp_signed : (did (.icmp h0 2 .s32 (.q 4 false) (vr 2) (vr 3)) [(2, 0xFFFFFFFF), (3, 1)]).map (fun s => (s.lane 0).qbit 4) = some true := by decide

/-- Four lanes at hand, with the given words in v1. -/
def fourLanes (f : Nat → Word) : Dev :=
  let d := setSquad { (State.reset.withFetchWord 96 0).dev with cur := some ⟨1, [0, 1, 2, 3]⟩, turns := [] } 1 fun s =>
    { s with lanes := (upto 4).map fun ln => (ln, { s.lane 0 with vc := [(tidOf 1 ln, 1)] }) }
  setSquad d 1 fun s => (upto 4).foldl (fun s ln => s.setV 1 ln (f ln)) s

/-- The worked LRED of spec/04: 2^24, 1, 1 and −2^24 give 1.0 by the fixed tree, where a sum from left to right gives 0. -/
theorem test_lred_tree : (match exec (.lred h0 .add .f32 false (vr 2) (vr 1) .none)
    { State.reset with dev := fourLanes fun ln => if ln = 0 then 0x4B800000 else if ln = 3 then 0xCB800000 else 0x3F800000 } with
  | .next t => (upto 4).map fun ln => (squadOf t.dev 1).v 2 ln
  | _ => []) = [0x3F800000, 0x3F800000, 0x3F800000, 0x3F800000] := by decide
/-- The worked LSCAN of spec/04 on the same data: 2^24 three times, then 1.0. -/
theorem test_lscan_tree : (match exec (.lscan h0 .add false .f32 false (vr 2) (vr 1) .none)
    { State.reset with dev := fourLanes fun ln => if ln = 0 then 0x4B800000 else if ln = 3 then 0xCB800000 else 0x3F800000 } with
  | .next t => (upto 4).map fun ln => (squadOf t.dev 1).v 2 ln
  | _ => []) = [0x4B800000, 0x4B800000, 0x4B800000, 0x3F800000] := by decide
/-- BALLOT's bits are the lanes' (R115): every lane's q0 holds. -/
theorem test_ballot_bits : (match exec (.ballot h0 (vr 2) (.q 0 false) (.imm 0) .none) { State.reset with dev := fourLanes fun _ => 0 } with
  | .next t => (squadOf t.dev 1).v 2 3
  | _ => 0) = 15 := by decide

end Sys2Proof.Tests
end

