-- ==== Sys2Proof/Tests/Witness.lean ====
section
/-! SUPPORT. For each statement that has hypotheses, concrete states and operands that meet them: nothing here says that the statement holds. -/
namespace Sys2Proof.Tests
open Sys2Proof Sys2Proof.Machine

/-! ### States -/

/-- The squad of one lane that withFetchWord places, its lane at hand. -/
def at0 : Dev := { (State.reset.withFetchWord 96 0).dev with cur := some ⟨1, [0]⟩, turns := [] }
/-- The same with addresses of a page at hand in v0, v2, v4, v6, w2 and w4, and its private array and context in that page. -/
def at1 : Dev :=
  setGroup (setSquad at0 1 fun s => { (((s.setV 2 0 66560).setV 4 0 66816).setV 6 0 66816).setV 0 0 66944 with privb := 65536, ctx := 65536 }) 2
    fun g => { g with w := [(2, 66560), (4, 66816)] }
/-- A state with a device. -/
def on (d : Dev) : State := { State.reset with dev := d }

/-- Whether nothing holds a bundle back, as a decision. -/
def clearB (i : Instr) (chk : Dev → Env → Nat → Chk) (d : Dev) (u : Nat) (lns : List Nat) : Bool :=
  let r := rawOf i
  d.cur == some ⟨u, lns⟩ && !lns.isEmpty && (fget d.squads u).isSome && lns.all (fun ln => guardHolds r.h (laneOf d u ln)) &&
    lns.all (fun ln => dynCheck d (squadOf d u) (groupOf d (squadOf d u).group) ln r == none) &&
    lns.all (fun ln => !interlocked d u (squadOf d u).group [ln] r) && !(squadOf d u).flagFull lns r.h &&
    lns.all (fun ln => laneChk d (envOf d u lns) r chk ln == .ok)

theorem clear_of {i : Instr} {chk : Dev → Env → Nat → Chk} {d : Dev} {u : Nat} {lns : List Nat} (h : clearB i chk d u lns = true) :
    Clear (rawOf i) chk d u lns := by
  simp only [clearB, Bool.and_eq_true, beq_iff_eq, List.all_eq_true, Bool.not_eq_true'] at h
  obtain ⟨⟨⟨⟨⟨⟨⟨h1, h2⟩, h3⟩, h4⟩, h5⟩, h6⟩, h7⟩, h8⟩ := h
  exact ⟨h1, by rintro rfl; simp at h2, h3, h4, h5, h6, h7, h8⟩

/-- Every form of a list stands clear on a device, with no check of its own. -/
theorem clear_all {l : List (Nat × Instr)} {d : Dev} {lns : List Nat} (h : (l.all fun p => clearB p.2 noChk d 1 lns) = true) :
    ∀ p ∈ l, Clear (rawOf p.2) noChk d 1 lns := fun p hp => clear_of (List.all_eq_true.mp h p hp)

/-! ### Register forms: nothing holds them back, and no trap is enabled -/

theorem witness_IntegerFormsComplete : (∀ p ∈ integerWords, Clear (rawOf p.2) noChk at1 1 [0]) ∧ ∀ fl, flTraps (squadOf at1 1).fpcr fl = false :=
  ⟨clear_all (by decide), by decide⟩
theorem witness_DivisionComplete : Clear (rawOf (.idiv h0 .s32 false (vr 1) (vr 2) (vr 3))) noChk at1 1 [0] ∧
    Clear (rawOf (.irem h0 .n8 (vr 1) (vr 2) (vr 3))) noChk at1 1 [0] ∧ Ty.s32.wid = 32 ∧ Ty.n8.wid = 8 ∧ Ty.s16.wid = 16 := ⟨clear_of (by decide), clear_of (by decide), rfl, rfl, rfl⟩
theorem witness_BitFormsComplete : (∀ p ∈ bitWords, Clear (rawOf p.2) noChk at1 1 [0]) ∧
    Clear (rawOf (.rndseq h0 true (vr 1) (vr 2) (vr 4))) noChk at1 1 [0] := ⟨clear_all (by decide), clear_of (by decide)⟩
theorem witness_FloatFormsComplete : (∀ p ∈ floatWords ++ doubleWords, Clear (rawOf p.2) noChk at1 1 [0]) ∧ ∀ fl, flTraps (squadOf at1 1).fpcr fl = false :=
  ⟨clear_all (by decide), by decide⟩
theorem witness_ConversionsAndMovesComplete : (∀ p ∈ convertWords ++ moveWords, Clear (rawOf p.2) noChk at1 1 [0]) ∧
    ∀ fl, flTraps (squadOf at1 1).fpcr fl = false := ⟨clear_all (by decide), by decide⟩

theorem witness_ShiftsBitByBit : lowBits (0xFFFFFFFF#64) 32 = 0xFFFFFFFF ∧ lowBits (0xFFFFFFFFFFFFFFFF#64) 64 = 0xFFFFFFFFFFFFFFFF ∧ 0 < 64 ∧ 64 ≤ 64 ∧ 63 < 64 ∧
  31 < 32 := by decide
theorem witness_FieldsBitByBit : 64 ≤ 64 ∧ clzBits 1 64 < 64 ∧ ctzBits 1 64 < 64 ∧ 31 < 32 ∧ 3 < 4 ∧ 7 < 8 ∧ 1 ≤ 1 ∧ 2 ≤ 2 := by decide
theorem witness_OperandValues : Ty.s64.isInt = true ∧ Ty.n8.isInt = true ∧ Ty.f64.isFloat = true ∧ 0 < Ty.f64.wid ∧ 63 < Ty.f64.wid ∧ Ty.f16.isFloat = true ∧
  15 < Ty.f16.wid ∧ (0xFF800000#32).extractLsb' 23 8 = 0xFF#8 ∧ (0x00000001#32).extractLsb' 23 8 ≠ 0xFF#8 := by decide
theorem witness_RegistersReadBack : 63 < 64 ∧ (({} : Squad).rwr.getLsbD 63 = false) ∧ (62#6).toNat + 1 < 64 ∧ 7 < 8 ∧ 1 ≠ 0 := by decide
theorem witness_DecodeEncode : (Instr.iadd h0 .s32 false (vr 1) (vr 0) (.imm 100)).wf = true ∧
  encode (.iadd h0 .s32 false (vr 1) (vr 0) (.imm 100)) = some 0xE00080640000000100C00080 := by decide

/-! ### What a lane meets in its turn -/

/-- Nothing holds the lane back, and it meets a condition. -/
def met (i : Instr) (chk : Dev → Env → Nat → Chk) (d : Dev) (ok : Env → Dev → Nat → Prop) : Prop :=
  Clear (rawOf i) chk d 1 [0] ∧ ok (begunEnv (rawOf i) d 1 [0]) (begun (rawOf i) d 1 [0]) 0
/-- Nothing holds the bundle of one lane back, and it meets a condition. -/
def metAll (i : Instr) (chk : Dev → Env → Nat → Chk) (d : Dev) (ok : Env → List Nat → Dev → Prop) : Prop :=
  Clear (rawOf i) chk d 1 [0] ∧ ok (begunEnv (rawOf i) d 1 [0]) [0] (begun (rawOf i) d 1 [0])
/-- The lane is all its gather counts, and it meets a condition there. -/
def metHere (i : Instr) (m : Option Nat) (chk : Dev → Env → Nat → Chk) (d : Dev) (ok : Env → List Nat → Dev → Prop) : Prop :=
  Clear (rawOf i) chk d 1 [0] ∧ Gathered m d 1 [0] ∧ ok (gatheredEnv (rawOf i) m d 1 [0]) [0] (gathered (rawOf i) m d 1 [0])

theorem gathered_of {m : Option Nat} {d : Dev} (h : ((squadOf d 1).gatherSet m == [0] && (laneOf d 1 0).depth == 0 &&
    (fget (squadOf d 1).insts (instKey (laneOf d 1 0).pc m)).isNone) = true) : Gathered m d 1 [0] := by
  simp only [Bool.and_eq_true, beq_iff_eq, Option.isNone_iff_eq_none] at h
  exact ⟨h.1.1, by simp, by simpa using h.1.2, h.2⟩

/-- The placed squad in S mode, at a header whose clause has one word, that header's address in v2 and v4. -/
def atHeader : Dev :=
  setSquad { (State.reset.withFetchWord 96 0x7FF).dev with cur := some ⟨1, [0]⟩, turns := [] } 1 fun s => ((s.setV 2 0 65536).setV 4 0 65536).setLane 0 fun l =>
    { l with mode := .s }

/-! ### Transfers, masks and system registers -/

theorem witness_StepRunsDecoded :
    (let s := State.reset.withFetchWord 96 0xE00080640000000100C00080
     let d := (nextTurn s.dev).2
     live s ∧ (nextTurn s.dev).1 = .issue 1 [0] ∧ mayIssue d 1 (squadOf d 1) = true ∧ detTurn d 1 (squadOf d 1) = true ∧ formBundle d 1 [0] = [0] ∧
      (laneOf d 1 0).due = none ∧ (laneOf d 1 0).reload = false ∧ (laneOf d 1 0).hofs ≠ 0 ∧ (laneOf d 1 0).recheck = false ∧
      ∃ d2 x i, fetchInstr (pathTaken d 1 [0]) (fetcherOf (pathTaken d 1 [0]) 1 0) (laneOf d 1 0).pc.toNat = (d2, .ok x) ∧ decodeBody x = .ok i) ∧
    (let s := State.reset.withFetchWord 96 0x7FF
     let d := (nextTurn s.dev).2
     live s ∧ (nextTurn s.dev).1 = .issue 1 [0] ∧ mayIssue d 1 (squadOf d 1) = true ∧ detTurn d 1 (squadOf d 1) = true ∧ formBundle d 1 [0] = [0] ∧
      (laneOf d 1 0).due = none ∧ (laneOf d 1 0).reload = false ∧ (laneOf d 1 0).hofs = 0 ∧
      ∃ d2 i, headerAt (pathTaken d 1 [0]) (fetcherOf (pathTaken d 1 [0]) 1 0) (laneOf d 1 0).pc.toNat = (d2, .ok i)) ∧
    (let s := on { State.reset.dev with turns := [.event (.groupPlacement 0)] }
     live s ∧ ∃ d, nextTurn s.dev = (.event (.groupPlacement 0), d)) :=
  ⟨⟨⟨rfl, rfl, rfl⟩, by decide, by decide, by decide, by decide, by decide, by decide, by decide, by decide, _, _, _, rfl, rfl⟩,
   ⟨⟨rfl, rfl, rfl⟩, by decide, by decide, by decide, by decide, by decide, by decide, by decide, _, _, rfl⟩, ⟨rfl, rfl, rfl⟩, _, rfl⟩

/-- The placed squad in deterministic mode with two lanes at one word, the second in a wait. -/
def detPair (w : Wait) : Dev := setSquad at0 1 fun s => { s with det := true, lanes := [(0, s.lane 0), (1, { s.lane 0 with wait := w })] }
theorem witness_BundlesFormed :
    ((squadOf at0 1).det = false ∧ (squadOf at0 1).stop = .none ∧ fsorted (squadOf at0 1).lanes = true ∧ 0 ∈ fkeys (squadOf at0 1).lanes ∧
      laneTries at0 1 0 ((squadOf at0 1).lane 0) = true ∧ 0 ∈ formBundle at0 1 [0]) ∧
    (∀ w ∈ [Wait.run, .sample 3], let d := detPair w
     (squadOf d 1).det = true ∧ (squadOf d 1).stop = .none ∧ fsorted (squadOf d 1).lanes = true ∧
      (let able := (fkeys (squadOf d 1).lanes).filter fun ln => laneReady d 1 ln ((squadOf d 1).lane ln)
       ((able.filter fun ln => (squadOf d 1).path.contains ln) ++ able).head? = some 0 ∧ 1 ∈ able) ∧ together ((squadOf d 1).lane 0) ((squadOf d 1).lane 1) = true) ∧
    laneTries (detPair .run) 1 1 ((squadOf (detPair .run) 1).lane 1) = true ∧ laneTries (detPair (.sample 3)) 1 1 ((squadOf (detPair (.sample 3)) 1).lane 1) = false ∧
    (let d := setLane (setSquad at0 1 fun s => { s with det := true }) 1 0 fun l => { l with wait := .moored }
     (squadOf d 1).det = true ∧ ((fkeys (squadOf d 1).lanes).filter fun ln => laneReady d 1 ln ((squadOf d 1).lane ln)) = []) := by decide

theorem witness_ClauseEntryCompletes : at0.cur = some ⟨1, [0]⟩ ∧ (laneOf at0 1 0).atMoor = false ∧
    (let d := setSquad at0 1 fun s => { s with fcnt := [(3, 1)] }
     (laneOf d 1 0).atMoor = false ∧ (0x008#12).getLsbD 3 = true ∧ (squadOf d 1).flag 3 ≠ 0) ∧
    (laneOf (setLane at0 1 0 fun l => { l with moor := ⟨l.pc, 1, true⟩ }) 1 0).atMoor = true := by decide

theorem witness_TransfersComplete :
    met (.bra h0 (.lit 0)) noChk atHeader (fun e d ln => jumps d e.sq ln (dispTarget e (.lit 0))) ∧
    met (.brx h0 (vr 2)) noChk atHeader (fun e d ln => jumps d e.sq ln (readN64 e ln (vr 2))) ∧
    met (.call h0 (vr 6) (.lit 0)) noChk atHeader (fun e d ln => jumps d e.sq ln (dispTarget e (.lit 0))) ∧
    met (.callx h0 (vr 6) (vr 2)) noChk atHeader (fun e d ln => jumps d e.sq ln (readN64 e ln (vr 2))) ∧
    met (.ret h0 (vr 4)) noChk atHeader (fun e d ln => jumps d e.sq ln (readN64 e ln (vr 4))) ∧
    met (.meet h0 (.m 11) (.lit 0)) noChk atHeader (fun e d ln => jumps d e.sq ln (dispTarget e (.lit 0))) ∧
    Clear (rawOf (.nop h0)) noChk atHeader 1 [0] ∧ Clear (rawOf (.yield h0)) noChk atHeader 1 [0] :=
  ⟨⟨clear_of (by decide), by decide, _, rfl⟩, ⟨clear_of (by decide), by decide, _, rfl⟩, ⟨clear_of (by decide), by decide, _, rfl⟩,
   ⟨clear_of (by decide), by decide, _, rfl⟩, ⟨clear_of (by decide), by decide, _, rfl⟩, ⟨clear_of (by decide), by decide, _, rfl⟩,
   clear_of (by decide), clear_of (by decide)⟩

/-- An address of 2^54 in v2. -/
def farAway : Dev := setSquad atHeader 1 fun s => s.setV 3 0 0x400000
theorem witness_BadTargetsTrap :
    met (.bra h0 (.lit 2)) noChk atHeader (fun e d ln => noHeader d e.sq ln (dispTarget e (.lit 2))) ∧
    met (.brx h0 (vr 2)) noChk farAway (fun e d ln => noHeader d e.sq ln (readN64 e ln (vr 2))) ∧
    met (.call h0 (vr 6) (.lit 4)) noChk atHeader (fun e d ln => noHeader d e.sq ln (dispTarget e (.lit 4))) ∧
    met (.callx h0 (vr 6) (vr 2)) noChk farAway (fun e d ln => noHeader d e.sq ln (readN64 e ln (vr 2))) ∧
    met (.ret h0 (vr 2)) noChk farAway (fun e d ln => noHeader d e.sq ln (readN64 e ln (vr 2))) ∧
    met (.meet h0 (.m 0) (.lit 2)) noChk atHeader (fun e d ln => noHeader d e.sq ln (dispTarget e (.lit 2))) :=
  ⟨⟨clear_of (by decide), .inr rfl⟩, ⟨clear_of (by decide), .inl (by decide)⟩, ⟨clear_of (by decide), .inr rfl⟩, ⟨clear_of (by decide), .inl (by decide)⟩,
   ⟨clear_of (by decide), .inl (by decide)⟩, ⟨clear_of (by decide), .inr rfl⟩⟩

theorem witness_GatheringFormsComplete : (∀ p ∈ membershipWords, Clear (rawOf p.2) noChk at1 1 [0]) ∧
    Clear (rawOf (.qscale h0 (.ty .e2m1) .rne (vr 1) (vr 2) (.imm 1) .none)) noChk at1 1 [0] ∧
    Clear (rawOf (.qsplit h0 (vr 1) (vr 2) (.imm 7) (.imm 29))) noChk at1 1 [0] ∧
    Gathered none at1 1 [0] ∧ (∀ m : BitVec 4, m.toNat ≤ 11 → Gathered (some m.toNat) at1 1 [0]) ∧ ∀ fl, flTraps (squadOf at1 1).fpcr fl = false :=
  ⟨clear_all (by decide), clear_of (by decide), clear_of (by decide), gathered_of (by decide), fun m hm => gathered_of (by revert m; decide), by decide⟩

theorem witness_MaskFormsComplete : (∀ i ∈ [Instr.mjoin h0 (.m 0), .mleave h0 (.m 11), .mset h0 (.m 1) (.imm 3) (vr 3), .mget h0 (vr 1) (.m 2) (.imm 0),
      .ballot h0 (.m 1) (.q 2 false) .none .none], Clear (rawOf i) noChk at1 1 [0]) ∧ Gathered none at1 1 [0] := by
  refine ⟨?_, gathered_of (by decide)⟩
  intro i hi
  simp only [List.mem_cons, List.not_mem_nil, or_false] at hi
  rcases hi with rfl | rfl | rfl | rfl | rfl <;> exact clear_of (by decide)
theorem witness_MaskWrites : (fget at0.squads 1).isSome = true ∧ 127 < 128 ∧ 3 < 4 ∧ 31 < 32 ∧ 32 ≤ 32 := by decide

theorem witness_SystemRegisterFormsComplete :
    Clear (rawOf (.srd h0 true (vr 2) (.sys 0x41))) noChk at1 1 [0] ∧ Clear (rawOf (.swr h0 false (.sys 0x021) (vr 3))) noChk at1 1 [0] ∧
    Clear (rawOf (.moorWrite h0 true false (vr 2))) (moorChk true 1 (vr 2)) at1 1 [0] ∧ Clear (rawOf (.moorWrite h0 true true (vr 2))) (moorChk true 6 (vr 2)) at1 1 [0] ∧
    Clear (rawOf (.privlWrite h0 false (vr 8))) (privlChk false (vr 8)) at1 1 [0] ∧ Clear (rawOf (.regoWrite h0 false (vr 2))) noChk at1 1 [0] ∧
    Clear (rawOf (.movw h0 .n64 (wr 2) (vr 4))) (fun dv e _ => wChk e.s.group e.sq dv (wNamed 2 .n64)) at1 1 [0] :=
  ⟨clear_of (by decide), clear_of (by decide), clear_of (by decide), clear_of (by decide), clear_of (by decide), clear_of (by decide), clear_of (by decide)⟩

/-- The placed lane in S mode at a trap depth, with a frame that resumes at the header. -/
def atDepth (m : Mode) (depth : Nat) (pm : BitVec 2) : Dev :=
  let f : Frame := { epc := 65548, hdr := 65536, pm }
  setLane atHeader 1 0 fun l => { l with mode := m, depth, f0 := f, f1 := f, f2 := f, xf := f }

theorem witness_SystemRegistersReadBack : (fget at0.squads 1).isSome = true ∧ (fget (squadOf at0 1).lanes 0).isSome = true ∧ (laneOf at0 1 0).depth = 0 ∧
    (laneOf (atDepth .s 3 1) 1 0).depth ≤ 3 ∧ (laneOf (atDepth .s 3 1) 1 0).depth ≠ 0 ∧ (fget (squadOf (atDepth .s 3 1) 1).lanes 0).isSome = true := by decide
theorem witness_UniformRegisters : ({} : Group).mayW 1 1023 = true ∧ (({} : Group).setW 1 0 5).mayW 1 0 = true := by decide

/-! ### Traps and returns -/

theorem witness_TrapEntry : ∀ n < 3, let d := atDepth .s n 1
    (fget d.squads 1).isSome = true ∧ (fget (squadOf d 1).lanes 0).isSome = true ∧ (laneOf d 1 0).depth < 3 ∧ (coreOf d (squadOf d 1).core).stvec.toNat < 2 ^ 54 ∧
    ¬ ((laneOf d 1 0).mode = .h ∨ false = true ∨ (0x01 < 32 ∧ (coreOf d (squadOf d 1).core).hdeleg.getLsbD 0x01 = true)) := by decide
theorem witness_TrapOverflow :
    (let d := setCore (atDepth .s 3 1) 0 fun k => { k with hvec := 65536 }
     (fget d.squads 1).isSome = true ∧ (fget (squadOf d 1).lanes 0).isSome = true ∧ (laneOf d 1 0).depth = 3 ∧ (laneOf d 1 0).mode ≠ .h ∧ (laneOf d 1 0).ovf = false ∧
      (coreOf d (squadOf d 1).core).hvec.toNat < 2 ^ 54) ∧
    (laneOf (atDepth .h 3 1) 1 0).mode = .h ∧ (laneOf (atDepth .h 3 1) 1 0).depth = 3 ∧
    (laneOf (setLane (atDepth .s 3 1) 1 0 fun l => { l with ovf := true }) 1 0).ovf = true := by decide

theorem witness_ReturnsComplete :
    met (.sret h0) noChk (atDepth .s 1 1) (fun e d ln => canReturn d e.sq ln (laneOf d e.sq ln).top ∧ (laneOf d e.sq ln).depth ≠ 0 ∧ (laneOf d e.sq ln).top.pm.toNat ≤ 1) ∧
    met (.hret h0) noChk (atDepth .h 3 2) (fun e d ln => canReturn d e.sq ln (laneOf d e.sq ln).top ∧ (laneOf d e.sq ln).depth ≠ 0 ∧
      (laneOf d e.sq ln).top.pm.toNat ≤ 2 ∧ (laneOf d e.sq ln).ovf = false) ∧
    met (.hret h0) noChk (setLane (atDepth .h 3 1) 1 0 fun l => { l with ovf := true }) (fun e d ln => canReturn d e.sq ln (laneOf d e.sq ln).xf ∧
      (laneOf d e.sq ln).xf.pm.toNat ≤ 2 ∧ (laneOf d e.sq ln).ovf = true) ∧
    met (.sret h0) noChk (atDepth .s 0 1) (fun e d ln => (laneOf d e.sq ln).depth = 0) ∧
    met (.sret h0) noChk (atDepth .s 1 2) (fun e d ln => (laneOf d e.sq ln).depth ≠ 0 ∧ (laneOf d e.sq ln).top.pm = 2) :=
  ⟨⟨clear_of (by decide), ⟨_, _, _, _, _, _, 1, rfl, by decide, by decide⟩, by decide, by decide⟩,
   ⟨clear_of (by decide), ⟨_, _, _, _, _, _, 1, rfl, by decide, by decide⟩, by decide, by decide, by decide⟩,
   ⟨clear_of (by decide), ⟨_, _, _, _, _, _, 1, rfl, by decide, by decide⟩, by decide, by decide⟩,
   ⟨clear_of (by decide), by decide⟩, ⟨clear_of (by decide), by decide⟩⟩

theorem witness_CallsComplete : Clear (rawOf (.brk h0 .none)) noChk at1 1 [0] ∧ Clear (rawOf (.sysc h0 (.imm 4095))) noChk at1 1 [0] ∧
    Clear (rawOf (.hcall h0 .none)) noChk at1 1 [0] := ⟨clear_of (by decide), clear_of (by decide), clear_of (by decide)⟩

theorem witness_FailingGuardsGoOn : (Instr.nop ⟨8, 4⟩).raw.isSome = true ∧ plainForm (rawOf (.nop ⟨8, 4⟩)).form = true ∧ AtHand (rawOf (.nop ⟨8, 4⟩)) at0 1 [0] ∧
    guardHolds (rawOf (.nop ⟨8, 4⟩)).h (laneOf at0 1 0) = false ∧ flagRoom at0 1 [0] (rawOf (.nop ⟨8, 4⟩)).h ∧
    (let d := setSquad at0 1 fun s => { s with fcnt := [(0, 63)] }
     AtHand (rawOf (.nop ⟨8, 4⟩)) d 1 [0] ∧ guardHolds (rawOf (.nop ⟨8, 4⟩)).h (laneOf d 1 0) = false ∧ (squadOf d 1).flagFull [0] (rawOf (.nop ⟨8, 4⟩)).h = true) :=
  ⟨by decide, by decide, ⟨rfl, by simp, by decide⟩, by decide, by unfold flagRoom; decide, ⟨rfl, by simp, by decide⟩, by decide, by decide⟩

/-- The one lane's guard holds and nothing in its mode and squad forbids the word. -/
theorem legal_of {i : Instr} {d : Dev} (h1 : d.cur = some ⟨1, [0]⟩) (h2 : (fget d.squads 1).isSome = true)
    (h3 : (guardHolds (rawOf i).h (laneOf d 1 0) && (dynCheck d (squadOf d 1) (groupOf d (squadOf d 1).group) 0 (rawOf i)).isNone) = true) :
    Legal (rawOf i) d 1 [0] := by
  simp only [Bool.and_eq_true, Option.isNone_iff_eq_none] at h3
  exact ⟨⟨h1, by simp, h2⟩, by simpa using h3.1, by simpa using h3.2⟩

/-- An access of the placed lane that is still outstanding. -/
def anAcc (op : AccOp) : Acc :=
  { sq := 1, grp := 2, core := 0, lanes := [(0, [])], pc := 65548, op, ty := .n32, pol := .l2, va := 66560, pa := 66560, len := 4 }
/-- The device with one access. -/
def withAcc (a : Acc) : Dev := { at1 with accs := [(50, a)] }

theorem witness_InterlocksAndMissesWait :
    (let i := Instr.iadd h0 .s32 false (vr 1) (vr 2) (vr 3)
     let d := withAcc { anAcc .load with dest := .v 2 .n32 false }
     i.raw.isSome = true ∧ Legal (rawOf i) d 1 [0] ∧ ∀ ln ∈ [0], interlocked d 1 (squadOf d 1).group [ln] (rawOf i) = true) ∧
    (let i := Instr.nop ⟨0, 4⟩
     let d := setSquad at1 1 fun s => { s with fcnt := [(0, 63)] }
     Legal (rawOf i) d 1 [0] ∧ (∀ ln ∈ [0], interlocked d 1 (squadOf d 1).group [ln] (rawOf i) = false) ∧ ∃ f, (squadOf d 1).newFlag [0] (rawOf i).h = some f ∧ 63 ≤ (squadOf d 1).flag f) ∧
    (let i := Instr.iadd h0 .s32 false (vr 1) (vr 9) (vr 3)
     let d := setSquad at1 1 fun s => { s with rwr := s.rwr ||| 512 }
     let rows := rowsRead (rawOf i) ++ rowsWritten (rawOf i)
     Legal (rawOf i) d 1 [0] ∧ (∀ ln ∈ [0], interlocked d 1 (squadOf d 1).group [ln] (rawOf i) = false) ∧ flagRoom d 1 [0] (rawOf i).h ∧
      rowCause d (squadOf d 1) 0 (rowsRead (rawOf i)) (rowsWritten (rawOf i)) = none ∧ rows.any (squadOf d 1).missing = true) :=
  ⟨⟨by decide, legal_of rfl (by decide) (by decide), by decide⟩, ⟨legal_of rfl (by decide) (by decide), by decide, 0, by decide, by decide⟩,
   legal_of rfl (by decide) (by decide), by decide, by unfold flagRoom; decide, by decide, by decide⟩

/-- The placed lane in a mode. -/
def inMode (m : Mode) : Dev := setLane at1 1 0 fun l => { l with mode := m }
/-- What a form with no check of its own before any of privilege has to meet. -/
theorem ownLegal_of {i : Instr} {d : Dev} (h : (!interlocked d 1 (squadOf d 1).group [0] (rawOf i) && !(rowsRead (rawOf i)).any (squadOf d 1).missing) = true)
    (h1 : ∀ x, i = .regn x → (laneOf d 1 0).hofs = 1) (h2 : ∀ x va n, i = .tlbinvVa x va n → readN32 (envOf d 1 [0]) 0 n < 65536)
    (h3 : ∀ x n, i = .tlbinvAsid x n → readN32 (envOf d 1 [0]) 0 n < 65536) (h4 : ∀ x n, i = .tlbinvVm x n → readN32 (envOf d 1 [0]) 0 n < 4096)
    (h5 : ∀ x wide tm y, i = .moorWrite x wide tm y → moorChk wide (if tm then 6 else 1) y d (envOf d 1 [0]) 0 = .ok)
    (h6 : ∀ x wide y, i = .privlWrite x wide y → privlChk wide y d (envOf d 1 [0]) 0 = .ok) : OwnLegal i d 1 [0] 0 := by
  simp only [Bool.and_eq_true, Bool.not_eq_true'] at h
  exact ⟨h.1, h.2, h1, h2, h3, h4, h5, h6⟩

theorem witness_PrivilegedFormsTrap :
    (AtHand (rawOf (.regn h0)) (inMode .u) 1 [0] ∧ guardHolds h0 (laneOf (inMode .u) 1 0) = true ∧ slotsLegal (rawOf (.regn h0)) (inMode .u) 1 0 ∧
      (laneOf (inMode .u) 1 0).mode = .u ∧ (rawOf (.regn h0)).form.opc.toNat / 64 = 0xE ∧ (rawOf (.regn h0)).form ≠ .sysc ∧ OwnLegal (.regn h0) (inMode .u) 1 [0] 0) ∧
    (AtHand (rawOf (.hret h0)) (inMode .s) 1 [0] ∧ slotsLegal (rawOf (.hret h0)) (inMode .s) 1 0 ∧ (laneOf (inMode .s) 1 0).mode = .s) ∧
    slotsLegal (rawOf (.tlbinvVm h0 (vr 5))) (inMode .s) 1 0 ∧ slotsLegal (rawOf (.tlbinvAll h0)) (inMode .s) 1 0 ∧
    OwnLegal (.tlbinvVm h0 (vr 5)) (inMode .s) 1 [0] 0 ∧
    (let d := setLane (inMode .u) 1 0 fun l => { l with hofs := 2 }
     AtHand (rawOf (.regn h0)) d 1 [0] ∧ slotsLegal (rawOf (.regn h0)) d 1 0 ∧ (laneOf d 1 0).mode = .u ∧ (laneOf d 1 0).hofs ≠ 1 ∧
      interlocked d 1 (squadOf d 1).group [0] (rawOf (.regn h0)) = false) := by
  refine ⟨⟨⟨rfl, by simp, by decide⟩, by decide, ?_, by decide, by decide, by decide, ownLegal_of (by decide) (fun _ _ => by decide) ?_ ?_ ?_ ?_ ?_⟩,
    ⟨⟨rfl, by simp, by decide⟩, ?_, by decide⟩, ?_, ?_, ownLegal_of (by decide) ?_ ?_ ?_ (fun _ _ e => by cases e; decide) ?_ ?_,
    ⟨rfl, by simp, by decide⟩, ?_, by decide, by decide, by decide⟩ <;> first | (unfold slotsLegal; decide) | (intros; contradiction)
theorem witness_PrivilegedRegistersTrap : (let i := Instr.mov h0 .none (vr 1) (.k 3)
    i.raw.isSome = true ∧ AtHand (rawOf i) (inMode .u) 1 [0] ∧ isSquadForm (rawOf i).form = false ∧ (rawOf i).form.opc.toNat / 64 ≠ 0xE ∧
    guardHolds (rawOf i).h (laneOf (inMode .u) 1 0) = true ∧ slotsLegal (rawOf i) (inMode .u) 1 0 ∧
    ∃ p ∈ slotsOf (rawOf i), slotPrivileged (laneOf (inMode .u) 1 0).mode p.2.1 p.2.2 = true) ∧
    (let i := Instr.privlWrite h0 false (vr 8)
     slotsLegal (rawOf i) (inMode .u) 1 0 ∧ ownFirst (rawOf i).form = true ∧ OwnLegal i (inMode .u) 1 [0] 0 ∧
      ∃ p ∈ slotsOf (rawOf i), slotPrivileged (laneOf (inMode .u) 1 0).mode p.2.1 p.2.2 = true) := by
  refine ⟨⟨by decide, ⟨rfl, by simp, by decide⟩, by decide, by decide, by decide, by unfold slotsLegal; decide, by decide⟩,
    by unfold slotsLegal; decide, by decide, ownLegal_of (by decide) ?_ ?_ ?_ ?_ ?_ (fun _ _ _ e => by cases e; decide), by decide⟩ <;> (intros; contradiction)
theorem witness_IssueKeepsTheRest : (fget at1.squads 1).isSome = true := by decide

end Sys2Proof.Tests
end

