-- ==== Sys2Proof/Tests/WitnessAccess.lean ====
section
/-! SUPPORT. For each statement on accesses, ordering and walks that has hypotheses, concrete states and operands that meet them. -/
namespace Sys2Proof.Tests
open Sys2Proof Sys2Proof.Machine

theorem witness_PowerStaysLegal :
    let s : State := { State.reset.withFetchWord 96 0xE00080640000000100C00080 with power := { rails := [(0, { ilim := 1023 })], vcl := List.replicate 9 ⟨0, 0, 0⟩, vup := List.replicate 9 ⟨0, 0, 0⟩ } }
    s.power.legal ∧ ∃ t, step s = .next t := by
  refine ⟨⟨?_, ?_, by decide, by decide, by decide⟩, _, rfl⟩
  · intro r hr
    simp only [List.mem_singleton] at hr
    subst hr
    exact ⟨by decide, by decide, by decide, by decide, by decide, by decide⟩
  · intro c hc
    exact absurd hc (by simp)

theorem witness_AccessFormsComplete :
    Clear (rawOf (.ld h0 .f32 false .sys (vr 1) (vr 2) (.imm (-8)))) (globalChk .r .sys 4 true false false false (fun e ln => vaOf e ln (vr 2) (.imm (-8))) noMid) at1 1 [0] ∧
    Clear (rawOf (.st h0 .f16 false .l2 (vr 18) (wr 2) (vr 12))) (globalChk .w .l2 2 false true false false (fun e ln => vaOf e ln (wr 2) (vr 12)) noMid) at1 1 [0] ∧
    Clear (rawOf (.ldp h0 .none false (vr 7) (.imm 0) (.imm 28))) (privChk .r 4 (.imm 0) (.imm 28)) at1 1 [0] ∧
    Clear (rawOf (.stp h0 .none false (vr 3) (vr 12) (.imm 0))) (privChk .w 4 (vr 12) (.imm 0)) at1 1 [0] ∧
    Clear (rawOf (.lds h0 .n8 false (vr 1) (vr 12) (.imm 4))) (scratchChk 1 true false false (vr 12) (.imm 4) noMid) at1 1 [0] ∧
    Clear (rawOf (.sts h0 .none true (vr 4) (vr 12) (.imm 16))) (scratchChk 16 false true false (vr 12) (.imm 16) noMid) at1 1 [0] ∧
    Clear (rawOf (.stsa h0 .f32 (vr 1) (vr 12) (.imm 4))) (scratchChk 4 true true true (vr 12) (.imm 4) (stsaMid (rawOf (.stsa h0 .f32 (vr 1) (vr 12) (.imm 4))) .f32 (vr 12) (.imm 4))) at1 1 [0] ∧
    Clear (rawOf (.ldw h0 .n64 .l1 (wr 4) (vr 2) (.imm 8))) (ldwChk (rawOf (.ldw h0 .n64 .l1 (wr 4) (vr 2) (.imm 8))) .n64 .l1 (wr 4) (vr 2) (.imm 8)) at1 1 [0] ∧
    Clear (rawOf (.pref h0 .sys (vr 2) (.imm 0))) noChk at1 1 [0] ∧
    (Clear (rawOf (.atom h0 .inc .n32 .sys .sys true (vr 1) (vr 2) (vr 5))) (atomChk .n32 .sys .sys (detForbids false .inc .n32 .sys) (vr 2)) at1 1 [0] ∧ ungated (vr 2) at1 (envOf at1 1 [0]) [0]) ∧
    Clear (rawOf (.cas h0 .n32 .l2 .sq false (vr 1) (vr 2) (vr 5) (vr 6))) (atomChk .n32 .l2 .sq (detForbids false .exch .n32 .sq) (vr 2)) at1 1 [0] ∧
    Clear (rawOf (.red h0 .min .n32 .l2 .dev false (vr 2) (vr 5))) (atomChk .n32 .l2 .dev (detForbids true .min .n32 .dev) (vr 2)) at1 1 [0] ∧
    Clear (rawOf (.ldacq h0 .none .l2 .dev (vr 5) (vr 0) (.imm 128))) (globalChk .r .l2 4 true false true false (fun e ln => vaOf e ln (vr 0) (.imm 128)) noMid) at1 1 [0] ∧
    Clear (rawOf (.strel h0 .none .l2 .dev (vr 3) (vr 0) (.imm 128))) (globalChk .w .l2 4 false true true false (fun e ln => vaOf e ln (vr 0) (.imm 128)) noMid) at1 1 [0] ∧
    Clear (rawOf (.rbexp h0 .f32 .sys .sys (vr 4) (vr 6))) (binChk .rw .sys .sys true (vr 4)) at1 1 [0] ∧
    Clear (rawOf (.rbadd h0 .f64 .l2 .dev (vr 4) (vr 6))) (binChk .rw .l2 .dev true (vr 4)) at1 1 [0] :=
  ⟨clear_of (by decide), clear_of (by decide), clear_of (by decide), clear_of (by decide), clear_of (by decide), clear_of (by decide), clear_of (by decide),
   clear_of (by decide), clear_of (by decide), ⟨clear_of (by decide), by unfold ungated; decide⟩, clear_of (by decide), clear_of (by decide), clear_of (by decide),
   clear_of (by decide), clear_of (by decide), clear_of (by decide)⟩

theorem witness_LoadsOutstanding : (loadParts .n32 true (vr 4))[3]? = some (12, .none, .v 7 .none false) ∧ (loadParts .f64 false (vr 4))[0]? = some (0, .f64, .v 4 .f64 false) := by
  decide
theorem witness_HighestLaneStores : let rs : List StoreReq := [⟨0, 8, (0, 8), [1, 2]⟩, ⟨1, 9, (0, 9), [3, 4]⟩]
    (∃ r, rs[0]? = some r ∧ r.bs[0]? = some 1 ∧ r.bs[1]? = some 2) ∧ ∃ r, rs[1]? = some r ∧ r.bs[1]? = some 4 := ⟨⟨_, rfl, rfl, rfl⟩, _, rfl, rfl⟩

/-- A misaligned address, as a decision. -/
theorem misaligned_of {i : Instr} {d : Dev} {n : Nat} {a : Env → Nat → Int} (h1 : d.cur = some ⟨1, [0]⟩) (h2 : (fget d.squads 1).isSome = true)
    (h3 : (guardHolds (rawOf i).h (laneOf d 1 0) && (dynCheck d (squadOf d 1) (groupOf d (squadOf d 1).group) 0 (rawOf i)).isNone) = true)
    (h4 : (!interlocked d 1 (squadOf d 1).group [0] (rawOf i) && !(squadOf d 1).flagFull [0] (rawOf i).h &&
      (!(rowsRead (rawOf i) ++ rowsWritten (rawOf i)).any (squadOf d 1).missing && rowRoom d 1 (squadOf d 1) (rowsWritten (rawOf i))) &&
      ((rowCause d (squadOf d 1) 0 (rowsRead (rawOf i)) (rowsWritten (rawOf i))).isNone && (rowPoison (squadOf d 1) 0 (rowsRead (rawOf i))).isNone &&
        (fillPoison (squadOf d 1) 0 (rowsWritten (rawOf i))).isNone) && !acqPending d 1 0 && decide (a (envOf d 1 [0]) 0 % n ≠ 0)) = true) :
    Misaligned (rawOf i) d 1 [0] n a := by
  simp only [Bool.and_eq_true, Bool.not_eq_true', Option.isNone_iff_eq_none, decide_eq_true_eq] at h4
  obtain ⟨⟨⟨⟨⟨g1, g2⟩, g3⟩, g4⟩, g5⟩, g6⟩ := h4
  refine ⟨legal_of h1 h2 h3, by simpa using g1, g2, g3, ?_, by simpa using g5, by simpa using g6⟩
  rintro ln hl
  rw [List.mem_singleton] at hl
  exact hl ▸ ⟨g4.1.1, g4.1.2, g4.2⟩

/-- An odd address in v2, v4 and v0. -/
def atOdd : Dev := setSquad at1 1 fun s => ((s.setV 2 0 66561).setV 4 0 66817).setV 0 0 66945
theorem witness_MisalignedAccessesTrap :
    Misaligned (rawOf (.ld h0 .f32 false .sys (vr 1) (vr 2) (.imm (-8)))) atOdd 1 [0] (accBytes .f32 false) (fun e ln => (vaOf e ln (vr 2) (.imm (-8)) : Int)) ∧
    Misaligned (rawOf (.st h0 .f16 false .l2 (vr 18) (vr 2) (vr 12))) atOdd 1 [0] (accBytes .f16 false) (fun e ln => (vaOf e ln (vr 2) (vr 12) : Int)) ∧
    Misaligned (rawOf (.ldp h0 .none false (vr 7) (.imm 0) (.imm 27))) atOdd 1 [0] (accBytes .none false) (fun e ln => offsetOf e ln (.imm 0) (.imm 27)) ∧
    Misaligned (rawOf (.stp h0 .none false (vr 3) (vr 12) (.imm (-1)))) atOdd 1 [0] (accBytes .none false) (fun e ln => offsetOf e ln (vr 12) (.imm (-1))) ∧
    Misaligned (rawOf (.lds h0 .n16 false (vr 1) (vr 12) (.imm 5))) atOdd 1 [0] (accBytes .n16 false) (fun e ln => offsetOf e ln (vr 12) (.imm 5)) ∧
    Misaligned (rawOf (.sts h0 .none true (vr 4) (vr 12) (.imm 8))) atOdd 1 [0] (accBytes .none true) (fun e ln => offsetOf e ln (vr 12) (.imm 8)) ∧
    Misaligned (rawOf (.stsa h0 .f32 (vr 1) (vr 12) (.imm 2))) atOdd 1 [0] 4 (fun e ln => offsetOf e ln (vr 12) (.imm 2)) ∧
    Misaligned (rawOf (.atom h0 .inc .n32 .sys .sys true (vr 1) (vr 2) (vr 5))) atOdd 1 [0] 4 (fun e ln => (readN64 e ln (vr 2) : Int)) ∧
    Misaligned (rawOf (.cas h0 .n32 .l2 .sq false (vr 1) (vr 2) (vr 5) (vr 6))) atOdd 1 [0] 4 (fun e ln => (readN64 e ln (vr 2) : Int)) ∧
    Misaligned (rawOf (.red h0 .min .n32 .l2 .dev false (vr 2) (vr 5))) atOdd 1 [0] 4 (fun e ln => (readN64 e ln (vr 2) : Int)) ∧
    Misaligned (rawOf (.ldacq h0 .none .l2 .dev (vr 5) (vr 0) (.imm 128))) atOdd 1 [0] 4 (fun e ln => (vaOf e ln (vr 0) (.imm 128) : Int)) ∧
    Misaligned (rawOf (.strel h0 .none .l2 .dev (vr 3) (vr 0) (.imm 128))) atOdd 1 [0] 4 (fun e ln => (vaOf e ln (vr 0) (.imm 128) : Int)) ∧
    Misaligned (rawOf (.rbexp h0 .f32 .sys .sys (vr 4) (vr 6))) atOdd 1 [0] 64 (fun e ln => (readN64 e ln (vr 4) : Int)) ∧
    Misaligned (rawOf (.rbadd h0 .f64 .l2 .dev (vr 4) (vr 6))) atOdd 1 [0] 64 (fun e ln => (readN64 e ln (vr 4) : Int)) ∧
    Misaligned (rawOf (.rbres h0 .f32 .l2 .gp (vr 1) (vr 4))) atOdd 1 [0] 64 (fun e ln => (readN64 e ln (vr 4) : Int)) ∧
    Misaligned (rawOf (.waitv h0 .s32 .l2 5 (.q 2 false) (vr 4) (wr 2))) atOdd 1 [0] 4 (fun e ln => (waitvAddr (vr 4) e ln : Int)) :=
  ⟨misaligned_of rfl (by decide) (by decide) (by decide), misaligned_of rfl (by decide) (by decide) (by decide), misaligned_of rfl (by decide) (by decide) (by decide),
   misaligned_of rfl (by decide) (by decide) (by decide), misaligned_of rfl (by decide) (by decide) (by decide), misaligned_of rfl (by decide) (by decide) (by decide),
   misaligned_of rfl (by decide) (by decide) (by decide), misaligned_of rfl (by decide) (by decide) (by decide), misaligned_of rfl (by decide) (by decide) (by decide),
   misaligned_of rfl (by decide) (by decide) (by decide), misaligned_of rfl (by decide) (by decide) (by decide), misaligned_of rfl (by decide) (by decide) (by decide),
   misaligned_of rfl (by decide) (by decide) (by decide), misaligned_of rfl (by decide) (by decide) (by decide), misaligned_of rfl (by decide) (by decide) (by decide),
   misaligned_of rfl (by decide) (by decide) (by decide)⟩

/-- The placed lane watching a line. -/
def watching (w : Watch) : Dev := setLane at1 1 0 fun l => { l with wait := .watch, watch := some w }
/-- A watch that waits for the line of address 66560. -/
def aWatch (limit : Nat) (seen : BitVec 1024) : Watch := { va := 66560, want := 0, line := 520, pol := .l2, since := 0, limit, seen }

theorem witness_OrderFormsComplete :
    Clear (rawOf (.fence h0 .acq .dev)) (fun dv e ln => if acqPending dv e.sq ln then .stall else .ok) at1 1 [0] ∧
    Clear (rawOf (.cctlWb h0 (vr 2) (.imm 0))) (cctlChk (vr 2) (.imm 0)) at1 1 [0] ∧ Clear (rawOf (.cctlInv h0 (vr 2) (.imm 0))) (cctlChk (vr 2) (.imm 0)) at1 1 [0] ∧
    Clear (rawOf (.cctlIinv h0 .gp (vr 2) (.imm 0))) (cctlChk (vr 2) (.imm 0)) at1 1 [0] ∧
    Clear (rawOf (.cctlWball h0)) (fun d e ln => if l1Pending d e.sq ln then .stall else .ok) at1 1 [0] ∧
    Clear (rawOf (.rbres h0 .f32 .l2 .gp (vr 1) (vr 4))) (rbresChk .f32 .l2 .gp (vr 4)) at1 1 [0] ∧
    Clear (rawOf (.waitv h0 .s32 .l2 5 (.q 2 false) (vr 4) (wr 2))) (waitvChk .s32 .l2 (vr 4)) at1 1 [0] ∧
    (let e := envOf at1 1 [0]
     let pl := placeOr (globalAddr at1 e 0 (readN64 e 0 (vr 4)) 4 .r .l2 true false)
     let r := readAt (tagLane at1 e 0 pl.1 pl.2 4 false true) (waitvAcc at1 e 0 .s32 .l2 (readN64 e 0 (vr 4)) pl)
     BitVec.ofNat 64 (leNat r.2) ≠ waitvWant .s32 (.imm 1) e 0 ∧ BitVec.ofNat 64 (leNat r.2) = waitvWant .s32 (.imm 0) e 0 ∧
       (∀ w, (e.s.lane 0).watch ≠ some w)) ∧
    ((envOf (watching (aWatch 0 1)) 1 [0]).s.lane 0).watch = some (aWatch 0 1) :=
  ⟨clear_of (by decide), clear_of (by decide), clear_of (by decide), clear_of (by decide), clear_of (by decide), clear_of (by decide), clear_of (by decide), ⟨by decide, by decide, by intro w h; cases h⟩, rfl⟩
theorem witness_StoresReadBack : 0 < 256 ∧ 255 < 256 ∧ (255 : Nat) ≠ 0 ∧ l2Room at1 (lineOf 66560) 4 = true ∧ noMemory 66560 = false ∧ lineOf (66560 + 127) = lineOf 66560 := by decide

/-- The one access of a device may be performed. -/
theorem performable_of {a : Acc} (h : (accReady (withAcc a) 50 a && !a.isFence && a.sq == 1) = true) : Performable (withAcc a) 50 a := by
  simp only [Bool.and_eq_true, Bool.not_eq_true', beq_iff_eq] at h
  obtain ⟨⟨h1, h2⟩, h3⟩ := h
  refine ⟨rfl, h1, ?_, rfl, ?_, ?_, ?_, ?_⟩
  · intro p hp
    simp only [withAcc, List.mem_singleton] at hp
    rw [hp]
    exact h2
  · rw [h3]
    exact (by decide : (fget at1.squads 1).isSome = true)
  · rw [h3]
    exact (by decide : (squadOf at1 1).state ≠ .ended)
  · rw [h3]
    exact (by decide : (squadOf at1 1).dbg = false)
  · rw [h3]
    exact (by decide : (squadOf at1 1).ending = false)

/-- An L2 that holds nothing has its shape. -/
theorem l2Legal_of {d : Dev} (h : d.l2 = []) : d.l2Legal := by
  have hs : ∀ ln, sliceLines d ln = [] := fun ln => by unfold sliceLines; rw [h]; rfl
  exact ⟨by rw [h]; rfl, by simp [h], fun ln => by rw [hs]; decide, fun ln => by rw [hs]; decide⟩

theorem witness_LoadsAndStoresPerformed : (let a := { anAcc .load with dest := .v 62 .n32 true }
     Performable (on (withAcc a)).dev 50 a ∧ a.lanes = [(0, [])] ∧ a.sync = false ∧ 62 < 63 ∧ accFits (withAcc a) a = true ∧ metPoison (withAcc a) a = false ∧ a.pol ≠ .sys ∧
       (withAcc a).l2Legal ∧ l2Room (withAcc a) (lineOf a.pa) 4 = true) ∧
    (let a := anAcc (.store [some 1, none, some 2, some 3])
     Performable (withAcc a) 50 a ∧ a.lanes = [(0, [])] ∧ a.rel = none ∧ a.set < 256 ∧ accFits (withAcc a) a = true ∧ a.space = 0) ∧
    (let a := { anAcc (.store [some 1]) with space := 1, set := 255, pa := 0, len := 1 }
     Performable (withAcc a) 50 a ∧ a.set < 256 ∧ accFits (withAcc a) a = true ∧ a.space = 1) :=
  ⟨⟨performable_of (by decide), rfl, rfl, by decide, by decide, by decide, by decide, l2Legal_of rfl, by decide⟩, ⟨performable_of (by decide), by decide⟩, performable_of (by decide), by decide⟩
/-- A walk of address 0 of the placed squad's space, and tables for it in which a page of 2^30 bytes stands. -/
def walking (tables : Bool) : Dev := setLane { at1 with walks := [(7, ⟨0, 0, 0, 0, none⟩)], host := { at1.host with ast := [⟨0, 0, 0, 65536, 0, 0⟩] }
                                                        mem := if tables then [(65536, 1), (65538, 2), (131072, 31)] else [] } 1 0 fun l => { l with wait := .walk 7 }
theorem watch_changed : watchOf (watching (aWatch 0 1)) 1 0 = some (aWatch 0 1) ∧ watchLine (watching (aWatch 0 1)) .l2 520 ≠ 1 := by decide +kernel
theorem watch_over : let d := setCluster (watching (aWatch 1 0)) 0 fun c => { c with etime := 1 }
    watchOf d 1 0 = some (aWatch 1 0) ∧ 0 + 1 ≤ (clusterOf d ((squadOf d 1).core / 7)).etime := by decide +kernel
theorem walk_found : fget (walking true).walks 7 = some ⟨0, 0, 0, 0, none⟩ ∧ (walkPage (walking true) 0 0 0).isOk = true := by decide +kernel
theorem walk_fails : walkPage (walking false) 0 0 0 = .error 0x04 ∧ (fget (walking false).squads 1).isSome = true ∧ (laneOf (walking false) 1 0).wait = .walk 7 ∧
    (fget (squadOf (walking false) 1).lanes 0).isSome = true := ⟨rfl, by decide⟩
theorem witness_AtomicsAndAccessEventsComplete :
    ((let xs : FMap DWord := [(0, 1), (5, 2)]
     xs[1]? = some (5, 2)) ∧ ([(0, (1, 2)), (7, (2, 3))] : FMap (DWord × DWord))[1]? = some (7, (2, 3)) ∧
    (let a := anAcc (.atom .add true [(0, 1)])
     Performable (withAcc a) 50 a ∧ a.rel = none ∧ a.acq = none ∧ a.gated = false ∧ a.space = 0 ∧ a.set < 256 ∧ (withAcc a).watches = [] ∧ (withAcc a).marks = [] ∧ a.pol = .l2 ∧ a.len ≤ 8 ∧
       metPoison (withAcc a) a = false) ∧
    (let a := { anAcc (.ret [(0, 9)]) with dest := .v 0 .n32 false }
     Performable (withAcc a) 50 a)) ∧
    (∃ d w, watchOf d 1 0 = some w ∧ watchLine d w.pol w.line ≠ w.seen) ∧
    (∃ d w, watchOf d 1 0 = some w ∧ w.limit ≠ 0 ∧ w.since + w.limit ≤ (clusterOf d ((squadOf d 1).core / 7)).etime) ∧
    (∃ d k, fget d.walks 7 = some k ∧ k.res = none ∧ (walkPage d k.vmid k.asid k.va).isOk = true) ∧
    (∃ d k c, fget d.walks 7 = some k ∧ k.res = none ∧ walkPage d k.vmid k.asid k.va = .error c ∧ (fget d.squads 1).isSome = true ∧ (laneOf d 1 0).wait = .walk 7 ∧
      (fget (squadOf d 1).lanes 0).isSome = true) ∧
    (let a := { anAcc (.store [some 1, none, some 2, some 3]) with pa := hostBase }
     Performable (withAcc a) 50 a ∧ a.noReturn = true ∧ a.gated = false ∧ whole (withAcc a) a = true ∧ a.lanes = [(0, [])] ∧ a.space = 0 ∧ hostBase ≤ a.pa ∧ (fget (squadOf (withAcc a) a.sq).lanes 0).isSome = true) :=
  ⟨⟨rfl, rfl, ⟨performable_of (by decide), by decide⟩, performable_of (by decide)⟩, ⟨_, _, watch_changed⟩, ⟨_, _, watch_over.1, by decide, watch_over.2⟩, ⟨_, _, walk_found.1, rfl, walk_found.2⟩,
   ⟨_, ⟨0, 0, 0, 0, none⟩, _, rfl, rfl, walk_fails⟩, performable_of (by decide), by decide⟩

end Sys2Proof.Tests
end

