-- ==== Sys2Proof/Tests/WitnessEngine.lean ====
section
/-! SUPPORT. For each statement on engines, groups and matrix arrays that has hypotheses, concrete states and operands that meet them. -/
namespace Sys2Proof.Tests
open Sys2Proof Sys2Proof.Machine

/-! ### Engines -/

/-- A live table under handle 0x80000100, a finished fork 0, and the descriptor of a transducer command that names them in v8 to v15. -/
def atTable : Dev :=
  let d := { at1 with tables := [(0, { table := some [1] })] }
  setGroup (setSquad d 1 fun s => ((((s.setV 8 0 0x80000100).setV 10 0 66560).setV 13 0 66816).setV 15 0 16).setV 16 0 0x80000100) 2 fun g => { g with forks := [(0, {})] }
/-- The header's state with its address as the entry of a fork in w8 and w9. -/
def atFork : Dev := setGroup atHeader 2 fun g => { g with w := [(8, 65536)] }

theorem witness_EngineFormsComplete :
    met (.cpy h0 (vr 22) (wr 16) (.imm 3)) (cpyChk (wr 16)) atTable (fun e dv ln => ((copyOf (readBlock e ln (wr 16) 8)).fmma = true →
      (extraRows (wr 16)).filter e.s.missing = []) ∧ copyQueue dv e.core < 64) ∧
    met (.xform h0 (vr 2) (vr 8) (.imm 1)) (xformChk (vr 8)) atTable (fun e dv _ => transQueue dv (e.core / 7) < 64) ∧
    Clear (rawOf (.tlsig h0 .dev (vr 2) (.imm 15))) noChk atTable 1 [0] ∧
    metAll (.tlwait h0 .gp (.q 1 false) (.imm 2) (vr 20)) noChk atTable (fun e lns dv => ∀ ln ∈ lns, readN64 e ln (vr 20) ≤ ((groupOf dv e.s.group).tl (tlIdx (.imm 2))).done) ∧
    metAll (.wpwait h0 (.q 1 false) (.imm 2) (vr 20) (.imm 64)) noChk atTable (fun e lns dv => ∀ ln ∈ lns,
      ((groupOf dv e.s.group).tl (tlIdx (.imm 2))).has (readN64 e ln (vr 20)) = true) ∧
    metAll (.rdv h0 (.q 1 false) (vr 20)) noChk atTable (fun e lns dv => ∀ ln ∈ lns, ∃ f, fget (groupOf dv e.s.group).forks (readN64 e ln (vr 20)) = some f ∧ f.left = 0) ∧
    Clear (rawOf (.tlread h0 .fail (vr 2) (.imm 3))) noChk atTable 1 [0] ∧
    met (.fork h0 (vr 2) (.imm 1) (wr 8)) (forkChk (.imm 1) (wr 8)) atFork (fun e dv _ => ∀ p ∈ forkSet e.core (tlIdx (.imm 1)), fget (clusterOf dv (e.core / 7)).seqs p.1 = none) ∧
    Clear (rawOf (.shape h0 (vr 2) (vr 4))) (fun dv e ln => recordChk 96 1 (readN64 e ln (vr 4)) dv e ln) atTable 1 [0] ∧
    Clear (rawOf (.xtbl h0 (vr 2) (vr 4))) (xtblChk (vr 4)) atTable 1 [0] ∧
    met (.shdrop h0 (vr 16)) (fun dv e ln => if liveHandle dv (e.core / 7) (readN32 e ln (vr 16)) then .ok else .bad 5 0x16 (tvAddr (readN32 e ln (vr 16)))) atTable
      (fun e dv ln => liveHandle dv (e.core / 7) (readN32 e ln (vr 16)) = true) :=
  ⟨⟨clear_of (by decide), by decide⟩, ⟨clear_of (by decide), by decide⟩, clear_of (by decide), ⟨clear_of (by decide), by decide⟩, ⟨clear_of (by decide), by decide⟩,
   ⟨clear_of (by decide), by
     intro ln hl
     simp only [List.mem_singleton] at hl
     subst hl
     exact ⟨{}, rfl, rfl⟩⟩,
   clear_of (by decide), ⟨clear_of (by decide), by decide⟩, clear_of (by decide), clear_of (by decide), ⟨clear_of (by decide), by decide⟩⟩

/-- A command of the placed squad's group. -/
def aCmd (kind : CmdKind) : Cmd := { kind, sq := 1, lane := 0, grp := 2, core := 0, asid := 0, vmid := 0, priv := true, tl := some (3, 1) }
/-- The device with one command. -/
def withCmd (c : Cmd) : Dev := { at1 with cmds := [(9, c)] }

theorem witness_TimelinesAndForksAdvance : (fget at1.groups 2).isSome = true ∧ (aCmd (.tlsig .dev)).claim = none ∧ (fget at1.groups (aCmd (.tlsig .dev)).grp).isSome = true ∧
    (fget at1.groups (envOf at1 1 [0]).s.group).isSome = true ∧ ∀ p ∈ forkSet 0 9, fget (clusterOf at1 0).seqs p.1 = none := by decide

/-- The device with one command, and tables for its space in which a page of 2^30 bytes stands. -/
def inTables (c : Cmd) : Dev := { withCmd c with host := { at1.host with ast := [⟨0, 0, 0, 65536, 0, 0⟩] }, mem := [(65536, 1), (65538, 2), (131072, 31)] }
/-- The descriptor of a transducer command with no input, its record to go to address 66816. -/
def noInput : List Word := [0x80000100, 0, 66560, 0, 0, 66816, 0, 16]
/-- That command runs to its end and its record is written. -/
theorem record_written : let c := aCmd (.xform noInput [1])
    let r := xformRun [1] noInput c (cmdTid 9 c.sq c.lane) (xw noInput 4 + 1) (publish (inTables c) c.vc .dev, xformAt c [1] noInput)
    r.2.err = none ∧ (match (engWrite (setCmd r.1 9 fun c => { c with aux := [r.2.s, r.2.p, r.2.n] }) c .l2 (xOut noInput) (someBytes (xformRecord r.2))).2 with
      | .ok _ => true
      | .error _ => false) = true := by decide +kernel
/-- What an engine wrote, where it did write. -/
theorem ok_of {α ε : Type} {x : α × Except ε Unit} (h : (match x.2 with | .ok _ => true | .error _ => false) = true) : ∃ d, x = (d, .ok ()) := by
  obtain ⟨d, y⟩ := x
  cases y with
  | ok u => exact ⟨d, rfl⟩
  | error e => simp at h

theorem witness_EngineEventsComplete :
    (let c := aCmd (.cpy [] [])
     fget (withCmd c).cmds 9 = some c ∧ c.isHalted = false ∧ quiet (withCmd c) c.vc = true ∧ (groupOf (withCmd c) c.grp).killed = false ∧ cmdStopped (withCmd c) c = false ∧
      c.seqr = none ∧ (fget (withCmd c).groups c.grp).isSome = true) ∧
    (let c := aCmd (.xform [] [])
     let d := setGroup (withCmd c) 2 fun g => { g with killed := true }
     fget d.cmds 9 = some c ∧ c.isHalted = false ∧ quiet d c.vc = true ∧ (groupOf d c.grp).killed = true) ∧
    (let c := aCmd (.xform noInput [1])
     let r := xformRun [1] noInput c (cmdTid 9 c.sq c.lane) (xw noInput 4 + 1) (publish (inTables c) c.vc .dev, xformAt c [1] noInput)
     fget (inTables c).cmds 9 = some c ∧ c.isHalted = false ∧ quiet (inTables c) c.vc = true ∧ (groupOf (inTables c) c.grp).killed = false ∧ cmdStopped (inTables c) c = false ∧
      r.2.err = none ∧
      ∃ d, engWrite (setCmd r.1 9 fun c => { c with aux := [r.2.s, r.2.p, r.2.n] }) c .l2 (xOut noInput) (someBytes (xformRecord r.2)) = (d, .ok ())) ∧
    (let c := { aCmd (.cpy [] []) with state := .halted 0 0, kick := true }
     let d := setCluster (setGroup (withCmd c) 2 fun g => { g with state := .draining }) 0 fun c => { c with etime := 1048576 }
     fget d.cmds 9 = some c ∧ c.kick = true ∧ c.last + 4096 ≤ (clusterOf d (c.core / 7)).etime ∧ cmdStopped d c = false ∧ (groupOf d c.grp).state = .draining ∧
      0 + 1048576 ≤ (clusterOf d (c.core / 7)).etime) :=
  ⟨by decide, by decide, ⟨rfl, rfl, by decide, by decide, by decide, record_written.1, ok_of record_written.2⟩, by decide⟩

/-! ### Groups -/

/-- A second group of key 0 that awaits one more member, or has all of one. -/
def atKey (n : Nat) : Dev := { at1 with groups := fput at1.groups 3 { groupOf at1 2 with members := [5], cap := n, key := some 0, joined := 1 } }
/-- The placed group, alone in it, under key 0 for two. -/
def atOwnKey : Dev := setGroup at1 2 fun g => { g with key := some 0, cap := 2, joined := 1 }
/-- The placed group with a barrier whose phase the squad awaits no longer, and tickets of a work item. -/
def atTicket (passed : NSet) : Dev := { setGroup (setSquad at1 1 fun s => { s with arr := [(4, 0)] }) 2 fun g => { g with bars := [(4, { phase := 1 })], item := some 6, ticketed := true, passed } with
  items := [(6, default)] }

theorem witness_GroupFormsComplete :
    Clear (rawOf (.exit h0)) noChk at1 1 [0] ∧
    (∃ i g, metHere (.gjoin h0 (vr 1) (.imm 2) (vr 12)) none detBar (atKey 2) (fun e lns dv => e.g.members.any (· != e.sq) = false ∧
      findKey dv e.g (readN32 e (lns.headD 0) (vr 12)) = some (i, g) ∧ i ≠ e.s.group ∧ g.cap = readN32 e (lns.headD 0) (.imm 2) ∧ g.members.length < g.cap ∧ 1 ≤ g.cap ∧ g.cap ≤ 576 ∧
      g.base.isSome = true)) ∧
    metHere (.gjoin h0 (vr 1) (.imm 577) (vr 12)) none detBar (atKey 2) (fun e lns _ => 576 < readN32 e (lns.headD 0) (.imm 577)) ∧
    metHere (.gjoin h0 (vr 1) (.imm 2) (.imm 9)) none detBar (atKey 2) (fun e lns dv => let n := readN32 e (lns.headD 0) (.imm 2)
      e.g.members.any (· != e.sq) = false ∧ 1 ≤ n ∧ n ≤ 576 ∧ findKey dv e.g (readN32 e (lns.headD 0) (.imm 9)) = none ∧ (scAlloc dv e.g.cluster e.s.kern.scr).isSome = true) ∧
    (∃ g, metHere (.gjoin h0 (vr 1) (.imm 2) (vr 12)) none detBar atOwnKey (fun e lns dv => e.g.members.any (· != e.sq) = false ∧
      findKey dv e.g (readN32 e (lns.headD 0) (vr 12)) = some (e.s.group, g) ∧ g.cap = readN32 e (lns.headD 0) (.imm 2) ∧ 1 < g.cap ∧ g.cap ≤ 576 ∧
      g.members.length < g.cap ∧ (scAlloc dv e.g.cluster e.s.kern.scr).isSome = true)) ∧
    (Clear (rawOf (.gleave h0)) detBar at1 1 [0] ∧ Gathered none at1 1 [0]) ∧
    metHere (.garv h0 (.imm 3)) none noChk at1 (fun e _ dv => barBusy (immOf (.imm 3)) e dv = false ∧ quiet dv (squadClock dv e.sq) = true) ∧
    metHere (.gwait h0 (.imm 4)) none noChk (atTicket []) (fun e _ dv => barBusy (immOf (.imm 4)) e dv = false ∧ (fget (squadOf dv e.sq).arr (immOf (.imm 4))).isSome = true) ∧
    metHere (.gwait h0 (.imm 4)) none noChk at1 (fun e _ dv => fget (squadOf dv e.sq).arr (immOf (.imm 4)) = none) ∧
    metHere (.gbar h0 (.imm 15)) none noChk at1 (fun e _ dv => (squadOf dv e.sq).form = none ∧ barBusy (immOf (.imm 15)) e dv = false ∧
      quiet dv (squadClock dv e.sq) = true) ∧
    metHere (.tkwait h0 (.imm 1)) none noChk (atTicket []) (fun e _ dv => ticketOpen dv e.g (immOf (.imm 1)) = true) ∧
    metHere (.tkpass h0 (.imm 2)) none noChk (atTicket [2]) (fun e _ dv => (groupOf dv e.s.group).ticketed = true ∧ shas (groupOf dv e.s.group).passed (immOf (.imm 2)) = true) ∧
    metHere (.tkpass h0 (.imm 2)) none noChk (atTicket []) (fun e _ dv => let g := groupOf dv e.s.group
      g.ticketed = true ∧ shas g.passed (immOf (.imm 2)) = false ∧ g.item = some 6 ∧ ticketOpen dv g (immOf (.imm 2)) = true ∧ quiet dv (squadClock dv e.sq) = true) :=
  ⟨clear_of (by decide), ⟨_, _, clear_of (by decide), gathered_of (by decide), by decide, rfl, by decide⟩, ⟨clear_of (by decide), gathered_of (by decide), by decide⟩,
   ⟨clear_of (by decide), gathered_of (by decide), by decide⟩, ⟨_, clear_of (by decide), gathered_of (by decide), by decide, rfl, by decide⟩, ⟨clear_of (by decide), gathered_of (by decide)⟩, ⟨clear_of (by decide), gathered_of (by decide), by decide⟩,
   ⟨clear_of (by decide), gathered_of (by decide), by decide⟩, ⟨clear_of (by decide), gathered_of (by decide), by decide⟩,
   ⟨clear_of (by decide), gathered_of (by decide), by decide⟩, ⟨clear_of (by decide), gathered_of (by decide), by decide⟩,
   ⟨clear_of (by decide), gathered_of (by decide), by decide⟩, ⟨clear_of (by decide), gathered_of (by decide), by decide⟩⟩

theorem witness_BarriersComplete : (fget (atTicket []).groups (envOf (atTicket []) 1 [0]).s.group).isSome = true ∧ (fget (atTicket []).squads 1).isSome = true ∧
    (∀ m ∈ (groupOf (atTicket []) 2).expected 4, m = 1 ∨ shas ((groupOf (atTicket []) 2).bar 4).arr m = true) ∧
    ¬ ∀ m ∈ (groupOf (setGroup at1 2 fun g => { g with members := [1, 5] }) 2).expected 3, m = 1 ∨
      shas ((groupOf (setGroup at1 2 fun g => { g with members := [1, 5] }) 2).bar 3).arr m = true := by decide

/-! ### Matrix arrays -/

/-- A berth record of a side, with K = 1. -/
def aRecord (side : Byte) : List Byte := [1, 0, side, 0, 0, 0, 0, 0, 0, 0, 0, 0, 0x0E, 0, 0, 0, 1, 0]
/-- Two live berths that the placed group holds, its scratchpad large enough for three tiles, and handles and offsets in w4 to w8. -/
def atBerths : Dev :=
  setGroup (setCluster at1 0 fun c => { c with berths := [(0, { state := .live, record := aRecord 0, holders := [2] }), (1, { state := .live, record := aRecord 1, holders := [2] })] }) 2
    fun g => { g with scr := 786432, w := [(4, 0x40000100), (5, 0x40000101), (6, 262144), (12, 4096), (13, 8192), (14, 32), (15, 0x38E)] }

/-- With no race tag nothing is a race. -/
theorem raceChk_clean (d : Dev) (t sp pa n tv : Nat) (vc : Clock) (y z : Bool) (h : d.tags = []) : raceChk d t vc sp pa n tv y z = .ok := by
  have h2 : (byteKeys sp pa n).zipIdx.find? (fun g => raceAt d t vc y z g.1) = none := List.find?_eq_none.mpr fun g _ => by simp [raceAt, h, fget]
  simp only [raceChk, h2, ite_self]
/-- With no poison in scratchpad either, nothing there is met late. -/
theorem lateChk_clean (d : Dev) (sq ln pa n tv : Nat) (vc : Clock) (x y z : Bool) (h : d.tags = []) (hp : d.scPoison = []) :
    lateChk d sq ln vc 1 pa n tv x y z = .ok := by
  have h1 : readsPoison d 1 pa n = false := by simp [readsPoison, hp, shas]
  simp only [lateChk, poisonChk, raceChk_clean _ _ _ _ _ _ _ _ _ h, h1, Bool.false_eq_true, if_false, ite_self]
  rfl
theorem okFold {α : Type} (f : α → Chk) (h : ∀ t, f t = .ok) (l : List α) : l.foldl (fun c t => c.orElse fun _ => f t) Chk.ok = .ok := by
  induction l with
  | nil => rfl
  | cons a t ih => simpa [Chk.orElse, h] using ih
/-- A matrix command then meets only the checks of its own fields and berths. -/
theorem clear_matrix {i : Instr} {k : Env → Nat → CmdKind} {pre : Env → Nat → Chk} {d : Dev} (h : d.tags = []) (hp : d.scPoison = [])
    (hc : clearB i (fun dv e ln => (pre e ln).orElse fun _ => matrixChk dv e.s.group e.core e.s.det (k e ln)) d 1 [0] = true) :
    Clear (rawOf i) (matrixLaneChk k pre) d 1 [0] := by
  have he : ∀ e ln, matrixLaneChk k pre d e ln = (pre e ln).orElse fun _ => matrixChk d e.s.group e.core e.s.det (k e ln) := by
    intro e ln
    have ht : ∀ g ts, tileRace d e.sq ln (issueClock e ln) g ts = .ok := fun g ts => okFold _ (fun t => raceChk_clean _ _ _ _ _ _ _ _ _ h) ts
    have hr := okFold (fun r : Nat × Nat => lateChk d e.sq ln (issueClock e ln) 1 (scPlace e.g r.1) r.2 r.1 false false false)
      (fun t => lateChk_clean _ _ _ _ _ _ _ _ _ _ h hp) (k e ln).reads
    simp only [matrixLaneChk, ht, hr]
    cases pre e ln <;> simp only [Chk.orElse]
    cases matrixChk d e.s.group e.core e.s.det (k e ln) <;> rfl
  have c := clear_of hc
  exact ⟨c.cur, c.lanes, c.squad, c.guard, c.legal, c.free, c.room, fun ln hl => by
    rw [← c.pass ln hl]
    simp only [laneChk, he]⟩

theorem witness_MatrixFormsComplete :
    Clear (rawOf (.berth h0 (vr 2) (vr 4))) (fun dv e ln => recordChk 64 64 (readN64 e ln (vr 4)) dv e ln) atBerths 1 [0] ∧
    met (.unberth h0 (wr 4)) (fun dv e ln => if (heldBerth dv (e.core / 7) e.s.group (readN32 e ln (wr 4))).isSome then .ok else .bad 5 0x13 (tvAddr (readN32 e ln (wr 4)))) atBerths
      (fun e dv ln => (heldBerth dv (e.core / 7) e.s.group (readN32 e ln (wr 4))).isSome = true) ∧
    (let k := fun e ln => CmdKind.mma false 0 (readN32 e ln (wr 8)) (readN32 e ln (wr 4)) (readN32 e ln (wr 5))
     met (.mma h0 true 2 (wr 8) (wr 4) (wr 5)) (matrixLaneChk k noPreChk) atBerths (fun e dv ln => matrixFull dv e.core (k e ln) = false)) ∧
    (let k := fun e ln => CmdKind.mma true (readN32 e ln (wr 6)) (readN32 e ln (wr 8)) (readN32 e ln (wr 4)) (readN32 e ln (wr 5))
     met (.mmad h0 false 15 (wr 6) (wr 4) (wr 5) (wr 8)) (matrixLaneChk k noPreChk) atBerths (fun e dv ln => matrixFull dv e.core (k e ln) = false)) ∧
    (let k := fun e ln => CmdKind.mzero (readN32 e ln (wr 6)) 1
     met (.mzero h0 false 0 true (wr 6)) (matrixLaneChk k noPreChk) atBerths (fun e dv ln => matrixFull dv e.core (k e ln) = false)) ∧
    met (.lmm h0 true 1 (wr 8) (wr 12)) (matrixLaneChk (lmmKind (wr 8) (wr 12)) (lmmPre (wr 8) (wr 12))) atBerths
      (fun e dv ln => matrixFull dv e.core (lmmKind (wr 8) (wr 12) e ln) = false) ∧
    2 ≤ (berthStatus atBerths 0 []).1 :=
  ⟨clear_of (by decide), ⟨clear_of (by decide), by decide⟩, ⟨clear_matrix rfl rfl (by decide), by decide⟩, ⟨clear_matrix rfl rfl (by decide), by decide⟩,
   ⟨clear_matrix rfl rfl (by decide), by decide⟩, ⟨clear_matrix rfl rfl (by decide), by decide⟩, by decide⟩

/-- Where no word of scratchpad is poisoned, a tile's adds all stand. -/
theorem tileAdd_clean (d : Dev) (a n : Nat) (f : Nat → Nat) (h : d.scPoison = []) : ∃ d', tileAdd d a n f = (d', none) := by
  unfold tileAdd
  rw [List.find?_eq_none.mpr (by simp [h, shas])]
  exact ⟨_, rfl⟩
/-- A multiplication that an array is running. -/
def aMma : Cmd := { aCmd (.mma false 0 0 0x40000100 0x40000101) with state := .running 0 }
/-- The device with the berths and one command. -/
def berthCmd (c : Cmd) : Dev := { atBerths with cmds := [(9, c)] }

/-- An LMM whose pass has started, as a decision. -/
theorem started_of {d : Dev} (h : ((lmmHead d 0).any fun p => p.1 == 9 && p.2.inPass) = true) : ∃ c, lmmHead d 0 = some (9, c) ∧ c.inPass = true := by
  cases hx : lmmHead d 0 with
  | none => simp [hx] at h
  | some p =>
    obtain ⟨i, c⟩ := p
    simp only [hx, Option.any_some, Bool.and_eq_true, beq_iff_eq] at h
    exact ⟨c, by rw [h.1], h.2⟩

theorem witness_MatrixEventsComplete :
    (let d := setCluster at1 0 fun c => { c with berths := [(0, { state := .ending })] }
     (berthOf d 0 0).state = .ending ∧ berthBusy d 0 0 = false) ∧
    (let c := aCmd (.mzero 0 0)
     unitRunning (berthCmd c) (arrayQueue (berthCmd c) 0 0) = none ∧ (runnable (berthCmd c) (arrayQueue (berthCmd c) 0 0)).head? = some (9, c) ∧
      (groupOf (berthCmd c) c.grp).killed = false ∧ quiet (berthCmd c) c.vc = true) ∧
    (let c := { aMma with state := .queued }
     unitRunning (berthCmd c) (arrayQueue (berthCmd c) 0 0) = none ∧ (runnable (berthCmd c) (arrayQueue (berthCmd c) 0 0)).head? = some (9, c) ∧
      (groupOf (berthCmd c) c.grp).killed = false ∧ quiet (berthCmd c) c.vc = true) ∧
    (let d := berthCmd aMma
     let a := (berthOf d 0 0).record
     let b := (berthOf d 0 1).record
     unitRunning d (arrayQueue d 0 0) = some (9, aMma) ∧ (groupOf d aMma.grp).killed = false ∧ berthPoison d 0 a ([0].map (mapped b)) = false ∧
      berthPoison d 0 b ([0].map (mapped a)) = false ∧ min (brK a) (0 + kbLen a) = 1 ∧
      ∃ d', tileAdd d (scPlace (groupOf d aMma.grp) 0) 65536 (fun w => kbSum d 0 a b 0 1 (w / 256) (w % 256)) = (d', none)) ∧
    (let c := aCmd (.lmm 0 4096 8192 32 14 14)
     lmmHead (berthCmd c) 0 = some (9, c) ∧ c.inPass = false ∧ smpnReady (berthCmd c) 0 = false ∧ (lmmHead (berthCmd c) 0).isSome = true ∧
       ∃ c1, lmmHead (lmmStart (berthCmd c) 9 c) 0 = some (9, c1) ∧ c1.inPass = true) ∧
    (let c := { aCmd (.lmm 0 4096 8192 32 14 14) with state := .running 0, buf := [some 0] }
     lmmHead (berthCmd c) 0 = some (9, c) ∧ c.inPass = true) ∧
    (samplerOf (setSampler at1 0 fun x => { x with lmmWait := true }) 0).lmmWait = true :=
  ⟨by decide, by decide, by decide, ⟨by decide, by decide, by decide +kernel, by decide +kernel, by decide, tileAdd_clean _ _ _ _ rfl⟩,
   ⟨by decide, by decide, by decide, by decide, started_of (by decide +kernel)⟩, by decide, by decide⟩

end Sys2Proof.Tests
end

