-- ==== Sys2Proof/Tests/WitnessQueue.lean ====
section
/-! SUPPORT. For each statement on quays, queues, launching and samplers that has hypotheses, concrete states and operands that meet them. -/
namespace Sys2Proof.Tests
open Sys2Proof Sys2Proof.Machine

/-! ### Quays, queues and launching -/

/-- The placed squad's address space with a configured queue 255, and an entry in the quay of its core. -/
def atQueue : Dev := { at1 with host := { at1.host with ast := [⟨0, 0, 0, 65536, 0, 0⟩] }, queues := [(255, { d := { enable := 1, ok := true } })]
                                quays := [(1, { entries := [{ words := [(0, 7)] }] })] }
/-- The same with the squad at a DEQ. -/
def atDeq (f : FormStage) : Dev := setSquad atQueue 1 fun s => { s with form := some f }

theorem witness_QueueFormsComplete :
    metHere (.qysend h0 (vr 4) (.imm 0)) none (quayChk 5 (.imm 0) fun dv e => (quayOf dv (quayOut e.core (immOf (.imm 0)))).detSend) atQueue (fun e _ dv =>
      let q := quayOf dv (quayOut e.core (immOf (.imm 0)))
      q.entries.length < 64 ∧ q.spilled = 0 ∧ (quayUp (quayOut e.core (immOf (.imm 0))) = true → (clusterOf dv (e.core / 7)).gate = .powered) ∧ quiet dv (squadClock dv e.sq) = true) ∧
    metHere (.qyrecv h0 (vr 1) (.imm 0)) none (quayChk 4 (.imm 0) fun dv e => (quayOf dv (quayIn e.core (immOf (.imm 0)))).detRecv) atQueue (fun e _ dv =>
      (quayOf dv (quayIn e.core (immOf (.imm 0)))).spilled = 0 ∧ (quayOf dv (quayIn e.core (immOf (.imm 0)))).entries = [{ words := [(0, 7)] }]) ∧
    Clear (rawOf (.qyfree h0 (vr 1) (.imm 0))) (quayChk 4 (.imm 0) fun _ _ => []) atQueue 1 [0] ∧
    met (.enq h0 (.q 1 false) (.imm 255) (vr 4)) (enqChk (.imm 255) (vr 4)) atQueue (fun e dv ln => (openQueue dv e (readN32 e ln (.imm 255))).isSome = true) ∧
    metHere (.deq h0 5 (wr 16) (.imm 255)) none noChk atQueue (fun e lns dv => (squadOf dv e.sq).form = none ∧
      openQueue (endTask dv e.sq) e (readN32 e (lns.headD 0) (.imm 255)) = some 255 ∧ (queueOf (endTask dv e.sq) 255).d.mode = 0 ∧ (queueOf (endTask dv e.sq) 255).d.enable ≠ 3) ∧
    metHere (.deq h0 5 (wr 16) (.imm 255)) none noChk (atDeq (.deqDone 65548 true []))
      (fun e _ dv => e.pc = 65548 ∧ (squadOf dv e.sq).form = some (.deqDone 65548 true [])) ∧
    metHere (.deq h0 5 (wr 16) (.imm 255)) none noChk (atDeq (.deqBad 65548 17)) (fun e _ dv => e.pc = 65548 ∧ (squadOf dv e.sq).form = some (.deqBad 65548 17)) ∧
    metHere (.deq h0 5 (wr 16) (.imm 255)) none noChk (setCluster (atDeq (.deqWait 65548 255 0 1 0 16)) 0 fun c => { c with etime := 1 })
      (fun e _ dv => e.pc = 65548 ∧ (squadOf dv e.sq).form = some (.deqWait 65548 255 0 1 0 16) ∧ deqOver dv (e.core / 7) 255 0 1 = true) ∧
    offerReason atQueue 255 none true (List.replicate 64 0) = 0 ∧ offerReason atQueue 255 none false [] ≠ 0 :=
  ⟨⟨clear_of (by decide), gathered_of (by decide), by decide⟩, ⟨clear_of (by decide), gathered_of (by decide), by decide⟩, clear_of (by decide),
   ⟨clear_of (by decide), by decide⟩, ⟨clear_of (by decide), gathered_of (by decide), by decide⟩, ⟨clear_of (by decide), gathered_of (by decide), by decide⟩,
   ⟨clear_of (by decide), gathered_of (by decide), by decide⟩, ⟨clear_of (by decide), gathered_of (by decide), by decide⟩, by decide, by decide⟩

/-- An item of queue 255 of entry 0 with a GSQ. -/
def anItem (gsq : BitVec 16) : Item := { entry := 0, queue := 255, seq := 1, bytes := natLe 65536 8 ++ [0, 0, 0, 0] ++ natLe gsq.toNat 2, launch := true }
/-- The device with an item 6 and entries of its queue's shard in cluster 0. -/
def withItem (it : Item) (l : List Shard) (f : Queue → Queue) (d : Dev) : Dev := setQueue (setShard { d with items := fput d.items 6 it } 255 0 l) 255 f

theorem witness_LaunchEventsComplete :
    ((astAt atQueue 0).isSome = true ∧ 255 < 256 ∧ astAt atQueue 1 = none) ∧
    (let d := withItem (anItem 1) [{ item := 6 }] id (atDeq (.deqWait 65548 255 0 1 0 16))
     (queueOf d 255).d.enable = 1 ∧ (clusterOf d 0).fatal = false ∧ firstWaiter d 0 255 = some 1 ∧ firstItem d 255 0 = some { item := 6 } ∧
      (squadOf d 1).form = some (.deqWait 65548 255 0 1 0 16) ∧ (fget d.squads 1).isSome = true ∧ (fget d.items 6).isSome = true ∧
      wChk (squadOf d 1).group 1 d ((upto 16).map (16 + ·)) = .ok ∧ (fget d.groups (squadOf d 1).group).isSome = true ∧ admits {} 0 (clusterOf d 0) (itemOf d 6).energy (itemOf d 6).peak = true) ∧
    (let d := setGroup (withItem (anItem 1) [{ item := 6 }] id (atDeq (.deqWait 65548 255 0 1 0 16))) 2 fun g => g.setW 5 31 1
     firstWaiter d 0 255 = some 1 ∧ firstItem d 255 0 = some { item := 6 } ∧ (squadOf d 1).core % 7 ≠ 6 ∧
      wChk (squadOf d 1).group 1 d ((upto 16).map (16 + ·)) = .bad 5 0x0A 31) ∧
    (let d := setCluster (atDeq (.deqWait 65548 255 0 1 0 16)) 0 fun c => { c with etime := 1 }
     (squadOf d 1).form = some (.deqWait 65548 255 0 1 0 16) ∧ 0 + 1 ≤ (clusterOf d ((squadOf d 1).core / 7)).etime ∧ (squadOf d 1).core % 7 ≠ 6) ∧
    (let d := withItem (anItem 1) [{ item := 6 }] (fun q => { q with d := { q.d with mode := 1, nslot := 1 } }) atQueue
     (clusterOf d 0).fatal = false ∧ (clusterOf d 0).loading = none ∧
      (queuesAt d 0).filter (fun k => ((queueOf d k).d.mode != 0 || (frontOf d k 0).any (·.begun)) && (queueOf d k).d.ok && (queueOf d k).d.enable == 1) = [255] ∧ (queueOf d 255).d.mode = 1 ∧
      (coresFor false (anItem 1).gsq ((launchCores 0 1).map fun c => (c, freeSlots d c, (coreOf d c).xpool))).isSome = true ∧ scAlloc d 0 0 = some 0 ∧
      (anItem 1).gsq ≤ (freePool (queueOf d 255) (anItem 1).gsq).length ∧ rowsFree d [0] = true) ∧
    (let d := setCluster { (withItem (anItem 1) [] id atQueue) with tlb := [(9, ⟨168, 0, 0, 65536, 65536, 65536, true, true, true, false, false⟩)], mem := [(65558, 1)] } 0
       fun c => { c with loading := some 6 }
     (clusterOf d 0).loading = some 6 ∧ fget d.items 6 = some (anItem 1) ∧ (astAt d 0).isSome = true ∧
      (match (readNow d 168 0 0 (anItem 1).khandle 64 false).2 with | .ok bs => kernOk bs | .error _ => false) = true ∧ (kernRoom d 0).isSome = true) ∧
    (let d := setCluster at1 0 fun c => { c with etime := 2000 }
     (clusterOf d 0).eStart + 2000 ≤ (clusterOf d 0).etime) ∧
    (shardOf (withItem (anItem 1) [{ item := 6 }] id atQueue) 255 0).Nodup ∧
    (let it : Item := { anItem 1 with firstAt := [(0, 0)] }
     let d := setCluster (setGroup { (withItem it [{ item := 7, last := 2 }] (fun q => { q with d := { q.d with mode := 1, qflags := 2, quantum := 1 } }) atQueue) with
       items := [(6, it), (7, anItem 576)] } 2 fun g => { g with item := some 6 }) 0 fun c => { c with etime := 1000 }
     fget d.items 6 = some it ∧ fget it.firstAt 0 = some 0 ∧ (queueOf d it.qk).d.qflags.getLsbD 1 = true ∧ (queueOf d it.qk).d.quantum ≠ 0 ∧
      it.haltedAt 0 = false ∧ 0 + 1000 * (queueOf d it.qk).d.quantum ≤ (clusterOf d 0).etime ∧ (clusterOf d 0).loading = none ∧
      shas (itemClusters d 6) 0 = true ∧ blockedFor d 0 6 = true) ∧
    (let d := { at1 with items := [(6, { anItem 1 with stopping := [0] })] }
     (itemOf d 6).stopping.isEmpty = false ∧ acknowledged d 6 = true) := by
  refine ⟨by decide, by decide, by decide, by decide, by decide, by decide +kernel, by decide, by decide, by decide, by decide⟩

/-! ### Samplers -/

theorem witness_SamplerFormsComplete :
    metHere (.smp h0 (vr 4) (wr 2) (vr 8)) (some 16) (hdrChk (wr 2)) at1 (fun e _ dv => queued dv e.core < 256) ∧
    metHere (.smps h0 (vr 4) (wr 2) (vr 8) (vr 12)) (some 16) (hdrChk (wr 2)) at1 (fun e _ dv => queued dv e.core < 256) ∧
    metAll (.smpl h0 (vr 4) (wr 2) (vr 8) (vr 3)) (hdrChk (wr 2)) at1 (fun e lns dv => queued dv e.core + (quadsOf lns).length ≤ 256) ∧
    metAll (.smpg h0 (vr 4) (wr 2) (vr 8) (.imm 3)) (hdrChk (wr 2)) at1 (fun e lns dv => queued dv e.core + (quadsOf lns).length ≤ 256) ∧
    metAll (.smpn h0 (vr 8) (wr 2) (vr 4)) (hdrChk (wr 2)) at1 (fun e lns dv => queued dv e.core + (quadsOf lns).length ≤ 256) ∧
    Clear (rawOf (.wcpin h0 (.q 1 false) (vr 2))) (hdrChk (vr 2)) at1 1 [0] ∧ Clear (rawOf (.wcunp h0 (wr 2))) (hdrChk (wr 2)) at1 1 [0] ∧
    Clear (rawOf (.hdrinv h0 (vr 0))) (hdrinvChk (vr 0)) at1 1 [0] ∧
    Clear (rawOf (.raybox h0 (vr 2) (vr 8) (vr 4))) (fun dv e ln => rangeChk true .l1 96 32 (readN64 e ln (vr 4)) dv e ln) at1 1 [0] ∧
    Clear (rawOf (.raytri h0 true (vr 4) (vr 8) (vr 2))) (fun dv e ln => rangeChk true .l1 36 4 (readN64 e ln (vr 2)) dv e ln) at1 1 [0] ∧
    fget (samplerOf at1 0).hdrs (hdrKey (coreOf at1 0).vmid 0 66560) = none ∧ (fget at1.squads 1).isSome = true ∧
    (∀ ln ∈ [0], (fget (squadOf at1 1).lanes ln).isSome = true) ∧ [0].Nodup :=
  ⟨⟨clear_of (by decide), gathered_of (by decide), by decide⟩, ⟨clear_of (by decide), gathered_of (by decide), by decide⟩, ⟨clear_of (by decide), by decide⟩,
   ⟨clear_of (by decide), by decide⟩, ⟨clear_of (by decide), by decide⟩, clear_of (by decide), clear_of (by decide), clear_of (by decide), clear_of (by decide),
   clear_of (by decide), by decide⟩

/-- A neural header of one feature and one layer, its grid and weights at address 66560. -/
def aHeader : List Byte :=
  [1, 0, 1, 0x21, 1, 0, 1, 0, 1, 0, 0x0E, 0x0E, 0, 0, 0, 0] ++ natLe 66560 8 ++ natLe 66560 8 ++ [1, 1, 1] ++ List.replicate 29 0
/-- A request of the placed squad's lane. -/
def aReq : SReq := { kind := .smpn, sq := 1, core := 0, user := false, quad := 0, lanes := [(0, [0, 0])], dst := vr 8, desc := 8, hdr := 66560 }
/-- The device with one request. -/
def withReq (r : SReq) : Dev := { at1 with reqs := [(3, r)], tlb := fput at1.tlb 9 ⟨168, 0, 0, 65536, 65536, 65536, true, true, true, false, false⟩ }
/-- The device with a request that waits for weights. -/
def atWeights : Dev := setSampler (withReq { aReq with copy := some aHeader, entry := some 4 }) 0 fun x => { x with weights := [(4, { hdr := 66560, ver := 0, copy := aHeader, user := false })] }
/-- A step that a replay gates, whose turn the log gives. -/
def aGated : Dev :=
  { withAcc { anAcc (.atom .add true [(0, 1)]) with gated := true } with watches := [(2, { mode := .play, base := 66560, len := 4, log := 0, cap := 128, kh := 0, asid := 0, vmid := 0, pend := some (0, 1) })] }

theorem witness_SamplerEventsComplete :
    (reqsUnder (withReq aReq) 0 66560 (fun r => r.copy.isNone) = [(3, aReq)] ∧ (smpRead (withReq aReq) 0 false 66560 (keyVa 66560) 64).2.isOk = true) ∧
    (let r := { aReq with copy := some aHeader }
     let f : LFill := { hdr := 66560, line := 520, user := false }
     let d := setSampler (withReq r) 0 fun x => { x with fills := [f] }
     let d1 := setSampler d 0 fun x => { x with fills := x.fills.erase f }
     (samplerOf d 0).fills.find? (fun f => f.hdr == 66560 && f.line == 520) = some f ∧ f.stale = false ∧
       reqsUnder d1 0 66560 (fun r => r.need.contains 520 && !r.hasLine 520) = [(3, r)] ∧ (smpRead d1 0 false 66560 (128 * 520) 128).2.isOk = true) ∧
    ((fget (samplerOf atWeights 0).weights 4).isSome = true ∧ (fillWaiters atWeights 0 4).length = 1 ∧
      (smpRead atWeights 0 false 66560 (hdWbase aHeader) (weightLen aHeader)).2.isOk = true) ∧
    (let r := { aReq with copy := some aHeader, lines := [(520, List.replicate 128 1)], wts := some [] }
     hdOk .smpn aHeader = true ∧ fget (withReq r).reqs 3 = some r ∧ r.held = true ∧ r.done = true ∧ r.kind ≠ .pin ∧ fkeys r.lanes ≠ [] ∧ (squadOf (withReq r) r.sq).dbg = false ∧
       ∀ ln ∈ fkeys r.lanes, laneCause r aHeader ln = none) ∧
    (let r := { aReq with copy := some aHeader, bads := [(520, 0x04)], wts := some [] }
     r.held = true ∧ r.done = true ∧ r.kind ≠ .pin ∧ fkeys r.lanes ≠ [] ∧ (squadOf (withReq r) r.sq).dbg = false ∧ ∀ ln ∈ fkeys r.lanes, (laneCause r aHeader ln).isSome = true) ∧
    (let r := { aReq with copy := some aHeader, lines := [(520, List.replicate 128 1)], wts := some [], held := false, outs := [0] }
     fget (withReq r).reqs 3 = some r ∧ r.held = false ∧ lmmFirst (withReq r) r.core = false) ∧
    (cmdOf (withCmd (aCmd (.hdrinv 66560 []))) 9).kind = .hdrinv 66560 [] ∧
    (fget (withCmd (aCmd (.hdrinv 66560 [0]))).cmds 9 = some (aCmd (.hdrinv 66560 [0])) ∧ shas [0] 0 = true ∧ quiet (withCmd (aCmd (.hdrinv 66560 [0]))) [] = true) ∧
    (let a := { anAcc (.atom .add true [(0, 1)]) with gated := true }
     fget aGated.accs 50 = some a ∧ accReady aGated 50 a = true ∧ stepTurn aGated 50 a = true ∧
      ∃ k w, watchFor aGated (squadOf aGated a.sq) a.va = some (k, w) ∧ w.mode = .play ∧ gateAt w (squadOf aGated a.sq).sqidx.toNat = .go) :=
  ⟨by decide +kernel, by decide +kernel, by decide +kernel, by decide +kernel, by decide +kernel, by decide +kernel, by decide, by decide, by decide, by decide, by decide, _, _, rfl, rfl, rfl⟩

end Sys2Proof.Tests
end

