-- ==== Sys2Proof/Tests/WitnessSystem.lean ====
section
/-! SUPPORT. For each statement on contexts, residency, power, the host and enabled flags that has hypotheses, concrete states and operands that meet them. -/
namespace Sys2Proof.Tests
open Sys2Proof Sys2Proof.Machine

/-! ### Contexts -/

/-- Another squad of the placed group, its context at 131072. -/
def other (st : CState) (res : Residency) : Squad := { squadOf at1 1 with ctx := 131072, state := st, res, onChip := false }
/-- The placed squad with the address of its own context in v2, of another squad's in v8, of no squad's in v24, and of a record in v4; the record names
a kernel descriptor, and a byte of it is given. -/
def atCtx (st : CState) (res : Residency) (flags : Byte) : Dev :=
  let d := setSquad at1 1 fun s => ((s.setV 2 0 65536).setV 8 0 131072).setV 24 0 196608
  { d with squads := fput d.squads 7 (other st res), tlb := fput d.tlb 9 ⟨0, 0, 0, 131072, 131072, 131072, true, true, false, false, false⟩
           mem := [(66816, 0x80), (66817, 5), (66818, 1)] ++ (if flags = 0 then [] else [(66842, flags)]) ++ [(66966, 1)] }

/-- Nothing outstanding has used what an invalidation removes, and what the lane did before is performed. -/
abbrev invalidated (x : Inv) (e : Env) (dv : Dev) (ln : Nat) : Prop :=
  let d1 := regate { dv with tlb := dv.tlb.filter fun p => !x.hits (coreOf dv e.core).vmid p.2 } (x.used (coreOf dv e.core).vmid)
  (d1.accs.any fun p => x.used (coreOf dv e.core).vmid p.2) = false ∧ quiet d1 (issueClock e ln) = true

theorem witness_ContextFormsComplete :
    met (.ctxnew h0 (vr 1) (vr 24) (vr 4)) (ctxnewChk (vr 24) (vr 4)) (atCtx .created .out 8)
      (fun e dv ln => recordStatus (recordRead dv e ln (readN64 e ln (vr 4)) 64).2 ((e.s.lane ln).mode == .h) ≠ 0) ∧
    met (.ctxnew h0 (vr 1) (vr 24) (vr 4)) (ctxnewChk (vr 24) (vr 4)) (atCtx .created .out 0) (fun e dv ln => let p := recordRead dv e ln (readN64 e ln (vr 4)) 64
      let q := recordRead p.1 e ln (fieldAt p.2 0 8) 64
      recordStatus p.2 ((e.s.lane ln).mode == .h) = 0 ∧ ctxnewStatus q.1 (coreOf dv e.core).vmid p.2 q.2 (readN64 e ln (vr 24)) = 0) ∧
    (∀ i ∈ [Instr.ctxfree h0 (vr 1) (vr 24), .ctxpinOn h0 (vr 1) (vr 24), .ctxpinOff h0 (vr 1) (vr 24), .sqact h0 (vr 1) (vr 24), .sqpark h0 true (vr 1) (vr 24)],
      met i (ctxChk (vr 24)) (atCtx .created .out 0) (fun e dv ln => ctxTarget dv e (readN64 e ln (vr 24)) = none)) ∧
    met (.stepb h0 (vr 1) (vr 24) (.imm 4)) (stepbChk (vr 24)) (atCtx .created .out 0) (fun e dv ln => ctxTarget dv e (readN64 e ln (vr 24)) = none) ∧
    met (.ctxfree h0 (vr 1) (vr 8)) (ctxChk (vr 8)) (atCtx .ended .out 0) (fun e dv ln => ctxTarget dv e (readN64 e ln (vr 8)) = some 7 ∧ (squadOf dv 7).state = .ended ∧ (squadOf dv 7).ending = false) ∧
    met (.ctxpinOn h0 (vr 1) (vr 8)) (ctxChk (vr 8)) (atCtx .held .out 0)
      (fun e dv ln => ctxTarget dv e (readN64 e ln (vr 8)) = some 7 ∧ (squadOf dv 7).state ≠ .ended ∧ pinned dv (squadOf dv 7).home < 64) ∧
    met (.ctxpinOff h0 (vr 1) (vr 2)) (ctxChk (vr 2)) (atCtx .held .out 0) (fun e dv ln => ctxTarget dv e (readN64 e ln (vr 2)) = some 1 ∧ (squadOf dv 1).state ≠ .ended) ∧
    met (.sqact h0 (vr 1) (vr 8)) (ctxChk (vr 8)) (atCtx .created .out 0) (fun e dv ln => ctxTarget dv e (readN64 e ln (vr 8)) = some 7 ∧ (squadOf dv 7).state = .created) ∧
    met (.sqact h0 (vr 1) (vr 2)) (ctxChk (vr 2)) (atCtx .held .out 0) (fun e dv ln => ctxTarget dv e (readN64 e ln (vr 2)) = some 1 ∧ (squadOf dv 1).state = .ready) ∧
    met (.sqpark h0 true (vr 1) (vr 8)) (ctxChk (vr 8)) (atCtx .ready .out 0)
      (fun e dv ln => ctxTarget dv e (readN64 e ln (vr 8)) = some 7 ∧ (squadOf dv 7).state = .ready ∧ (squadOf dv 7).res = .out ∧ l1Out dv 7 = false) ∧
    met (.stepb h0 (vr 1) (vr 8) (.imm 4)) (stepbChk (vr 8)) (atCtx .held .out 0) (fun e dv ln => ctxTarget dv e (readN64 e ln (vr 8)) = some 7 ∧ (squadOf dv 7).state = .held) ∧
    metAll (.xacq h0) noChk (setSquad at1 1 fun s => { s with ext := false }) (fun e _ dv => e.s.ext = false ∧ 32 ≤ (coreOf dv e.core).xpool ∧ extFirst dv e.sq = true) ∧
    ((fget at1.squads 1).isSome = true ∧ (squadOf at1 1).onChip = true ∧ (squadOf (atCtx .held .out 0) 7).onChip = false ∧
      (fget (atCtx .held .out 0).squads 7).isSome = true ∧ (ctxPage (atCtx .held .out 0) (squadOf (atCtx .held .out 0) 7)).2.isSome = true) ∧
    metAll (.xrel h0) xrelChk at1 (fun e _ _ => e.s.ext = true) ∧
    Clear (rawOf (.regn h0)) regnChk at1 1 [0] ∧
    met (.tlbinvVa h0 (vr 2) (.imm 5)) (idChk 16 (.imm 5)) at1 (fun e dv ln => invalidated (.page (readN64 e ln (vr 2)) (idOf 16 (.imm 5) e ln)) e dv ln) ∧
    met (.tlbinvAsid h0 (vr 5)) (idChk 16 (vr 5)) at1 (fun e dv ln => invalidated (.space (idOf 16 (vr 5) e ln)) e dv ln) ∧
    met (.tlbinvVm h0 (vr 5)) (idChk 12 (vr 5)) at1 (fun e dv ln => invalidated (.vm (idOf 12 (vr 5) e ln)) e dv ln) ∧
    met (.tlbinvAll h0) noChk at1 (fun e dv ln => invalidated .all e dv ln) ∧
    (∀ i ∈ [Instr.ordctlRec h0 (vr 28) (vr 4), .ordctlPlay h0 (vr 28) (vr 4), .ordctlOff h0 (vr 28) (vr 4), .ordctlChk h0 (vr 28) (vr 4)],
      Clear (rawOf i) (ordChk (vr 4)) at1 1 [0]) ∧
    (∃ d' st, ordChkAct [] at1 (envOf at1 1 [0]) = (d', .ok st)) := by
  refine ⟨⟨clear_of (by decide +kernel), by decide +kernel⟩, ⟨clear_of (by decide +kernel), by decide +kernel⟩, ?_, ⟨clear_of (by decide), by decide⟩,
    ⟨clear_of (by decide), by decide⟩, ⟨clear_of (by decide), by decide⟩, ⟨clear_of (by decide), by decide⟩, ⟨clear_of (by decide), by decide⟩,
    ⟨clear_of (by decide), by decide⟩, ⟨clear_of (by decide), by decide⟩, ⟨clear_of (by decide), by decide⟩, ⟨clear_of (by decide), by decide⟩,
    by decide, ⟨clear_of (by decide), by decide⟩, clear_of (by decide), ⟨clear_of (by decide), by decide⟩, ⟨clear_of (by decide), by decide⟩, ⟨clear_of (by decide), by decide⟩,
    ⟨clear_of (by decide), by decide⟩, ?_, _, _, rfl⟩
  · intro i hi
    simp only [List.mem_cons, List.not_mem_nil, or_false] at hi
    rcases hi with rfl | rfl | rfl | rfl | rfl <;> exact ⟨clear_of (by decide), by decide⟩
  · intro i hi
    simp only [List.mem_cons, List.not_mem_nil, or_false] at hi
    rcases hi with rfl | rfl | rfl | rfl <;> exact clear_of (by decide)

/-! ### Residency -/

/-- The placed squad with its state changed. -/
def squadWith (f : Squad → Squad) : Dev := setSquad at1 1 f

theorem witness_ResidencyEventsComplete :
    (let d := squadWith fun s => { s with fills := [(5, 0)], rwr := 32 }
     let q := squadOf d 1
     fget q.fills 5 = some 0 ∧ q.onChip = true ∧ q.missing 5 = true ∧ (xlatNow d q.core q.vmid q.asid (rowAddr q 5) .rw false).2 = .ok 100864 ∧ rowsHeld d q.core < 4096) ∧
    (∀ b : Bool, let r : Row := { words := [(0, 1)], dirty := b }
     let d := squadWith fun s => { s with rows := [(63, r)] }
     fget (squadOf d 1).rows 63 = some r ∧ (squadOf d 1).onChip = true ∧ rowPending d 1 63 = false ∧ (ctxPage d (squadOf d 1)).2 = some 65536) ∧
    (let d := { (squadWith fun s => { s with res := .out }) with mem := [(65536, 1), (65624, 1), (65640, 2)] }
     (clusterOf d 0).fatal = false ∧ freeSlots d 0 ≠ 0 ∧ nextSquad d 0 = some 1 ∧ (clusterOf d 0).gateOpen 0 = true ∧ (loadContext d 1 0).2 = .ok) ∧
    (let d := setCluster (squadWith fun s => { s with res := .out }) 0 fun c => { c with etime := 1048576 }
     (squadOf d 1).state = .ready ∧ (squadOf d 1).res = .out ∧ (squadOf d 1).since + 1048576 ≤ (clusterOf d ((squadOf d 1).home / 7)).etime) ∧
    ((squadOf at1 1).state = .ready ∧ (squadOf at1 1).res = .in_) ∧
    (let d := squadWith fun s => (s.setLane 0 fun l => { l with wait := .park (.bar 2 0 0) })
     d.squads.filter (fun p => p.2.core == 0 && p.2.state == .ready && p.2.res == .in_ && p.2.stop == .none && !p.2.pin && parkedNow d p.1 && (ctxPage d p.2).2.isSome) =
      [(1, squadOf d 1)]) ∧
    (let d := squadWith fun s => { s with res := .writing }
     (squadOf d 1).state ≠ .ended ∧ loadsDone d 1 = true ∧ (squadOf d 1).stop = .none ∧ (squadOf d 1).res = .writing ∧ (squadOf d 1).state ≠ .held ∧ (saveContext (loseWatches d 1) 1 .ready).2 = true) ∧
    (let d := setCore at1 0 fun k => { k with clock := true, able := true }
     (coreOf d 0).clock = true ∧ canIssue d 0 = true) ∧
    (let d := setGroup at1 2 fun g => { g with base := none, scr := 256 }
     (fget d.groups 2).isSome = true ∧ (groupOf d 2).base = none ∧ (groupOf d 2).state = .live ∧ ((groupOf d 2).members.any fun u => (squadOf d u).state != .created) = true ∧ scAlloc d (groupOf d 2).cluster (groupOf d 2).scr = some 0) ∧
    (let d := setGroup at1 2 fun g => { g with state := .draining }
     (groupOf d 2).state = .draining ∧ groupBusy d 2 = false) ∧
    (let d := squadWith fun s => { s with ext := false, wantExt := true }
     d.squads.find? (fun p => extWaits 0 p.2 && extFirst d p.1) = some (1, squadOf d 1) ∧ 32 ≤ (coreOf d 0).xpool) :=
  ⟨by decide, by decide, by decide +kernel, by decide, by decide, by decide, by decide +kernel, by decide, by decide, by decide, by decide⟩

/-! ### Power -/

theorem witness_PowerEventsComplete :
    (let p : Power := { rails := [(50, { ilim := 10 })] }
     50 < 51 ∧ (railOf p 50).ilim < min 1023 (2000 / railLsb 50) ∧ (railOf p 50).step < 8 ∧ 47 < 48 ∧ (List.replicate 144 (some (25 : Int))).length = 144) ∧
    (let p : Power := { rails := [(0, { ilim := 10, step := 8 })], clu := [(23, { cool := 10, thermal := 12 })], vcl := List.replicate 9 ⟨0, 0, 0⟩, vup := List.replicate 9 ⟨5, 1, 9⟩ }
     (railOf p 0).ilim < min 1023 (2000 / railLsb 0) ∧ 8 ≤ (railOf p 0).step ∧ 10 ≤ (pcluOf p 23).cool ∧ (pcluOf p 23).thermal ≠ 0 ∧ p.vcl.length = 9 ∧ p.vup.length = 9 ∧
      (List.replicate 18 (0 : BitVec 16)).length = 18 ∧ p.vup[8]? = some ⟨5, 1, 9⟩ ∧ (1 : BitVec 16) ≤ 9) ∧
    (let d := setCluster at1 0 fun c => { c with idleAt := some 0, etime := 1000 }
     (clusterOf d 0).gate = .powered ∧ upperIdle d 0 = true ∧ d.squads.any (fun p => p.2.core == upperCore 0 && p.2.res != .out) = false ∧ 0 + 1000 ≤ (clusterOf d 0).etime) ∧
    (let d := setCluster at1 0 fun c => { c with gate := .deactivating }
     (clusterOf d 0).gate = .deactivating ∧ d.squads.any (fun p => p.2.core == upperCore 0 && p.2.res != .out) = false ∧ spillOk d 0 = true ∧
      spillOk { d with quays := [(0, { entries := [{}] })] } 0 = false) ∧
    (let d := setCluster at1 0 fun c => { c with gate := .spilling }
     (clusterOf d 0).gate = .spilling ∧ toSpill d 0 = []) ∧
    (let d := setCluster at1 0 fun c => { c with gate := .waking }
     (clusterOf d 0).gate = .waking ∧ (refillAll d (upDirs 0)).isSome = true) := by decide +kernel

/-! ### The host -/

/-- A peer's request on port 7 for two bytes. -/
def aPeer (op : PeerOp) : PeerReq := { port := 7, vmid := 0, asid := 0, priv := true, va := 66560, op }
/-- The device with that link up, and a translation for its requests. -/
def atPeer : Dev := { at1 with host := { at1.host with peerUp := 128 }, tlb := [(9, ⟨168, 0, 0, 65536, 65536, 65536, true, true, false, false, false⟩)] }

theorem witness_HostEventsComplete :
    5 < 6 ∧ 50 < 51 ∧ at1.host.busy = false ∧ 23 ≤ 23 ∧ 23 < 24 ∧
    (let d := { at1 with host := { at1.host with astN := 4096 }, items := [(6, anItem 1)] }
     d.host.busy = false ∧ 0 < d.host.astN.toNat ∧ 0 < 4096 ∧ 255 < 256 ∧ itemNamed d 0 255 1 = some 6 ∧ itemNamed d 4095 255 1 = none) ∧
    ({ at1 with host := { at1.host with busy := true } } : Dev).host.busy = true ∧ (fget at1.clusters 0).isSome = false ∧
    (fget (setCluster at1 0 id).clusters 0).isSome = true ∧
    (lineOf 66560 ∈ linesOf 66560 1 ∧ lineOf 66432 ∉ linesOf 66560 1 ∧ 66560 + 1 ≤ 549755813888 ∧ (∀ ln ∈ linesOf 66560 1, l2Room at1 ln 4 = true)) ∧
    (268435455 + 1 ≤ 268435456 ∧ 16383 < 16384 ∧ 255 < 256 ∧ (List.replicate 64 (0 : Byte)).length = 64 ∧ 4092 < 4096 ∧ (blockWord (on at1) 0x704).isSome = true) ∧
    ((aPeer (.read 2)).port < 8 ∧ atPeer.host.peerUp.getLsbD 7 = true ∧ (upto 2).map (peerPlace atPeer (aPeer (.read 2)) .r) = [66560, 66561].map some ∧
      [66560, 66561].all (fun a => !poisoned atPeer a) = true) ∧
    ((upto 2).map (peerPlace atPeer (aPeer (.write [1, 2])) .w) = [66560, 66561].map some ∧ [66560, 66561].Nodup) ∧ 7 < 8 := by decide

/-! ### Enabled flags -/

/-- The placed squad with every flag enabled, a signalling NaN in v2 and in the pair of v4. -/
def atNaN : Dev := setSquad at1 1 fun s => { ((s.setV 2 0 0x7F800001).setV 4 0 1).setV 5 0 0x7FF00000 with fpcr := 31 }
theorem witness_EnabledFlagsTrap :
    (∀ i ∈ [Instr.fadd h0 .f32 .rne false (vr 1) (vr 2) (vr 3), .fsub h0 .f32 .rne false (vr 1) (vr 2) (vr 3), .fmul h0 .f32 .rne false (vr 1) (vr 2) (vr 3),
        .ffma h0 .f32 .rne false false (vr 1) (vr 2) (vr 3) (vr 4), .dfma h0 .rne false false (vr 6) (vr 4) (vr 8) (vr 10), .fdiv h0 .f32 .rne false (vr 1) (vr 2) (vr 3),
        .fsqrt h0 .f32 .rne false (vr 1) (vr 2), .frcp h0 .f32 .rne false (vr 1) (vr 2), .fcmp h0 2 .f32 (.q 1 false) (vr 2) (vr 3),
        .cvt h0 .f32 .s32 true (vr 1) (vr 2) (.imm 1)], Clear (rawOf i) noChk atNaN 1 [0]) ∧
    (let e := envOf atNaN 1 [0]
     let t := fun (fl : Fl) => flTraps (squadOf atNaN 1).fpcr fl = true
     t (sumRound .f32 .rne false (drawOf e 0 0) [some (opFV e 0 .f32 (vr 2)), some (opFV e 0 .f32 (vr 3))]).2 ∧
     t (sumRound .f32 .rne false (drawOf e 0 0) [some (opFV e 0 .f32 (vr 2)), some (negFV (opFV e 0 .f32 (vr 3)))]).2 ∧
     t (sumRound .f32 .rne false (drawOf e 0 0) [mulFV (opFV e 0 .f32 (vr 2)) (opFV e 0 .f32 (vr 3))]).2 ∧
     t (sumRound .f32 .rne false (drawOf e 0 0) [mulFV (opFV e 0 .f32 (vr 2)) (opFV e 0 .f32 (vr 3)), some (opFV e 0 .f32 (vr 4))]).2 ∧
     t (sumRound .f64 .rne false (drawOf e 0 0) [mulFV (opFV e 0 .f64 (vr 4)) (opFV e 0 .f64 (vr 8)), some (opFV e 0 .f64 (vr 10))]).2 ∧
     t (fdivVal .f32 .rne false (opFV e 0 .f32 (vr 2)) (opFV e 0 .f32 (vr 3))).2 ∧ t (fsqrtVal .f32 .rne false (opFV e 0 .f32 (vr 2))).2 ∧
     t (frcpVal .f32 .rne false (opFV e 0 .f32 (vr 2))).2 ∧ t (fcmpFlags 2 (opFV e 0 .f32 (vr 2)) (opFV e 0 .f32 (vr 3))) ∧
     t (convertTy .f32 .s32 (cvtMode (.imm 1)) true (drawOf e 0 0) (readOp e 0 (vr 2) .f32)).2) := by
  refine ⟨?_, by decide +kernel⟩
  intro i hi
  simp only [List.mem_cons, List.not_mem_nil, or_false] at hi
  rcases hi with rfl | rfl | rfl | rfl | rfl | rfl | rfl | rfl | rfl | rfl <;> exact clear_of (by decide)

/-! ### Rounding and shape -/

/-- A value of a format with a fraction: no mode moves it. -/
theorem roundsTo_self {f : FF} {mode : Rnd} {neg b : Bool} {x : ℚ} (k : Nat) (q : Int) (h : Encloses f b x k q) (hm : mode = .rne) (hx : x = (k : ℚ) * 2 ^ q) :
    RoundsTo f mode neg 0 x b false x := by
  refine ⟨k, q, h, by simpa using hx, ?_⟩
  have h0 : x / 2 ^ q - k = 0 := by rw [hx]; field_simp; ring
  rw [h0, hm]
  simp [takesLarger]

theorem witness_RoundsAsSaid :
    (decIeee f16 0x3C00).rat = some (1 * ((1 : ℚ) / 1)) ∧ RoundsTo f16 .rne false 0 3 true false 3 ∧ RoundsTo f16 .rne false 0 3 false false 3 ∧
    (3 : ℚ) ≤ (f16.maxK : ℚ) * 2 ^ f16.maxE ∧ RoundsTo f16 .rne false 0 131072 true false 131072 ∧ (f16.maxK : ℚ) * 2 ^ f16.maxE < 131072 ∧
    (b8 false true 1).signed = false ∧ RoundsTo (b8 false true 1) .rne true 0 1 true false 1 ∧ (f16.signed = true ∧ f16.hasInf = true ∧ e2m1.hasInf = false) ∧
    ((2 : ℚ) ^ (0 : Int) ≤ (1 : Nat) * 2 ^ (0 : Int) ∧ ((1 : Nat) : ℚ) * 2 ^ (0 : Int) < 2 ^ ((0 : Int) + 1)) ∧ (((5 : Nat) : ℚ) ≤ (11 : Nat) * 2 ^ (-1 : Int) ∧ ((11 : Nat) : ℚ) * 2 ^ (-1 : Int) < (5 : Nat) + 1) ∧
    [FV.fin true 3 0, .fin false 3 0].map FV.rat = [-3, 3].map some := by
  refine ⟨?_, roundsTo_self 1536 (-9) ⟨?_, ?_, ?_, ?_, ?_⟩ rfl ?_, roundsTo_self 1536 (-9) ⟨?_, ?_, ?_, ?_, ?_⟩ rfl ?_, ?_,
    roundsTo_self 1024 7 ⟨?_, ?_, ?_, ?_, ?_⟩ rfl ?_, ?_, rfl, roundsTo_self 1 0 ⟨?_, ?_, ?_, ?_, ?_⟩ rfl ?_, by decide, ?_, ?_, ?_⟩ <;>
    norm_num [f16, ieee, b8, decIeee, fieldVal, FV.rat]
  decide

theorem witness_ShapeStays : let s := State.reset.withFetchWord 96 0xE00080640000000100C00080
    s.dev.legal ∧ ∃ t, step s = .next t := by
  refine ⟨⟨?_, l2Legal_of rfl⟩, _, rfl⟩
  intro p hp
  rw [List.mem_singleton.mp hp]
  exact ⟨by decide, by decide, by decide, by decide⟩

end Sys2Proof.Tests
end

section
/-! Source operands (R29, R32, R48): modifiers on integers and on floating point, and literals at every type. -/
namespace Sys2Proof

theorem Ty.wid_pos (t : Ty) : 0 < t.wid := by cases t <;> decide
theorem Ty.wid_le (t : Ty) : t.wid ≤ 64 := by cases t <;> decide
theorem Ty.isFloat_of_isInt {t : Ty} (h : t.isInt = true) : t.isFloat = false := by cases t <;> simp_all [Ty.isInt, Ty.isFloat]

namespace Machine

/-- The low bits of a register are its value at that width. -/
theorem lowBits_eq_setWidth (x : DWord) {n : Nat} (hn : n ≤ 64) : lowBits x n = (x.setWidth n).setWidth 64 := by
  refine BitVec.eq_of_getLsbD_eq fun i hi => ?_
  rw [lowBits_get x n i hn, BitVec.getLsbD_setWidth, BitVec.getLsbD_setWidth]
  simp [hi]

/-- The mask of the bits from n up. -/
theorem getLsbD_not_mask {n i : Nat} (hi : i < 64) : (~~~(BitVec.ofNat 64 (2 ^ n - 1))).getLsbD i = decide (n ≤ i) := by
  simp only [BitVec.getLsbD_not, BitVec.getLsbD_ofNat, Nat.testBit_two_pow_sub_one, hi, decide_true, Bool.true_and]
  simp [← decide_not]

/-- Sign extension from a width is the library's. -/
theorem sext_eq_signExtend (x : DWord) {n : Nat} (h0 : 0 < n) (hn : n ≤ 64) : sext x n = (x.setWidth n).signExtend 64 := by
  have hm : (x.setWidth n).msb = x.getLsbD (n - 1) := by rw [BitVec.msb_setWidth]; simp [h0]
  refine BitVec.eq_of_getLsbD_eq fun i hi => ?_
  rw [BitVec.getLsbD_signExtend, hm, BitVec.getLsbD_setWidth]
  unfold sext
  split
  · next h => rw [BitVec.getLsbD_or, getLsbD_not_mask hi]; by_cases hin : i < n <;> simp [h, hi, hin]; omega
  · next h => rw [lowBits_get x n i hn]; by_cases hin : i < n <;> simp [h, hi, hin]

/-- A number at 64 bits, cut to a width, is the number at that width. -/
theorem setWidth_ofInt_of_le (z : Int) {n : Nat} (hn : n ≤ 64) : (BitVec.ofInt 64 z).setWidth n = BitVec.ofInt n z := by
  obtain ⟨k, rfl | rfl⟩ := z.eq_nat_or_neg
  · rw [BitVec.ofInt_natCast, BitVec.ofInt_natCast, BitVec.setWidth_ofNat_of_le hn]
  · rw [BitVec.ofInt_neg, BitVec.ofInt_neg, BitVec.setWidth_neg_of_le hn, BitVec.ofInt_natCast, BitVec.ofInt_natCast, BitVec.setWidth_ofNat_of_le hn]

/-- The integer value of a register's bits (R63): two's complement at a signed type, else the number they are. -/
theorem intVal_setWidth (t : Ty) (b : BitVec t.wid) : intVal t (b.setWidth 64) = if t.signed then b.toInt else (b.toNat : Int) := by
  unfold intVal toSigned
  rw [sext_eq_signExtend _ t.wid_pos t.wid_le, BitVec.toInt_signExtend_of_le t.wid_le, lowBits_eq_setWidth _ t.wid_le,
    BitVec.setWidth_setWidth_of_le _ t.wid_le, BitVec.setWidth_eq, BitVec.toNat_setWidth_of_le t.wid_le]

/-- ABS of an integer is the absolute value, at the type's width (R29). -/
theorem absTy_setWidth {t : Ty} (hf : t.isFloat = false) (b : BitVec t.wid) :
    absTy t (b.setWidth 64) = (if t.signed && b.msb then -b else b).setWidth 64 := by
  have hm : (b.setWidth 64).getLsbD (t.wid - 1) = b.msb := by
    rw [BitVec.msb_eq_getLsbD_last, BitVec.getLsbD_setWidth]
    simp [show t.wid - 1 < 64 by have := t.wid_le; have := t.wid_pos; omega]
  unfold absTy
  rw [hf, hm]
  cases t.signed && b.msb <;> simp [lowBits_eq_setWidth _ t.wid_le, BitVec.setWidth_neg_of_le t.wid_le, BitVec.setWidth_setWidth_of_le _ t.wid_le]

/-- NEG of an integer is its two's complement, at the type's width (R29). -/
theorem negTy_setWidth {t : Ty} (hf : t.isFloat = false) (b : BitVec t.wid) : negTy t (b.setWidth 64) = (-b).setWidth 64 := by
  simp [negTy, hf, lowBits_eq_setWidth _ t.wid_le, BitVec.setWidth_neg_of_le t.wid_le, BitVec.setWidth_setWidth_of_le _ t.wid_le]

/-- The absolute value of a signed number, at its width. -/
theorem ofInt_abs_toInt {n : Nat} (b : BitVec n) : BitVec.ofInt n |b.toInt| = if b.msb then -b else b := by
  rw [BitVec.msb_eq_toInt]
  by_cases h : b.toInt < 0
  · simp [h, abs_of_neg h, BitVec.ofInt_neg]
  · simp [h, abs_of_nonneg (not_lt.1 h)]

/-- Integer modifiers: HI, then ABS, then NEG, exact and taken modulo the width (R29). -/
theorem applyMods_int {t : Ty} (hf : t.isFloat = false) (neg abs hi : Bool) (x : DWord) :
    let y := intVal t (lowBits (if hi then x >>> 16 else x) t.wid)
    let z : Int := if abs && t.signed then (y.natAbs : Int) else y
    applyMods t neg abs hi x = lowBits (BitVec.ofInt 64 (if neg then -z else z)) t.wid := by
  intro y z
  obtain ⟨b, hb⟩ : ∃ b : BitVec t.wid, lowBits (if hi then x >>> 16 else x) t.wid = b.setWidth 64 := ⟨_, lowBits_eq_setWidth _ t.wid_le⟩
  have hz : BitVec.ofInt t.wid z = if abs && (t.signed && b.msb) then -b else b := by
    simp only [z, y, hb, intVal_setWidth]
    cases t.signed <;> cases abs <;> simp [ofInt_abs_toInt]
  have hl : applyMods t neg abs hi x = (if neg then -BitVec.ofInt t.wid z else BitVec.ofInt t.wid z).setWidth 64 := by
    rw [hz]
    simp only [applyMods, hb, absTy_setWidth hf]
    cases abs <;> cases neg <;> simp [negTy_setWidth hf]
  rw [hl, lowBits_eq_setWidth _ t.wid_le, setWidth_ofInt_of_le _ t.wid_le]
  cases neg <;> simp [BitVec.ofInt_neg]

/-- The bit of a power of two. -/
theorem getLsbD_ofNat_two_pow {n k : Nat} (hn : n < 64) : (BitVec.ofNat 64 (2 ^ n)).getLsbD k = decide (k = n) := by
  rw [BitVec.getLsbD_ofNat, Nat.testBit_two_pow]
  by_cases h : k = n
  · simp [h, hn]
  · simp [h, Ne.symm h]

/-- Floating-point modifiers: HI, then ABS, then NEG, on the sign bit alone (R29). -/
theorem applyMods_float {t : Ty} (ht : t.isFloat = true) (neg abs hi : Bool) (x : DWord) {k : Nat} (hk : k < t.wid) :
    let y := if hi then x >>> 16 else x
    (applyMods t neg abs hi x).getLsbD k = if k + 1 = t.wid then (y.getLsbD k && !abs) ^^ neg else y.getLsbD k := by
  intro y
  have h64 : k < 64 := lt_of_lt_of_le hk t.wid_le
  have hp : (BitVec.ofNat 64 (2 ^ (t.wid - 1))).getLsbD k = decide (k + 1 = t.wid) := by
    rw [getLsbD_ofNat_two_pow (by have := t.wid_le; have := t.wid_pos; omega)]
    exact decide_eq_decide.2 (by omega)
  have hx : (lowBits y t.wid).getLsbD k = y.getLsbD k := by simp [lowBits_get _ _ _ t.wid_le, hk]
  have ha : (absTy t (lowBits y t.wid)).getLsbD k = (y.getLsbD k && !decide (k + 1 = t.wid)) := by
    simp only [absTy, ht, if_true, BitVec.getLsbD_and, BitVec.getLsbD_not, hp, hx, h64, decide_true, Bool.true_and]
  have hn : ∀ z : DWord, (negTy t z).getLsbD k = (z.getLsbD k ^^ decide (k + 1 = t.wid)) := fun z => by
    simp only [negTy, ht, if_true, BitVec.getLsbD_xor, hp]
  show (if neg then negTy t (if abs then absTy t (lowBits y t.wid) else lowBits y t.wid) else if abs then absTy t (lowBits y t.wid) else lowBits y t.wid).getLsbD k = _
  by_cases hl : k + 1 = t.wid <;> cases abs <;> cases neg <;> simp [hn, ha, hx, hl]

/-- An f32 literal whose exponent field is full keeps its sign and fraction (R32). -/
theorem f32to64_full {x : Word} (h : x.extractLsb' 23 8 = 0xFF#8) : f32to64 x = x.extractLsb' 31 1 ++ (0x7FF#11 ++ (x.extractLsb' 0 23 ++ 0#29)) := by
  simp [f32to64, h]

/-! ### An f32 literal at FP64 -/

/-- The code of an IEEE format whose sign, exponent and fraction fields are given (R64). -/
def ieeeCode (f : FF) (neg : Bool) (e k : Nat) : Nat := (b2n neg * 2 ^ (f.wid - 1 - f.m) + e) * 2 ^ f.m + k

/-- A code decodes to the value of its fields where its exponent field is not full (R64). -/
theorem decIeee_ieeeCode {f : FF} {neg : Bool} {e k : Nat} (hm : f.m < f.wid) (he : e < 2 ^ (f.wid - 1 - f.m) - 1) (hk : k < 2 ^ f.m) :
    decIeee f (ieeeCode f neg e k) = fieldVal f neg e k := by
  have hw : e < 2 ^ (f.wid - 1 - f.m) := by omega
  have hexp : ieeeCode f neg e k / 2 ^ f.m % 2 ^ (f.wid - 1 - f.m) = e := by
    rw [ieeeCode, Nat.add_div_of_dvd_right (Dvd.intro_left _ rfl), Nat.mul_div_cancel _ (by positivity), Nat.div_eq_of_lt hk, Nat.add_zero,
      Nat.mul_add_mod_of_lt hw]
  have hfrac : ieeeCode f neg e k % 2 ^ f.m = k := by rw [ieeeCode, Nat.mul_add_mod_of_lt hk]
  have hsign : (ieeeCode f neg e k).testBit (f.wid - 1) = neg := by
    have hr : e * 2 ^ f.m + k < 2 ^ (f.wid - 1) := by
      calc e * 2 ^ f.m + k < (e + 1) * 2 ^ f.m := by rw [Nat.add_mul]; omega
        _ ≤ 2 ^ (f.wid - 1 - f.m) * 2 ^ f.m := Nat.mul_le_mul_right _ hw
        _ = 2 ^ (f.wid - 1) := by rw [← pow_add]; congr 1; omega
    have hc : ieeeCode f neg e k = 2 ^ (f.wid - 1) * b2n neg + (e * 2 ^ f.m + k) := by
      rw [ieeeCode, show f.wid - 1 = (f.wid - 1 - f.m) + f.m by omega, pow_add, Nat.add_sub_cancel]; ring
    rw [hc, Nat.testBit_two_pow_mul_add _ hr]
    cases neg <;> simp [b2n]
  unfold decIeee
  simp only [hexp, hfrac, hsign]
  rw [if_neg (by omega)]

/-- A number of a larger unit is so many times as many of a smaller one. -/
theorem mul_zpow_eq_scaled (m n : Nat) {i j : Int} (h : i = n + j) : (m : ℚ) * 2 ^ i = ((m * 2 ^ n : Nat) : ℚ) * 2 ^ j := by
  rw [h, zpow_add₀ (by norm_num)]
  push_cast
  rw [zpow_natCast, mul_assoc]

/-- Two bit strings in a row, as a number. -/
theorem toNat_append_eq_add {a b : Nat} (x : BitVec a) (y : BitVec b) : (x ++ y).toNat = x.toNat * 2 ^ b + y.toNat := by
  rw [BitVec.toNat_append, ← Nat.shiftLeft_add_eq_or_of_lt y.isLt, Nat.shiftLeft_eq]

/-- Sign, exponent and fraction in a row are a code of FP64. -/
theorem ieeeCode_f64 {s : BitVec 1} {neg : Bool} (hs : s.toNat = b2n neg) (e : BitVec 11) (k : BitVec 52) :
    (s ++ (e ++ k)).toNat = ieeeCode f64 neg e.toNat k.toNat := by
  rw [toNat_append_eq_add, toNat_append_eq_add, hs, ieeeCode, show f64.m = 52 from rfl, show f64.wid = 64 from rfl]
  ring

/-- A word is the FP32 code of its three fields. -/
theorem ieeeCode_f32 {x : Word} {neg : Bool} (hs : (x.extractLsb' 31 1).toNat = b2n neg) :
    x.toNat = ieeeCode f32 neg (x.extractLsb' 23 8).toNat (x.extractLsb' 0 23).toNat := by
  rw [ieeeCode, ← hs, show f32.m = 23 from rfl, show f32.wid = 32 from rfl]
  have := x.isLt
  simp only [BitVec.extractLsb'_toNat, Nat.shiftRight_eq_div_pow]
  omega

/-- Two decodings are the same number: one sign, and magnitudes of one value. -/
def SameNumber (a b : FV) : Prop :=
  ∃ (s : Bool) (m k : Nat) (i j : Int), a = .fin s m i ∧ b = .fin s k j ∧ (m : ℚ) * 2 ^ i = k * 2 ^ j

theorem fieldVal_normal {f : FF} {neg : Bool} {e k : Nat} (he : e ≠ 0) : fieldVal f neg e k = .fin neg (2 ^ f.m + k) (e - f.bias - f.m) := if_neg he
theorem fieldVal_subnormal (f : FF) (neg : Bool) (k : Nat) : fieldVal f neg 0 k = .fin neg k (f.emin - f.m) := rfl

/-- A normal FP32 number keeps its value where its exponent is rebiased and its fraction moved up (R32, R64). -/
theorem sameNumber_normal (neg : Bool) {e : Nat} (k : Nat) (he : e ≠ 0) : SameNumber (fieldVal f32 neg e k) (fieldVal f64 neg (e + 896) (k * 2 ^ 29)) := by
  refine ⟨neg, 2 ^ 23 + k, 2 ^ 52 + k * 2 ^ 29, _, _, fieldVal_normal he, fieldVal_normal (by omega), ?_⟩
  rw [show 2 ^ 52 + k * 2 ^ 29 = (2 ^ 23 + k) * 2 ^ 29 by ring]
  refine mul_zpow_eq_scaled _ _ ?_
  simp only [f32, f64, ieee]
  push_cast
  ring

/-- A subnormal FP32 number is a normal one of FP64, its highest bit implied (R32, R64). -/
theorem sameNumber_subnormal (neg : Bool) {k : Nat} (hk : k ≠ 0) (h23 : k < 2 ^ 23) :
    SameNumber (fieldVal f32 neg 0 k) (fieldVal f64 neg (k.log2 + 874) (k * 2 ^ (52 - k.log2) % 2 ^ 52)) := by
  have hl : k.log2 < 23 := (Nat.log2_lt hk).2 h23
  have hlo : 2 ^ 52 ≤ k * 2 ^ (52 - k.log2) := by
    calc 2 ^ 52 = 2 ^ k.log2 * 2 ^ (52 - k.log2) := by rw [← pow_add]; congr 1; omega
      _ ≤ _ := Nat.mul_le_mul_right _ (Nat.log2_self_le hk)
  have hup : k * 2 ^ (52 - k.log2) < 2 ^ 53 := by
    calc _ < 2 ^ (k.log2 + 1) * 2 ^ (52 - k.log2) := Nat.mul_lt_mul_of_pos_right Nat.lt_log2_self (by positivity)
      _ = 2 ^ 53 := by rw [← pow_add]; congr 1; omega
  refine ⟨neg, k, 2 ^ 52 + k * 2 ^ (52 - k.log2) % 2 ^ 52, _, _, fieldVal_subnormal .., fieldVal_normal (by omega), ?_⟩
  rw [show 2 ^ 52 + k * 2 ^ (52 - k.log2) % 2 ^ 52 = k * 2 ^ (52 - k.log2) by omega]
  refine mul_zpow_eq_scaled _ _ ?_
  simp only [f32, f64, ieee]
  push_cast [Nat.cast_sub (show k.log2 ≤ 52 by omega)]
  norm_num
  ring

/-- A normal f32 literal: its exponent rebiased, its fraction moved up (R32). -/
theorem f32to64_normal {x : Word} (h : (x.extractLsb' 23 8).toNat ≠ 255) (h0 : (x.extractLsb' 23 8).toNat ≠ 0) :
    f32to64 x = x.extractLsb' 31 1 ++ (BitVec.ofNat 11 ((x.extractLsb' 23 8).toNat + 896) ++ (x.extractLsb' 0 23 ++ 0#29)) := by
  unfold f32to64
  simp only
  rw [if_neg h, if_pos h0]

/-- A zero f32 literal keeps its sign (R32). -/
theorem f32to64_zero {x : Word} (h0 : (x.extractLsb' 23 8).toNat = 0) (hf : x.extractLsb' 0 23 = 0) :
    f32to64 x = x.extractLsb' 31 1 ++ (0#11 ++ 0#52) := by
  unfold f32to64
  simp only [h0, hf]
  rfl

/-- A subnormal f32 literal: its highest bit gives the exponent and is implied (R32). -/
theorem f32to64_subnormal {x : Word} (h0 : (x.extractLsb' 23 8).toNat = 0) (hf : x.extractLsb' 0 23 ≠ 0) :
    f32to64 x = x.extractLsb' 31 1 ++ (BitVec.ofNat 11 ((x.extractLsb' 0 23).toNat.log2 + 874) ++
      BitVec.ofNat 52 ((x.extractLsb' 0 23).toNat * 2 ^ (52 - (x.extractLsb' 0 23).toNat.log2))) := by
  unfold f32to64
  simp only [h0]
  rw [if_neg (by decide), if_neg (by decide), if_neg hf]

/-- Fields in a row decode at FP64 to their value where the exponent field is not full. -/
theorem decTy_f64_fields {s : BitVec 1} {neg : Bool} (hs : s.toNat = b2n neg) {e : Nat} (hn : e < 2047) (k : BitVec 52) :
    decTy .f64 (s ++ (BitVec.ofNat 11 e ++ k)).toNat = fieldVal f64 neg e k.toNat := by
  rw [ieeeCode_f64 hs, BitVec.toNat_ofNat, Nat.mod_eq_of_lt (by omega)]
  exact decIeee_ieeeCode (by decide) hn k.isLt

/-- A word decodes at FP32 to the value of its fields where the exponent field is not full. -/
theorem decTy_f32_fields {x : Word} {neg : Bool} (hs : (x.extractLsb' 31 1).toNat = b2n neg) (he : (x.extractLsb' 23 8).toNat ≠ 255) :
    decTy .f32 x.toNat = fieldVal f32 neg (x.extractLsb' 23 8).toNat (x.extractLsb' 0 23).toNat := by
  have he8 := (x.extractLsb' 23 8).isLt
  rw [ieeeCode_f32 hs]
  exact decIeee_ieeeCode (by decide) (show _ < 2 ^ 8 - 1 by omega) (x.extractLsb' 0 23).isLt

/-- A finite f32 literal is widened to the same number (R32). -/
theorem sameNumber_f32to64 {x : Word} (h : x.extractLsb' 23 8 ≠ 0xFF#8) : SameNumber (decTy .f32 x.toNat) (decTy .f64 (f32to64 x).toNat) := by
  obtain ⟨neg, hs⟩ : ∃ neg, (x.extractLsb' 31 1).toNat = b2n neg := by
    rcases Nat.lt_succ_iff_lt_or_eq.1 (x.extractLsb' 31 1).isLt with h | h
    · exact ⟨false, by simpa [b2n] using h⟩
    · exact ⟨true, h⟩
  have he : (x.extractLsb' 23 8).toNat ≠ 255 := fun hc => h (BitVec.eq_of_toNat_eq hc)
  have he8 := (x.extractLsb' 23 8).isLt
  have hk := (x.extractLsb' 0 23).isLt
  rw [decTy_f32_fields hs he]
  by_cases h0 : (x.extractLsb' 23 8).toNat = 0
  · rw [h0]
    by_cases hf : x.extractLsb' 0 23 = 0
    · rw [f32to64_zero h0 hf, decTy_f64_fields hs (by decide), hf]
      exact ⟨neg, 0, 0, _, _, fieldVal_subnormal .., fieldVal_subnormal .., by simp⟩
    · have hk0 : (x.extractLsb' 0 23).toNat ≠ 0 := fun hc => hf (BitVec.eq_of_toNat_eq hc)
      have hlog : (x.extractLsb' 0 23).toNat.log2 < 23 := (Nat.log2_lt hk0).2 hk
      rw [f32to64_subnormal h0 hf, decTy_f64_fields hs (by omega), BitVec.toNat_ofNat]
      exact sameNumber_subnormal neg hk0 hk
  · have hw := decTy_f64_fields hs (e := (x.extractLsb' 23 8).toNat + 896) (by omega) (x.extractLsb' 0 23 ++ 0#29)
    have hf : (x.extractLsb' 0 23 ++ 0#29).toNat = (x.extractLsb' 0 23).toNat * 2 ^ 29 := by
      rw [toNat_append_eq_add, BitVec.toNat_zero, Nat.add_zero]
    rw [f32to64_normal he h0, hw, hf]
    exact sameNumber_normal neg _ h0

/-- A literal at a type of at most 32 bits is its low bits (R32). -/
theorem litVal_narrow {t : Ty} (x : Word) (h : t.wid ≤ 32) : litVal t x = (x.setWidth t.wid).setWidth 64 := by
  have hl : lowBits (x.setWidth 64) t.wid = (x.setWidth t.wid).setWidth 64 := by
    rw [lowBits_eq_setWidth _ t.wid_le, BitVec.setWidth_setWidth_of_le _ t.wid_le]
  cases t with
  | s64 | n64 | f64 => exact absurd h (by decide)
  | _ => exact hl

/-- Literals by their bits: extended at a 64-bit integer type, else the type's low bits (R32). -/
theorem litVal_bits (x : Word) : litVal .s64 x = x.signExtend 64 ∧ litVal .n64 x = x.setWidth 64 ∧
    (∀ t ∈ [Ty.none, .s32, .n32, .f32], litVal t x = x.setWidth 64) ∧
    (∀ t ∈ [Ty.s16, .n16, .f16, .bf16], litVal t x = (x.setWidth 16 : BitVec 16).setWidth 64) ∧
    ∀ t ∈ [Ty.s8, .n8], litVal t x = (x.setWidth 8 : BitVec 8).setWidth 64 := by
  have h32 : litVal .n32 x = x.setWidth 64 := by rw [litVal_narrow x (by decide)]; simp [Ty.wid]
  have h16 : litVal .n16 x = (x.setWidth 16 : BitVec 16).setWidth 64 := litVal_narrow x (by decide)
  have h8 : litVal .n8 x = (x.setWidth 8 : BitVec 8).setWidth 64 := litVal_narrow x (by decide)
  refine ⟨rfl, rfl, ?_, ?_, ?_⟩ <;> simp only [List.forall_mem_cons, List.not_mem_nil, false_imp_iff, implies_true, and_true]
  exacts [⟨h32, h32, h32, h32⟩, ⟨h16, h16, h16, h16⟩, ⟨h8, h8⟩]

/-- Settles O25: modifiers by arithmetic modulo the width and bit by bit, literals by their fields. -/
theorem operandValues : Obligations.OperandValues := by
  unfold Obligations.OperandValues
  exact ⟨fun _ neg abs hi x ht => applyMods_int (Ty.isFloat_of_isInt ht) neg abs hi x, fun _ neg abs hi x _ ht _ hk => applyMods_float ht neg abs hi x hk,
    litVal_bits, fun _ h => f32to64_full h, fun _ h => sameNumber_f32to64 h, fun _ _ _ _ _ _ => rfl⟩

end Machine
end Sys2Proof
end

section
/-! Bytes through the levels of memory (R160, R286, R290): what each level gives after a write of a byte, and after lines move between levels. -/
namespace Sys2Proof.Machine

/-! ### Lines -/

theorem lineOf_line_add {ln i : Nat} (hi : i < 128) : lineOf (ln * 128 + i) = ln := by unfold lineOf; omega

/-- Two addresses are one where their lines and their places in the line are. -/
theorem eq_iff_line {x a : Nat} : x = a ↔ lineOf x = lineOf a ∧ x % 128 = a % 128 := by unfold lineOf; omega

/-- A line's byte, bit by bit, after a byte of it is replaced. -/
theorem getLsbD_lineSet (x : BitVec 1024) (i : Nat) (b : Byte) {k : Nat} (hk : k < 1024) :
    (lineSet x i b).getLsbD k = if 8 * i ≤ k ∧ k < 8 * i + 8 then b.getLsbD (k - 8 * i) else x.getLsbD k := by
  have hm : ((0xFF#1024) <<< (8 * i)).getLsbD k = (decide (8 * i ≤ k) && decide (k < 8 * i + 8)) := by
    rw [BitVec.getLsbD_shiftLeft, show (0xFF#1024) = BitVec.ofNat 1024 (2 ^ 8 - 1) from rfl, BitVec.getLsbD_ofNat, Nat.testBit_two_pow_sub_one]
    by_cases h1 : 8 * i ≤ k <;> by_cases h2 : k < 8 * i + 8 <;> simp [hk, h1, h2] <;> omega
  unfold lineSet
  rw [BitVec.getLsbD_or, BitVec.getLsbD_and, BitVec.getLsbD_not, hm, BitVec.getLsbD_shiftLeft, BitVec.getLsbD_setWidth]
  by_cases h1 : 8 * i ≤ k
  · by_cases h2 : k < 8 * i + 8
    · simp [hk, h1, h2, show ¬ k < 8 * i by omega, show k - 8 * i < 1024 by omega]
    · simp [hk, h1, h2, show ¬ k < 8 * i by omega, BitVec.getLsbD_of_ge b (k - 8 * i) (by omega)]
  · simp [hk, h1, show k < 8 * i by omega]

/-- A line gives the byte put in it, and every other as before. -/
theorem extract_lineSet (x : BitVec 1024) (b : Byte) {i j : Nat} (hj : j < 128) :
    (lineSet x i b).extractLsb' (8 * j) 8 = if j = i then b else x.extractLsb' (8 * j) 8 := by
  refine BitVec.eq_of_getLsbD_eq fun r hr => ?_
  rw [BitVec.getLsbD_extractLsb', getLsbD_lineSet _ _ _ (by omega)]
  by_cases h : j = i
  · simp [h, hr]
  · simp [h, hr, show ¬ (8 * i ≤ 8 * j + r ∧ 8 * j + r < 8 * i + 8) by omega]

theorem getLsbD_bitAt {i j : Nat} (hj : j < 128) : (bitAt i).getLsbD j = decide (j = i) := by
  unfold bitAt
  rw [BitVec.getLsbD_shiftLeft, BitVec.getLsbD_one]
  by_cases h : j < i
  · simp [h, show j ≠ i by omega]
  · simp [hj, h, show (j - i = 0) = (j = i) from propext (by omega)]

/-- A list of bytes put in a line one after another. -/
theorem extract_foldl_lineSet (g : Nat → Byte) (n : Nat) (x : BitVec 1024) {j : Nat} (hj : j < 128) :
    ((upto n).foldl (fun x i => lineSet x i (g i)) x).extractLsb' (8 * j) 8 = if j < n then g j else x.extractLsb' (8 * j) 8 := by
  unfold upto
  induction n with
  | zero => simp
  | succ n ih =>
    rw [List.range_succ, List.foldl_append, List.foldl_cons, List.foldl_nil, extract_lineSet _ _ hj, ih]
    by_cases h : j = n
    · simp [h]
    · simp [h, show j < n + 1 ↔ j < n by omega]

/-! ### The coherence point and L2 -/

/-- Bytes of a line written to the coherence point: those that a mask names, at addresses where memory stands. -/
theorem memRead_foldl_memWrite (c : Nat → Bool) (g : Nat → Byte) (ln n : Nat) (hn : n ≤ 128) (m : List Host.Cell) {x : Nat} (hx : noMemory x = false) :
    memRead ((upto n).foldl (fun m i => if c i then memWrite m (ln * 128 + i) (g i) else m) m) x =
      if lineOf x = ln ∧ x % 128 < n ∧ c (x % 128) = true then g (x % 128) else memRead m x := by
  unfold upto
  induction n with
  | zero => simp
  | succ n ih =>
    rw [List.range_succ, List.foldl_append, List.foldl_cons, List.foldl_nil]
    have ih := ih (by omega)
    by_cases hc : c n
    · rw [if_pos hc]
      by_cases he : x = ln * 128 + n
      · have h1 : lineOf x = ln := he ▸ lineOf_line_add (by omega)
        have h2 : x % 128 = n := by omega
        rw [← he, memRead_memWrite _ _ _ _ hx]
        simp [h1, h2, hc]
      · rw [memRead_memWrite_ne _ _ _ _ he, ih]
        have h2 : lineOf x = ln → (x % 128 < n + 1 ↔ x % 128 < n) := by unfold lineOf; omega
        by_cases h1 : lineOf x = ln <;> simp [h1, h2]
    · rw [if_neg hc, ih]
      by_cases h2 : x % 128 = n
      · simp [h2, hc]
      · simp [show x % 128 < n + 1 ↔ x % 128 < n by omega]

/-- A line that leaves L2 takes its bytes to the coherence point: every byte reads as before (R286). -/
theorem l2Byte_l2CleanLine (d : Dev) (ln : Nat) {x : Nat} (hx : noMemory x = false) : l2Byte (l2CleanLine d ln) x = l2Byte d x := by
  unfold l2CleanLine
  split
  · next l hl =>
    unfold l2Byte
    simp only [fget_fdel, memRead_foldl_memWrite _ _ ln 128 le_rfl d.mem hx]
    by_cases h : lineOf x = ln
    · simp [h, hl, Nat.mod_lt]
    · simp [h]
  · rfl

/-- Making room in L2 changes what no byte reads as. -/
theorem l2Byte_l2Make (d : Dev) (ln n : Nat) {x : Nat} (hx : noMemory x = false) : l2Byte (l2Make d ln n) x = l2Byte d x :=
  l2Make_keeps (fun d => l2Byte d x) (fun d ln => l2Byte_l2CleanLine d ln hx) d ln n

/-- A byte written at L2 is read there, and every other as before. -/
theorem l2Byte_l2Put (d : Dev) (a : Nat) (b : Byte) {x : Nat} (hx : noMemory x = false) : l2Byte (l2Put d a b) x = if x = a then b else l2Byte d x := by
  have hm : x % 128 < 128 := Nat.mod_lt _ (by decide)
  unfold l2Put
  simp only
  rw [← l2Byte_l2Make d (lineOf a) (sectorsOf (lineSet (l2LineData d (lineOf a)) (a % 128) b)) hx]
  generalize l2Make d (lineOf a) _ = d'
  unfold l2Byte
  simp only
  by_cases hl : lineOf x = lineOf a
  · rw [hl, fget_fput_self]
    have he : x = a ↔ x % 128 = a % 128 := by rw [eq_iff_line, hl]; simp
    simp only [BitVec.getLsbD_or, getLsbD_bitAt hm, Line.byte, extract_lineSet _ _ hm, fgetD]
    by_cases h : x % 128 = a % 128
    · simp [h, he]
    · cases fget d'.l2 (lineOf a) <;> simp [h, he]
  · rw [fget_fput_ne _ _ hl, if_neg fun h : x = a => hl (congrArg lineOf h)]

theorem l2Byte_l2Write (d : Dev) (a : Nat) (b : Byte) {x : Nat} (hx : noMemory x = false) : l2Byte (l2Write d a b) x = if x = a then b else l2Byte d x :=
  l2Byte_l2Put d a b hx

/-- A byte written at the coherence point is read there, and every other as before. -/
theorem memRead_sysWrite (d : Dev) (a : Nat) (b : Byte) {x : Nat} (hx : noMemory x = false) :
    memRead (sysWrite d a b).mem x = if x = a then b else memRead d.mem x := by
  show memRead (memWrite d.mem a b) x = _
  by_cases h : x = a
  · rw [h] at hx ⊢; exact memRead_memWrite _ _ _ _ hx
  · rw [memRead_memWrite_ne _ _ _ _ h, if_neg h]

/-- What L2 holds of a byte ahead of the coherence point. -/
def aheadAt (m : FMap Line) (x : Nat) : Option Byte := ((fget m (lineOf x)).filter fun l => l.dirty.getLsbD (x % 128)).map fun l => l.byte (x % 128)

theorem l2Byte_eq_aheadAt (d : Dev) (x : Nat) : l2Byte d x = (aheadAt d.l2 x).getD (memRead d.mem x) := by
  unfold l2Byte aheadAt
  cases fget d.l2 (lineOf x) with
  | none => rfl
  | some l => cases h : l.dirty.getLsbD (x % 128) <;> simp [Option.filter, h]

/-- A byte written at the coherence point is no longer held ahead of it; what is held of every other byte stays. -/
theorem aheadAt_sysWrite (d : Dev) (a : Nat) (b : Byte) (x : Nat) : aheadAt (sysWrite d a b).l2 x = if x = a then none else aheadAt d.l2 x := by
  have hm : x % 128 < 128 := Nat.mod_lt _ (by decide)
  unfold aheadAt
  by_cases hl : lineOf x = lineOf a
  · have he : x = a ↔ x % 128 = a % 128 := by rw [eq_iff_line, hl]; simp
    rw [hl]
    cases hg : fget d.l2 (lineOf a) with
    | none => simp [sysWrite, sysPut, hg]
    | some l =>
      have hmask : (l.dirty &&& ~~~(bitAt (a % 128))).getLsbD (x % 128) = (l.dirty.getLsbD (x % 128) && !decide (x % 128 = a % 128)) := by
        simp only [BitVec.getLsbD_and, BitVec.getLsbD_not, getLsbD_bitAt hm, hm, decide_true, Bool.true_and]
      by_cases h0 : l.dirty &&& ~~~(bitAt (a % 128)) = 0#128
      · have hd : l.dirty.getLsbD (x % 128) = true → x % 128 = a % 128 := by
          intro hd
          rw [h0, hd] at hmask
          simpa using hmask
        have hf : fget (sysWrite d a b).l2 (lineOf a) = none := by simp [sysWrite, sysPut, hg, h0, fget_fdel]
        by_cases h : x % 128 = a % 128
        · simp [hf, he, h]
        · simp [hf, he, h, Option.filter, Bool.eq_false_iff.2 fun hd' => h (hd hd')]
      · have hf : fget (sysWrite d a b).l2 (lineOf a) = some { l with dirty := l.dirty &&& ~~~(bitAt (a % 128)) } := by
          simp [sysWrite, sysPut, hg, h0]
        simp only [hf, Option.filter, hmask]
        by_cases h : x % 128 = a % 128
        · simp [he, h]
        · by_cases hd : l.dirty.getLsbD (x % 128) = true <;> simp [he, h, hd, Line.byte]
  · have hf : fget (sysWrite d a b).l2 (lineOf x) = fget d.l2 (lineOf x) := by
      show fget (sysPut d a b).l2 (lineOf x) = _
      unfold sysPut
      simp only
      split
      · split
        · rw [fget_fdel, if_neg hl]
        · rw [fget_fput_ne _ _ hl]
      · rfl
    rw [hf, if_neg fun h : x = a => hl (congrArg lineOf h)]

/-- A byte written at the coherence point is read through L2, and every other as before. -/
theorem l2Byte_sysWrite (d : Dev) (a : Nat) (b : Byte) {x : Nat} (hx : noMemory x = false) : l2Byte (sysWrite d a b) x = if x = a then b else l2Byte d x := by
  rw [l2Byte_eq_aheadAt, l2Byte_eq_aheadAt, aheadAt_sysWrite, memRead_sysWrite d a b hx]
  by_cases h : x = a <;> simp [h]

/-! ### L1 -/

/-- A byte of a line as L2 gives it. -/
theorem extract_l2LineData (d : Dev) (ln : Nat) {j : Nat} (hj : j < 128) : (l2LineData d ln).extractLsb' (8 * j) 8 = l2Byte d (ln * 128 + j) := by
  unfold l2LineData
  rw [extract_foldl_lineSet _ _ _ hj, if_pos hj]

theorem l1Key_inj {set ln ln' : Nat} : l1Key set ln = l1Key set ln' ↔ ln = ln' := by unfold l1Key; omega

/-- A line filled from L2 reads as L2 did (R290). -/
theorem l1Byte_l1Fill (d : Dev) (set ln x : Nat) : l1Byte (l1Fill d set ln) set x = l1Byte d set x := by
  unfold l1Fill
  split
  · rfl
  · next hn =>
    unfold l1Byte
    by_cases h : lineOf x = ln
    · have hx : ln * 128 + x % 128 = x := by subst h; unfold lineOf; omega
      rw [h, fget_fput_self, hn]
      show (l2LineData d ln).extractLsb' (8 * (x % 128)) 8 = l2Byte d x
      rw [extract_l2LineData d ln (Nat.mod_lt _ (by decide)), hx]
    · rw [fget_fput_ne _ _ fun hk => h (l1Key_inj.1 hk)]
      rfl

/-- A line that has been filled is there. -/
theorem l1Fill_isSome (d : Dev) (set ln : Nat) : (fget (l1Fill d set ln).l1 (l1Key set ln)).isSome = true := by
  unfold l1Fill
  split
  · next h => rw [h]; rfl
  · simp

/-- A byte written in a set's L1 is read there, and every other as before (R160). -/
theorem l1Byte_l1Write (d : Dev) (set a : Nat) (b : Byte) (by_ : Clock) (x : Nat) :
    l1Byte (l1Write d set a b by_) set x = if x = a then b else l1Byte d set x := by
  have hm : x % 128 < 128 := Nat.mod_lt _ (by decide)
  rw [← l1Byte_l1Fill d set (lineOf a) x]
  obtain ⟨l, hl⟩ := Option.isSome_iff_exists.1 (l1Fill_isSome d set (lineOf a))
  unfold l1Write l1Byte
  by_cases h : lineOf x = lineOf a
  · have he : x = a ↔ x % 128 = a % 128 := by rw [eq_iff_line, h]; simp
    simp only [h, fget_fmod_self, hl, Option.map_some, Line.byte, extract_lineSet _ _ hm, he]
  · simp only [fget_fmod_ne _ _ fun hk => h (l1Key_inj.1 hk), if_neg fun hx : x = a => h (congrArg lineOf hx)]
    rfl

/-! ### Stores -/

/-- A byte stored at a policy is read back at that policy, and every other as before (R160). -/
theorem loadByte_storeByte (d : Dev) (set a : Nat) (b : Byte) (p : Pol) (by_ : Clock) {x : Nat} (hx : noMemory x = false) :
    loadByte (storeByte d set a b p by_) set x p = if x = a then b else loadByte d set x p := by
  cases p with
  | l1 => exact l1Byte_l1Write d set a b by_ x
  | l2 => exact l2Byte_l2Write d a b hx
  | str => exact l2Byte_sysWrite d a b hx
  | sys => exact memRead_sysWrite d a b hx

/-- The byte that a list of bytes from an address gives an address, none where it names none. -/
def byteFor (bs : List (Option Byte)) (a x : Nat) : Option Byte := if a ≤ x then (bs[x - a]?).join else none

theorem byteFor_nil (a x : Nat) : byteFor [] a x = none := by simp [byteFor]

theorem byteFor_cons (b : Option Byte) (bs : List (Option Byte)) (a x : Nat) :
    byteFor (b :: bs) a x = if x = a then b else byteFor bs (a + 1) x := by
  unfold byteFor
  by_cases h : x = a
  · simp [h]
  · by_cases h1 : a ≤ x
    · rw [if_neg h, if_pos h1, if_pos (by omega), show x - a = (x - (a + 1)) + 1 by omega, List.getElem?_cons_succ]
    · rw [if_neg h, if_neg h1, if_neg (by omega)]

theorem byteFor_below {bs : List (Option Byte)} {a x : Nat} (h : x < a) : byteFor bs a x = none := if_neg (by omega)

/-- Bytes stored from an address at a policy are read back at that policy, and every other as before (R160). -/
theorem loadByte_storeBytes (d : Dev) (set a : Nat) (bs : List (Option Byte)) (p : Pol) (by_ : Clock) {x : Nat} (hx : noMemory x = false) :
    loadByte (storeBytes d set a bs p by_) set x p = (byteFor bs a x).getD (loadByte d set x p) := by
  induction bs generalizing d a with
  | nil => rw [byteFor_nil]; rfl
  | cons b bs ih =>
    show loadByte (storeBytes _ set (a + 1) bs p by_) set x p = _
    rw [ih, byteFor_cons]
    have hb : ∀ c, loadByte (storeByte d set a c p by_) set x p = if x = a then c else loadByte d set x p := fun c => loadByte_storeByte d set a c p by_ hx
    by_cases h : x = a
    · rw [byteFor_below (by omega), if_pos h]
      cases b <;> simp only [hb, if_pos h, Option.getD_none, Option.getD_some]
    · rw [if_neg h]
      cases b <;> simp only [hb, if_neg h]

/-- Scratchpad bytes written from a place are read back, and every other as before. -/
theorem fgetD_putScratch (m : FMap Byte) (a : Nat) (bs : List (Option Byte)) (x : Nat) :
    fgetD (putScratch m a bs) x 0 = (byteFor bs a x).getD (fgetD m x 0) := by
  induction bs generalizing m a with
  | nil => rw [byteFor_nil]; rfl
  | cons b bs ih =>
    rw [byteFor_cons]
    cases b with
    | none =>
      rw [putScratch, ih]
      by_cases h : x = a
      · rw [byteFor_below (by omega), if_pos h]
      · rw [if_neg h]
    | some b =>
      rw [putScratch, ih, fgetD_fset]
      by_cases h : x = a
      · rw [byteFor_below (by omega), if_pos h, if_pos h]; rfl
      · rw [if_neg h, if_neg h]

end Sys2Proof.Machine
end

section
/-! What readying a line for a load and storing bytes leave alone: all but the levels of memory, every other line, and, where L2 has room, the coherence point
(R286, R290, R292). -/
namespace Sys2Proof.Machine

/-- What is kept by every step of a fold is kept by the fold. -/
theorem foldl_keeps {α β σ : Type} {f : σ → α → σ} (p : σ → β) {l : List α} (h : ∀ s, ∀ a ∈ l, p (f s a) = p s) (s : σ) : p (l.foldl f s) = p s :=
  List.foldlRecOn (motive := fun t => p t = p s) l f rfl fun t ht a ha => (h t a ha).trans ht

/-! ### The rest of the device -/

/-- A device without the levels of its memory. -/
def Dev.sansMem (d : Dev) : Dev := { d with mem := [], l2 := [], l1 := [], marks := [] }

theorem sansMem_l2Write (d : Dev) (a : Nat) (b : Byte) : (l2Write d a b).sansMem = d.sansMem :=
  l2Make_keeps Dev.sansMem (fun d ln => by unfold l2CleanLine; split <;> rfl) d _ _

theorem sansMem_l2CleanLine (d : Dev) (ln : Nat) : (l2CleanLine d ln).sansMem = d.sansMem := by
  unfold l2CleanLine
  split <;> rfl

theorem sansMem_l1WriteBack (d : Dev) (set ln : Nat) : (l1WriteBack d set ln).sansMem = d.sansMem := by
  unfold l1WriteBack
  split
  · refine foldl_keeps Dev.sansMem (fun d i _ => ?_) d
    split
    · exact sansMem_l2Write d _ _
    · rfl
  · rfl

theorem sansMem_l1Drop (d : Dev) (set ln : Nat) : (l1Drop d set ln).sansMem = d.sansMem := sansMem_l1WriteBack d set ln

theorem sansMem_l1Fill (d : Dev) (set ln : Nat) : (l1Fill d set ln).sansMem = d.sansMem := by
  unfold l1Fill
  split <;> rfl

/-- A load at `.l1` readies its line in the set's own L1, after a drop of a copy too old for it (R290, R300); a wider one drops the copy, and at `.sys` what L2 holds of the line. -/
theorem loadPrep_cases {motive : Dev → Prop} {d : Dev} {set ln : Nat} {p : Pol} {acq : Nat} (keep : motive d) (drop : motive (l1Drop d set ln))
    (fill : ∀ d', motive d' → motive (l1Fill d' set ln)) (clean : p = .sys → ∀ d', motive d' → motive (l2CleanLine d' ln)) : motive (loadPrep d set ln p acq) := by
  unfold loadPrep
  split
  · refine fill _ ?_
    split
    · split
      · exact drop
      · exact keep
    · exact keep
  · unfold widen
    simp only
    split
    · next h => exact clean h _ drop
    · exact drop

theorem sansMem_loadPrep (d : Dev) (set ln : Nat) (p : Pol) (acq : Nat) : (loadPrep d set ln p acq).sansMem = d.sansMem :=
  loadPrep_cases (motive := fun d' => d'.sansMem = d.sansMem) rfl (sansMem_l1Drop d set ln) (fun d' h => (sansMem_l1Fill d' set ln).trans h)
    fun _ d' h => (sansMem_l2CleanLine d' ln).trans h

theorem sansMem_storeByte (d : Dev) (set a : Nat) (b : Byte) (p : Pol) (by_ : Clock) : (storeByte d set a b p by_).sansMem = d.sansMem := by
  cases p with
  | l1 => exact sansMem_l1Fill d set (lineOf a)
  | l2 => exact sansMem_l2Write d a b
  | str | sys => rfl

theorem sansMem_storeBytes (d : Dev) (set a : Nat) (bs : List (Option Byte)) (p : Pol) (by_ : Clock) : (storeBytes d set a bs p by_).sansMem = d.sansMem := by
  induction bs generalizing d a with
  | nil => rfl
  | cons b bs ih =>
    refine (ih _ (a + 1)).trans ?_
    cases b with
    | none => rfl
    | some b => exact sansMem_storeByte d set a b p by_

/-! ### Other lines -/

/-- A line written back changes no byte that L2 gives of another (R165). -/
theorem l2Byte_l1WriteBack_ne (d : Dev) (set ln : Nat) {x : Nat} (hx : noMemory x = false) (hl : lineOf x ≠ ln) : l2Byte (l1WriteBack d set ln) x = l2Byte d x := by
  unfold l1WriteBack
  split
  · refine foldl_keeps (fun d => l2Byte d x) (fun d i hi => ?_) d
    have hi : i < 128 := List.mem_range.1 hi
    split
    · rw [l2Byte_l2Write _ _ _ hx, if_neg]
      exact fun h => hl (h ▸ lineOf_line_add hi)
    · rfl
  · rfl

/-- Readying a line for a load changes no byte that L2 gives of another (R290). -/
theorem l2Byte_loadPrep_ne (d : Dev) (set ln : Nat) (p : Pol) (acq : Nat) {x : Nat} (hx : noMemory x = false) (hl : lineOf x ≠ ln) :
    l2Byte (loadPrep d set ln p acq) x = l2Byte d x := by
  refine loadPrep_cases (motive := fun d' => l2Byte d' x = l2Byte d x) rfl (l2Byte_l1WriteBack_ne d set ln hx hl) (fun d' h => ?_)
    fun _ d' h => (l2Byte_l2CleanLine d' ln hx).trans h
  rw [← h]
  unfold l1Fill
  split <;> rfl

/-! ### Room in L2 -/

/-- L2 has room for a line stored raw, and no line takes more than 4 sectors (R292). -/
structure Roomy (d : Dev) (ln : Nat) : Prop where
  room  : l2Room d ln 4 = true
  sects : ∀ p ∈ d.l2, p.2.sects ≤ 4

theorem l2Room_iff {d : Dev} {ln n : Nat} : l2Room d ln n = true ↔
    d.l2.length < sliceTags ∧ n ≤ 4 ∨ (superblocks (sliceLines d ln) < sliceTags ∨ (d.l2.any fun p => p.1 / 4 == ln / 4) = true) ∧
      sectorsIn ((sliceLines d ln).filter fun p => p.1 != ln) + n ≤ sliceSectors := by
  simp only [l2Room, Bool.or_eq_true, Bool.and_eq_true, decide_eq_true_eq]

theorem l2Room_mono {d : Dev} {ln m n : Nat} (h : l2Room d ln n = true) (hm : m ≤ n) : l2Room d ln m = true := by
  rw [l2Room_iff] at *
  rcases h with ⟨h1, h2⟩ | ⟨h1, h2⟩
  · exact .inl ⟨h1, hm.trans h2⟩
  · exact .inr ⟨h1, by omega⟩

/-- No line leaves an L2 that has room. -/
theorem l2Make_of_room {d : Dev} {ln n : Nat} (h : l2Room d ln n = true) : l2Make d ln n = d := by
  unfold l2Make
  cases d.l2.length with
  | zero => rfl
  | succ k => exact if_pos h

theorem sectorsOf_le (x : BitVec 1024) : sectorsOf x ≤ 4 := by
  unfold sectorsOf
  split
  · omega
  · exact min_le_left _ _

theorem sectorsIn_le {m : FMap Line} (h : ∀ p ∈ m, p.2.sects ≤ 4) : sectorsIn m ≤ 4 * m.length := by
  have hf : ∀ n, m.foldl (fun n p => n + p.2.sects) n ≤ n + 4 * m.length := by
    induction m with
    | nil => intro n; simp
    | cons p m ih =>
      intro n
      have h1 := h p (List.mem_cons_self ..)
      have h2 := ih (fun q hq => h q (List.mem_cons_of_mem _ hq)) (n + p.2.sects)
      simp only [List.foldl_cons, List.length_cons]
      omega
  simpa [sectorsIn] using hf 0

/-- A write at a key leaves the entries at other keys as they were. -/
theorem filter_fput_ne {β : Type} (m : FMap β) (k : Nat) (v : β) (q : Nat × β → Bool) :
    ((fput m k v).filter q).filter (fun p => p.1 != k) = (m.filter q).filter fun p => p.1 != k := by
  simp only [List.filter_filter]
  induction m with
  | nil => simp [fput]
  | cons p t ih =>
    obtain ⟨a, b⟩ := p
    unfold fput
    split
    · simp
    · split
      · next h => simp [h]
      · simp only [List.filter_cons, ih]

theorem mem_fput_self {β : Type} (m : FMap β) (k : Nat) (v : β) : (k, v) ∈ fput m k v := by
  induction m with
  | nil => simp [fput]
  | cons p t ih =>
    obtain ⟨a, b⟩ := p
    unfold fput
    split
    · simp
    · split
      · simp
      · exact List.mem_cons_of_mem _ ih

/-- A line that had room has it still once it is stored. -/
theorem Roomy.fput {d d' : Dev} {ln : Nat} {l : Line} (h : Roomy d ln) (hl : l.sects ≤ 4) (hd : d'.l2 = fput d.l2 ln l) : Roomy d' ln := by
  obtain ⟨room, sects⟩ := h
  refine ⟨?_, fun p hp => ?_⟩
  · have hmem : (d'.l2.any fun p => p.1 / 4 == ln / 4) = true := List.any_eq_true.2 ⟨(ln, l), hd ▸ mem_fput_self .., by simp⟩
    have hrest : (sliceLines d' ln).filter (fun p => p.1 != ln) = (sliceLines d ln).filter fun p => p.1 != ln := by
      unfold sliceLines
      rw [hd, filter_fput_ne]
    have hle : sectorsIn ((sliceLines d ln).filter fun p => p.1 != ln) ≤ 4 * d.l2.length := by
      refine (sectorsIn_le fun p hp => sects p (List.mem_of_mem_filter (List.mem_of_mem_filter hp))).trans ?_
      exact Nat.mul_le_mul_left 4 ((List.length_filter_le ..).trans (List.length_filter_le ..))
    rw [l2Room_iff] at room ⊢
    refine .inr ⟨.inr hmem, ?_⟩
    rw [hrest]
    rcases room with ⟨hlen, -⟩ | ⟨-, hsec⟩
    · unfold sliceTags at hlen
      unfold sliceSectors
      omega
    · exact hsec
  · rw [hd] at hp
    rcases fput_mem hp with rfl | hp
    · exact hl
    · exact sects p hp

/-- A byte written at an L2 that has room for its line is stored there, and no line leaves (R160, R292). -/
theorem l2Write_of_room {d : Dev} {a : Nat} (h : l2Room d (lineOf a) 4 = true) (b : Byte) :
    ∃ l : Line, l.sects ≤ 4 ∧ l2Write d a b = unmark { d with l2 := fput d.l2 (lineOf a) l } a := by
  have hn := sectorsOf_le (lineSet (l2LineData d (lineOf a)) (a % 128) b)
  unfold l2Write l2Put
  simp only [l2Make_of_room (l2Room_mono h hn)]
  exact ⟨_, hn, rfl⟩

theorem Roomy.l2Write {d : Dev} {a : Nat} (h : Roomy d (lineOf a)) (b : Byte) : Roomy (l2Write d a b) (lineOf a) ∧ (l2Write d a b).mem = d.mem := by
  obtain ⟨l, hl, he⟩ := l2Write_of_room h.room b
  exact ⟨h.fput hl (by rw [he]; rfl), by rw [he]; rfl⟩

/-- A line written back to an L2 that has room for it reaches no further (R165). -/
theorem Roomy.mem_l1WriteBack {d : Dev} {ln : Nat} (h : Roomy d ln) (set : Nat) : (l1WriteBack d set ln).mem = d.mem := by
  unfold l1WriteBack
  split
  · next l _ =>
    dsimp only
    refine (List.foldlRecOn (motive := fun d' => Roomy d' ln ∧ d'.mem = d.mem) _ _ ⟨h, rfl⟩ ?_).2
    rintro d' ⟨hr, hm⟩ i hi
    have hli := lineOf_line_add (ln := ln) (List.mem_range.1 hi)
    split
    · obtain ⟨hr', hm'⟩ := Roomy.l2Write (hli.symm ▸ hr) (l.byte i)
      rw [hli] at hr'
      exact ⟨hr', hm'.trans hm⟩
    · exact ⟨hr, hm⟩
  · rfl

/-- A load not at `.sys` leaves the coherence point alone where L2 has room for its line (R286, R290). -/
theorem Roomy.mem_loadPrep {d : Dev} {ln : Nat} (h : Roomy d ln) {p : Pol} (hp : p ≠ .sys) (set acq : Nat) : (loadPrep d set ln p acq).mem = d.mem := by
  refine loadPrep_cases (motive := fun d' => d'.mem = d.mem) rfl (h.mem_l1WriteBack set) (fun d' hd => ?_) fun hs => absurd hs hp
  rw [← hd]
  unfold l1Fill
  split <;> rfl

end Sys2Proof.Machine
end

section
/-! Loads and stores performed with nothing else to follow (R39, R160). -/
namespace Sys2Proof.Machine

/-! ### What follows an access -/

/-- No FENCE and no command waits for anything of a squad that is live and has no image to be written for its end: `Performable` without the access. -/
structure Idle (d : Dev) (u : Nat) : Prop where
  fences : ∀ p ∈ d.accs, p.2.isFence = false
  cmds   : d.cmds = []
  squad  : (fget d.squads u).isSome = true
  live   : (squadOf d u).state ≠ .ended
  whole  : (squadOf d u).ending = false

theorem Performable.idle {d : Dev} {k : Nat} {a : Acc} (h : Performable d k a) : Idle d a.sq := by
  obtain ⟨-, -, fences, cmds, squad, live, -, whole⟩ := h
  exact ⟨fences, cmds, squad, live, whole⟩

/-- What the squad is like is all that counts of it, and fewer accesses make no difference. -/
theorem Idle.of {d d' : Dev} {u : Nat} (h : Idle d u) (ha : ∀ p ∈ d'.accs, p ∈ d.accs) (hc : d'.cmds = d.cmds) (hs : (fget d'.squads u).isSome = true)
    (hst : (squadOf d' u).state = (squadOf d u).state) (he : (squadOf d' u).ending = (squadOf d u).ending) : Idle d' u :=
  ⟨fun p hp => h.fences p (ha p hp), hc.trans h.cmds, hs, hst ▸ h.live, he.trans h.whole⟩

/-- Nothing is released of a squad that goes on. -/
theorem releaseSquad_live {d : Dev} {u : Nat} (hs : (fget d.squads u).isSome = true) (hl : (squadOf d u).state ≠ .ended) (hw : (squadOf d u).ending = false) :
    releaseSquad d u = d := by
  obtain ⟨s, hg⟩ := Option.isSome_iff_exists.1 hs
  have he : endImage d u = d := by simp [endImage, hw]
  have hl' : s.state ≠ .ended := by simpa [squadOf, fgetD, hg] using hl
  simp [releaseSquad, he, hg, hl']

/-- Where nothing waits, an access that is complete leaves nothing but a flag's count to settle. -/
theorem Idle.settle {d : Dev} {u : Nat} (h : Idle d u) : settle d u = settleClaims d u := by
  obtain ⟨fences, cmds, squad, live, whole⟩ := h
  have hf : d.accs.foldl (fun d p => if p.2.isFence && accReady d p.1 p.2 then performFence d p.1 p.2 else d) d = d :=
    foldl_keeps id (fun d' p hp => by simp [fences p hp]) d
  have hs : settleSignals d = d := by simp [settleSignals, cmds]
  have hn := near_settleClaims d u
  have heq := hn.alike.eq_with
  unfold Machine.settle
  simp only [hf, hs]
  refine releaseSquad_live (hn.here.trans squad) ?_ ?_
  · rw [heq]; exact live
  · rw [heq]; exact whole

/-- A complete access is outstanding no more, and its squad has what it had but for a flag's count. -/
theorem Idle.near_dropAcc {d : Dev} {a : Acc} (h : Idle d a.sq) (k : Nat) : Near a.sq { d with accs := fdel d.accs k } (dropAcc d k a) := by
  have hi : Idle { d with accs := fdel d.accs k } a.sq := h.of (fun _ => fdel_subset) rfl h.squad rfl rfl
  unfold dropAcc
  rw [hi.settle]
  exact near_settleClaims _ _

/-- A register write leaves a squad's state and end alone. -/
theorem write_v_state (s : Squad) (ln : Nat) (i : BitVec 6) (n b hi : Bool) (t : Ty) (x : DWord) :
    (s.write ln (.v i n b hi) t x).state = s.state ∧ (s.write ln (.v i n b hi) t x).ending = s.ending := by
  simp only [Squad.write]
  split
  · exact ⟨rfl, rfl⟩
  · split
    · unfold Squad.setHalf
      simp only
      split <;> exact ⟨rfl, rfl⟩
    · exact ⟨rfl, rfl⟩

/-! ### What a squad's own change leaves -/

section
variable {u : Nat} {d d' : Dev} (h : Kept u d d')
include h
theorem Kept.accs : d'.accs = d.accs := (congrArg Dev.accs h.rest :)
theorem Kept.mem : d'.mem = d.mem := (congrArg Dev.mem h.rest :)
theorem Kept.l2 : d'.l2 = d.l2 := (congrArg Dev.l2 h.rest :)
theorem Kept.l1 : d'.l1 = d.l1 := (congrArg Dev.l1 h.rest :)
theorem Kept.scratch : d'.scratch = d.scratch := (congrArg Dev.scratch h.rest :)
end

section
variable {d d' : Dev} (h : d'.sansMem = d.sansMem)
include h
theorem accs_of_sansMem : d'.accs = d.accs := (congrArg Dev.accs h :)
theorem cmds_of_sansMem : d'.cmds = d.cmds := (congrArg Dev.cmds h :)
theorem squads_of_sansMem : d'.squads = d.squads := (congrArg Dev.squads h :)
theorem scratch_of_sansMem : d'.scratch = d.scratch := (congrArg Dev.scratch h :)
end

theorem l2Byte_congr {d d' : Dev} (hm : d'.mem = d.mem) (h2 : d'.l2 = d.l2) (x : Nat) : l2Byte d' x = l2Byte d x := by
  unfold l2Byte
  rw [hm, h2]

theorem loadByte_congr {d d' : Dev} (hm : d'.mem = d.mem) (h2 : d'.l2 = d.l2) (h1 : d'.l1 = d.l1) (set x : Nat) (p : Pol) :
    loadByte d' set x p = loadByte d set x p := by
  cases p <;> simp only [loadByte, l1Byte, l2Byte_congr hm h2, hm, h1]

/-! ### Loads -/

theorem exec_loadDataReturn (k : Nat) (err : MemErr) (s : State) : exec (.loadDataReturn k err) s = .next { s with dev := dataReturn s.dev k err } := rfl

/-- The data of a load that meets no error and no poison arrives; a squad that is not debugged has no log of it (R250). -/
theorem dataReturn_load {d : Dev} {k : Nat} {a : Acc} (h : Performable d k a) (ho : a.op = .load) (hf : accFits d a = true) (hp : metPoison d a = false) :
    dataReturn d k .none = performLoad d k a := by
  obtain ⟨here, ready, -, -, -, -, dbg, -⟩ := h
  simp [dataReturn, here, ho, ready, hf, hp, errFatal, errBad, noteErr, noteErrAt, undoAcc, dbg]

/-- Only global memory's levels change as a place is read: its line is made ready (R290). -/
theorem readAt_cases (d : Dev) (a : Acc) : (a.space ≠ 0 ∧ (readAt d a).1 = d) ∨ (a.space = 0 ∧ (readAt d a).1 = loadPrep d a.set (lineOf a.pa) a.pol a.stamp) := by
  unfold readAt
  split
  · next h => exact .inr ⟨h, rfl⟩
  · next h => exact .inl ⟨by omega, rfl⟩
  · next h _ => exact .inl ⟨h, rfl⟩

theorem sansMem_readAt (d : Dev) (a : Acc) : (readAt d a).1.sansMem = d.sansMem := by
  rcases readAt_cases d a with ⟨-, h⟩ | ⟨-, h⟩ <;> rw [h]
  exact sansMem_loadPrep ..

theorem mem_readAt {d : Dev} {a : Acc} (h : d.l2Legal) (hr : l2Room d (lineOf a.pa) 4 = true) (hp : a.pol ≠ .sys) : (readAt d a).1.mem = d.mem := by
  rcases readAt_cases d a with ⟨-, h'⟩ | ⟨-, h'⟩ <;> rw [h']
  exact Roomy.mem_loadPrep ⟨hr, h.sects⟩ hp _ _

theorem l2Byte_readAt_ne (d : Dev) (a : Acc) {x : Nat} (hx : noMemory x = false) (hl : lineOf x ≠ lineOf a.pa ∨ a.space ≠ 0) :
    l2Byte (readAt d a).1 x = l2Byte d x := by
  rcases readAt_cases d a with ⟨-, h⟩ | ⟨h0, h⟩ <;> rw [h]
  exact l2Byte_loadPrep_ne d _ _ _ _ hx (hl.resolve_right (not_not.2 h0))

/-- A device whose load of one lane has written its register. -/
def loaded (d : Dev) (a : Acc) (ln i : Nat) (hi : Bool) : Dev :=
  let v := loadVal a.ty (leNat (readAt d a).2)
  setSquad (readAt d a).1 a.sq fun s => s.write ln (.v (BitVec.ofNat 6 i) false false hi) v.2 v.1

theorem performLoad_eq {d : Dev} {k ln i : Nat} {a : Acc} {vc : Clock} {ty : Ty} {hi : Bool} (hl : a.lanes = [(ln, vc)]) (hy : a.sync = false)
    (hd : a.dest = .v i ty hi) : performLoad d k a = dropAcc (loaded d a ln i hi) k a := by
  simp [performLoad, hl, readSync, hy, writeDest, hd, loaded]

theorem squadOf_loaded {d : Dev} {a : Acc} (hs : (fget d.squads a.sq).isSome = true) (ln i : Nat) (hi : Bool) :
    squadOf (loaded d a ln i hi) a.sq = (squadOf d a.sq).write ln (.v (BitVec.ofNat 6 i) false false hi)
      (loadVal a.ty (leNat (readAt d a).2)).2 (loadVal a.ty (leNat (readAt d a).2)).1 := by
  have hsq := squads_of_sansMem (sansMem_readAt d a)
  unfold loaded
  simp only
  rw [squadOf_setSquad _ (hsq ▸ hs), squadOf_congr hsq]

theorem Idle.loaded {d : Dev} {a : Acc} (h : Idle d a.sq) (ln i : Nat) (hi : Bool) : Idle (loaded d a ln i hi) a.sq := by
  have hm := sansMem_readAt d a
  obtain ⟨hst, he⟩ := write_v_state (squadOf d a.sq) ln (BitVec.ofNat 6 i) false false hi (loadVal a.ty (leNat (readAt d a).2)).2 (loadVal a.ty (leNat (readAt d a).2)).1
  rw [← squadOf_loaded h.squad] at hst he
  have hacc := accs_of_sansMem hm
  have hcmd := cmds_of_sansMem hm
  refine h.of (fun p hp => hacc ▸ hp) hcmd ?_ hst he
  simp [Machine.loaded, squads_of_sansMem hm, h.squad]

/-- What a load's data leave (R39, R159). -/
theorem loadDataReturn_performs (s : State) (k ln i : Nat) (a : Acc) (vc : Clock) (ty : Ty) (hi : Bool) (h : Performable s.dev k a) (ho : a.op = .load)
    (hl : a.lanes = [(ln, vc)]) (hy : a.sync = false) (hd : a.dest = .v i ty hi) (hf : accFits s.dev a = true) (hp : metPoison s.dev a = false) :
    let x := leNat (readAt s.dev a).2
    ∃ t, exec (.loadDataReturn k .none) s = .next t ∧ t.power = s.power ∧ t.trust = s.trust ∧ fget t.dev.accs k = none ∧
      (a.pol ≠ .sys → s.dev.l2Legal → l2Room s.dev (lineOf a.pa) 4 = true → t.dev.mem = s.dev.mem) ∧ t.dev.scratch = s.dev.scratch ∧
      (∀ x, noMemory x = false → (lineOf x ≠ lineOf a.pa ∨ a.space ≠ 0) → l2Byte t.dev x = l2Byte s.dev x) ∧
      (∀ j m, (squadOf t.dev a.sq).v j m = ((squadOf s.dev a.sq).write ln (.v (BitVec.ofNat 6 i) false false hi) (loadVal a.ty x).2 (loadVal a.ty x).1).v j m) ∧
      (∀ v, v ≠ a.sq → fget t.dev.squads v = fget s.dev.squads v) := by
  intro x
  have hm := sansMem_readAt s.dev a
  have hn := (h.idle.loaded ln i hi).near_dropAcc k
  rw [← performLoad_eq hl hy hd] at hn
  obtain ⟨hk, -, halike⟩ := hn
  refine ⟨{ s with dev := performLoad s.dev k a }, by rw [exec_loadDataReturn, dataReturn_load h ho hf hp], rfl, rfl, ?_, ?_, ?_, ?_, ?_, ?_⟩
  · rw [hk.accs, fget_fdel, if_pos rfl]
  · exact fun hpol hlegal hroom => hk.mem.trans (mem_readAt hlegal hroom hpol)
  · exact hk.scratch.trans (scratch_of_sansMem hm :)
  · exact fun y hy hne => (l2Byte_congr hk.mem hk.l2 y).trans (l2Byte_readAt_ne s.dev a hy hne)
  · intro j m
    rw [halike.v, ← squadOf_loaded h.idle.squad]
    rfl
  · intro v hv
    rw [hk.squads v hv]
    simp [loaded, hv, squads_of_sansMem hm]

/-! ### Stores -/

theorem exec_storePerformed (k : Nat) (err : MemErr) (s : State) : exec (.storePerformed k err) s = .next { s with dev := storeDone s.dev k err } := rfl

/-- A store that meets no error is performed; a squad that is not debugged has no log of it (R250). -/
theorem storeDone_store {d : Dev} {k : Nat} {a : Acc} {bs : List (Option Byte)} (h : Performable d k a) (ho : a.op = .store bs) (hf : accFits d a = true) :
    storeDone d k .none = performStore d k a bs := by
  obtain ⟨here, ready, -, -, -, -, dbg, -⟩ := h
  simp [storeDone, here, ho, ready, hf, errFatal, errBad, noteErr, noteErrAt, undoAcc, dbg]

/-- A write at a place reaches the levels of global memory, or scratchpad, or nothing of the device's own; a place written whole loses its poison (R160, R319). -/
theorem writeAt_cases (d : Dev) (a : Acc) (bs : List (Option Byte)) :
    (a.space = 0 ∧ ∃ p, writeAt d a bs = { storeBytes d a.set a.pa bs a.pol a.threads with poison := p }) ∨
      (a.space = 1 ∧ ∃ p, writeAt d a bs = { d with scratch := putScratch d.scratch a.pa bs, scPoison := p }) ∨ (1 < a.space ∧ writeAt d a bs = d) := by
  unfold writeAt
  split
  · next h =>
    refine .inl ⟨h, ?_⟩
    simp only
    split <;> exact ⟨_, rfl⟩
  · next h =>
    refine .inr (.inl ⟨h, ?_⟩)
    simp only
    split <;> exact ⟨_, rfl⟩
  · next h0 h1 => exact .inr (.inr ⟨by have : a.space ≠ 0 := h0; have : a.space ≠ 1 := h1; omega, rfl⟩)

theorem outsideTake_eq (d : Dev) (rs : List Release) : ∃ h, outsideTake d rs = { d with host := h } := by
  unfold outsideTake
  refine List.foldlRecOn (motive := fun d' => ∃ h, d' = { d with host := h }) rs _ ⟨d.host, rfl⟩ ?_
  rintro _ ⟨h, rfl⟩ r _
  split <;> exact ⟨_, rfl⟩

/-- The releases that a write leaves reach no byte (R301). -/
theorem leaveRels_eq (d : Dev) (space pa n : Nat) (own : List Release) (f : List Release → List Release) :
    ∃ h r, leaveRels d space pa n own f = { d with host := h, rels := r } := by
  obtain ⟨h, he⟩ := outsideTake_eq d own
  unfold leaveRels relsSet
  simp only [he]
  split <;> exact ⟨_, _, rfl⟩

/-- A store that is no release writes its bytes, leaves releases and its group's hash, and is complete. -/
theorem performStore_eq (d : Dev) (k : Nat) {a : Acc} (bs : List (Option Byte)) (hr : a.rel = none) :
    ∃ h r g, performStore d k a bs = dropAcc { writeAt d a bs with host := h, rels := r, groups := g } k a := by
  obtain ⟨h, r, he⟩ := leaveRels_eq (writeAt d a bs) a.space a.pa a.len (ownRels a) fun _ => ownRels a
  unfold performStore
  simp only [hr, he]
  split <;> exact ⟨_, _, _, rfl⟩

theorem writeAt_frame (d : Dev) (a : Acc) (bs : List (Option Byte)) :
    (writeAt d a bs).accs = d.accs ∧ (writeAt d a bs).cmds = d.cmds ∧ (writeAt d a bs).squads = d.squads := by
  have hm := sansMem_storeBytes d a.set a.pa bs a.pol a.threads
  rcases writeAt_cases d a bs with ⟨-, p, h⟩ | ⟨-, p, h⟩ | ⟨-, h⟩ <;> rw [h]
  · exact ⟨(accs_of_sansMem hm :), (cmds_of_sansMem hm :), (squads_of_sansMem hm :)⟩
  all_goals exact ⟨rfl, rfl, rfl⟩

/-- What a performed store leaves (R160). -/
theorem storePerformed_performs (s : State) (k : Nat) (a : Acc) (bs : List (Option Byte)) (h : Performable s.dev k a) (ho : a.op = .store bs)
    (hr : a.rel = none) (hf : accFits s.dev a = true) :
    ∃ t, exec (.storePerformed k .none) s = .next t ∧ t.power = s.power ∧ t.trust = s.trust ∧ fget t.dev.accs k = none ∧
      (a.space = 0 → t.dev.scratch = s.dev.scratch ∧
        ∀ x, noMemory x = false → loadByte t.dev a.set x a.pol = (byteFor bs a.pa x).getD (loadByte s.dev a.set x a.pol)) ∧
      (a.space = 1 → t.dev.mem = s.dev.mem ∧ t.dev.l2 = s.dev.l2 ∧ t.dev.l1 = s.dev.l1 ∧
        ∀ x, fgetD t.dev.scratch x 0 = (byteFor bs a.pa x).getD (fgetD s.dev.scratch x 0)) ∧
      (∀ j m, (squadOf t.dev a.sq).v j m = (squadOf s.dev a.sq).v j m) := by
  obtain ⟨hst, r, g, he⟩ := performStore_eq s.dev k bs hr
  obtain ⟨hacc, hcmd, hsq⟩ := writeAt_frame s.dev a bs
  have hq := squadOf_congr hsq a.sq
  have hidle : Idle { writeAt s.dev a bs with host := hst, rels := r, groups := g } a.sq :=
    h.idle.of (fun p hp => hacc ▸ hp) hcmd (hsq ▸ h.idle.squad) (congrArg Squad.state hq) (congrArg Squad.ending hq)
  have hn := hidle.near_dropAcc k
  rw [← he] at hn
  obtain ⟨hk, -, halike⟩ := hn
  refine ⟨{ s with dev := performStore s.dev k a bs }, by rw [exec_storePerformed, storeDone_store h ho hf], rfl, rfl, ?_, ?_, ?_, ?_⟩
  · rw [hk.accs, fget_fdel, if_pos rfl]
  · intro h0
    rcases writeAt_cases s.dev a bs with ⟨-, p, hw⟩ | ⟨h1, -⟩ | ⟨h1, -⟩
    · rw [hw] at hk
      have hm := sansMem_storeBytes s.dev a.set a.pa bs a.pol a.threads
      refine ⟨hk.scratch.trans (scratch_of_sansMem hm :), fun x hx => ?_⟩
      rw [← loadByte_storeBytes s.dev a.set a.pa bs a.pol a.threads hx]
      exact loadByte_congr hk.mem hk.l2 hk.l1 ..
    all_goals omega
  · intro h1
    rcases writeAt_cases s.dev a bs with ⟨h0, -⟩ | ⟨-, p, hw⟩ | ⟨h0, -⟩
    · omega
    · rw [hw] at hk
      refine ⟨hk.mem, hk.l2, hk.l1, fun x => ?_⟩
      rw [← fgetD_putScratch]
      exact congrArg (fgetD · x 0) hk.scratch
    · omega
  · intro j m
    rw [halike.v]
    exact congrArg (fun q => Squad.v q j m) hq

/-- Settles O41: with nothing else to follow, an access that is complete leaves of its squad but a flag's count to settle; the rest is what its read or its write of memory does. -/
theorem loadsAndStoresPerformed : Obligations.LoadsAndStoresPerformed := by
  unfold Obligations.LoadsAndStoresPerformed
  exact ⟨fun s k ln i a vc ty hi h ho hl hy hd _ hf hp => loadDataReturn_performs s k ln i a vc ty hi h ho hl hy hd hf hp,
    fun s k _ a _ bs h ho _ hr _ hf => storePerformed_performs s k a bs h ho hr hf⟩

end Sys2Proof.Machine
end

section
/-! Breakpoints and calls (R102, R237). -/
namespace Sys2Proof.Machine

/-- A breakpoint's traps, one lane after another (R102). -/
theorem trapAll_map (c : Cause) (tv : DWord) (lns : List Nat) (d : Dev) (u : Nat) :
    trapAll d u (lns.map fun ln => (ln, c, tv)) = lns.foldl (fun d ln => trapAt d u ln c tv) d := List.foldl_map

/-- A system call has its lanes trap to the next word, one after another (R237). -/
theorem callAct_eq (hc : Bool) (code : Opnd) (e : Env) (lns : List Nat) (d : Dev) : callAct hc code e lns d =
    lns.foldl (fun d ln => trapTo d e.sq ln 0x10 (codeOf code) ((laneOf d e.sq ln).pc + 12) (callHdr (laneOf d e.sq ln)) hc false) d := rfl

/-- Settles O29: each form is issued by the common path, and its effect is its lanes' traps in turn. -/
theorem callsComplete : Obligations.CallsComplete := by
  unfold Obligations.CallsComplete
  exact ⟨fun _ code => runsWhen_issueChk (fun _ => rfl) fun e lns d _ => trapAll_map 0x11 (codeOf code) lns d e.sq,
    fun _ code => runsWhen_issueChk (fun _ => rfl) fun e lns d _ => callAct_eq false code e lns d,
    fun _ code => runsWhen_issueChk (fun _ => rfl) fun e lns d _ => callAct_eq true code e lns d⟩

end Sys2Proof.Machine
end

section
/-! What the effects of the gathering forms write in their participants (R115 to R120, R151, R154). -/
namespace Sys2Proof.Machine

/-! ### Blocks of lanes (R151) -/

/-- In a rising list, lanes of the blocks before one stand before the lanes of that block. -/
theorem filter_div_lt_succ (n m : Nat) {lns : List Nat} (h : lns.Pairwise (· < ·)) :
    (lns.filter fun ln => ln / n < m) ++ (lns.filter fun ln => ln / n = m) = lns.filter fun ln => ln / n < m + 1 := by
  induction lns with
  | nil => rfl
  | cons a t ih =>
    obtain ⟨ha, ht⟩ := List.pairwise_cons.1 h
    have hle : ∀ b ∈ t, a / n ≤ b / n := fun b hb => Nat.div_le_div_right (ha b hb).le
    simp only [List.filter_cons, decide_eq_true_eq]
    rcases Nat.lt_trichotomy (a / n) m with hlt | heq | hgt
    · rw [if_pos hlt, if_neg (by omega), if_pos (by omega), List.cons_append, ih ht]
    · have hnone : t.filter (fun ln => ln / n < m) = [] := filter_none_of_all fun b hb => by have := hle b hb; simp; omega
      rw [if_neg (by omega), if_pos heq, if_pos (by omega), ← ih ht, hnone]
      rfl
    · rw [if_neg (by omega), if_neg (by omega), if_neg (by omega), ih ht]

/-- The blocks of a rising list, in order, are the list. -/
theorem flatten_blocks (n m : Nat) {lns : List Nat} (h : lns.Pairwise (· < ·)) :
    ((upto m).map fun j => lns.filter fun ln => ln / n = j).flatten = lns.filter fun ln => ln / n < m := by
  induction m with
  | zero => simp [upto]
  | succ m ih =>
    rw [← filter_div_lt_succ n m h, ← ih]
    simp [upto, List.range_succ]

/-- Pairing a list without repetitions with as many results gives each element the one at its place. -/
theorem zip_eq_map_getD {α : Type} {l : List Nat} {xs : List α} (hl : xs.length = l.length) (hn : l.Nodup) (z : α) :
    l.zip xs = l.map fun a => (a, xs.getD (l.idxOf a) z) := by
  refine List.ext_getElem (by simp [hl]) fun i h1 h2 => ?_
  have hi : i < l.length := by simpa using h2
  simp [List.Nodup.idxOf_getElem hn i hi, hl, hi]

theorem length_blockScale (f : Fmt) (mode : Rnd) (draws : Nat → Nat) (xs : List FV) : (blockScale f mode draws xs).2.2.length = xs.length := by
  unfold blockScale
  split
  · simp
  · split <;> simp

/-! ### Votes -/

theorem voteOf_map (op : VoteOp) (p : Nat → Bool) (lns : List Nat) : voteOf op (lns.map p) = match op with
    | .any => lns.any fun k => p k
    | .all => lns.all fun k => p k
    | .uni => (lns.all fun k => p k) || lns.all fun k => !p k := by
  cases op <;> simp [voteOf, Function.comp_def]

/-! ### What the forms with flags give, by name, and that environments that read alike give the same -/

/-- LRED's value and flags: the tree over all participants (R118, R119). -/
def redVal (op : RedOp) (t : Ty) (sat : Bool) (a : Opnd) (e : Env) (lns : List Nat) : DWord × Fl :=
  (tree op t sat (fun k => readOp e k a t) lns).getD (0, 0)

/-- LSCAN's value and flags of a lane: the tree over the participants up to it, the identity where there are none (R116, R119). -/
def scanVal (op : RedOp) (exc : Bool) (t : Ty) (sat : Bool) (a : Opnd) (e : Env) (lns : List Nat) (ln : Nat) : DWord × Fl :=
  (tree op t sat (fun k => readOp e k a t) (lns.filter fun k => if exc then decide (k < ln) else decide (k ≤ ln))).getD (identity op t, 0)

/-- The flags of LSCAN's trees of all participants together (R119). -/
def scanFl (op : RedOp) (exc : Bool) (t : Ty) (sat : Bool) (a : Opnd) (e : Env) (lns : List Nat) : Fl :=
  lns.foldl (fun f ln => f ||| (scanVal op exc t sat a e lns ln).2) 0

/-- The participants of a lane's block of n lanes (R151). -/
def blockOf (n : Nat) (lns : List Nat) (ln : Nat) : List Nat := lns.filter fun k => k / n = ln / n

/-- The scale, flags and codes of a lane's block (R86, R151). -/
def blockVal (fmt : Fmt) (rnd : Rnd) (x : Opnd) (n : Nat) (e : Env) (lns : List Nat) (ln : Nat) : Nat × Fl × List (Nat × Fl) :=
  blockScale fmt rnd (fun i => drawOf e ((blockOf n lns ln).getD i 0) 0) ((blockOf n lns ln).map fun k => opFV e k .f32 x)

/-- A lane's own code and flags in its block (R151). -/
def elemVal (fmt : Fmt) (rnd : Rnd) (x : Opnd) (n : Nat) (e : Env) (lns : List Nat) (ln : Nat) : Nat × Fl :=
  (blockVal fmt rnd x n e lns ln).2.2.getD ((blockOf n lns ln).idxOf ln) (0, 0)

/-- The flags QSCALE raises in a lane (R151). -/
def scaleFl (fmt : Fmt) (rnd : Rnd) (x : Opnd) (n : Nat) (e : Env) (lns : List Nat) (ln : Nat) : Fl :=
  (blockVal fmt rnd x n e lns ln).2.1 ||| (elemVal fmt rnd x n e lns ln).2

/-- The word QSCALE writes in a lane: its block's scale, its own code above it (R151). -/
def scaleVal (fmt : Fmt) (rnd : Rnd) (x : Opnd) (n : Nat) (e : Env) (lns : List Nat) (ln : Nat) : DWord :=
  BitVec.ofNat 64 ((blockVal fmt rnd x n e lns ln).1 + (elemVal fmt rnd x n e lns ln).1 % 2 ^ fmt.wid * 256)

/-- A lane that QSPLIT gives a half: one of the two lanes it names, both of them participants (R154). -/
abbrev splits (c dd : Opnd) (e : Env) (lns : List Nat) (ln : Nat) : Prop :=
  readN32 e (lns.headD 0) c ≠ readN32 e (lns.headD 0) dd ∧ readN32 e (lns.headD 0) c ∈ lns ∧ readN32 e (lns.headD 0) dd ∈ lns ∧
    (ln = readN32 e (lns.headD 0) c ∨ ln = readN32 e (lns.headD 0) dd)

/-- Half of the value that QSPLIT splits (R154). -/
def halfVal (x c : Opnd) (e : Env) (lns : List Nat) : DWord × Fl :=
  roundTy .f32 .rne false 0 (scaleFV (opFV e (readN32 e (lns.headD 0) c) .f32 x) (-1))

section
variable {g : Bool} {e e' : Env} (h : Env.Alike g e e') (lns : List Nat)
include h

theorem redVal_alike (op : RedOp) (t : Ty) (sat : Bool) (a : Opnd) : redVal op t sat a e lns = redVal op t sat a e' lns := by
  simp only [redVal, readOp_alike h]

theorem scanVal_alike (op : RedOp) (exc : Bool) (t : Ty) (sat : Bool) (a : Opnd) : scanVal op exc t sat a e lns = scanVal op exc t sat a e' lns := by
  funext ln
  simp only [scanVal, readOp_alike h]

theorem scanFl_alike (op : RedOp) (exc : Bool) (t : Ty) (sat : Bool) (a : Opnd) : scanFl op exc t sat a e lns = scanFl op exc t sat a e' lns := by
  simp only [scanFl, scanVal_alike h]

theorem blockVal_alike (fmt : Fmt) (rnd : Rnd) (x : Opnd) (n : Nat) : blockVal fmt rnd x n e lns = blockVal fmt rnd x n e' lns := by
  funext ln
  simp only [blockVal, drawOf_alike h, opFV_alike h]

theorem scaleFl_alike (fmt : Fmt) (rnd : Rnd) (x : Opnd) (n : Nat) : scaleFl fmt rnd x n e lns = scaleFl fmt rnd x n e' lns := by
  funext ln
  simp only [scaleFl, elemVal, blockVal_alike h]

theorem scaleVal_alike (fmt : Fmt) (rnd : Rnd) (x : Opnd) (n : Nat) : scaleVal fmt rnd x n e lns = scaleVal fmt rnd x n e' lns := by
  funext ln
  simp only [scaleVal, elemVal, blockVal_alike h]

theorem splits_alike (c dd : Opnd) (ln : Nat) : splits c dd e lns ln ↔ splits c dd e' lns ln := by
  simp only [splits, readN32_alike h]

theorem halfVal_alike (x c : Opnd) : halfVal x c e lns = halfVal x c e' lns := by
  simp only [halfVal, readN32_alike h, opFV_alike h]

end

/-! ### The effects on their participants -/

section
variable {e : Env} {lns : List Nat} {dv : Dev} (hs : (fget dv.squads e.sq).isSome = true)
include hs

/-- Results with shared flags, none of which traps: every participant raises them all and makes its own write (R119). -/
theorem applyShared_spec {fl : Fl} (d : Opnd) (t : Ty) (v : Nat → DWord) (ht : flTraps e.s.fpcr fl = false) :
    Kept e.sq dv (applyShared fl (lns.map fun ln => (ln, fun q => q.write ln d t (v ln))) e dv) ∧
      squadOf (applyShared fl (lns.map fun ln => (ln, fun q => q.write ln d t (v ln))) e dv) e.sq =
        ranLanes (fun ln q => (q.raise fl).write ln d t (v ln)) lns (squadOf dv e.sq) := by
  unfold applyShared
  rw [List.map_map]
  exact applyEach_ranLanes (n := 0) (f := fun ln q => q.write ln d t (v ln)) (fl := fun _ => fl) hs fun _ _ => ht

theorem lredDone_spec {op : RedOp} {t : Ty} {sat : Bool} {d a : Opnd} (ht : flTraps e.s.fpcr (redVal op t sat a e lns).2 = false) :
    Kept e.sq dv (lredDone op t sat d a e lns dv) ∧ squadOf (lredDone op t sat d a e lns dv) e.sq =
      ranLanes (fun ln q => (q.raise (redVal op t sat a e lns).2).write ln d t (redVal op t sat a e lns).1) lns (squadOf dv e.sq) :=
  applyShared_spec hs d t (fun _ => (redVal op t sat a e lns).1) ht

theorem lscanDone_spec {op : RedOp} {exc : Bool} {t : Ty} {sat : Bool} {d a : Opnd} (ht : flTraps e.s.fpcr (scanFl op exc t sat a e lns) = false) :
    Kept e.sq dv (lscanDone op exc t sat d a e lns dv) ∧ squadOf (lscanDone op exc t sat d a e lns dv) e.sq =
      ranLanes (fun ln q => (q.raise (scanFl op exc t sat a e lns)).write ln d t (scanVal op exc t sat a e lns ln).1) lns (squadOf dv e.sq) := by
  have hd : lscanDone op exc t sat d a e lns dv = applyShared (scanFl op exc t sat a e lns)
      (lns.map fun ln => (ln, fun q => q.write ln d t (scanVal op exc t sat a e lns ln).1)) e dv := by
    unfold lscanDone scanFl
    simp only [List.foldl_map, List.map_map]
    rfl
  rw [hd]
  exact applyShared_spec hs d t (fun ln => (scanVal op exc t sat a e lns ln).1) ht

/-- Where some participants raise the flags of one result and write it, and the others write what raises none, each does so (R76). -/
theorem applyEach_ite_spec {p : Nat → Prop} [DecidablePred p] {r : DWord × Fl} (d : Opnd) (t : Ty) (w : Nat → DWord)
    (ht : ∀ ln, p ln → flTraps e.s.fpcr r.2 = false) :
    let rs := lns.map fun ln => if p ln then (ln, (fun q : Squad => q.write ln d t r.1), r.2) else (ln, (fun q => q.write ln d t (w ln)), 0)
    Kept e.sq dv (applyEach 0 rs e dv) ∧ squadOf (applyEach 0 rs e dv) e.sq =
      ranLanes (fun ln q => if p ln then (q.raise r.2).write ln d t r.1 else q.write ln d t (w ln)) lns (squadOf dv e.sq) := by
  have h := applyEach_ranLanes (n := 0) (lns := lns) (fl := fun ln => if p ln then r.2 else 0)
    (f := fun ln q => q.write ln d t (if p ln then r.1 else w ln)) hs fun ln _ => by
      by_cases hl : p ln
      · rw [if_pos hl]; exact ht ln hl
      · rw [if_neg hl]; exact flTraps_zero _
  have hrs : (fun ln => if p ln then (ln, (fun q : Squad => q.write ln d t r.1), r.2) else (ln, (fun q => q.write ln d t (w ln)), 0)) =
      fun ln => (ln, (fun q => q.write ln d t (if p ln then r.1 else w ln)), if p ln then r.2 else 0) := by
    funext ln
    by_cases hl : p ln <;> simp only [hl, if_true, if_false]
  have hf : (fun ln (q : Squad) => if p ln then (q.raise r.2).write ln d t r.1 else q.write ln d t (w ln)) =
      fun ln q => (takeDraws 0 ln (q.raise (if p ln then r.2 else 0))).write ln d t (if p ln then r.1 else w ln) := by
    funext ln q
    by_cases hl : p ln <;> simp only [hl, if_true, if_false, raise_zero] <;> rfl
  intro rs
  rw [hf, show rs = _ from congrArg (lns.map ·) hrs]
  exact h

/-- QSPLIT raises the half's flags where it writes a half, and writes a copy elsewhere (R154). -/
theorem qsplitDone_spec {d x c dd : Opnd} (ht : ∀ ln, splits c dd e lns ln → flTraps e.s.fpcr (halfVal x c e lns).2 = false) :
    Kept e.sq dv (qsplitDone d x c dd e lns dv) ∧ squadOf (qsplitDone d x c dd e lns dv) e.sq =
      ranLanes (fun ln q => if splits c dd e lns ln then (q.raise (halfVal x c e lns).2).write ln d .f32 (halfVal x c e lns).1
        else q.write ln d .f32 (readOp e ln x .f32)) lns (squadOf dv e.sq) := by
  have hd : qsplitDone d x c dd e lns dv = applyEach 0 (lns.map fun ln => if splits c dd e lns ln
      then (ln, (fun q : Squad => q.write ln d .f32 (halfVal x c e lns).1), (halfVal x c e lns).2)
      else (ln, (fun q => q.write ln d .f32 (readOp e ln x .f32)), 0)) e dv := by
    unfold qsplitDone
    exact congrArg (fun rs => applyEach 0 rs e dv) (List.map_congr_left fun ln _ => if_congr (by simp [splits, and_assoc]) rfl rfl)
  rw [hd]
  exact applyEach_ite_spec hs d .f32 (fun ln => readOp e ln x .f32) ht

end

/-- The results of QSCALE, block after block, are one for each participant in its place (R151). -/
theorem qscaleDone_eq {fmt : Fmt} {rnd : Rnd} {d x : Opnd} {n : Nat} {e : Env} {lns : List Nat} (hup : lns.Pairwise (· < ·)) (h128 : ∀ ln ∈ lns, ln < 128)
    (dv : Dev) : qscaleDone fmt rnd d x n e lns dv = applyEach (drawsOf rnd 1) (lns.map fun ln =>
      (ln, (fun q : Squad => q.write ln d .n32 (scaleVal fmt rnd x n e lns ln)), scaleFl fmt rnd x n e lns ln)) e dv := by
  have hall : (lns.filter fun ln => ln / n < 127 / n + 1) = lns := List.filter_eq_self.2 fun ln hl => by
    have := Nat.div_le_div_right (c := n) (Nat.le_of_lt_succ (h128 ln hl))
    simp
    omega
  rw [← congrArg (List.map _) ((flatten_blocks n _ hup).trans hall), List.map_flatten, List.map_map]
  unfold qscaleDone
  refine congrArg (fun rs => applyEach _ rs e dv) (congrArg List.flatten (List.map_congr_left fun j _ => ?_))
  have hnd : (lns.filter fun ln => ln / n = j).Nodup := (hup.imp fun h => Nat.ne_of_lt h).filter _
  simp only [Function.comp]
  rw [zip_eq_map_getD (by simp [length_blockScale]) hnd (0, 0), List.map_map]
  refine List.map_congr_left fun ln hl => ?_
  have hj : ln / n = j := by simpa using (List.mem_filter.1 hl).2
  subst hj
  rfl

/-- QSCALE takes each participant's draw, raises its block's flags and its own, and writes its word (R151). -/
theorem qscaleDone_spec {fmt : Fmt} {rnd : Rnd} {d x : Opnd} {n : Nat} {e : Env} {lns : List Nat} {dv : Dev} (hs : (fget dv.squads e.sq).isSome = true)
    (hup : lns.Pairwise (· < ·)) (ht : ∀ ln ∈ lns, ln < 128 ∧ flTraps e.s.fpcr (scaleFl fmt rnd x n e lns ln) = false) :
    Kept e.sq dv (qscaleDone fmt rnd d x n e lns dv) ∧ squadOf (qscaleDone fmt rnd d x n e lns dv) e.sq =
      ranLanes (fun ln q => (takeDraws (drawsOf rnd 1) ln (q.raise (scaleFl fmt rnd x n e lns ln))).write ln d .n32 (scaleVal fmt rnd x n e lns ln)) lns
        (squadOf dv e.sq) := by
  rw [qscaleDone_eq hup fun ln hl => (ht ln hl).1]
  exact applyEach_ranLanes hs fun ln hl => (ht ln hl).2

/-- BALLOT to a register writes the word of the participants whose predicate holds (R115). -/
theorem ballotDone_register {d : Opnd} (hd : maskOf d = none) (a part : Opnd) (e : Env) (lns : List Nat) :
    ballotDone d a part e lns = writeAll d .n32 (maskWord (laneSet (lns.filter fun k => readQ e k a)) (immOf part)) e lns := by
  cases d with
  | m i => cases hd
  | _ => rfl

/-! ### Completion -/

/-- A gathering form that writes each participant a value, raising no flag, completes. -/
theorem gatherWrites_value {i : Instr} {mo d : Opnd} {t : Ty} {done : Env → List Nat → Dev → Dev} {v : Env → List Nat → Nat → DWord}
    (hi : ∀ s, exec i s = onDev (issueGather (rawOf i) mo noChk done) s) (hv : ∀ e e' lns, Env.Alike true e e' → v e lns = v e' lns)
    (hd : ∀ e lns dv, (fget dv.squads e.sq).isSome = true →
      Kept e.sq dv (done e lns dv) ∧ squadOf (done e lns dv) e.sq = ranLanes (fun ln q => q.write ln d t (v e lns ln)) lns (squadOf dv e.sq)) :
    GatherWrites i (maskOf mo) (fun _ _ => True) fun e lns ln q => q.write ln d t (v e lns ln) :=
  gatherWrites_of hi rfl (fun e e' lns h => by simp only [hv e e' lns h]) (fun _ _ _ _ _ => trivial) (fun _ _ ln _ _ k => k.write ln d t _)
    (fun _ _ ln q j => write_wait q ln d t _ j) fun e lns dv _ hs _ => hd e lns dv hs

/-- A gathering form that takes each participant's n draws, raises its flags and writes its value completes where its condition, read alike, holds. -/
theorem gatherWrites_flagged {i : Instr} {mo d : Opnd} {n : Nat} {t : Ty} {ok : Env → List Nat → Prop} {done : Env → List Nat → Dev → Dev}
    {fl : Env → List Nat → Nat → Fl} {v : Env → List Nat → Nat → DWord} (hi : ∀ s, exec i s = onDev (issueGather (rawOf i) mo noChk done) s)
    (ha : ∀ e e' lns, Env.Alike true e e' → fl e lns = fl e' lns ∧ v e lns = v e' lns ∧ (ok e' lns → ok e lns))
    (hd : ∀ e lns dv, lns.Pairwise (· < ·) → (fget dv.squads e.sq).isSome = true → ok e lns → Kept e.sq dv (done e lns dv) ∧
      squadOf (done e lns dv) e.sq = ranLanes (fun ln q => (takeDraws n ln (q.raise (fl e lns ln))).write ln d t (v e lns ln)) lns (squadOf dv e.sq)) :
    GatherWrites i (maskOf mo) ok fun e lns ln q => (takeDraws n ln (q.raise (fl e lns ln))).write ln d t (v e lns ln) :=
  gatherWrites_of hi rfl (fun e e' lns h => by simp only [(ha e e' lns h).1, (ha e e' lns h).2.1]) (fun e e' lns h => (ha e e' lns h).2.2)
    (fun _ _ ln _ _ k => ((k.raise _).takeDraws n ln).write ln d t _)
    (fun _ _ ln q j => (write_wait _ ln d t _ j).trans (takeDraws_wait (q.raise _) n ln j)) hd

theorem mwait_completes (h : Hd) (a : Opnd) : GatherWrites (.mwait h a) (maskOf a) (fun _ _ => True) fun _ _ _ q => q :=
  gatherWrites_of (fun _ => rfl) rfl (fun _ _ _ _ => rfl) (fun _ _ _ _ _ => trivial) (fun _ _ _ _ _ k => k) (fun _ _ _ _ _ => rfl)
    fun _ _ _ _ hs _ => adv_spec hs

theorem lred_completes (h : Hd) (op : RedOp) (t : Ty) (sat : Bool) (d a mc : Opnd) :
    GatherWrites (.lred h op t sat d a mc) (maskOf mc) (fun e lns => flTraps e.s.fpcr (redVal op t sat a e lns).2 = false)
      fun e lns ln q => (q.raise (redVal op t sat a e lns).2).write ln d t (redVal op t sat a e lns).1 :=
  gatherWrites_flagged (n := 0) (fl := fun e lns _ => (redVal op t sat a e lns).2) (v := fun e lns _ => (redVal op t sat a e lns).1) (fun _ => rfl)
    (fun _ _ lns k => by simp [redVal_alike k lns, k.s.fpcr]) fun _ _ _ _ hs ht => lredDone_spec hs ht

theorem lscan_completes (h : Hd) (op : RedOp) (exc : Bool) (t : Ty) (sat : Bool) (d a mc : Opnd) :
    GatherWrites (.lscan h op exc t sat d a mc) (maskOf mc) (fun e lns => flTraps e.s.fpcr (scanFl op exc t sat a e lns) = false)
      fun e lns ln q => (q.raise (scanFl op exc t sat a e lns)).write ln d t (scanVal op exc t sat a e lns ln).1 :=
  gatherWrites_flagged (n := 0) (fl := fun e lns _ => scanFl op exc t sat a e lns) (v := fun e lns ln => (scanVal op exc t sat a e lns ln).1) (fun _ => rfl)
    (fun _ _ lns k => by simp [scanFl_alike k lns, scanVal_alike k lns, k.s.fpcr]) fun _ _ _ _ hs ht => lscanDone_spec hs ht

theorem qscale_completes (h : Hd) (fmt : Fmt) (rnd : Rnd) (d x n mc : Opnd) :
    GatherWrites (.qscale h fmt rnd d x n mc) (maskOf mc)
      (fun e lns => ∀ ln ∈ lns, ln < 128 ∧ flTraps e.s.fpcr (scaleFl fmt rnd x (lutOf n) e lns ln) = false)
      fun e lns ln q => (takeDraws (drawsOf rnd 1) ln (q.raise (scaleFl fmt rnd x (lutOf n) e lns ln))).write ln d .n32 (scaleVal fmt rnd x (lutOf n) e lns ln) :=
  gatherWrites_flagged (fun _ => rfl) (fun _ _ lns k => by simp [scaleFl_alike k lns, scaleVal_alike k lns, k.s.fpcr])
    fun _ _ _ hup hs ht => qscaleDone_spec hs hup ht

theorem qsplit_completes (h : Hd) (d x c dd : Opnd) :
    GatherWrites (.qsplit h d x c dd) none (fun e lns => ∀ ln, splits c dd e lns ln → flTraps e.s.fpcr (halfVal x c e lns).2 = false)
      fun e lns ln q => if splits c dd e lns ln then (q.raise (halfVal x c e lns).2).write ln d .f32 (halfVal x c e lns).1
        else q.write ln d .f32 (readOp e ln x .f32) := by
  refine gatherWrites_of (mo := .none) (fun _ => rfl) rfl (fun e e' lns k => ?_) (fun e e' lns k ht => ?_) (fun e lns ln _ _ k => ?_) (fun e lns ln q j => ?_)
    fun _ _ _ _ hs ht => qsplitDone_spec hs ht
  · exact funext fun ln => funext fun q => if_congr (splits_alike k lns c dd ln) (by rw [halfVal_alike k]) (by rw [readOp_alike k])
  · rw [halfVal_alike k, k.s.fpcr]
    exact fun ln hl => ht ln ((splits_alike k lns c dd ln).1 hl)
  · split
    · exact (k.raise _).write ln d .f32 _
    · exact k.write ln d .f32 _
  · split <;> exact write_wait _ ln d .f32 _ j

/-- Settles O15: all lanes arrive at once, so the form's effect runs on them all, and each of them takes its result from what stood at issue. -/
theorem gatheringFormsComplete : Obligations.GatheringFormsComplete := by
  unfold Obligations.GatheringFormsComplete
  refine ⟨mwait_completes, fun h op d a mc => ?vote, fun h d a part mc hd => ?ballot, fun h md t d a b mc => ?shfl, fun h t d a src mc => ?lbcast,
    fun h t d a mc => ?lmatch, lred_completes, lscan_completes, qscale_completes, qsplit_completes⟩
  case vote =>
    refine gatherWrites_value (fun _ => rfl) (fun e e' lns k => by simp only [readQ_alike k]) fun e lns dv hs => ?_
    rw [voteOf_map]
    exact writeAll_spec hs
  case ballot =>
    refine gatherWrites_value (fun _ => rfl) (fun e e' lns k => by simp only [readQ_alike k]) fun e lns dv hs => ?_
    rw [ballotDone_register hd]
    exact writeAll_spec hs
  case shfl =>
    refine gatherWrites_value (fun _ => rfl) (fun e e' lns k => by simp only [readN32_alike k, readOp_alike k]) fun e lns dv hs => ?_
    simpa [and_assoc] using writeEach_spec hs
  case lbcast =>
    refine gatherWrites_value (fun _ => rfl) (fun e e' lns k => by simp only [readN32_alike k, readOp_alike k]) fun e lns dv hs => ?_
    simpa using writeEach_spec hs
  case lmatch =>
    exact gatherWrites_value (fun _ => rfl) (fun e e' lns k => by simp only [readOp_alike k]) fun e lns dv hs => writeEach_spec hs

end Sys2Proof.Machine
end

section
/-! Integer forms, ICMP and ISEL (R127, R129, R131): their lanes take the exact result, wrapped or clamped, of the operands read at issue. -/
namespace Sys2Proof.Machine

/-- A type of the form's wide results fills a pair of registers (R129). -/
theorem intDst_wideTy (t : Ty) : intDst (wideTy t) = .n64 := by
  unfold wideTy
  split <;> rfl

/-- A form that finishes an exact integer in each lane completes with it, wrapped or clamped, where no enabled trap is met (R127). -/
theorem givesFl_intOut {i : Instr} {t : Ty} {sat : Bool} {d : Opnd} {x : Env → Nat → Int}
    (hi : ∀ s, exec i s = onDev (issue (rawOf i) (applyOut (fun e ln s => intOut t sat d ln s (x e ln)) keepNone)) s)
    (hx : ∀ e e', Env.Alike false e e' → ∀ ln, x e ln = x e' ln) : GivesFl i 0 d (intDst t) fun e ln => intDone t sat (x e ln) :=
  givesFl_applyOut hi fun e e' h => funext fun ln => congrArg (intDone t sat) (hx e e' h ln)

theorem givesFl_int1 {i : Instr} {t : Ty} {sat : Bool} {d a : Opnd} (f : Int → Int)
    (hi : ∀ s, exec i s = onDev (issue (rawOf i) (int1 t sat d a f)) s) :
    GivesFl i 0 d (intDst t) fun e ln => intDone t sat (f (opInt e ln t a)) :=
  givesFl_intOut hi fun _ _ h ln => by rw [opInt_alike h]

theorem givesFl_int2 {i : Instr} {t : Ty} {sat : Bool} {d a b : Opnd} (f : Int → Int → Int)
    (hi : ∀ s, exec i s = onDev (issue (rawOf i) (int2 t sat d a b f)) s) :
    GivesFl i 0 d (intDst t) fun e ln => intDone t sat (f (opInt e ln t a) (opInt e ln t b)) :=
  givesFl_intOut hi fun _ _ h ln => by rw [opInt_alike h, opInt_alike h]

theorem givesFl_int3 {i : Instr} {t : Ty} {sat : Bool} {d a b c : Opnd} (f : Int → Int → Int → Int)
    (hi : ∀ s, exec i s = onDev (issue (rawOf i) (int3 t sat d a b c f)) s) :
    GivesFl i 0 d (intDst t) fun e ln => intDone t sat (f (opInt e ln t a) (opInt e ln t b) (opInt e ln t c)) :=
  givesFl_intOut hi fun _ _ h ln => by rw [opInt_alike h, opInt_alike h, opInt_alike h]

/-- IMADW finishes its sum at the 64-bit type of the same signedness, and writes a pair (R129). -/
theorem imadw_completes (h : Hd) (t : Ty) (sat acc : Bool) (d a b c : Opnd) : GivesFl (.imadw h t sat acc d a b c) 0 d .n64 fun e ln =>
    intDone (wideTy t) sat (opInt e ln t a * opInt e ln t b + opInt e ln (wideTy t) (if acc then d else c)) := by
  rw [← intDst_wideTy t]
  exact givesFl_intOut (fun _ => rfl) fun _ _ k ln => by simp only [opInt_alike k]

theorem icmp_completes (h : Hd) (cc : BitVec 3) (t : Ty) (d a b : Opnd) :
    Gives (.icmp h cc t d a b) d .n32 fun e ln => if iccHolds cc (opInt e ln t a) (opInt e ln t b) then 1 else 0 :=
  gives_regForm (fun _ => rfl) fun _ _ k => by simp only [opInt_alike k]

theorem isel_completes (h : Hd) (t : Ty) (d a b c : Opnd) :
    Gives (.isel h t d a b c) d t fun e ln => if readQ e ln c then readOp e ln a t else readOp e ln b t :=
  gives_regForm (fun _ => rfl) fun _ _ k => by simp only [readQ_alike k, readOp_alike k]

/-- Settles O8: each integer form finishes one exact function of the operands read at issue, and ICMP and ISEL write one value that raises no flag. -/
theorem integerFormsComplete : Obligations.IntegerFormsComplete := by
  unfold Obligations.IntegerFormsComplete
  refine ⟨?iadd, ?isub, ?iadd3, ?imul, ?imulh, ?imad, imadw_completes, ?imin, ?imax, ?iabs, ?ineg, ?iadd64, ?isub64, ?imul64, icmp_completes,
    isel_completes⟩
  case iadd => exact fun _ _ _ _ _ _ => givesFl_int2 (· + ·) fun _ => rfl
  case isub => exact fun _ _ _ _ _ _ => givesFl_int2 (· - ·) fun _ => rfl
  case iadd3 => exact fun _ _ _ _ _ _ _ => givesFl_int3 (fun x y z => x + y + z) fun _ => rfl
  case imul => exact fun _ _ _ _ _ _ => givesFl_int2 (· * ·) fun _ => rfl
  case imulh => exact fun _ _ _ _ _ => givesFl_int2 (fun x y => (x * y).fdiv 4294967296) fun _ => rfl
  case imad => exact fun _ _ _ _ _ _ _ _ => givesFl_int3 (fun x y z => x * y + z) fun _ => rfl
  case imin => exact fun _ _ _ _ _ => givesFl_int2 min fun _ => rfl
  case imax => exact fun _ _ _ _ _ => givesFl_int2 max fun _ => rfl
  case iabs => exact fun _ _ _ _ _ => givesFl_int1 (fun x => (x.natAbs : Int)) fun _ => rfl
  case ineg => exact fun _ _ _ _ _ => givesFl_int1 (fun x => -x) fun _ => rfl
  case iadd64 => exact fun _ _ _ _ _ _ => givesFl_int2 (· + ·) fun _ => rfl
  case isub64 => exact fun _ _ _ _ _ _ => givesFl_int2 (· - ·) fun _ => rfl
  case imul64 => exact fun _ _ hi _ _ _ => givesFl_int2 (fun x y => if hi then (x * y).fdiv 18446744073709551616 else x * y) fun _ => rfl

end Sys2Proof.Machine
end

section
/-! The power controller's registers (R430 to R436): what each effect on them keeps, and that no other instruction or turn touches them. -/
namespace Sys2Proof.Machine

/-! ### Maps whose entries have a property -/

theorem forall_fput {β : Type} {P : β → Prop} {m : FMap β} (h : ∀ p ∈ m, P p.2) (k : Nat) {v : β} (hv : P v) : ∀ p ∈ fput m k v, P p.2 := fun p hp => by
  rcases fput_mem hp with rfl | hp
  · exact hv
  · exact h p hp

theorem mem_of_fget {β : Type} {m : FMap β} {k : Nat} {v : β} (h : fget m k = some v) : (k, v) ∈ m := by
  induction m with
  | nil => cases h
  | cons p t ih =>
    obtain ⟨a, b⟩ := p
    simp only [fget] at h
    split at h
    · next e => cases h; subst e; exact List.mem_cons_self ..
    · exact List.mem_cons_of_mem _ (ih h)

theorem fgetD_forall {β : Type} {P : β → Prop} {m : FMap β} (h : ∀ p ∈ m, P p.2) (k : Nat) {x : β} (hx : P x) : P (fgetD m k x) := by
  unfold fgetD
  cases hk : fget m k with
  | none => exact hx
  | some v => exact h _ (mem_of_fget hk)

/-! ### Rails, clusters and weights -/

theorem nbits_lt (x i n : Nat) : nbits x i n < 2 ^ n := Nat.mod_lt _ (by positivity)

theorem railReset_legal (r : Nat) : (railReset r).legal := by
  have hi : ilimReset r < 1024 := by unfold ilimReset; split_ifs <;> decide
  exact ⟨hi, show 0 < 1024 ∧ 0 < 1024 ∧ 0 ≤ 8 ∧ 0 ≤ 7 ∧ 0 < 8 by decide⟩

theorem Power.legal.rail {p : Power} (h : p.legal) (r : Nat) : (railOf p r).legal := fgetD_forall h.rails r (railReset_legal r)
theorem Power.legal.pclu {p : Power} (h : p.legal) (c : Nat) : (pcluOf p c).legal := fgetD_forall h.clu c ⟨by decide, by decide⟩

theorem Power.legal.setRail {p : Power} (h : p.legal) (r : Nat) {x : Rail} (hx : x.legal) : ({ p with rails := fput p.rails r x } : Power).legal :=
  { h with rails := forall_fput h.rails r hx }

theorem Power.legal.setClu {p : Power} (h : p.legal) (c : Nat) {x : PCluster} (hx : x.legal) : ({ p with clu := fput p.clu c x } : Power).legal :=
  { h with clu := forall_fput h.clu c hx }

/-- The limiter keeps a rail's fields, its code's too (R431). -/
theorem limit_legal {x : Rail} (h : x.legal) (code : Nat) : (limit x code).legal := by
  obtain ⟨hilim, hcode, hlast, hstep, hwhld, hquiet⟩ := h
  unfold limit
  split_ifs <;> refine ⟨hilim, hcode, hlast, ?_, ?_, ?_⟩ <;> simp only <;> omega

theorem length_writeWeight (ws : List Weight) (j : Nat) (v : BitVec 16) : (writeWeight ws j v).length = ws.length := by simp [writeWeight]

theorem setWeight_legal {p : Power} (h : p.legal) (up : Bool) (j : Nat) (v : BitVec 16) : (setWeight p up j v).legal := by
  obtain ⟨hcl, hup⟩ := h.sets
  cases up
  · exact { h with sets := ⟨(length_writeWeight ..).trans hcl, hup⟩ }
  · exact { h with sets := ⟨hcl, (length_writeWeight ..).trans hup⟩ }

theorem refit_legal {p : Power} (h : p.legal) (ws : List (BitVec 16)) : (refit p ws).legal :=
  List.foldlRecOn (motive := Power.legal) _ _ h fun q hq w _ => by
    split
    · exact setWeight_legal hq ..
    · exact setWeight_legal hq ..

/-! ### Samples, releases and register writes -/

theorem sampleRail_legal {s : State} (h : s.power.legal) (r : Nat) (ma : Option Nat) : (sampleRail s r ma).power.legal := by
  obtain ⟨hilim, hcode, hlast, hstep, hwhld, hquiet⟩ := h.rail r
  unfold sampleRail
  split
  · exact h
  · refine h.setRail r (limit_legal ?_ _)
    cases ma with
    | some i => exact ⟨hilim, Nat.lt_succ_of_le (min_le_left ..), Nat.lt_succ_of_le (min_le_left ..), hstep, hwhld, hquiet⟩
    | none =>
      dsimp only
      split
      · exact ⟨hilim, Nat.lt_succ_of_le (min_le_left ..), hlast, hstep, hwhld, hquiet⟩
      · exact ⟨hilim, hlast, hlast, hstep, hwhld, hquiet⟩

theorem levelOf_le (p : Power) (x : Heat) : levelOf p x ≤ 3 := by
  unfold levelOf
  split
  dsimp only
  split_ifs <;> decide

/-- A cluster's response to heat keeps its floors in range (R435). -/
theorem respond_legal {b : PCluster} (h : b.legal) (l : List (Heat × Nat)) : (respond l b).legal := by
  obtain ⟨hfloor, hthermal⟩ := h
  refine ⟨hfloor, ?_⟩
  simp only [respond]
  split_ifs with h2 h1
  · decide
  · simp only [Bool.and_eq_true, decide_eq_true_eq] at h1; omega
  · exact hthermal

theorem worst_le {l : List (Heat × Nat)} (h : ∀ x ∈ l, x.2 ≤ 3) : (worst l).1 ≤ 3 :=
  List.foldlRecOn (motive := fun b : Nat × Nat × Nat => b.1 ≤ 3) _ _ (by decide) fun b hb x hx => by
    split
    · exact h x hx
    · exact hb

theorem responds_legal {m : FMap PCluster} (h : ∀ c ∈ m, c.2.legal) (l : Nat → List (Heat × Nat)) (cs : List Nat) :
    ∀ c ∈ cs.foldl (fun m c => fput m c (respond (l c) (fgetD m c {}))) m, c.2.legal := by
  induction cs generalizing m with
  | nil => exact h
  | cons c cs ih => exact ih (forall_fput h c (respond_legal (fgetD_forall h c ⟨by decide, by decide⟩) _))

/-- What a reading of the sensors changes of the controller's registers that have ranges: floors and the level (R434, R435). -/
theorem Power.legal.heated {p : Power} (h : p.legal) {clu : FMap PCluster} (hclu : ∀ c ∈ clu, c.2.legal) {level : Nat} (hl : level ≤ 3)
    (sens : FMap Sensor) (pair qty : Nat) (held : FMap Nat) (tripped : Bool) : Power.legal { p with sens, clu, level, pair, qty, held, tripped } :=
  { h with clu := hclu, level := hl }

theorem sampleSensors_legal {s : State} (h : s.power.legal) (ts : List (Option Int)) : (sampleSensors s ts).power.legal := by
  unfold sampleSensors
  refine h.heated (responds_legal h.clu _ _) (worst_le fun x hx => ?_) ..
  obtain ⟨y, -, rfl⟩ := List.mem_map.1 hx
  exact levelOf_le _ y

theorem coolDown_legal {p : Power} (h : p.legal) (c : Nat) : (coolDown p c).legal := by
  obtain ⟨hfloor, hthermal⟩ := h.pclu c
  unfold coolDown
  dsimp only
  split
  · exact h
  · exact h.setClu c ⟨hfloor, by dsimp only; split <;> omega⟩

theorem limField_le {old new rst : Nat} (h : old ≤ rst) : limField old new rst ≤ rst := by unfold limField; split <;> assumption

theorem writeBlock_legal {p : Power} (h : p.legal) (off x : Nat) : (writeBlock p off x).legal := by
  obtain ⟨hlower, hupper, hvert, hlat⟩ := h.limits
  unfold writeBlock
  split_ifs
  · exact h
  · obtain ⟨-, hrest⟩ := h.rail (off / 8)
    exact h.setRail _ ⟨nbits_lt x 16 10, hrest⟩
  · exact h
  · exact h.setClu _ (h.pclu _)
  · exact h.setClu _ ⟨min_le_left .., (h.pclu _).2⟩
  · exact { h with limits := ⟨limField_le hlower, limField_le hupper, limField_le hvert, limField_le hlat⟩ }
  · exact h

theorem powerReset_legal : powerReset.legal :=
  ⟨by simp [powerReset], by simp [powerReset], by decide, by decide, rfl, rfl⟩

/-! ### The host's writes (R436, R444) -/

theorem writeRegister_legal {s : State} (h : s.power.legal) (r : HostReg) (x : DWord) : (writeRegister s r x).power.legal := by
  cases r with
  | block off => exact writeBlock_legal h ..
  | arg n => unfold writeRegister; dsimp only; split <;> exact h
  | _ => exact h

theorem blockWrite_legal {s : State} (h : s.power.legal) (off x : Nat) : (blockWrite s off x).power.legal := by
  unfold blockWrite
  split_ifs
  · exact setWeight_legal h false _ _
  · exact setWeight_legal h true _ _
  · exact h
  · exact h
  · exact writeBlock_legal h _ _

theorem ringDoorbell_legal {s : State} (h : s.power.legal) (x : Nat) : (ringDoorbell x s).power.legal := by
  unfold ringDoorbell
  split
  case h_7 => split; exacts [h, powerReset_legal]
  all_goals exact h

theorem barWord_legal {s : State} (h : s.power.legal) (off v : Nat) : (barWord off v s).power.legal := by
  unfold barWord
  split
  · dsimp only
    split_ifs
    · exact ringDoorbell_legal h v
    · exact writeRegister_legal h ..
    · exact writeRegister_legal h ..
    · exact h
  · split
    · exact blockWrite_legal h ..
    · split_ifs
      · exact writeRegister_legal h ..
      · exact writeRegister_legal h ..
      · exact writeRegister_legal h ..
      · exact h
    · exact h

theorem hostStore_legal {s : State} (h : s.power.legal) (a : HostAddr) (bs : List Byte) : (hostStore s a bs).power.legal := by
  unfold hostStore
  split
  · exact h
  · cases a with
    | bar0 o =>
      show (barWrite o bs s).power.legal
      unfold barWrite
      split
      · exact h
      · exact List.foldlRecOn (motive := fun s : State => s.power.legal) _ _ h fun s hs i _ => barWord_legal hs ..
    | _ => exact h

theorem hostLoad_power (s : State) (a : HostAddr) (n : Nat) : (hostLoad s a n).power = s.power := by
  unfold hostLoad
  split
  · rfl
  · cases a <;> rfl

/-! ### Every step -/

/-- The events that act on more than the device's own state: on power, trust or both. -/
def actsBeyondDev : Instr → Bool
  | .railSample .. | .weightRefit .. | .sensorSample .. | .thermalRelease .. | .wgtWrite .. | .registerWrite .. | .mailboxDeviceReset
  | .mailboxAttestation | .deviceReset | .powerLoss | .hostRead .. | .hostWrite .. => true
  | _ => false

/-- Every other instruction and event changes the device's own state alone. -/
theorem exec_dev_alone {i : Instr} (h : actsBeyondDev i = false) (s : State) : ∃ d, exec i s = .next { s with dev := d } := by
  cases i
  case railSample | weightRefit | sensorSample | thermalRelease | wgtWrite | registerWrite | mailboxDeviceReset | mailboxAttestation | deviceReset |
    powerLoss | hostRead | hostWrite => cases h
  all_goals exact ⟨_, rfl⟩

theorem exec_legal {i : Instr} {s t : State} (he : exec i s = .next t) (h : s.power.legal) : t.power.legal := by
  by_cases hi : actsBeyondDev i = false
  · obtain ⟨d, hd⟩ := exec_dev_alone hi s
    cases hd.symm.trans he
    exact h
  · cases i
    case railSample r v ma => cases he; exact sampleRail_legal h ..
    case weightRefit ws => cases he; exact refit_legal h ws
    case sensorSample ts => cases he; exact sampleSensors_legal h ts
    case thermalRelease c => cases he; exact coolDown_legal h c
    case wgtWrite up j v => cases he; exact setWeight_legal h ..
    case registerWrite r x => cases he; exact writeRegister_legal h ..
    case mailboxDeviceReset => cases he; dsimp only; split; exacts [h, powerReset_legal]
    case mailboxAttestation => cases he; exact h
    case deviceReset => cases he; exact powerReset_legal
    case powerLoss => cases he; exact h
    case hostRead a n => cases he; rw [hostLoad_power]; exact h
    case hostWrite a bs => cases he; exact hostStore_legal h ..
    all_goals exact absurd rfl hi

/-- Every step is the refusal of a device without power, nothing, an instruction or event on a state of the same power and trust, or a part that acts on its own. -/
theorem step_cases {s t : State} (h : step s = .next t) :
    (∃ d, t = { s with dev := d } ∧ (d = (nextTurn s.dev).2 ∨ (∃ u lns, (nextTurn s.dev).1 = .issue u lns ∧ bundleTurn (nextTurn s.dev).2 u lns = .done d) ∨
      d = background (nextTurn s.dev).1 (noteAble { s with dev := (nextTurn s.dev).2 } (nextTurn s.dev).1))) ∨
    (∃ u lns i d, (nextTurn s.dev).1 = .issue u lns ∧ bundleTurn (nextTurn s.dev).2 u lns = .run i d ∧ exec i { s with dev := d } = .next t) ∨
    ∃ i, (nextTurn s.dev).1 = .event i ∧
      exec i { s with dev := { countTurn (noteAble { s with dev := (nextTurn s.dev).2 } (.event i)) (.event i) with cur := none } } = .next t := by
  unfold step at h
  generalize nextTurn s.dev = p at h ⊢
  obtain ⟨turn, d⟩ := p
  dsimp only at h ⊢
  by_cases hpow : noPower s turn = true
  · rw [if_pos hpow] at h; cases h
  rw [if_neg hpow] at h
  by_cases hres : stillReset s turn = true
  · rw [if_pos hres] at h; cases h; exact .inl ⟨_, rfl, .inl rfl⟩
  rw [if_neg hres] at h
  cases turn
  case issue u lns =>
    dsimp only at h
    split at h
    · next i d' hb => exact .inr (.inl ⟨u, lns, i, d', rfl, hb, h⟩)
    · next d' hb => cases h; exact .inl ⟨_, rfl, .inr (.inl ⟨u, lns, rfl, hb⟩)⟩
  case event i => exact .inr (.inr ⟨i, rfl, h⟩)
  all_goals cases h; exact .inl ⟨_, rfl, .inr (.inr rfl)⟩

/-- Settles O4. -/
theorem powerLegalAtReset : Obligations.PowerLegalAtReset := powerReset_legal

/-- Settles O5: a step is an instruction, an event or a part of the device alone, and of these only the power events and the host's writes touch the controller. -/
theorem powerStaysLegal : Obligations.PowerStaysLegal := by
  unfold Obligations.PowerStaysLegal
  intro s t h hs
  rcases step_cases hs with ⟨d, rfl, -⟩ | ⟨u, lns, i, d, -, -, he⟩ | ⟨i, -, he⟩
  · exact h
  · exact exec_legal he h
  · exact exec_legal he h

end Sys2Proof.Machine
end

section
/-! Words: the fields, descriptors and headers read back from their bits (R11, R24, R33), what a bundle's turn runs (R269), and what a reset leaves (R447). -/
namespace Sys2Proof.Machine

/-! ### Words -/

theorem ofDesc_desc {o : Opnd} (h : o.named = true) : Opnd.ofDesc o.desc = some o := by
  cases o
  case lit => cases h
  case m i =>
    unfold Opnd.ofDesc
    simp -index only [Opnd.desc, BitVec.extractLsb'_append_eq_ite, BitVec.getLsbD_append]
    simpa [Opnd.named] using h
  case sys i =>
    unfold Opnd.ofDesc
    simp -index only [Opnd.desc, BitVec.extractLsb'_append_eq_ite, BitVec.getLsbD_append]
    simpa [Opnd.named] using h
  all_goals
    unfold Opnd.ofDesc
    simp -index only [Opnd.desc, BitVec.extractLsb'_append_eq_ite, BitVec.getLsbD_append]
    simp

theorem ofWord_word (f : Fields) : Fields.ofWord f.word = f := by
  obtain ⟨opc, ⟨grd, hnt⟩, mod, lit, fd, fa, fb, fc⟩ := f
  simp -index only [Fields.ofWord, Fields.word, wbits, BitVec.extractLsb'_append_eq_ite, BitVec.getLsbD_append]
  simp

theorem formOfOpc_opc (f : Form) : formOfOpc f.opc = some f := by
  cases f <;> decide +kernel

theorem headerOf_headerWord {len : BitVec 4} {w : BitVec 12} {a b : FlagSel} {c : BitVec 2} {yp : Bool} (hl : len ≠ 0#4) (ha : a.ok = true) (hb : b.ok = true) :
    headerOf (headerWord len w a b c yp) = some (.clauseEntry len w a b c yp) := by
  obtain ⟨va, fa⟩ := a
  obtain ⟨vb, fb⟩ := b
  unfold headerOf
  simp -index only [headerWord, wbits, BitVec.extractLsb'_append_eq_ite, BitVec.getLsbD_append]
  simp [hl, ha, hb]

theorem wordOfBytes_bytesOfWord (x : BitVec 96) : wordOfBytes (bytesOfWord x) = some x := by
  have e : wordOfBytes (bytesOfWord x) = some (x.extractLsb' 88 8 ++ x.extractLsb' 80 8 ++ x.extractLsb' 72 8 ++ x.extractLsb' 64 8 ++ x.extractLsb' 56 8 ++ x.extractLsb' 48 8 ++
      x.extractLsb' 40 8 ++ x.extractLsb' 32 8 ++ x.extractLsb' 24 8 ++ x.extractLsb' 16 8 ++ x.extractLsb' 8 8 ++ x.extractLsb' 0 8) := rfl
  rw [e]
  simp -index only [BitVec.extractLsb'_append_extractLsb'_eq_extractLsb', Nat.reduceAdd, BitVec.extractLsb'_eq_self]

theorem decodeBytes_bytesOfWord (x : BitVec 96) : decodeBytes (bytesOfWord x) = (decodeWord x).map fun i => (i, []) := by
  have ht : (bytesOfWord x).take 12 = bytesOfWord x := rfl
  have hd : (bytesOfWord x).drop 12 = [] := rfl
  rw [decodeBytes, ht, wordOfBytes_bytesOfWord, hd]

theorem decodeTableWord_toNat (x : BitVec 96) : decodeTableWord 96 x.toNat = decodeWord x := by
  rw [decodeTableWord, BitVec.ofNat_toNat, BitVec.setWidth_eq, decodeBytes_bytesOfWord, Option.map_map]
  cases decodeWord x <;> rfl

theorem formOfOpc_header : formOfOpc 0x3FF#10 = none := by decide +kernel

/-- A word that a clause body holds as an instruction reads as it wherever it stands: no instruction has a header's opcode. -/
theorem decodeWord_of_decodeBody {x : BitVec 96} {i : Instr} (h : decodeBody x = .ok i) : decodeWord x = some i := by
  have ho : wbits x 0 10 ≠ 0x3FF#10 := fun e => by
    simp only [decodeBody, Fields.ofWord, e, formOfOpc_header] at h
    cases h
  rw [decodeWord, if_neg (by simpa using ho), h]

theorem Slot.named_of_ok {s : Slot} {o : Opnd} (h : s.ok o = true) : o.named = true := by
  cases o
  case m => exact (Bool.and_eq_true_iff.1 h).2
  case sys => exact (Bool.and_eq_true_iff.1 h).2
  case lit => cases h
  all_goals rfl

theorem ofDesc_of_ok {s : Slot} {o : Opnd} (h : s.ok o = true) : Opnd.ofDesc o.desc = some o := ofDesc_desc (Slot.named_of_ok h)

/-- The words of a checked set of operands read as the instruction that the set stands for. -/
theorem decodeBody_fields {r : Raw} (h : r.ok = true) : decodeBody r.fields.word = .ok (build r) := by
  obtain ⟨form, hd, m, fd, fa, fb, fc⟩ := r
  simp only [Raw.ok, Bool.and_eq_true, bne_iff_ne] at h
  obtain ⟨⟨⟨⟨⟨hmod, hlit⟩, hsel⟩, hfd⟩, hfa⟩, hfbc⟩ := h
  by_cases hl : ∃ x, fb = .lit x
  · obtain ⟨x, rfl⟩ := hl
    have hc : fc = .none := by simpa using hfbc
    subst hc
    have hx : x.extractLsb' 16 16 ++ x.extractLsb' 0 16 = x := BitVec.extractLsb'_append_extractLsb'
    have hr : (Raw.fields ⟨form, hd, m, fd, fa, .lit x, .none⟩).raw form = ⟨form, hd, m, fd, fa, .lit x, .none⟩ := by
      simp [Raw.fields, Fields.raw, ofDesc_of_ok hfd, ofDesc_of_ok hfa, hx]
    have hlit' : (form.spec ⟨form, hd, m, fd, fa, .lit x, .none⟩).lit.ok m true = true := hlit
    simp only [decodeBody, ofWord_word]
    simp only [show (Raw.fields ⟨form, hd, m, fd, fa, .lit x, .none⟩).opc = form.opc from rfl, formOfOpc_opc, hr]
    simp [Raw.fields, slotViews, hmod, hlit', hsel, ofDesc_of_ok hfd, ofDesc_of_ok hfa, SlotView.ok, hfd, hfa]
  · have hn : fb.isLit = false := by cases fb <;> first | rfl | exact absurd ⟨_, rfl⟩ hl
    have hfs : Raw.fields ⟨form, hd, m, fd, fa, fb, fc⟩ = ⟨form.opc, hd, m, false, fd.desc, fa.desc, fb.desc, fc.desc⟩ := by
      cases fb <;> first | rfl | exact absurd ⟨_, rfl⟩ hl
    have hbc : (form.spec ⟨form, hd, m, fd, fa, fb, fc⟩).fb.ok fb = true ∧ (form.spec ⟨form, hd, m, fd, fa, fb, fc⟩).fc.ok fc = true := by
      cases fb <;> first | exact Bool.and_eq_true_iff.1 hfbc | exact absurd ⟨_, rfl⟩ hl
    have hr : (Raw.fields ⟨form, hd, m, fd, fa, fb, fc⟩).raw form = ⟨form, hd, m, fd, fa, fb, fc⟩ := by
      simp [hfs, Fields.raw, ofDesc_of_ok hfd, ofDesc_of_ok hfa, ofDesc_of_ok hbc.1, ofDesc_of_ok hbc.2]
    rw [hn] at hlit
    simp only [decodeBody, ofWord_word]
    simp only [show (Raw.fields ⟨form, hd, m, fd, fa, fb, fc⟩).opc = form.opc by rw [hfs], formOfOpc_opc, hr]
    simp [hfs, slotViews, hmod, hlit, hsel, ofDesc_of_ok hfd, ofDesc_of_ok hfa, ofDesc_of_ok hbc.1, ofDesc_of_ok hbc.2, SlotView.ok, hfd, hfa, hbc.1, hbc.2]

/-- Settles O6: the fields, the descriptors and the header are each read back from their bits, and the checks that make the instruction well-formed are the decoder's. -/
theorem decodeEncode : Obligations.DecodeEncode := by
  unfold Obligations.DecodeEncode
  intro i x hi hx
  have hw : decodeWord x = some i := by
    unfold Instr.wf at hi
    unfold encode at hx
    cases hr : i.raw with
    | some r =>
      rw [hr] at hi hx
      obtain ⟨hok, hb⟩ := Bool.and_eq_true_iff.1 hi
      cases hx
      exact (decodeWord_of_decodeBody (decodeBody_fields hok)).trans (congrArg some (beq_iff_eq.1 hb))
    | none =>
      rw [hr] at hi hx
      cases i <;> cases hr <;> cases hx
      next len w a b c yp =>
        simp only [Bool.and_eq_true, bne_iff_ne] at hi
        obtain ⟨⟨hl, ha⟩, hb⟩ := hi
        have ho : (wbits (headerWord len w a b c yp) 0 10 == 0x3FF#10) = true := by
          simp -index only [headerWord, wbits, BitVec.extractLsb'_append_eq_ite]
          simp
        rw [decodeWord, if_pos ho, headerOf_headerWord hl ha hb]
  exact ⟨hw, (decodeTableWord_toNat x).trans hw⟩

/-- Settles O1: the decoder's own evaluation of each word. -/
theorem encodingsReadRight : Obligations.EncodingsReadRight := by
  unfold Obligations.EncodingsReadRight
  refine ⟨?_, ?_, ?_, ?_, ?_, ?_, ?_⟩ <;> decide +kernel

/-! ### A bundle's turn -/

theorem lane_pathTaken (d : Dev) (u : Nat) (lns : List Nat) (ln : Nat) : (squadOf (pathTaken d u lns) u).lane ln = (squadOf d u).lane ln := by
  unfold pathTaken
  split
  · next hd =>
    rw [squadOf_setSquad]
    · rfl
    · cases hf : fget d.squads u with
      | none => rw [show squadOf d u = {} by rw [squadOf, fgetD, hf]; rfl] at hd; cases hd
      | some q => rfl
  · rfl

/-- A bundle none of whose lanes takes a held cause or reads its header again, or waits for flags inside its clause, has its word fetched. -/
theorem bundleTurn_fetches {d : Dev} {u a : Nat} {ask rest : List Nat} (hm : mayIssue d u (squadOf d u) = true) (hd : detTurn d u (squadOf d u) = true)
    (hb : formBundle d u ask = a :: rest) (hl : ∀ ln ∈ a :: rest, (laneOf d u ln).due = none ∧ (laneOf d u ln).reload = false)
    (hr : (laneOf d u a).hofs = 0 ∨ ∀ ln ∈ a :: rest, (laneOf d u ln).recheck = false) :
    bundleTurn d u ask = fetchFor (pathTaken d u (a :: rest)) u (a :: rest) a := by
  have hdue : ((a :: rest).filter fun ln => ((squadOf d u).lane ln).due.isSome) = [] :=
    List.filter_eq_nil_iff.2 fun ln h => by rw [show ((squadOf d u).lane ln).due = none from (hl ln h).1]; decide
  have hrel : ((a :: rest).filter fun ln => ((squadOf d u).lane ln).reload) = [] :=
    List.filter_eq_nil_iff.2 fun ln h => by rw [show ((squadOf d u).lane ln).reload = false from (hl ln h).2]; decide
  simp only [bundleTurn, hm, hd, hb, hdue, hrel, reloadClause]
  by_cases h0 : ((squadOf d u).lane a).hofs = 0
  · simp [h0]
  · have hrec : ((a :: rest).filter fun ln => ((squadOf (pathTaken d u (a :: rest)) u).lane ln).recheck) = [] :=
      List.filter_eq_nil_iff.2 fun ln h => by
        rw [lane_pathTaken, show ((squadOf d u).lane ln).recheck = false from (hr.resolve_left h0) ln h]; decide
    simp [waitAgain, hrec]

theorem step_of_live {s : State} {t : Turn} {d : Dev} (hl : live s) (ht : nextTurn s.dev = (t, d)) :
    step s = match t with
      | .issue u lns => match bundleTurn d u lns with
        | .run i d => exec i { s with dev := d }
        | .done d => .next { s with dev := d }
      | .event i => exec i { s with dev := { countTurn (noteAble { s with dev := d } t) t with cur := none } }
      | t => .next { s with dev := background t (noteAble { s with dev := d } t) } := by
  obtain ⟨hp, htr, hre⟩ := hl
  have h1 : noPower s t = false := by simp [noPower, hp, htr]
  have h2 : stillReset s t = false := by simp [stillReset, hre]
  simp only [step, ht, h1, h2]
  cases t <;> rfl

/-- Settles O2. -/
theorem stepRunsDecoded : Obligations.StepRunsDecoded := by
  unfold Obligations.StepRunsDecoded
  refine ⟨?_, ?_, ?_⟩
  · intro s u a ask rest d d2 x i hs ht hm hd hb hl h0 d1 hf hx
    have hw := decodeWord_of_decodeBody hx
    refine ⟨?_, hw, by rw [decodeBytes_bytesOfWord, hw]; rfl⟩
    have hz : (laneOf d1 u a).hofs ≠ 0 := fun e => h0 ((congrArg Lane.hofs (lane_pathTaken d u (a :: rest) a)).symm.trans e)
    have hpc : (laneOf d1 u a).pc = (laneOf d u a).pc := congrArg Lane.pc (lane_pathTaken d u (a :: rest) a)
    rw [step_of_live hs ht]
    simp only [bundleTurn_fetches hm hd hb (fun ln h => ⟨(hl ln h).1, (hl ln h).2.1⟩) (.inr fun ln h => (hl ln h).2.2), fetchFor]
    rw [if_neg hz, hpc, hf]
    simp only [hx]
  · intro s u a ask rest d d2 i hs ht hm hd hb hl h0 d1 hf
    have hz : (laneOf d1 u a).hofs = 0 := (congrArg Lane.hofs (lane_pathTaken d u (a :: rest) a)).trans h0
    have hpc : (laneOf d1 u a).pc = (laneOf d u a).pc := congrArg Lane.pc (lane_pathTaken d u (a :: rest) a)
    rw [step_of_live hs ht]
    simp only [bundleTurn_fetches hm hd hb hl (.inl h0), fetchFor]
    rw [if_pos hz, hpc, hf]
  · intro s i d hs ht
    rw [step_of_live hs ht]

/-- Settles O3: nothing is listed, so every part stands at its reset value. -/
theorem resetState : Obligations.ResetState := by
  unfold Obligations.ResetState
  exact ⟨rfl, rfl, rfl, rfl, rfl, rfl, rfl, rfl, fun _ => rfl, fun _ => ⟨rfl, rfl, rfl, rfl, rfl, rfl, rfl⟩, fun _ => ⟨rfl, rfl, rfl⟩, fun _ => ⟨rfl, rfl⟩, fun _ => ⟨rfl, rfl, rfl⟩,
    rfl, rfl, rfl, rfl, rfl, rfl⟩

end Sys2Proof.Machine
end

section
/-! Division, bit, floating and conversion forms and moves (R122 to R154, R217): each completes with a value of the operands read at issue. -/
namespace Sys2Proof.Machine

/-! ### Division (R130) -/

theorem intDst_of_narrow {t : Ty} (h : t.wid = 8 ∨ t.wid = 16 ∨ t.wid = 32) : intDst t = .n32 := if_neg (by omega)

/-- What a division by 0 gives: the type's largest value, or its smallest where the dividend is negative. -/
theorem dividedByZero_eq (t : Ty) (x : Int) :
    (if t.signed && decide (x < 0) then intMin t else intMax t) = if t.signed = false then 2 ^ t.wid - 1 else if 0 ≤ x then 2 ^ (t.wid - 1) - 1 else -2 ^ (t.wid - 1) := by
  unfold intMin intMax
  cases t.signed
  · simp
  · by_cases hx : x < 0
    · simp [hx, Int.not_le.2 hx]
    · simp [hx, Int.not_lt.1 hx]

theorem divOut_eq {t : Ty} (h : t.wid = 8 ∨ t.wid = 16 ∨ t.wid = 32) (sat : Bool) (d : Opnd) (ln : Nat) (s : Squad) (x y : Int) :
    let r := if y = 0 then (intBits t (if t.signed = false then 2 ^ t.wid - 1 else if 0 ≤ x then 2 ^ (t.wid - 1) - 1 else -2 ^ (t.wid - 1)), flDZ)
      else intDone t sat (x.tdiv y)
    divOut t sat d ln s x y = ⟨s.write ln d .n32 r.1, r.2⟩ := by
  unfold divOut
  split
  · rw [dividedByZero_eq]
  · simp only [intOut, intDst_of_narrow h]

theorem remOut_eq {t : Ty} (h : t.wid = 8 ∨ t.wid = 16 ∨ t.wid = 32) (d : Opnd) (ln : Nat) (s : Squad) (x y : Int) :
    let r := if y = 0 then (intBits t x, flDZ) else intDone t false (x.tmod y)
    remOut t d ln s x y = ⟨s.write ln d .n32 r.1, r.2⟩ := by
  unfold remOut
  split
  · rfl
  · simp only [intOut, intDst_of_narrow h]

/-- Settles O9: a division's outcome is one value with its flags, of the operands read at issue. -/
theorem divisionComplete : Obligations.DivisionComplete := by
  unfold Obligations.DivisionComplete
  refine ⟨fun h t sat d a b ht => givesFl_applyOut (keep := keepNone) (fun s => ?_) fun e e' k => ?_, fun h t d a b ht => givesFl_applyOut (keep := keepNone) (fun s => ?_) fun e e' k => ?_⟩
  · show execIdiv h t sat d a b s = _
    simp only [execIdiv, divOut_eq ht]
    rfl
  · simp only [opInt_alike k]
  · show execIrem h t d a b s = _
    simp only [execIrem, remOut_eq ht]
    rfl
  · simp only [opInt_alike k]

/-! ### Bit forms (R133 to R138, R217) -/

/-- Settles O10: each form writes one value of its operands, and QLOP a predicate's. -/
theorem bitFormsComplete : Obligations.BitFormsComplete := by
  unfold Obligations.BitFormsComplete
  refine ⟨?_, ?_, ?_, ?_, ?_, ?qlop, ?_, ?_, ?_, ?_, ?_, ?_, ?_, ?_, ?_, ?_, ?_, ?_, ?_, ?_, ?_, ?_, ?_⟩
  case qlop => exact fun _ _ _ _ _ => writesRegs_applyRegs (fun _ => rfl) (fun _ ln _ _ k => k.write ln _ _ _) fun e e' k => by simp only [readQ_alike k]
  all_goals
    intros
    exact gives_regForm (fun _ => rfl) fun e e' k => by simp only [readOp_alike k, readN32_alike k]

/-! ### Floating forms (R139 to R147) -/

theorem givesFl_fpForm {i : Instr} {n : Nat} {d : Opnd} {t : Ty} {v : Env → Nat → DWord × Fl} (hi : ∀ s, exec i s = onDev (issue (rawOf i) (fpForm t d n v)) s)
    (he : ∀ e e', Env.Alike false e e' → v e = v e') : GivesFl i n d t v := givesFl_applyOut hi he

/-- Settles O13: each form writes one value with its flags, after the draws its rounding takes; FCLASS raises none. -/
theorem floatFormsComplete : Obligations.FloatFormsComplete := by
  unfold Obligations.FloatFormsComplete
  refine ⟨?_, ?_, ?_, ?_, ?_, ?_, ?_, ?_, ?_, ?_, ?_, ?_, ?_, ?_, ?_, ?fcmp, ?dcmp, ?fclass, ?_, ?_, ?_, ?_, ?_, ?_, ?_, ?_, ?_⟩
  case fcmp => exact fun _ _ _ _ _ _ => givesFl_applyOut (keep := keepNone) (fun _ => rfl) fun e e' k => by simp only [opFV_alike k]
  case dcmp => exact fun _ _ _ _ _ => givesFl_applyOut (keep := keepNone) (fun _ => rfl) fun e e' k => by simp only [opFV_alike k]
  case fclass => exact fun _ _ _ _ => gives_regForm (fun _ => rfl) fun e e' k => by simp only [opFV_alike k]
  all_goals
    intros
    exact givesFl_fpForm (fun _ => rfl) fun e e' k => by simp only [opFV_alike k, drawOf_alike k, readPacked_alike k, readOp_alike k]

/-! ### Conversions and moves (R122, R124, R149 to R153) -/

theorem alike_setPredicates {a b : Squad} (h : Squad.Alike false a b) (ln : Nat) (x : BitVec 7) :
    Squad.Alike false (a.setLane ln fun l => { l with q := x }) (b.setLane ln fun l => { l with q := x }) :=
  h.setLane ln _ fun _ _ => Lane.bare_map (fun l => { l with q := x }) fun _ _ _ _ _ _ => rfl

theorem movqAll_completes (h : Hd) (d x : Opnd) : WritesRegs (.movqAll h d x) always fun e ln q =>
    if d = .none then q.setLane ln fun l => { l with q := (readOp e ln x .n32).extractLsb' 1 7 }
    else q.write ln d .n32 (BitVec.ofNat 64 (1 + 2 * (e.s.lane ln).q.toNat)) := by
  refine writesRegs_applyRegs (fun _ => rfl) (fun e ln a b k => ?_) fun e e' k => by simp only [readOp_alike k, k.s.q]
  split
  · exact alike_setPredicates k ln _
  · exact k.write ln d .n32 _

/-- Settles O14. -/
theorem conversionsAndMovesComplete : Obligations.ConversionsAndMovesComplete := by
  unfold Obligations.ConversionsAndMovesComplete
  refine ⟨?_, ?_, ?_, ?qpack, ?_, ?mov, ?movq, movqAll_completes⟩
  case qpack => exact fun _ _ _ _ _ _ => gives_regForm (fun _ => rfl) fun e e' k => by simp only [readOp_alike k]
  case mov => exact fun _ _ _ _ => gives_regForm (fun _ => rfl) fun e e' k => by simp only [readOp_alike k]
  case movq => exact fun _ _ _ => gives_regForm (fun _ => rfl) fun e e' k => by simp only [readOp_alike k]
  all_goals
    intros
    exact givesFl_fpForm (fun _ => rfl) fun e e' k => by simp only [opFV_alike k, drawOf_alike k, readN32_alike k, readOp_alike k]

end Sys2Proof.Machine
end

section
/-! The values of the bit forms, bit by bit (R133 to R138, R217). -/
namespace Sys2Proof.Machine

/-! ### Shifts (R134) -/

theorem sext_get (x : DWord) {w i : Nat} (h0 : 0 < w) (hw : w ≤ 64) (hi : i < 64) : (sext x w).getLsbD i = x.getLsbD (min i (w - 1)) := by
  rw [sext_eq_signExtend x h0 hw, BitVec.getLsbD_signExtend, BitVec.msb_eq_getLsbD_last, BitVec.getLsbD_setWidth, BitVec.getLsbD_setWidth]
  by_cases h : i < w
  · simp [hi, h, Nat.min_eq_left (by omega : i ≤ w - 1)]
  · simp [hi, h, Nat.min_eq_right (by omega : w - 1 ≤ i), h0]

theorem getLsbD_of_lowBits {x : DWord} {w i : Nat} (hw : w ≤ 64) (hx : lowBits x w = x) (hi : w ≤ i) : x.getLsbD i = false := by
  rw [← hx, lowBits_get x w i hw]
  simp [Nat.not_lt.2 hi]

theorem shlVal_get {w : Nat} (a : DWord) (n i : Nat) (hw : w ≤ 64) :
    (shlVal w a n).getLsbD i = (decide (n < w) && decide (i < w) && decide (n ≤ i) && a.getLsbD (i - n)) := by
  unfold shlVal
  by_cases hn : n < w
  · rw [if_pos hn, lowBits_get _ _ _ hw, BitVec.getLsbD_shiftLeft]
    by_cases hi : i < w
    · simp [hn, hi, show i < 64 by omega, ← decide_not]
    · simp [hi]
  · simp [hn]

theorem shrVal_get (w : Nat) (a : DWord) (n i : Nat) : (shrVal w a n).getLsbD i = (decide (n < w) && a.getLsbD (i + n)) := by
  unfold shrVal
  by_cases hn : n < w
  · simp [hn, Nat.add_comm]
  · simp [hn]

theorem sraVal_get {w : Nat} (a : DWord) (n i : Nat) (h0 : 0 < w) (hw : w ≤ 64) (hi : i < w) : (sraVal w a n).getLsbD i = a.getLsbD (min (i + n) (w - 1)) := by
  rw [sraVal, lowBits_get _ _ _ hw, BitVec.getLsbD_sshiftRight, BitVec.msb_eq_getLsbD_last, sext_get a h0 hw (by omega : 64 - 1 < 64)]
  by_cases hs : min n 63 + i < 64
  · rw [if_pos hs, sext_get a h0 hw hs, show min (min n 63 + i) (w - 1) = min (i + n) (w - 1) by omega]
    simp [hi, show ¬ 64 ≤ i by omega]
  · rw [if_neg hs, show min (64 - 1) (w - 1) = min (i + n) (w - 1) by omega]
    simp [hi, show ¬ 64 ≤ i by omega]

/-- A turn to the left by less than the width. -/
theorem turn_get {w : Nat} {a : DWord} {n i : Nat} (hn : n < w) (hw : w ≤ 64) (ha : lowBits a w = a) (hi : i < w) :
    (lowBits (a <<< n) w ||| (a >>> (w - n))).getLsbD i = a.getLsbD ((i + (w - n)) % w) := by
  rw [BitVec.getLsbD_or, lowBits_get _ _ _ hw, BitVec.getLsbD_shiftLeft, BitVec.getLsbD_ushiftRight]
  by_cases h : i < n
  · rw [Nat.mod_eq_of_lt (by omega), show w - n + i = i + (w - n) by omega]
    simp [h]
  · rw [show i + (w - n) = (i - n) + w by omega, Nat.add_mod_right, Nat.mod_eq_of_lt (by omega : i - n < w), getLsbD_of_lowBits hw ha (by omega : w ≤ w - n + i)]
    simp [h, hi, show i < 64 by omega]

theorem rotVal_get {w : Nat} {a : DWord} (n : Nat) {i : Nat} (h0 : 0 < w) (hw : w ≤ 64) (ha : lowBits a w = a) (hi : i < w) :
    (rotVal w a n false).getLsbD i = a.getLsbD ((i + (w - n % w)) % w) ∧ (rotVal w a n true).getLsbD i = a.getLsbD ((i + n) % w) := by
  refine ⟨turn_get (Nat.mod_lt _ h0) hw ha hi, (turn_get (Nat.mod_lt _ h0) hw ha hi).trans (congrArg a.getLsbD ?_)⟩
  have hm := Nat.mod_lt n h0
  rw [Nat.add_mod i n]
  by_cases hz : n % w = 0
  · simp [hz]
  · rw [Nat.mod_eq_of_lt (by omega : w - n % w < w), show w - (w - n % w) = n % w by omega, Nat.mod_eq_of_lt hi]

theorem shcatVal_get (lo hi : DWord) (n : Nat) {i : Nat} (h : i < 32) :
    (shcatVal false lo hi n).getLsbD i = (if i + min n 32 < 32 then lo.getLsbD (i + min n 32) else hi.getLsbD (i + min n 32 - 32)) ∧
    (shcatVal true lo hi n).getLsbD i = (if min n 32 ≤ i then hi.getLsbD (i - min n 32) else lo.getLsbD (32 + i - min n 32)) := by
  have hp : ∀ j, j < 64 → ((hi <<< 32) ||| lowBits lo 32).getLsbD j = if j < 32 then lo.getLsbD j else hi.getLsbD (j - 32) := fun j hj => by
    rw [BitVec.getLsbD_or, BitVec.getLsbD_shiftLeft, lowBits_get _ _ _ (by decide)]
    by_cases hl : j < 32 <;> simp [hl, hj]
  generalize hm : min n 32 = m
  have hm32 : m ≤ 32 := hm ▸ Nat.min_le_right ..
  constructor
  · simp only [shcatVal, hm]
    rw [if_neg (by decide), lowBits_get _ _ _ (by decide), BitVec.getLsbD_ushiftRight, hp _ (by omega), Nat.add_comm m i]
    simp [h]
  · simp only [shcatVal, hm]
    rw [if_pos trivial, BitVec.getLsbD_ushiftRight, BitVec.getLsbD_shiftLeft, hp _ (by omega)]
    by_cases hi' : m ≤ i
    · simp [hi', show 32 + i < 64 by omega, show ¬ 32 + i < m by omega, show ¬ 32 + i - m < 32 by omega, show 32 + i - m - 32 = i - m by omega]
    · simp [hi', show 32 + i < 64 by omega, show ¬ 32 + i < m by omega, show 32 + i - m < 32 by omega]

/-- Settles O11. -/
theorem shiftsBitByBit : Obligations.ShiftsBitByBit := by
  unfold Obligations.ShiftsBitByBit
  exact ⟨fun w a n i hw => shlVal_get a n i hw, fun w a n i _ => shrVal_get w a n i, fun w a n i => sraVal_get a n i, fun w a n i h0 hw => rotVal_get n h0 hw,
    fun lo hi n i => shcatVal_get lo hi n⟩

/-! ### Counts and fields (R133, R135 to R138) -/

theorem lutBit_eq (k : Nat) (a b c : Bool) : lutBit k a b c = k.testBit ((if a then 1 else 0) + (if b then 2 else 0) + (if c then 4 else 0)) := by
  cases a <;> cases b <;> cases c <;> rfl

/-- The first of the places below w at which p holds, or w. -/
theorem find_upto_spec (p : Nat → Bool) (w : Nat) :
    let n := ((upto w).find? p).getD w
    n ≤ w ∧ (∀ i, i < n → p i = false) ∧ (n < w → p n = true) := by
  cases hf : (upto w).find? p with
  | none =>
    have h := List.find?_eq_none.1 hf
    exact ⟨Nat.le_refl w, fun i hi => by simpa using h i (List.mem_range.2 hi), fun h => absurd h (Nat.lt_irrefl w)⟩
  | some n =>
    obtain ⟨hn, hw, hlt⟩ := List.find?_range_eq_some.1 hf
    exact ⟨Nat.le_of_lt (List.mem_range.1 hw), fun i hi => by simpa using hlt i hi, fun _ => hn⟩

theorem countBits_succ (w : Nat) (x : DWord) : countBits x (w + 1) = countBits x w + (if x.getLsbD w then 1 else 0) := by
  unfold countBits upto
  rw [List.range_succ, List.filter_append, List.length_append]
  cases h : x.getLsbD w <;> simp [h]

/-- The byte that BSEL places at byte i of its result. -/
def bselPart (src z : DWord) (i : Nat) : DWord :=
  let y := ((z >>> (4 * i)) &&& 15).toNat
  if y < 8 then lowBits (src >>> (8 * y)) 8 <<< (8 * i) else 0

theorem bselVal_eq (a b z : DWord) :
    bselVal a b z = (upto 4).foldl (fun x i => x ||| bselPart ((lowBits b 32 <<< 32) ||| lowBits a 32) z i) 0 := by
  have h : ∀ (src x : DWord) (i : Nat), (if ((z >>> (4 * i)) &&& 15).toNat < 8 then x ||| (lowBits (src >>> (8 * ((z >>> (4 * i)) &&& 15).toNat)) 8 <<< (8 * i)) else x) =
      x ||| bselPart src z i := fun src x i => by
    simp only [bselPart]
    split
    · rfl
    · exact BitVec.or_zero.symm
  simp only [bselVal, h]

theorem nibble_eq (z : DWord) (i : Nat) : ((z >>> (4 * i)) &&& 15).toNat = (z.extractLsb' (4 * i) 4).toNat := by
  rw [BitVec.toNat_and, BitVec.toNat_ushiftRight, BitVec.extractLsb'_toNat]
  exact Nat.and_two_pow_sub_one_eq_mod _ 4

theorem bselPart_get (src z : DWord) {i j k : Nat} (hj : j < 4) (hk : k < 8) : (bselPart src z i).getLsbD (8 * j + k) =
    (decide (i = j) && decide ((z.extractLsb' (4 * i) 4).toNat < 8) && src.getLsbD (8 * (z.extractLsb' (4 * i) 4).toNat + k)) := by
  simp only [bselPart, nibble_eq]
  generalize (z.extractLsb' (4 * i) 4).toNat = y
  by_cases hy : y < 8
  · rw [if_pos hy, BitVec.getLsbD_shiftLeft, lowBits_get _ _ _ (by decide), BitVec.getLsbD_ushiftRight]
    by_cases h : i = j
    · subst h
      simp [hy, hk, show 8 * i + k < 64 by omega]
    · have : ¬(¬ 8 * j + k < 8 * i ∧ 8 * j + k - 8 * i < 8) := by omega
      by_cases h1 : 8 * j + k < 8 * i
      · simp [h, h1]
      · simp [h, h1, show ¬ 8 * j + k - 8 * i < 8 by omega]
  · simp [hy]

theorem bselVal_get (a b z : DWord) {j k : Nat} (hj : j < 4) (hk : k < 8) : (bselVal a b z).getLsbD (8 * j + k) =
    (let y := (z.extractLsb' (4 * j) 4).toNat
     if y < 4 then a.getLsbD (8 * y + k) else if y < 8 then b.getLsbD (8 * (y - 4) + k) else false) := by
  have hp : (bselVal a b z).getLsbD (8 * j + k) = (bselPart ((lowBits b 32 <<< 32) ||| lowBits a 32) z j).getLsbD (8 * j + k) := by
    rw [bselVal_eq]
    simp only [upto, List.range, List.range.loop, List.foldl_cons, List.foldl_nil, BitVec.getLsbD_or, bselPart_get _ _ hj hk]
    obtain rfl | rfl | rfl | rfl : j = 0 ∨ j = 1 ∨ j = 2 ∨ j = 3 := by omega
    all_goals simp
  rw [hp, bselPart_get _ _ hj hk]
  simp only
  generalize (z.extractLsb' (4 * j) 4).toNat = y
  rw [BitVec.getLsbD_or, BitVec.getLsbD_shiftLeft, lowBits_get _ _ _ (by decide), lowBits_get _ _ _ (by decide)]
  by_cases h4 : y < 4
  · simp [h4, show y < 8 by omega, show 8 * y + k < 32 by omega]
  · by_cases h8 : y < 8
    · simp [h4, h8, show ¬ 8 * y + k < 32 by omega, show 8 * y + k < 64 by omega, show 8 * (y - 4) + k < 32 by omega, show 8 * y + k - 32 = 8 * (y - 4) + k by omega]
    · simp [h4, h8]

theorem bintVal_get (w : Nat) (three : Bool) (a b c : DWord) (i : Nat) (h : w = 32 ∨ w = 64) : (bintVal w three a b c).getLsbD i =
    if three then decide (i < if w = 64 then 63 else 30) && (if i % 3 = 0 then a.getLsbD (i / 3) else if i % 3 = 1 then b.getLsbD (i / 3) else c.getLsbD (i / 3))
    else decide (i < w) && (if i % 2 = 0 then a.getLsbD (i / 2) else b.getLsbD (i / 2)) := by
  unfold bintVal
  cases three
  · exact bitsOf_get _ _ i (by omega)
  · rcases h with rfl | rfl <;> exact bitsOf_get _ _ i (by decide)

theorem bdinVal_get {w : Nat} (a : DWord) {k : Nat} (i : Nat) (h : w = 32 ∨ w = 64) :
    (k ≤ 1 → (bdinVal w false a k).getLsbD i = (decide (2 * i + k < w) && a.getLsbD (2 * i + k))) ∧
    (k ≤ 2 → (bdinVal w true a k).getLsbD i = (decide (3 * i + k < w) && a.getLsbD (3 * i + k))) := by
  constructor
  · intro hk
    refine (bitsOf_get _ _ i (by omega)).trans ?_
    rw [decide_eq_decide.2 (by omega : i < w / 2 ↔ 2 * i + k < w)]
  · intro hk
    refine (bitsOf_get _ _ i (by omega)).trans ?_
    rw [decide_eq_decide.2 (by omega : i < (w - 1 - k) / 3 + 1 ↔ 3 * i + k < w)]

/-! ### Mix (R217) -/

theorem toNat_rotateLeft_of_lt (x : Word) {n : Nat} (hn : n < 32) : (x.rotateLeft n).toNat = (x.toNat * 2 ^ n ||| x.toNat / 2 ^ (32 - n)) % 2 ^ 32 := by
  have hx : x.toNat / 2 ^ (32 - n) < 2 ^ 32 := Nat.lt_of_le_of_lt (Nat.div_le_self ..) x.isLt
  rw [BitVec.rotateLeft_def, Nat.mod_eq_of_lt hn, BitVec.toNat_or, BitVec.toNat_shiftLeft, BitVec.toNat_ushiftRight, Nat.or_mod_two_pow, Nat.mod_eq_of_lt hx,
    Nat.shiftLeft_eq, Nat.shiftRight_eq_div_pow]

/-- A round of Mix on the numbers of its words. -/
theorem toNat_mixRound (p : Word × Word) : ((mixRound p).1.toNat, (mixRound p).2.toNat) =
    (let rotl := fun (x n : Nat) => (x * 2 ^ n ||| x / 2 ^ (32 - n)) % 2 ^ 32
     let a := ((p.1.toNat ^^^ p.2.toNat / 2 ^ 16) * 0x85EBCA6B) % 2 ^ 32
     (a, (p.2.toNat + rotl a 13 + 0x6A09E667) % 2 ^ 32)) := by
  have ha : (mixRound p).1.toNat = ((p.1.toNat ^^^ p.2.toNat / 2 ^ 16) * 0x85EBCA6B) % 2 ^ 32 := by
    rw [mixRound, BitVec.toNat_mul, BitVec.toNat_xor, BitVec.toNat_ushiftRight, Nat.shiftRight_eq_div_pow, show (0x85EBCA6B : Word).toNat = 0x85EBCA6B from rfl]
  have hb : (mixRound p).2.toNat = (p.2.toNat + ((mixRound p).1.rotateLeft 13).toNat + 0x6A09E667) % 2 ^ 32 := by
    rw [mixRound, BitVec.toNat_add, BitVec.toNat_add, Nat.mod_add_mod, show (0x6A09E667 : Word).toNat = 0x6A09E667 from rfl]
  rw [hb, toNat_rotateLeft_of_lt _ (by decide), ha]

theorem toNat_mix (k l : Word) (c : DWord) :
    let rotl := fun (x n : Nat) => (x * 2 ^ n ||| x / 2 ^ (32 - n)) % 2 ^ 32
    let round := fun (p : Nat × Nat) =>
      let a := ((p.1 ^^^ p.2 / 2 ^ 16) * 0x85EBCA6B) % 2 ^ 32
      (a, (p.2 + rotl a 13 + 0x6A09E667) % 2 ^ 32)
    let p := round (round (round (round ((c.toNat % 2 ^ 32 + k.toNat) % 2 ^ 32, c.toNat / 2 ^ 32 ^^^ l.toNat * 0x9E3779B9 % 2 ^ 32))))
    (mix k l c).toNat = p.1 ^^^ rotl p.2 7 := by
  intro rotl round p
  have hr : ∀ q : Word × Word, round (q.1.toNat, q.2.toNat) = ((mixRound q).1.toNat, (mixRound q).2.toNat) := fun q => (toNat_mixRound q).symm
  have h0 : ((c.toNat % 2 ^ 32 + k.toNat) % 2 ^ 32, c.toNat / 2 ^ 32 ^^^ l.toNat * 0x9E3779B9 % 2 ^ 32) =
      ((c.setWidth 32 + k).toNat, (((c >>> 32).setWidth 32) ^^^ (l * 0x9E3779B9)).toNat) := by
    have hc : c.toNat / 2 ^ 32 < 2 ^ 32 := by have := c.isLt; omega
    rw [BitVec.toNat_add, BitVec.toNat_setWidth, BitVec.toNat_xor, BitVec.toNat_setWidth, BitVec.toNat_ushiftRight, Nat.shiftRight_eq_div_pow, Nat.mod_eq_of_lt hc, BitVec.toNat_mul]
    rfl
  have hp : p = ((mixRound (mixRound (mixRound (mixRound (c.setWidth 32 + k, ((c >>> 32).setWidth 32) ^^^ (l * 0x9E3779B9)))))).1.toNat,
      (mixRound (mixRound (mixRound (mixRound (c.setWidth 32 + k, ((c >>> 32).setWidth 32) ^^^ (l * 0x9E3779B9)))))).2.toNat) := by
    show round (round (round (round _))) = _
    rw [h0, hr (_, _), hr, hr, hr]
  rw [hp, mix, BitVec.toNat_xor, toNat_rotateLeft_of_lt _ (by decide)]

/-- Settles O12. -/
theorem fieldsBitByBit : Obligations.FieldsBitByBit := by
  unfold Obligations.FieldsBitByBit
  refine ⟨lutBit_eq, fun w x _ => find_upto_spec _ w, fun w x _ => find_upto_spec _ w, fun _ => rfl, countBits_succ, fun s a p n i hi => ?bfx, fun old x p n i hi => ?bfi,
    fun a b z j k => bselVal_get a b z, fun w a b c i h => bintVal_get w false a b c i h, fun w n a b c i h => ?bint3, fun w a k i h => (bdinVal_get a i h).1,
    fun w a k i h => (bdinVal_get a i h).2, toNat_mix⟩
  case bfx =>
    rw [bfxVal, bitsOf_get _ _ _ (by decide)]
    simp [hi]
  case bfi =>
    rw [bfiVal, bitsOf_get _ _ _ (by decide)]
    simp [hi]
  case bint3 => rcases h with ⟨rfl, rfl⟩ | ⟨rfl, rfl⟩ <;> exact bintVal_get _ true a b c i (by decide)

end Sys2Proof.Machine
end

section
/-! Control forms, mask registers, uniform registers and registers: what they do and what they leave (R24 to R28, R33 to R36, R96 to R100, R113 to R115, R123). -/
namespace Sys2Proof.Machine

/-! ### Clause entry (R33, R36, R100) -/

theorem acquireFlags_pc (s : Squad) (w : BitVec 12) (tick : Nat) (l : Lane) : (s.acquireFlags w tick l).pc = l.pc :=
  foldl_keeps Lane.pc (fun l k _ => by split <;> rfl) l

theorem waitClear_iff (s : Squad) (w : BitVec 12) : s.waitClear w = true ↔ ∀ k < 12, w.getLsbD k = true → s.flag k = 0 := by
  simp only [Squad.waitClear, upto, List.all_eq_true, List.mem_range, Bool.or_eq_true, Bool.not_eq_true', beq_iff_eq]
  exact forall₂_congr fun k _ => by cases w.getLsbD k <;> simp

theorem filter_not_contains_nil (l : List Nat) : (l.filter fun ln => !([] : List Nat).contains ln) = l := List.filter_eq_self.2 fun _ _ => rfl

theorem filter_not_contains_self (l : List Nat) : (l.filter fun ln => !l.contains ln) = [] := List.filter_eq_nil_iff.2 fun ln h => by simpa using h

/-- None of a bundle's lanes is moored at the header. -/
theorem enterClause_unmoored {c : Clause} {d : Dev} {u : Nat} {lns : List Nat} (hc : d.cur = some ⟨u, lns⟩) (hl : lns ≠ []) (hm : ∀ ln ∈ lns, (laneOf d u ln).atMoor = false) :
    enterClause c d = if !(squadOf d u).waitClear c.wait then holdLanes d u .hold lns
      else
        let d := setSquad d u fun s => lns.foldl (fun s ln => s.setLane ln fun l => (s.acquireFlags c.wait d.tick l).enterClause c) s
        if c.yp then detPass d u else d := by
  have hh : (lns.filter fun ln => (laneOf d u ln).atMoor) = [] := List.filter_eq_nil_iff.2 fun ln h => by simp [hm ln h]
  simp only [enterClause, hc, hh, filter_not_contains_nil, List.isEmpty_nil, if_true, List.isEmpty_eq_false_iff.2 hl]
  rfl

/-- Settles O16. -/
theorem clauseEntryCompletes : Obligations.ClauseEntryCompletes := by
  unfold Obligations.ClauseEntryCompletes
  intro len w sa sb cls yp s u lns hc hl i
  have he : exec i s = .next { s with dev := enterClause ⟨w, sa, sb, len, yp⟩ s.dev } := rfl
  refine ⟨fun hm hw => ?_, fun hm hw => ?_, fun hm => ?_⟩
  · rw [he, enterClause_unmoored hc hl hm, (waitClear_iff ..).2 hw]
    simp only [Lane.enterClause, Lane.leave, acquireFlags_pc]
    rfl
  · have hn : (squadOf s.dev u).waitClear w = false := Bool.eq_false_iff.2 fun h => by
      obtain ⟨k, hk, hb, hf⟩ := hw
      exact hf ((waitClear_iff ..).1 h k hk hb)
    rw [he, enterClause_unmoored hc hl hm, hn]
    rfl
  · have hh : (lns.filter fun ln => (laneOf s.dev u ln).atMoor) = lns := List.filter_eq_self.2 hm
    rw [he]
    simp only [enterClause, hc, hh, filter_not_contains_self, List.isEmpty_nil, if_true, List.isEmpty_eq_false_iff.2 hl]
    rfl

/-! ### Transfers (R34, R96 to R99) -/

theorem dispTransfer_completes {i : Instr} {disp : Opnd} {pre : Env → Nat → Squad → Squad} (hi : ∀ s, exec i s = onDev (issue (rawOf i) (jumpAct (fun e _ => dispTarget e disp) pre)) s) :
    RunsLanes i noChk (fun e d ln => jumps d e.sq ln (dispTarget e disp)) fun e d ln => landing d e.sq ln (dispTarget e disp) (pre e ln) :=
  runsLanes_issueChk hi fun _ _ _ h => transfer_ok h

theorem addrTransfer_completes {i : Instr} {va : Opnd} {pre : Env → Nat → Squad → Squad} (hi : ∀ s, exec i s = onDev (issue (rawOf i) (jumpAct (fun e ln => readN64 e ln va) pre)) s) :
    RunsLanes i noChk (fun e d ln => jumps d e.sq ln (readN64 e ln va)) fun e d ln => landing d e.sq ln (readN64 e ln va) (pre e ln) :=
  runsLanes_issueChk hi fun _ _ _ h => transfer_ok h

theorem dispTransfer_traps {i : Instr} {disp : Opnd} {pre : Env → Nat → Squad → Squad} (hi : ∀ s, exec i s = onDev (issue (rawOf i) (jumpAct (fun e _ => dispTarget e disp) pre)) s) :
    RunsLanes i noChk (fun e d ln => noHeader d e.sq ln (dispTarget e disp)) fun e d ln => badLanding d e.sq ln (dispTarget e disp) :=
  runsLanes_issueChk hi fun _ _ _ h => transfer_bad h

theorem addrTransfer_traps {i : Instr} {va : Opnd} {pre : Env → Nat → Squad → Squad} (hi : ∀ s, exec i s = onDev (issue (rawOf i) (jumpAct (fun e ln => readN64 e ln va) pre)) s) :
    RunsLanes i noChk (fun e d ln => noHeader d e.sq ln (readN64 e ln va)) fun e d ln => badLanding d e.sq ln (readN64 e ln va) :=
  runsLanes_issueChk hi fun _ _ _ h => transfer_bad h

/-- One lane's MEET (R99). -/
def meetLane (a disp : Opnd) (e : Env) (d : Dev) (ln : Nat) : Dev :=
  let t := dispTarget e disp
  if t ≥ 2 ^ 54 then trapAt d e.sq ln 0x01 (tvHeader t)
  else
    match headerAt d (fetcherOf d e.sq ln) t with
    | (d, .bad) => trapAt d e.sq ln 0x01 (tvHeader t)
    | (d, .fault c) => trapTo d e.sq ln c (BitVec.ofNat 64 t) (BitVec.ofNat 54 t) (BitVec.ofNat 54 t) false false
    | (d, .ok _) => setLane d e.sq ln fun l => { l.advance with moor := ⟨BitVec.ofNat 54 t, BitVec.ofNat 4 ((maskOf a).getD 0), true⟩ }

theorem exec_meet (h : Hd) (a disp : Opnd) (s : State) :
    exec (.meet h a disp) s = onDev (issue (rawOf (.meet h a disp)) fun e lns d => lns.foldl (meetLane a disp e) d) s := rfl

theorem meetLane_ok {a disp : Opnd} {e : Env} {d : Dev} {ln : Nat} (h : jumps d e.sq ln (dispTarget e disp)) :
    meetLane a disp e d ln = setLane (headerAt d (fetcherOf d e.sq ln) (dispTarget e disp)).1 e.sq ln fun l =>
      { l.advance with moor := ⟨BitVec.ofNat 54 (dispTarget e disp), BitVec.ofNat 4 ((maskOf a).getD 0), true⟩ } := by
  obtain ⟨hlt, i, hi⟩ := h
  unfold meetLane
  rw [if_neg (by omega)]
  rcases hh : headerAt d (fetcherOf d e.sq ln) (dispTarget e disp) with ⟨d', r⟩
  rw [hh] at hi
  cases (hi : r = _)
  rfl

theorem meetLane_bad {a disp : Opnd} {e : Env} {d : Dev} {ln : Nat} (h : noHeader d e.sq ln (dispTarget e disp)) :
    meetLane a disp e d ln = badLanding d e.sq ln (dispTarget e disp) := by
  unfold meetLane badLanding
  by_cases hge : 2 ^ 54 ≤ dispTarget e disp
  · rw [if_pos hge, if_pos hge]; rfl
  · rw [if_neg hge, if_neg hge]
    have hi := h.resolve_left hge
    rcases hh : headerAt d (fetcherOf d e.sq ln) (dispTarget e disp) with ⟨d', r⟩
    rw [hh] at hi
    cases (hi : r = _)
    rfl

/-- A form whose effect is the writes f gives each lane, which then goes on, completes. -/
theorem writesRegs_of {i : Instr} {act : Env → List Nat → Dev → Dev} {f : Env → Nat → Squad → Squad} (hi : ∀ s, exec i s = onDev (issue (rawOf i) act) s)
    (ha : ∀ e lns d, (fget d.squads e.sq).isSome = true → Kept e.sq d (act e lns d) ∧ squadOf (act e lns d) e.sq = ranLanes (f e) lns (squadOf d e.sq))
    (hf : ∀ e ln x y, Squad.Alike false x y → Squad.Alike false (f e ln x) (f e ln y)) (he : ∀ e e', Env.Alike false e e' → f e = f e') :
    WritesRegs i always f := by
  intro s u lns h _
  refine ⟨_, (hi s).trans rfl, rfl, rfl, ?_⟩
  have hb := near_begun (rawOf i) s.dev u lns
  have hE := begunEnv_alike (rawOf i) s.dev u lns
  rw [issue_clear h]
  obtain ⟨hk, hq⟩ := ha (begunEnv (rawOf i) s.dev u lns) lns (begun (rawOf i) s.dev u lns) (by rw [show (begunEnv (rawOf i) s.dev u lns).sq = u from rfl, hb.here]; exact h.squad)
  have hn := near_ended (rawOf i) (begun (rawOf i) s.dev u lns) (act (begunEnv (rawOf i) s.dev u lns) lns (begun (rawOf i) s.dev u lns)) u
  refine ⟨(hb.kept.trans hk).trans hn.kept, hn.alike.trans ?_⟩
  rw [show squadOf _ u = _ from hq, he _ _ hE]
  exact hb.alike.ranLanes _ (fun ln x y => hf _ ln x y) lns

theorem nop_completes (h : Hd) : WritesRegs (.nop h) always fun _ _ q => q :=
  writesRegs_of (act := fun e lns dv => advanceAll dv e.sq lns) (fun _ => rfl) (fun _ _ _ => adv_spec) (fun _ _ _ _ k => k) fun _ _ _ => rfl

/-- Settles O17. -/
theorem transfersComplete : Obligations.TransfersComplete := by
  unfold Obligations.TransfersComplete
  exact ⟨fun _ _ => dispTransfer_completes (pre := noPre) fun _ => rfl, fun _ _ => addrTransfer_completes (pre := noPre) fun _ => rfl,
    fun _ d _ => dispTransfer_completes (pre := callPre d) fun _ => rfl, fun _ d _ => addrTransfer_completes (pre := callPre d) fun _ => rfl,
    fun _ _ => addrTransfer_completes (pre := noPre) fun _ => rfl, fun h a disp => runsLanes_issueChk (exec_meet h a disp) fun _ _ _ => meetLane_ok, nop_completes,
    fun _ => runsTo_issueChk fun _ => rfl⟩

/-- Settles O18. -/
theorem badTargetsTrap : Obligations.BadTargetsTrap := by
  unfold Obligations.BadTargetsTrap
  exact ⟨fun _ _ => dispTransfer_traps (pre := noPre) fun _ => rfl, fun _ _ => addrTransfer_traps (pre := noPre) fun _ => rfl,
    fun _ d _ => dispTransfer_traps (pre := callPre d) fun _ => rfl, fun _ d _ => addrTransfer_traps (pre := callPre d) fun _ => rfl,
    fun _ _ => addrTransfer_traps (pre := noPre) fun _ => rfl, fun h a disp => runsLanes_issueChk (exec_meet h a disp) fun _ _ _ => meetLane_bad⟩

/-! ### Mask registers (R113, R115) -/

/-- Settles O19. -/
theorem maskFormsComplete : Obligations.MaskFormsComplete := by
  unfold Obligations.MaskFormsComplete
  refine ⟨fun _ _ => runsTo_issueChk fun _ => rfl, fun _ _ => runsTo_issueChk fun _ => rfl, fun _ _ _ _ => runsTo_issueChk fun _ => rfl, fun h d a part => ?mget,
    fun h i a part mc => runsGathered_issueGather (fun _ => rfl) rfl fun _ _ _ _ => rfl⟩
  case mget =>
    exact writesRegs_of (act := fun e => writeAll d .n32 (maskWord (e.s.mask (mIdx a)) (immOf part)) e) (fun _ => rfl) (fun _ _ _ => writeAll_spec)
      (fun _ ln _ _ k => k.write ln d .n32 _) fun e e' k => by simp only [k.s.mask]

/-- Two squads with the same banks, masks, predicates and status: all but gathers and the lanes' waits, moorings and clocks. -/
structure Squad.SameBanks (a b : Squad) : Prop where
  bare : ({ a with lanes := [], insts := [] } : Squad) = { b with lanes := [], insts := [] }
  q    : ∀ ln, (a.lane ln).q = (b.lane ln).q

theorem Squad.SameBanks.refl (a : Squad) : a.SameBanks a := ⟨rfl, fun _ => rfl⟩
theorem Squad.SameBanks.trans {a b c : Squad} (h : a.SameBanks b) (k : b.SameBanks c) : a.SameBanks c := ⟨h.bare.trans k.bare, fun ln => (h.q ln).trans (k.q ln)⟩

theorem Squad.SameBanks.mask {a b : Squad} (h : a.SameBanks b) (i : Nat) : a.mask i = b.mask i :=
  congrArg (fun m => fgetD m i _) (congrArg Squad.masks h.bare :)
theorem Squad.SameBanks.v {a b : Squad} (h : a.SameBanks b) (i ln : Nat) : a.v i ln = b.v i ln := by
  have h1 : a.rwr = b.rwr := (congrArg Squad.rwr h.bare :)
  have h2 : a.rows = b.rows := (congrArg Squad.rows h.bare :)
  simp only [Squad.v, h1, h2]

theorem sameBanks_setLane (s : Squad) (ln : Nat) (f : Lane → Lane) (hf : ∀ l, (f l).q = l.q) : (s.setLane ln f).SameBanks s := by
  refine ⟨rfl, fun j => ?_⟩
  simp only [Squad.lane, fgetD, lane_setLane]
  split
  · next e =>
    subst e
    cases fget s.lanes j with
    | none => rfl
    | some l => exact hf l
  · rfl

theorem sameBanks_setLanes (f : Nat → Lane → Lane) (hf : ∀ ln l, (f ln l).q = l.q) (lns : List Nat) (s : Squad) :
    (lns.foldl (fun s ln => s.setLane ln (f ln)) s).SameBanks s := by
  induction lns generalizing s with
  | nil => exact .refl s
  | cons ln t ih => exact (ih _).trans (sameBanks_setLane s ln (f ln) (hf ln))

theorem sameBanks_setSquad (d : Dev) (u : Nat) (f : Squad → Squad) (hf : ∀ s, (f s).SameBanks s) : (squadOf (setSquad d u f) u).SameBanks (squadOf d u) := by
  simp only [squadOf, fgetD, fget_setSquad, if_true]
  cases fget d.squads u with
  | none => exact .refl _
  | some s => exact hf s

theorem meetClocks_keeps (d : Dev) (u : Nat) (lns : List Nat) : Kept u d (meetClocks d u lns) ∧ (squadOf (meetClocks d u lns) u).SameBanks (squadOf d u) :=
  ⟨kept_setSquad .., sameBanks_setSquad d u _ (sameBanks_setLanes (fun ln l => (l.acquire (joinClocks d u lns) 0 false).release (tidOf u ln)) (fun _ _ => rfl) lns)⟩

theorem releaseMoorings_keeps (d : Dev) (u : Nat) : Kept u d (releaseMoorings d u) ∧ (squadOf (releaseMoorings d u) u).SameBanks (squadOf d u) := by
  unfold releaseMoorings
  extract_lets s go
  split
  · exact ⟨.refl u d, .refl _⟩
  · obtain ⟨hk, hs⟩ := meetClocks_keeps d u go
    exact ⟨hk.trans (kept_setSquad ..),
      (sameBanks_setSquad _ u _ (sameBanks_setLanes (fun _ l => { l with wait := .run, moor := { l.moor with v := false } }) (fun _ _ => rfl) go)).trans hs⟩

/-- After a write of a mask register, gathers and moorings aside, only that register is new. -/
theorem writeMask_keeps (d : Dev) (u i : Nat) (x : BitVec 128) :
    Kept u d (writeMask d u i x) ∧ (squadOf (writeMask d u i x) u).SameBanks (squadOf (setSquad d u fun s => s.setMask i x) u) := by
  obtain ⟨hk, hs⟩ := releaseMoorings_keeps (setSquad (setSquad d u fun s => s.setMask i x) u Squad.closeInsts) u
  exact ⟨((kept_setSquad ..).trans (kept_setSquad ..)).trans hk, hs.trans (sameBanks_setSquad _ u _ fun s => ⟨rfl, fun _ => rfl⟩)⟩

theorem mask_setMask (s : Squad) (i j : Nat) (x : BitVec 128) : (s.setMask i x).mask j = if j = i then x else s.mask j := fgetD_fset ..

theorem laneSet_get (lns : List Nat) {ln : Nat} (h : ln < 128) : (laneSet lns).getLsbD ln = decide (ln ∈ lns) := by
  have key : ∀ (l : List Nat) (m : BitVec 128), (l.foldl (fun m ln => m ||| 1#128 <<< ln) m).getLsbD ln = (m.getLsbD ln || decide (ln ∈ l)) := fun l => by
    induction l with
    | nil => simp
    | cons a t ih =>
      intro m
      rw [List.foldl_cons, ih, BitVec.getLsbD_or, BitVec.getLsbD_shiftLeft, BitVec.getLsbD_one]
      by_cases e : ln = a
      · subst e; simp [h]
      · by_cases hlt : ln < a
        · simp [e, hlt]
        · simp [e, show ln - a ≠ 0 by omega]
  rw [laneSet, key]
  simp

theorem setMaskWord_get (m : BitVec 128) {p j : Nat} (x : Word) (hp : p < 4) (hj : j < 128) :
    (setMaskWord m p x).getLsbD j = if 32 * p ≤ j ∧ j < 32 * p + 32 then x.getLsbD (j - 32 * p) else m.getLsbD j := by
  have hw : (0xFFFFFFFF#128).getLsbD (j - 32 * p) = decide (j - 32 * p < 32) := by
    rw [BitVec.getLsbD_ofNat, show (0xFFFFFFFF : Nat) = 2 ^ 32 - 1 from rfl, Nat.testBit_two_pow_sub_one]
    simp [show j - 32 * p < 128 by omega]
  rw [setMaskWord, BitVec.getLsbD_or, BitVec.getLsbD_and, BitVec.getLsbD_not, BitVec.getLsbD_shiftLeft, BitVec.getLsbD_shiftLeft, hw, BitVec.getLsbD_setWidth]
  by_cases h1 : 32 * p ≤ j
  · by_cases h2 : j < 32 * p + 32
    · simp [h1, h2, hj, show ¬ j < 32 * p by omega, show j - 32 * p < 32 by omega, show j - 32 * p < 128 by omega]
    · simp [h1, h2, hj, show ¬ j < 32 * p by omega, show ¬ j - 32 * p < 32 by omega, BitVec.getLsbD_of_ge x (j - 32 * p) (by omega)]
  · simp [h1, hj, show j < 32 * p by omega]

theorem maskWord_get (m : BitVec 128) (p j : Nat) : (maskWord m p).getLsbD j = (decide (j < 32) && m.getLsbD (32 * p + j)) := by
  rw [maskWord, BitVec.getLsbD_setWidth, BitVec.getLsbD_extractLsb']
  by_cases h : j < 32
  · simp [h, show j < 64 by omega]
  · simp [h]

/-- Settles O20: of a write, the gathers and moorings that it releases change no register, mask or predicate. -/
theorem maskWrites : Obligations.MaskWrites := by
  unfold Obligations.MaskWrites
  refine ⟨fun d u i x j hs => ?_, fun d u i x => (writeMask_keeps d u i x).1, fun d u i x r ln => ?_, fun lns ln => laneSet_get lns, fun m p x j => setMaskWord_get m x,
    fun m p j hj => by simp [maskWord_get, hj], fun m p j hj => by simp [maskWord_get, Nat.not_lt.2 hj]⟩
  · rw [(writeMask_keeps d u i x).2.mask, squadOf_setSquad _ hs, mask_setMask]
  · obtain ⟨hv, hq⟩ : (squadOf (setSquad d u fun s => s.setMask i x) u).v r ln = (squadOf d u).v r ln ∧
        ((squadOf (setSquad d u fun s => s.setMask i x) u).lane ln).q = ((squadOf d u).lane ln).q := by
      simp only [squadOf, fgetD, fget_setSquad, if_true]
      cases fget d.squads u <;> exact ⟨rfl, rfl⟩
    exact ⟨((writeMask_keeps d u i x).2.v r ln).trans hv, ((writeMask_keeps d u i x).2.q ln).trans hq⟩

/-! ### Uniform registers (R106, R109, R123) -/

/-- Settles O23, by whether a squad has written the register in the epoch. -/
theorem uniformRegisters : Obligations.UniformRegisters := by
  unfold Obligations.UniformRegisters
  intro g sq v i j x hm
  cases hw : fget g.wwriter i with
  | none =>
    have hset : g.setW sq i x = { g with wold := fset 0 g.wold i (fgetD g.w i 0), w := fset 0 g.w i x, wwriter := fput g.wwriter i sq } := by simp [Group.setW, hw]
    rw [hset]
    refine ⟨?_, fun hv => ?_, fun hj => ?_, ?_, ?_, rfl⟩
    · simp [Group.wFor, fgetD_fset]
    · simp [Group.wFor, fgetD_fset, hw, Ne.symm hv]
    · simp [Group.wFor, fgetD_fset, hj]
    · simp [Group.mayW, eq_comm]
    · exact (fgetD_fset ..).trans (if_pos rfl)
  | some a =>
    have ha : a = sq := by simpa [Group.mayW, hw] using hm
    subst ha
    have hset : g.setW a i x = { g with w := fset 0 g.w i x } := by simp [Group.setW, hw]
    rw [hset]
    refine ⟨?_, fun hv => ?_, fun hj => ?_, ?_, ?_, rfl⟩
    · simp [Group.wFor, fgetD_fset, hw]
    · simp [Group.wFor, hw, Ne.symm hv]
    · simp [Group.wFor, fgetD_fset, hj]
    · simp [Group.mayW, hw, eq_comm]
    · exact (fgetD_fset ..).trans (if_pos rfl)

/-! ### Registers (R24 to R28, R48, R113, R258, R265, R319) -/

theorem rwr_setV (s : Squad) (i ln : Nat) (x : Word) {j : Nat} (hj : j < 64) : (s.setV i ln x).rwr.getLsbD j = (s.rwr.getLsbD j || decide (j = i)) := by
  show (s.rwr ||| (1#64 <<< i)).getLsbD j = _
  rw [BitVec.getLsbD_or, BitVec.getLsbD_shiftLeft, BitVec.getLsbD_one]
  by_cases e : j = i
  · subst e; simp [hj]
  · by_cases hlt : j < i
    · simp [e, hlt]
    · simp [e, show j - i ≠ 0 by omega]

theorem v_of_clear {s : Squad} {i : Nat} (h : s.rwr.getLsbD i = false) (ln : Nat) : s.v i ln = 0 := by simp only [Squad.v, h]; rfl

/-- A register's row as a write finds it: empty until its first write (R265). -/
def Squad.rowAt (s : Squad) (i : Nat) : Row := if s.rwr.getLsbD i then fgetD s.rows i {} else {}

theorem v_eq (s : Squad) (i ln : Nat) : s.v i ln = fgetD (s.rowAt i).words ln 0 := by
  unfold Squad.v Squad.rowAt
  cases s.rwr.getLsbD i <;> rfl

theorem rowAt_setV (s : Squad) (i ln : Nat) (x : Word) {j : Nat} (hj : j < 64) : (s.setV i ln x).rowAt j =
    if j = i then { words := fset 0 (s.rowAt i).words ln x, poison := sdel (s.rowAt i).poison ln, dirty := true } else s.rowAt j := by
  unfold Squad.rowAt
  rw [rwr_setV s i ln x hj]
  by_cases e : j = i
  · subst e
    rw [if_pos rfl, if_pos (by simp)]
    exact fgetD_fput_self ..
  · have hr : fgetD (s.setV i ln x).rows j {} = fgetD s.rows j {} := fgetD_fput_ne _ _ _ e
    simp [e, hr]

theorem v_setV (s : Squad) (i ln : Nat) (x : Word) {j : Nat} (hj : j < 64) (k : Nat) : (s.setV i ln x).v j k = if j = i ∧ k = ln then x else s.v j k := by
  rw [v_eq, v_eq, rowAt_setV s i ln x hj]
  by_cases e : j = i
  · subst e
    simp [fgetD_fset]
  · simp [e]

theorem shas_sdel (s : NSet) (k : Nat) : shas (sdel s k) k = false := by
  simp [shas, sdel]

theorem poison_setV (s : Squad) (i ln : Nat) (x : Word) : shas (fgetD (s.setV i ln x).rows i {}).poison ln = false := by
  have hr : (fgetD (s.setV i ln x).rows i {}).poison = sdel (s.rowAt i).poison ln := congrArg Row.poison (fgetD_fput_self ..)
  rw [hr, shas_sdel]

theorem k_setK (s : Squad) (i ln : Nat) (x : Word) (j k : Nat) : (s.setK i ln x).k j k = if j = i ∧ k = ln then x else s.k j k := by
  show fgetD (fgetD (fset [] s.kbank i (fset 0 (fgetD s.kbank i []) ln x)) j []) k 0 = _
  rw [fgetD_fset]
  by_cases e : j = i
  · subst e; simp [fgetD_fset, Squad.k]
  · simp [e, Squad.k]

theorem h_setH (s : Squad) (i ln : Nat) (x : Word) (j k : Nat) : (s.setH i ln x).h j k = if j = i ∧ k = ln then x else s.h j k := by
  show fgetD (fgetD (fset [] s.hbank i (fset 0 (fgetD s.hbank i []) ln x)) j []) k 0 = _
  rw [fgetD_fset]
  by_cases e : j = i
  · subst e; simp [fgetD_fset, Squad.h]
  · simp [e, Squad.h]

theorem v_poisonWord (s : Squad) (i ln j k : Nat) : (s.poisonWord i ln).v j k = s.v j k := by
  have hw : (fgetD (fmod s.rows i fun r => { r with poison := sadd r.poison ln }) j {}).words = (fgetD s.rows j {}).words := by
    unfold fgetD
    rw [fget_fmod]
    split
    · next e => subst e; cases fget s.rows j <;> rfl
    · rfl
  show (if s.rwr.getLsbD j then fgetD (fgetD (fmod s.rows i _) j {}).words k 0 else 0) = _
  rw [hw]
  rfl

theorem v_setHalf (s : Squad) {i : Nat} (hi : i < 64) (ln : Nat) (up : Bool) (x : BitVec 16) :
    (s.setHalf i ln up x).v i ln = if up then x ++ (s.v i ln).setWidth 16 else (s.v i ln).extractLsb' 16 16 ++ x := by
  unfold Squad.setHalf
  extract_lets old bad t
  have ht : t.v i ln = if up then x ++ (s.v i ln).setWidth 16 else (s.v i ln).extractLsb' 16 16 ++ x := by
    rw [v_setV s i ln _ hi, if_pos ⟨rfl, rfl⟩]
  split
  · rw [v_poisonWord, ht]
  · exact ht

theorem qbit_setQ (l : Lane) (b : Bool) {m n : Nat} (hm : m < 8) (hn : n < 8) (h0 : m ≠ 0) : (l.setQ m b).qbit n = if n = m then b else l.qbit n := by
  unfold Lane.qbit Lane.setQ
  rw [if_neg h0]
  by_cases hz : n = 0
  · subst hz; simp [Ne.symm h0]
  rw [if_neg hz, if_neg hz]
  have hb : (1#7 <<< (m - 1)).getLsbD (n - 1) = decide (n = m) := by
    rw [BitVec.getLsbD_shiftLeft, BitVec.getLsbD_one]
    by_cases e : n = m
    · subst e; simp [show n - 1 < 7 by omega]
    · by_cases hlt : n - 1 < m - 1
      · simp [e, hlt]
      · simp [e, show n - 1 - (m - 1) ≠ 0 by omega]
  cases b
  · simp only [Bool.false_eq_true, if_false, BitVec.getLsbD_and, BitVec.getLsbD_not, hb, show n - 1 < 7 by omega, decide_true, Bool.true_and]
    by_cases e : n = m <;> simp [e]
  · simp only [if_true, BitVec.getLsbD_or, hb]
    by_cases e : n = m <;> simp [e]

/-- Settles O24. -/
theorem registersReadBack : Obligations.RegistersReadBack := by
  unfold Obligations.RegistersReadBack
  intro s i j ln k x hi hj
  refine ⟨v_setV s i ln x hj k, rwr_setV s i ln x hj, poison_setV s i ln x, fun h => v_of_clear h ln, k_setK s i ln x j k, h_setH s i ln x j k, fun r y hr => ?pair,
    fun r up y => ?half, fun l b => ⟨rfl, rfl⟩, fun l b m n hm hn h0 => qbit_setQ l b hm hn h0⟩
  case pair =>
    have hw : s.write ln (.v r false false false) .n64 y = (s.setV r.toNat ln (y.setWidth 32)).setV (r.toNat + 1) ln ((y >>> 32).setWidth 32) := rfl
    intro s'
    rw [show s' = _ from hw, v_setV _ _ _ _ (by omega), v_setV _ _ _ _ (by omega), v_setV _ _ _ _ hr]
    exact ⟨by simp, by simp⟩
  case half =>
    have hw : s.write ln (.v r false false up) .f16 y = s.setHalf r.toNat ln up (y.setWidth 16) := rfl
    intro s'
    rw [show s' = _ from hw, v_setHalf s r.isLt]
    cases up
    · exact ⟨BitVec.extractLsb'_append_eq_right, BitVec.extractLsb'_append_eq_left⟩
    · exact ⟨BitVec.extractLsb'_append_eq_left, BitVec.extractLsb'_append_eq_right.trans (BitVec.setWidth_eq_extractLsb' (by decide))⟩

end Sys2Proof.Machine
end

section
/-! System registers: their forms complete, and each reads back what is written in the bits it has (R99, R125, R233, R239, R247, R251, R252, R281). -/
namespace Sys2Proof.Machine

/-! ### The forms -/

theorem alike_regEntry {a b : Squad} (h : Squad.Alike false a b) (ln : Nat) (x : Pc) :
    Squad.Alike false (a.setLane ln fun l => { l with rege := x, regc := l.regc + 1 }) (b.setLane ln fun l => { l with rege := x, regc := l.regc + 1 }) :=
  h.setLane ln _ fun _ _ => Lane.bare_map (fun l => { l with rege := x, regc := l.regc + 1 }) fun _ _ _ _ _ _ => rfl

theorem fput_fput {β : Type} (m : FMap β) (k : Nat) (a b : β) : fput (fput m k a) k b = fput m k b := by
  induction m with
  | nil => simp [fput]
  | cons p t ih =>
    obtain ⟨j, c⟩ := p
    by_cases h1 : k < j
    · simp [fput, h1]
    · by_cases h2 : k = j
      · simp [fput, h2]
      · simp [fput, h1, h2, ih]

theorem setLane_setLane (s : Squad) (ln : Nat) (f g : Lane → Lane) : (s.setLane ln f).setLane ln g = s.setLane ln fun l => g (f l) := by
  have hm : fmod (fmod s.lanes ln f) ln g = fmod s.lanes ln fun l => g (f l) := by
    cases h : fget s.lanes ln with
    | none => simp [fmod, h]
    | some l => simp only [fmod, h, fget_fput_self, fput_fput]
  simp only [Squad.setLane, hm]

theorem regoWrite_completes (h : Hd) (wide : Bool) (x : Opnd) : WritesRegs (.regoWrite h wide x) always fun e ln q => q.setLane ln fun l =>
    { l with rege := (e.s.kern.entry + readOp e ln x .n32).setWidth 54, regc := l.regc + 1 } := by
  refine writesRegs_of (act := regoAct x) (fun _ => rfl) (fun e lns d hs => ⟨kept_setSquad .., ?_⟩) (fun e ln a b k => alike_regEntry k ln _) fun e e' k => ?_
  · rw [regoAct, squadOf_setSquad _ hs]
    simp only [ranLanes, setLane_setLane]
    rfl
  · have hk : e.s.kern = e'.s.kern := (congrArg Squad.kern k.s.bare :)
    simp only [readOp_alike k, hk]

theorem moorChk_ok_iff (x : Opnd) (d : Dev) (e : Env) (ln : Nat) : moorChk true 1 x d e ln = .ok ↔ ((readOp e ln x .n64).extractLsb' 56 4).toNat < 12 := by
  unfold moorChk
  split
  · next h => exact ⟨(nomatch ·), fun hl => absurd h (Nat.not_le.2 hl)⟩
  · next h => exact ⟨fun _ => Nat.not_le.1 h, fun _ => rfl⟩

theorem privlChk_ok_iff (wide : Bool) (x : Opnd) (d : Dev) (e : Env) (ln : Nat) :
    privlChk wide x d e ln = .ok ↔ (swrVal d e ln wide 0x026 x).toNat % 4 = 0 ∧ (swrVal d e ln wide 0x026 x).toNat ≤ 262144 := by
  unfold privlChk
  extract_lets v
  by_cases h : v % 4 = 0 ∧ v ≤ 262144
  · exact ⟨fun _ => h, fun _ => if_neg (by simp only [Bool.or_eq_true, decide_eq_true_eq]; omega)⟩
  · rw [if_pos (by simp only [Bool.or_eq_true, decide_eq_true_eq]; omega)]
    exact ⟨(nomatch ·), fun hv => absurd hv h⟩

/-- A 32-bit write of PRIVL writes the operand: the register has no bits above (R281). -/
theorem swrVal_privl_narrow (d : Dev) (e : Env) (ln : Nat) (x : Opnd) : (swrVal d e ln false 0x026 x).toNat = readN32 e ln x := by
  have h0 : sysRead d e.sq ln 0x026 &&& 0xFFFFFFFF00000000#64 = 0 := by
    show ((squadOf d e.sq).privl.setWidth 64 : DWord) &&& _ = 0
    refine BitVec.eq_of_getLsbD_eq fun i hi => ?_
    have hm : ∀ i < 64, (0xFFFFFFFF00000000#64).getLsbD i = decide (32 ≤ i) := by decide
    rw [BitVec.getLsbD_and, hm i hi, BitVec.getLsbD_setWidth, show (0 : DWord).getLsbD i = false from BitVec.getLsbD_zero]
    by_cases h : 32 ≤ i
    · simp [BitVec.getLsbD_of_ge _ i h]
    · simp [h]
  rw [swrVal, h0, if_neg (by decide)]
  exact congrArg BitVec.toNat BitVec.zero_or

/-- Settles O21. -/
theorem systemRegisterFormsComplete : Obligations.SystemRegisterFormsComplete := by
  unfold Obligations.SystemRegisterFormsComplete
  refine ⟨fun _ _ _ _ => runsTo_issueChk fun _ => rfl, fun _ _ _ _ => runsLanes_issueChk (fun _ => rfl) fun _ _ _ _ => rfl,
    fun _ _ _ _ => runsLanes_issueChk (fun _ => rfl) fun _ _ _ _ => rfl, fun _ _ _ => runsLanes_issueChk (fun _ => rfl) fun _ _ _ _ => rfl, regoWrite_completes,
    fun _ _ _ _ => runsTo_issueChk fun _ => rfl, moorChk_ok_iff, fun x d e ln => privlChk_ok_iff true x d e ln, fun x d e ln => ?_⟩
  rw [privlChk_ok_iff, swrVal_privl_narrow]

/-! ### What a register's value is made of -/

theorem getLsbD_moorMask : ∀ i < 64, (0x8F3FFFFFFFFFFFFF#64).getLsbD i = (decide (i < 54) || decide (56 ≤ i ∧ i < 60) || decide (i = 63)) := by decide

theorem moorVal_moorOf (x : DWord) (m : Moor) : moorVal (moorOf x) = (x &&& 0x8F3FFFFFFFFFFFFF#64) ||| (moorVal m &&& ~~~0x8F3FFFFFFFFFFFFF#64) := by
  refine BitVec.eq_of_getLsbD_eq fun i hi => ?_
  rw [BitVec.getLsbD_or, BitVec.getLsbD_and, BitVec.getLsbD_and, BitVec.getLsbD_not, getLsbD_moorMask i hi]
  simp -index only [moorVal, moorOf, BitVec.getLsbD_append, BitVec.getLsbD_zero, BitVec.getLsbD_setWidth, BitVec.getLsbD_extractLsb', BitVec.getLsbD_ofBool]
  grind

theorem causeVal_eq (f : Frame) : BitVec.ofNat 64 (causeVal f) = 0#50 ++ (BitVec.ofBool f.imp ++ (BitVec.ofBool f.hc ++ (0#2 ++ (f.pm ++ f.code)))) := by
  refine BitVec.eq_of_toNat_eq ?_
  have h1 := f.code.isLt
  have h2 := f.pm.isLt
  rw [toNat_append_eq_add, toNat_append_eq_add, toNat_append_eq_add, toNat_append_eq_add, toNat_append_eq_add, BitVec.toNat_ofNat, causeVal]
  cases f.imp <;> cases f.hc <;> simp [b2n] <;> omega

theorem getLsbD_causeMask : ∀ i < 64, (0x33FF#64).getLsbD i = (decide (i < 10) || decide (i = 12) || decide (i = 13)) := by decide

theorem causeVal_causeSet (x : DWord) (f : Frame) :
    BitVec.ofNat 64 (causeVal (causeSet f x)) = (x &&& 0x33FF#64) ||| (BitVec.ofNat 64 (causeVal f) &&& ~~~0x33FF#64) := by
  refine BitVec.eq_of_getLsbD_eq fun i hi => ?_
  rw [causeVal_eq, causeVal_eq, BitVec.getLsbD_or, BitVec.getLsbD_and, BitVec.getLsbD_and, BitVec.getLsbD_not, getLsbD_causeMask i hi]
  simp -index only [causeSet, BitVec.getLsbD_append, BitVec.getLsbD_zero, BitVec.getLsbD_extractLsb', BitVec.getLsbD_ofBool]
  grind

/-- XCAUSE holds the predicates too. -/
theorem xcauseVal_eq (f : Frame) : BitVec.ofNat 64 (causeVal f + 65536 * f.pred.toNat) =
    0#41 ++ (f.pred ++ (0#2 ++ (BitVec.ofBool f.imp ++ (BitVec.ofBool f.hc ++ (0#2 ++ (f.pm ++ f.code)))))) := by
  refine BitVec.eq_of_toNat_eq ?_
  have h1 := f.code.isLt
  have h2 := f.pm.isLt
  have h3 := f.pred.isLt
  rw [toNat_append_eq_add, toNat_append_eq_add, toNat_append_eq_add, toNat_append_eq_add, toNat_append_eq_add, toNat_append_eq_add, toNat_append_eq_add, BitVec.toNat_ofNat, causeVal]
  cases f.imp <;> cases f.hc <;> simp [b2n] <;> omega

theorem getLsbD_xcauseMask : ∀ i < 64, (0x7F33FF#64).getLsbD i = (decide (i < 10) || decide (i = 12) || decide (i = 13) || decide (16 ≤ i ∧ i < 23)) := by decide

theorem xcauseVal_causeSet (x : DWord) (f : Frame) :
    BitVec.ofNat 64 (causeVal { causeSet f x with pred := x.extractLsb' 16 7 } + 65536 * (x.extractLsb' 16 7).toNat) =
      (x &&& 0x7F33FF#64) ||| (BitVec.ofNat 64 (causeVal f + 65536 * f.pred.toNat) &&& ~~~0x7F33FF#64) := by
  refine BitVec.eq_of_getLsbD_eq fun i hi => ?_
  rw [xcauseVal_eq f, xcauseVal_eq { causeSet f x with pred := x.extractLsb' 16 7 }, BitVec.getLsbD_or, BitVec.getLsbD_and, BitVec.getLsbD_and, BitVec.getLsbD_not, getLsbD_xcauseMask i hi]
  simp -index only [causeSet, BitVec.getLsbD_append, BitVec.getLsbD_zero, BitVec.getLsbD_extractLsb', BitVec.getLsbD_ofBool]
  grind

theorem getLsbD_predMask : ∀ i < 64, (0xFE#64).getLsbD i = decide (1 ≤ i ∧ i < 8) := by decide

theorem predVal_eq (p : BitVec 7) : BitVec.ofNat 64 (2 * p.toNat) = 0#56 ++ (p ++ 0#1) := by
  refine BitVec.eq_of_toNat_eq ?_
  have h := p.isLt
  rw [toNat_append_eq_add, toNat_append_eq_add, BitVec.toNat_ofNat]
  simp
  omega

theorem predVal_extract (x : DWord) (p : BitVec 7) :
    BitVec.ofNat 64 (2 * (x.extractLsb' 1 7).toNat) = (x &&& 0xFE#64) ||| (BitVec.ofNat 64 (2 * p.toNat) &&& ~~~0xFE#64) := by
  refine BitVec.eq_of_getLsbD_eq fun i hi => ?_
  rw [predVal_eq, predVal_eq, BitVec.getLsbD_or, BitVec.getLsbD_and, BitVec.getLsbD_and, BitVec.getLsbD_not, getLsbD_predMask i hi]
  simp -index only [BitVec.getLsbD_append, BitVec.getLsbD_zero, BitVec.getLsbD_extractLsb']
  grind

theorem statusVal_eq {l : Lane} (h : l.depth ≤ 3) :
    BitVec.ofNat 64 (statusVal l) = 0#58 ++ (BitVec.ofBool l.ovf ++ (BitVec.ofBool l.udt ++ (BitVec.ofNat 2 l.depth ++ l.mode.code))) := by
  refine BitVec.eq_of_toNat_eq ?_
  have hm := l.mode.code.isLt
  rw [toNat_append_eq_add, toNat_append_eq_add, toNat_append_eq_add, toNat_append_eq_add, BitVec.toNat_ofNat, BitVec.toNat_ofNat, statusVal]
  cases l.ovf <;> cases l.udt <;> simp [b2n] <;> omega

theorem getLsbD_udtMask : ∀ i < 64, (0x10#64).getLsbD i = decide (i = 4) := by decide

theorem statusVal_udt {l : Lane} (h : l.depth ≤ 3) (x : DWord) :
    BitVec.ofNat 64 (statusVal { l with udt := x.getLsbD 4 }) = (x &&& 0x10#64) ||| (BitVec.ofNat 64 (statusVal l) &&& ~~~0x10#64) := by
  refine BitVec.eq_of_getLsbD_eq fun i hi => ?_
  rw [statusVal_eq h, statusVal_eq (l := { l with udt := x.getLsbD 4 }) h, BitVec.getLsbD_or, BitVec.getLsbD_and, BitVec.getLsbD_and, BitVec.getLsbD_not, getLsbD_udtMask i hi]
  simp -index only [BitVec.getLsbD_append, BitVec.getLsbD_zero, BitVec.getLsbD_ofBool]
  grind

theorem sqctlVal_eq (s : Squad) : BitVec.ofNat 64 (sqctlVal s) =
    0#59 ++ (BitVec.ofBool s.fuse ++ (BitVec.ofBool s.pin ++ (BitVec.ofBool s.dbg ++ (BitVec.ofBool s.det ++ BitVec.ofBool s.ext)))) := by
  unfold sqctlVal
  cases s.fuse <;> cases s.pin <;> cases s.dbg <;> cases s.det <;> cases s.ext <;> rfl

theorem getLsbD_dbgMask : ∀ i < 64, (4#64).getLsbD i = decide (i = 2) := by decide

theorem sqctlVal_dbg (s : Squad) (x : DWord) (un : List Undo) :
    BitVec.ofNat 64 (sqctlVal { s with dbg := x.getLsbD 2, undo := un }) = (x &&& 4#64) ||| (BitVec.ofNat 64 (sqctlVal s) &&& ~~~4#64) := by
  refine BitVec.eq_of_getLsbD_eq fun i hi => ?_
  rw [sqctlVal_eq s, sqctlVal_eq { s with dbg := x.getLsbD 2, undo := un }, BitVec.getLsbD_or, BitVec.getLsbD_and, BitVec.getLsbD_and, BitVec.getLsbD_not, getLsbD_dbgMask i hi]
  simp -index only [BitVec.getLsbD_append, BitVec.getLsbD_zero, BitVec.getLsbD_ofBool]
  grind

/-- A register of n bits takes the low n bits of a value and reads 0 above. -/
theorem lowRegister {n : Nat} (x : DWord) (y : BitVec n) :
    ((x.setWidth n).setWidth 64 : DWord) = (x &&& BitVec.ofNat 64 (2 ^ n - 1)) ||| (y.setWidth 64 &&& ~~~(BitVec.ofNat 64 (2 ^ n - 1))) := by
  refine BitVec.eq_of_getLsbD_eq fun i hi => ?_
  rw [BitVec.getLsbD_or, BitVec.getLsbD_and, BitVec.getLsbD_and, getLsbD_not_mask hi, BitVec.getLsbD_ofNat, Nat.testBit_two_pow_sub_one, BitVec.getLsbD_setWidth, BitVec.getLsbD_setWidth,
    BitVec.getLsbD_setWidth]
  by_cases h : i < n
  · simp [hi, h, Nat.not_le.2 h]
  · simp [hi, h, BitVec.getLsbD_of_ge _ i (Nat.not_lt.1 h)]

theorem wholeRegister (x y : DWord) : x = (x &&& 0xFFFFFFFFFFFFFFFF#64) ||| (y &&& ~~~0xFFFFFFFFFFFFFFFF#64) := by
  refine BitVec.eq_of_getLsbD_eq fun i hi => ?_
  have hm : ∀ i < 64, (0xFFFFFFFFFFFFFFFF#64).getLsbD i = true := by decide
  rw [BitVec.getLsbD_or, BitVec.getLsbD_and, BitVec.getLsbD_and, BitVec.getLsbD_not, hm i hi]
  simp

theorem noBits (x y : DWord) : y = (x &&& 0#64) ||| (y &&& ~~~0#64) := by
  refine BitVec.eq_of_getLsbD_eq fun i hi => ?_
  rw [BitVec.getLsbD_or, BitVec.getLsbD_and, BitVec.getLsbD_and, BitVec.getLsbD_not, BitVec.getLsbD_zero]
  simp [hi]

/-! ### A lane's, a squad's and a core's registers -/

/-- A lane's own register as it reads. -/
def laneSysRead (l : Lane) (ln n : Nat) : DWord :=
  match n with
  | 0x000 => BitVec.ofNat 64 (statusVal l)
  | 0x001 => moorVal l.moor
  | 0x002 => l.top.epc.setWidth 64
  | 0x003 => l.top.hdr.setWidth 64
  | 0x004 => BitVec.ofNat 64 (causeVal l.top)
  | 0x005 => l.top.tval
  | 0x006 => moorVal l.top.moor
  | 0x007 => BitVec.ofNat 64 (2 * l.top.pred.toNat)
  | 0x008 => l.xf.epc.setWidth 64
  | 0x009 => l.xf.hdr.setWidth 64
  | 0x00A => BitVec.ofNat 64 (causeVal l.xf + 65536 * l.xf.pred.toNat)
  | 0x00B => l.xf.tval
  | 0x00C => l.srkey.setWidth 64
  | 0x00D => l.srcnt
  | 0x00E => l.rege.setWidth 64
  | 0x00F => l.regc.setWidth 64
  | 0x011 => BitVec.ofNat 64 ln
  | _ => 0

/-- A squad's register as it reads. -/
def squadSysRead (s : Squad) (n : Nat) : DWord :=
  match n with
  | 0x020 => s.fpsr.setWidth 64
  | 0x021 => s.fpcr.setWidth 64
  | 0x022 => s.sqidx.setWidth 64
  | 0x023 => s.gpidx.setWidth 64
  | 0x024 => BitVec.ofNat 64 s.ctx
  | 0x025 => s.privb
  | 0x026 => s.privl.setWidth 64
  | 0x027 => BitVec.ofNat 64 (sqctlVal s)
  | 0x028 => s.asid.setWidth 64
  | _ => 0

/-- A core's register as it reads, those of its cluster among them. -/
def coreSysRead (d : Dev) (core n : Nat) : DWord :=
  match n with
  | 0x040 => BitVec.ofNat 64 (coreOf d core).cyc
  | 0x041 => BitVec.ofNat 64 (coreOf d core).ctime
  | 0x042 => BitVec.ofNat 64 (clusterOf d (core / 7)).etime
  | 0x043 => BitVec.ofNat 64 (core % 7 + 256 * (core / 7))
  | 0x044 => (coreOf d core).stvec
  | 0x045 => (coreOf d core).hvec
  | 0x046 => (coreOf d core).hdeleg.setWidth 64
  | 0x047 => (coreOf d core).vmid.setWidth 64
  | 0x048 => BitVec.ofNat 64 (coreOf d core).xpool
  | 0x049 => (clusterOf d (core / 7)).balthr.setWidth 64
  | _ => 0

/-- The write of a core's register. -/
def coreSysWrite (d : Dev) (core n : Nat) (x : DWord) : Dev :=
  match n with
  | 0x044 => setCore d core fun k => { k with stvec := x }
  | 0x045 => setCore d core fun k => { k with hvec := x }
  | 0x046 => setCore d core fun k => { k with hdeleg := x.setWidth 32 }
  | 0x047 => setCore d core fun k => { k with vmid := x.setWidth 12 }
  | 0x049 => setCluster d (core / 7) fun c => { c with balthr := x.setWidth 16 }
  | _ => d

theorem sysRead_eq (d : Dev) (u ln n : Nat) : sysRead d u ln n =
    if n < 0x20 then laneSysRead (laneOf d u ln) ln n else if n < 0x40 then squadSysRead (squadOf d u) n else coreSysRead d (squadOf d u).core n := by
  by_cases h1 : n < 0x20
  · rw [if_pos h1]
    interval_cases n <;> rfl
  · rw [if_neg h1]
    by_cases h2 : n < 0x40
    · rw [if_pos h2]
      interval_cases n <;> rfl
    · rw [if_neg h2]
      by_cases h3 : n < 0x4A
      · interval_cases n <;> rfl
      · have h4 : coreSysRead d (squadOf d u).core n = 0 := by
          unfold coreSysRead
          split <;> first | rfl | omega
        rw [h4]
        unfold sysRead
        dsimp only
        split <;> first | rfl | omega

theorem sysWriteReg_eq (d : Dev) (u ln n : Nat) (x : DWord) : sysWriteReg d u ln n x =
    if n < 0x20 then setLane d u ln fun l => laneSysWrite l n x else if n < 0x40 then setSquad d u fun s => squadSysWrite s n x
    else coreSysWrite d (squadOf d u).core n x := rfl

/-! ### A lane's registers -/

/-- A write of the top frame is read back at depth 1 or more, is ignored at depth 0, and changes nothing but a frame (R233). -/
theorem setTop_spec (l : Lane) (f : Frame) :
    ∃ a b c, l.setTop f = { l with f0 := a, f1 := b, f2 := c } ∧ ({ l with f0 := a, f1 := b, f2 := c } : Lane).top = if l.depth = 0 then l.top else f := by
  by_cases h0 : l.depth = 0
  · exact ⟨l.f0, l.f1, l.f2, if_pos h0, (if_pos h0).symm⟩
  by_cases h1 : l.depth - 1 = 0
  · exact ⟨f, l.f1, l.f2, by simp [Lane.setTop, Lane.setFrame, h0, h1], by simp [Lane.top, Lane.frame, h0, h1]⟩
  by_cases h2 : l.depth - 1 = 1
  · exact ⟨l.f0, f, l.f2, by simp [Lane.setTop, Lane.setFrame, h0, h2], by simp [Lane.top, Lane.frame, h0, h2]⟩
  · exact ⟨l.f0, l.f1, f, by simp [Lane.setTop, Lane.setFrame, h0, h1, h2], by simp [Lane.top, Lane.frame, h0, h1, h2]⟩

theorem top_setTop (l : Lane) (f : Frame) : (l.setTop f).top = if l.depth = 0 then l.top else f := by
  obtain ⟨a, b, c, h, ht⟩ := setTop_spec l f
  rw [h, ht]

/-- What a frame's register reads. -/
def frameRead (f : Frame) (n : Nat) : DWord :=
  match n with
  | 0x002 => f.epc.setWidth 64
  | 0x003 => f.hdr.setWidth 64
  | 0x004 => BitVec.ofNat 64 (causeVal f)
  | 0x005 => f.tval
  | 0x006 => moorVal f.moor
  | _ => BitVec.ofNat 64 (2 * f.pred.toNat)

/-- A frame with one of its registers written. -/
def frameWrite (f : Frame) (n : Nat) (x : DWord) : Frame :=
  match n with
  | 0x002 => { f with epc := x.setWidth 54 }
  | 0x003 => { f with hdr := x.setWidth 54 }
  | 0x004 => causeSet f x
  | 0x005 => { f with tval := x }
  | 0x006 => { f with moor := moorOf x }
  | _ => { f with pred := x.extractLsb' 1 7 }

theorem frameRead_write (f : Frame) {n : Nat} (x : DWord) (h2 : 2 ≤ n) (h7 : n ≤ 7) :
    frameRead (frameWrite f n x) n = (x &&& sysMask n) ||| (frameRead f n &&& ~~~sysMask n) := by
  interval_cases n
  · rw [show sysMask 2 = BitVec.ofNat 64 (2 ^ 54 - 1) from rfl]; exact lowRegister x f.epc
  · rw [show sysMask 3 = BitVec.ofNat 64 (2 ^ 54 - 1) from rfl]; exact lowRegister x f.hdr
  · rw [show sysMask 4 = 0x33FF#64 from rfl]; exact causeVal_causeSet x f
  · exact wholeRegister x _
  · rw [show sysMask 6 = 0x8F3FFFFFFFFFFFFF#64 from rfl]; exact moorVal_moorOf x f.moor
  · exact predVal_extract x f.pred

theorem frameRead_write_ne (f : Frame) {n m : Nat} (x : DWord) (hn : 2 ≤ n ∧ n ≤ 7) (hm : 2 ≤ m ∧ m ≤ 7) (h : m ≠ n) : frameRead (frameWrite f n x) m = frameRead f m := by
  obtain ⟨n2, n7⟩ := hn
  obtain ⟨m2, m7⟩ := hm
  interval_cases n <;> interval_cases m <;> first | exact absurd rfl h | rfl

theorem laneSysRead_frame (l : Lane) (ln : Nat) {n : Nat} (h2 : 2 ≤ n) (h7 : n ≤ 7) : laneSysRead l ln n = frameRead l.top n := by
  interval_cases n <;> rfl

theorem laneSysWrite_frame (l : Lane) {n : Nat} (x : DWord) (h2 : 2 ≤ n) (h7 : n ≤ 7) : laneSysWrite l n x = l.setTop (frameWrite l.top n x) := by
  interval_cases n <;> rfl

theorem laneSysRead_setTop (l : Lane) (f : Frame) (ln : Nat) {m : Nat} (h : m < 2 ∨ 7 < m) : laneSysRead (l.setTop f) ln m = laneSysRead l ln m := by
  obtain ⟨a, b, c, he, -⟩ := setTop_spec l f
  rw [he]
  unfold laneSysRead
  split <;> first | omega | rfl

theorem laneSysRead_write (l : Lane) (ln : Nat) {n : Nat} (x : DWord) (hn : n < 0x20) (hd : l.depth ≤ 3) (h : n < 2 ∨ 7 < n ∨ l.depth ≠ 0) :
    laneSysRead (laneSysWrite l n x) ln n = (x &&& sysMask n) ||| (laneSysRead l ln n &&& ~~~sysMask n) := by
  by_cases hf : 2 ≤ n ∧ n ≤ 7
  · obtain ⟨h2, h7⟩ := hf
    rw [laneSysRead_frame _ ln h2 h7, laneSysRead_frame _ ln h2 h7, laneSysWrite_frame l x h2 h7, top_setTop, if_neg (by omega), frameRead_write l.top x h2 h7]
  · obtain rfl | rfl | rfl | rfl | rfl | rfl | rfl | rfl | rfl | rfl | hn' : n = 0 ∨ n = 1 ∨ n = 8 ∨ n = 9 ∨ n = 10 ∨ n = 11 ∨ n = 12 ∨ n = 13 ∨ n = 14 ∨ n = 15 ∨ 16 ≤ n := by omega
    · exact statusVal_udt hd x
    · exact moorVal_moorOf x l.moor
    · exact lowRegister x l.xf.epc
    · exact lowRegister x l.xf.hdr
    · exact xcauseVal_causeSet x l.xf
    · exact wholeRegister x _
    · exact lowRegister x l.srkey
    · exact wholeRegister x _
    · exact lowRegister x l.rege
    · exact lowRegister x l.regc
    · interval_cases n <;> exact noBits x _

theorem laneSysRead_write_ne (l : Lane) (ln : Nat) {n m : Nat} (x : DWord) (h : m ≠ n) : laneSysRead (laneSysWrite l n x) ln m = laneSysRead l ln m := by
  by_cases hf : 2 ≤ n ∧ n ≤ 7
  · obtain ⟨h2, h7⟩ := hf
    rw [laneSysWrite_frame l x h2 h7]
    by_cases hm : 2 ≤ m ∧ m ≤ 7
    · rw [laneSysRead_frame _ ln hm.1 hm.2, laneSysRead_frame _ ln hm.1 hm.2, top_setTop]
      split
      · rfl
      · exact frameRead_write_ne l.top x ⟨h2, h7⟩ hm h
    · exact laneSysRead_setTop l _ ln (by omega)
  · unfold laneSysWrite
    split <;> first | omega | (unfold laneSysRead; split <;> first | exact absurd rfl h | rfl)

/-- At depth 0 a T register reads 0 and ignores writes (R233). -/
theorem laneSysRead_noFrame (l : Lane) (ln : Nat) {n : Nat} (x : DWord) (h2 : 2 ≤ n) (h7 : n ≤ 7) (h0 : l.depth = 0) : laneSysRead l ln n = 0 ∧ laneSysWrite l n x = l := by
  have ht : l.top = {} := if_pos h0
  constructor
  · rw [laneSysRead_frame l ln h2 h7, ht]
    interval_cases n <;> rfl
  · rw [laneSysWrite_frame l x h2 h7]
    exact if_pos h0

/-! ### A squad's and a core's registers -/

theorem squadSysRead_write (s : Squad) {n : Nat} (x : DWord) (h1 : 0x20 ≤ n) (h2 : n < 0x40) :
    squadSysRead (squadSysWrite s n x) n = (x &&& sysMask n) ||| (squadSysRead s n &&& ~~~sysMask n) := by
  obtain rfl | rfl | rfl | rfl | rfl | rfl | hn : n = 0x20 ∨ n = 0x21 ∨ n = 0x25 ∨ n = 0x26 ∨ n = 0x27 ∨ n = 0x28 ∨ n ≠ 0x20 ∧ n ≠ 0x21 ∧ n ≠ 0x25 ∧ n ≠ 0x26 ∧ n ≠ 0x27 ∧ n ≠ 0x28 := by omega
  · exact lowRegister x s.fpsr
  · exact lowRegister x s.fpcr
  · exact wholeRegister x _
  · exact lowRegister x s.privl
  · exact sqctlVal_dbg s x _
  · exact lowRegister x s.asid
  · interval_cases n <;> first | omega | exact noBits x _

theorem squadSysRead_write_ne (s : Squad) {n m : Nat} (x : DWord) (h : m ≠ n) : squadSysRead (squadSysWrite s n x) m = squadSysRead s m := by
  unfold squadSysWrite
  split <;> first | rfl | (unfold squadSysRead; split <;> first | exact absurd rfl h | rfl)

theorem squadSysWrite_core (s : Squad) (n : Nat) (x : DWord) : (squadSysWrite s n x).core = s.core ∧ (squadSysWrite s n x).lanes = s.lanes := by
  unfold squadSysWrite
  split <;> exact ⟨rfl, rfl⟩

theorem clusterOf_setCluster_self (d : Dev) (c : Nat) (f : Cluster → Cluster) : clusterOf (setCluster d c f) c = f (clusterOf d c) := by
  rw [clusterOf_setCluster, if_pos rfl]

theorem coreOf_setCore_self (d : Dev) (k : Nat) (f : Core → Core) : coreOf (setCore d k f) k = f (coreOf d k) := by rw [coreOf_setCore, if_pos rfl]

theorem coreSysRead_write (d : Dev) (core : Nat) {n : Nat} (x : DWord) (h : 0x40 ≤ n) :
    coreSysRead (coreSysWrite d core n x) core n = (x &&& sysMask n) ||| (coreSysRead d core n &&& ~~~sysMask n) := by
  obtain rfl | rfl | rfl | rfl | rfl | hn : n = 0x44 ∨ n = 0x45 ∨ n = 0x46 ∨ n = 0x47 ∨ n = 0x49 ∨ n ≠ 0x44 ∧ n ≠ 0x45 ∧ n ≠ 0x46 ∧ n ≠ 0x47 ∧ n ≠ 0x49 := by omega
  · simp only [coreSysRead, coreSysWrite, coreOf_setCore_self]
    exact wholeRegister x _
  · simp only [coreSysRead, coreSysWrite, coreOf_setCore_self]
    exact wholeRegister x _
  · simp only [coreSysRead, coreSysWrite, coreOf_setCore_self]
    exact lowRegister x _
  · simp only [coreSysRead, coreSysWrite, coreOf_setCore_self]
    exact lowRegister x _
  · simp only [coreSysRead, coreSysWrite, clusterOf_setCluster_self]
    exact lowRegister x _
  · have hw : coreSysWrite d core n x = d := by
      unfold coreSysWrite
      split <;> first | rfl | omega
    have hm : sysMask n = 0 := by
      unfold sysMask
      split <;> first | rfl | omega
    rw [hw, hm]
    exact noBits x _

theorem coreSysRead_write_ne (d : Dev) (core : Nat) {n m : Nat} (x : DWord) (h : m ≠ n) : coreSysRead (coreSysWrite d core n x) core m = coreSysRead d core m := by
  unfold coreSysWrite
  split
  case h_6 => rfl
  case h_5 =>
    unfold coreSysRead
    rw [clusterOf_setCluster_self]
    split <;> first | exact absurd rfl h | rfl
  all_goals
    unfold coreSysRead
    rw [coreOf_setCore_self]
    split <;> first | exact absurd rfl h | rfl

/-- A register reads by what stands of the lane, of its squad but its lanes, and of the cores and clusters. -/
theorem sysRead_of_lane {d d' : Dev} {u ln : Nat} {l : Lane} (hl : laneOf d' u ln = l) (hs : ({ squadOf d' u with lanes := [] } : Squad) = { squadOf d u with lanes := [] })
    (hc : d'.cores = d.cores) (hk : d'.clusters = d.clusters) (m : Nat) : sysRead d' u ln m = if m < 0x20 then laneSysRead l ln m else sysRead d u ln m := by
  have h1 : squadSysRead (squadOf d' u) m = squadSysRead (squadOf d u) m := by
    show squadSysRead { squadOf d' u with lanes := [] } m = squadSysRead { squadOf d u with lanes := [] } m
    rw [hs]
  have h2 : (squadOf d' u).core = (squadOf d u).core := (congrArg Squad.core hs :)
  have h3 : ∀ c, coreSysRead d' c m = coreSysRead d c m := fun c => by simp only [coreSysRead, coreOf, clusterOf, hc, hk]
  rw [sysRead_eq, sysRead_eq d, hl, h1, h2, h3]
  split <;> rfl

/-- Writes that leave the lane's squad, the cores and the clusters alone read as the lane's own. -/
theorem sysRead_setLane {d : Dev} {u ln : Nat} (hs : (fget d.squads u).isSome = true) (hl : (fget (squadOf d u).lanes ln).isSome = true) (f : Lane → Lane) (m : Nat) :
    sysRead (setLane d u ln f) u ln m = if m < 0x20 then laneSysRead (f (laneOf d u ln)) ln m else sysRead d u ln m := by
  obtain ⟨l, hl'⟩ := Option.isSome_iff_exists.1 hl
  have hq : squadOf (setLane d u ln f) u = (squadOf d u).setLane ln f := squadOf_setSquad _ hs
  refine sysRead_of_lane (d := d) (d' := setLane d u ln f) (l := f (laneOf d u ln)) ?_ ?_ rfl rfl m
  · simp only [laneOf, hq, Squad.lane, fgetD, lane_setLane, hl', if_true, Option.map_some, Option.getD_some]
  · rw [hq]; rfl

theorem sysRead_setSquad {d : Dev} {u : Nat} (hs : (fget d.squads u).isSome = true) (ln n : Nat) (x : DWord) (m : Nat) :
    sysRead (setSquad d u fun s => squadSysWrite s n x) u ln m =
      if m < 0x20 then laneSysRead (laneOf d u ln) ln m else if m < 0x40 then squadSysRead (squadSysWrite (squadOf d u) n x) m else coreSysRead d (squadOf d u).core m := by
  have hq : squadOf (setSquad d u fun s => squadSysWrite s n x) u = squadSysWrite (squadOf d u) n x := squadOf_setSquad _ hs
  obtain ⟨hc, hl⟩ := squadSysWrite_core (squadOf d u) n x
  have hln : laneOf (setSquad d u fun s => squadSysWrite s n x) u ln = laneOf d u ln := by simp only [laneOf, hq, Squad.lane, hl]
  rw [sysRead_eq, hln, hq, hc]
  rfl

theorem sysRead_coreSysWrite (d : Dev) (u ln n : Nat) (x : DWord) (m : Nat) :
    sysRead (coreSysWrite d (squadOf d u).core n x) u ln m =
      if m < 0x40 then sysRead d u ln m else coreSysRead (coreSysWrite d (squadOf d u).core n x) (squadOf d u).core m := by
  have hq : (coreSysWrite d (squadOf d u).core n x).squads = d.squads := by
    unfold coreSysWrite
    split <;> rfl
  rw [sysRead_eq, sysRead_eq d, show squadOf (coreSysWrite d (squadOf d u).core n x) u = squadOf d u from squadOf_congr hq u,
    show laneOf (coreSysWrite d (squadOf d u).core n x) u ln = laneOf d u ln from congrArg (Squad.lane · ln) (squadOf_congr hq u)]
  by_cases h1 : m < 0x20
  · rw [if_pos h1, if_pos (by omega), if_pos h1]
  · by_cases h2 : m < 0x40
    · rw [if_neg h1, if_pos h2, if_pos h2, if_neg h1, if_pos h2]
    · rw [if_neg h1, if_neg h2, if_neg h2]

/-- Settles O22, by whether the register is a lane's, a squad's or a core's. -/
theorem systemRegistersReadBack : Obligations.SystemRegistersReadBack := by
  unfold Obligations.SystemRegistersReadBack
  intro d u ln n m x hs hl mask
  have hne : m ≠ n → sysRead (sysWriteReg d u ln n x) u ln m = sysRead d u ln m := fun h => by
    by_cases h1 : n < 0x20
    · rw [sysWriteReg_eq, if_pos h1, sysRead_setLane hs hl]
      split
      · next hm => rw [laneSysRead_write_ne _ ln x h, sysRead_eq, if_pos hm]
      · rfl
    · by_cases h2 : n < 0x40
      · rw [sysWriteReg_eq, if_neg h1, if_pos h2, sysRead_setSquad hs, squadSysRead_write_ne _ x h, ← sysRead_eq]
      · rw [sysWriteReg_eq, if_neg h1, if_neg h2, sysRead_coreSysWrite, coreSysRead_write_ne d _ x h]
        split
        · rfl
        · next hm => rw [sysRead_eq, if_neg (by omega), if_neg hm]
  refine ⟨fun hd h => ?_, hne, fun h2 h7 h0 => ?_⟩
  · by_cases h1 : n < 0x20
    · rw [sysWriteReg_eq, if_pos h1, sysRead_setLane hs hl, if_pos h1, laneSysRead_write _ ln x h1 hd h, sysRead_eq, if_pos h1]
    · by_cases h2 : n < 0x40
      · rw [sysWriteReg_eq, if_neg h1, if_pos h2, sysRead_setSquad hs, if_neg h1, if_pos h2, squadSysRead_write _ x (by omega) h2, sysRead_eq, if_neg h1, if_pos h2]
      · rw [sysWriteReg_eq, if_neg h1, if_neg h2, sysRead_coreSysWrite, if_neg h2, coreSysRead_write d _ x (by omega), sysRead_eq, if_neg h1, if_neg h2]
  · obtain ⟨hr, hw⟩ := laneSysRead_noFrame (laneOf d u ln) ln x h2 h7 h0
    refine ⟨by rw [sysRead_eq, if_pos (by omega), hr], fun k => ?_⟩
    rw [sysWriteReg_eq, if_pos (by omega), sysRead_setLane hs hl]
    split
    · next hk => rw [hw, sysRead_eq, if_pos hk]
    · rfl

end Sys2Proof.Machine
end

section
/-! Traps and returns from them (R232 to R238). -/
namespace Sys2Proof.Machine

/-! ### What a trap does to a lane's gathers (R92, R235) -/

theorem laneOf_setSquad (d : Dev) (u : Nat) (f : Squad → Squad) (hf : ∀ s, (f s).lanes = s.lanes) (ln : Nat) : laneOf (setSquad d u f) u ln = laneOf d u ln := by
  simp only [laneOf, squadOf, fgetD, fget_setSquad, if_true]
  cases fget d.squads u with
  | none => rfl
  | some s => exact congrArg (fun m => fgetD m ln {}) (hf s)

/-- A device whose squad u differs in its gathers alone. -/
structure SameButGathers (u : Nat) (d d' : Dev) : Prop where
  here   : (fget d'.squads u).isSome = (fget d.squads u).isSome
  squad  : ({ squadOf d' u with insts := [] } : Squad) = { squadOf d u with insts := [] }
  others : ∀ v, v ≠ u → fget d'.squads v = fget d.squads v
  rest   : ({ d' with squads := [] } : Dev) = { d with squads := [] }

theorem unarrive_keeps (d : Dev) (u ln : Nat) : SameButGathers u d (unarrive d u ln) := by
  unfold unarrive
  split
  · refine ⟨by simp, ?_, fun v hv => by simp [hv], rfl⟩
    simp only [squadOf, fgetD, fget_setSquad, if_true]
    cases fget d.squads u <;> rfl
  · exact ⟨rfl, rfl, fun _ _ => rfl, rfl⟩

theorem SameButGathers.lanes {u : Nat} {d d' : Dev} (h : SameButGathers u d d') : (squadOf d' u).lanes = (squadOf d u).lanes := (congrArg Squad.lanes h.squad :)
theorem SameButGathers.core {u : Nat} {d d' : Dev} (h : SameButGathers u d d') : (squadOf d' u).core = (squadOf d u).core := (congrArg Squad.core h.squad :)
theorem SameButGathers.ctx {u : Nat} {d d' : Dev} (h : SameButGathers u d d') : (squadOf d' u).ctx = (squadOf d u).ctx := (congrArg Squad.ctx h.squad :)
theorem SameButGathers.laneOf {u : Nat} {d d' : Dev} (h : SameButGathers u d d') (ln : Nat) : laneOf d' u ln = Machine.laneOf d u ln := by
  simp only [Machine.laneOf, Squad.lane, h.lanes]
theorem SameButGathers.coreOf {u : Nat} {d d' : Dev} (h : SameButGathers u d d') (k : Nat) : coreOf d' k = Machine.coreOf d k := by
  have hc : d'.cores = d.cores := (congrArg Dev.cores h.rest :)
  simp only [Machine.coreOf, hc]

theorem arrived_instNow {s : Squad} {g : GInst} {ln : Nat} (h : shas g.arrived ln = false) : shas (s.instNow g).arrived ln = false := by
  unfold Squad.instNow
  split
  · exact h
  · have hf : shas (g.arrived.filter fun ln => (s.gatherSet g.mask).contains ln) ln = false := by
      simp only [shas, List.contains_eq_mem, decide_eq_false_iff_not, List.mem_filter, not_and] at h ⊢
      exact fun hm => absurd hm h
    dsimp only
    split <;> exact hf

/-- A lane that traps has arrived at no gather. -/
theorem unarrive_arrived (d : Dev) (u ln : Nat) : ∀ p ∈ (squadOf (unarrive d u ln) u).insts, shas p.2.arrived ln = false := by
  unfold unarrive
  split
  · next h =>
    intro p hp
    have hs : (fget d.squads u).isSome = true := by
      cases hf : fget d.squads u with
      | none => simp [squadOf, fgetD, hf] at h
      | some s => rfl
    rw [squadOf_setSquad _ hs] at hp
    simp only [Squad.closeInsts, List.mem_filterMap, List.mem_map] at hp
    obtain ⟨a, ⟨b, -, rfl⟩, hb⟩ := hp
    split at hb
    · cases hb
    · cases hb
      exact arrived_instNow (shas_sdel _ _)
  · next h => exact fun p hp => by simpa using fun hc => h (List.any_eq_true.2 ⟨p, hp, hc⟩)

/-! ### Entry (R234, R235) -/

/-- The target mode of a trap below depth 3 and its vector (R234, R235). -/
def entryMode (d : Dev) (u ln c : Nat) (hc : Bool) : Mode := trapMode (coreOf d (squadOf d u).core).hdeleg (laneOf d u ln).mode c hc
/-- The vector of a mode in a squad's core. -/
def vectorOf (d : Dev) (u : Nat) (t : Mode) : DWord := if t = .h then (coreOf d (squadOf d u).core).hvec else (coreOf d (squadOf d u).core).stvec

/-- A lane after an entry with a frame: at depth 3 into the X registers (R235, R236). -/
def entryStep (fr : Frame) (t : Mode) (vec : DWord) (l : Lane) : Lane := if l.depth ≥ 3 then l.enterOverflow vec fr else l.enter t vec fr

/-- A device after a lane's entry, which the ring of its cluster records where it is into H (R323). -/
def climbed (d : Dev) (u ln c : Nat) (t : Mode) (f : Lane → Lane) : Dev :=
  if t = .h then blackBox (setLane d u ln f) (clusterIdx (squadOf d u)) 5 ((squadOf d u).core % 7) (BitVec.ofNat 64 (c + 256 * ln)) else setLane d u ln f

/-- The entry of a lane that first leaves its gathers. -/
def entered (d : Dev) (u ln c : Nat) (t : Mode) (f : Lane → Lane) : Dev := climbed (unarrive d u ln) u ln c t f

/-- One entry of a trap: the squad halts, or the lane enters and, where the vector is no address of a header, traps again (R234 to R236). -/
theorem trapFuel_succ (n : Nat) (d : Dev) (u ln : Nat) (c : Cause) (tval : DWord) (epc hdr : Pc) (hc imp : Bool) : trapFuel (n + 1) d u ln c tval epc hdr hc imp =
    if (laneOf d u ln).depth ≥ 3 && ((laneOf d u ln).mode = .h || (laneOf d u ln).ovf) then haltSquad d u ln c
    else
      let t := if (laneOf d u ln).depth ≥ 3 then Mode.h else entryMode d u ln c hc
      let vec := vectorOf d u t
      let d' := climbed d u ln c t (entryStep ((laneOf d u ln).newFrame c tval epc hdr hc imp) t vec)
      if vec.toNat ≥ 2 ^ 54 then trapFuel n d' u ln 0x01 (0x8000000000000000#64 ||| (vec.setWidth 54).setWidth 64) (vec.setWidth 54) (vec.setWidth 54) false false
      else d' := rfl

theorem trapTo_shallow {d : Dev} {u ln : Nat} (c : Cause) (tval : DWord) (epc hdr : Pc) (hc imp : Bool) (hd : (laneOf d u ln).depth < 3)
    (hv : (vectorOf d u (entryMode d u ln c hc)).toNat < 2 ^ 54) :
    trapTo d u ln c tval epc hdr hc imp = entered d u ln c (entryMode d u ln c hc)
      (entryStep ((laneOf d u ln).newFrame c tval epc hdr hc imp) (entryMode d u ln c hc) (vectorOf d u (entryMode d u ln c hc))) := by
  have hg := unarrive_keeps d u ln
  have hm : entryMode (unarrive d u ln) u ln c hc = entryMode d u ln c hc := by simp only [entryMode, hg.laneOf, hg.core, hg.coreOf]
  have hw : ∀ t, vectorOf (unarrive d u ln) u t = vectorOf d u t := fun t => by simp only [vectorOf, hg.core, hg.coreOf]
  rw [trapTo, trapFuel_succ, hg.laneOf, hm, if_neg (by simp; omega)]
  simp only [if_neg (by omega : ¬ (laneOf d u ln).depth ≥ 3), hw, if_neg (Nat.not_le.2 hv)]
  rfl

theorem trapTo_overflow {d : Dev} {u ln : Nat} (c : Cause) (tval : DWord) (epc hdr : Pc) (hc imp : Bool) (hd : (laneOf d u ln).depth = 3)
    (hm : (laneOf d u ln).mode ≠ .h) (ho : (laneOf d u ln).ovf = false) (hv : (coreOf d (squadOf d u).core).hvec.toNat < 2 ^ 54) :
    trapTo d u ln c tval epc hdr hc imp = entered d u ln c .h (entryStep ((laneOf d u ln).newFrame c tval epc hdr hc imp) .h (coreOf d (squadOf d u).core).hvec) := by
  have hg := unarrive_keeps d u ln
  have hw : vectorOf (unarrive d u ln) u .h = (coreOf d (squadOf d u).core).hvec := by simp only [vectorOf, if_true, hg.core, hg.coreOf]
  rw [trapTo, trapFuel_succ, hg.laneOf, if_neg (by simp [hm, ho])]
  simp only [if_pos (by omega : (laneOf d u ln).depth ≥ 3), hw, if_neg (Nat.not_le.2 hv)]
  rfl

theorem trapTo_halt {d : Dev} {u ln : Nat} (c : Cause) (tval : DWord) (epc hdr : Pc) (hc imp : Bool) (hd : (laneOf d u ln).depth = 3)
    (h : (laneOf d u ln).mode = .h ∨ (laneOf d u ln).ovf = true) : trapTo d u ln c tval epc hdr hc imp = haltSquad (unarrive d u ln) u ln c := by
  have hg := unarrive_keeps d u ln
  rw [trapTo, trapFuel_succ, hg.laneOf, if_pos (by simpa [hd] using h)]

/-- What an entry leaves: the lane as the entry makes it, the gathers without it, and all else but its cluster's ring. -/
theorem entered_spec {d : Dev} {u ln : Nat} (hs : (fget d.squads u).isSome = true) (hl : (fget (squadOf d u).lanes ln).isSome = true) (c : Nat) (t : Mode) (f : Lane → Lane) :
    laneOf (entered d u ln c t f) u ln = f (laneOf d u ln) ∧
    (∀ j, j ≠ ln → fget (squadOf (entered d u ln c t f) u).lanes j = fget (squadOf d u).lanes j) ∧
    ({ squadOf (entered d u ln c t f) u with lanes := [], insts := [] } : Squad) = { squadOf d u with lanes := [], insts := [] } ∧
    (∀ p ∈ (squadOf (entered d u ln c t f) u).insts, shas p.2.arrived ln = false) ∧
    (∀ v, v ≠ u → fget (entered d u ln c t f).squads v = fget d.squads v) ∧
    ({ entered d u ln c t f with squads := [], clusters := [] } : Dev) = { d with squads := [], clusters := [] } := by
  have hg := unarrive_keeps d u ln
  have hsq : (entered d u ln c t f).squads = (setLane (unarrive d u ln) u ln f).squads := by
    unfold entered climbed
    split <;> rfl
  have hrest : ({ entered d u ln c t f with squads := [], clusters := [] } : Dev) = { unarrive d u ln with squads := [], clusters := [] } := by
    by_cases ht : t = .h
    · simp only [entered, climbed, if_pos ht]; rfl
    · simp only [entered, climbed, if_neg ht]; rfl
  have hq : squadOf (entered d u ln c t f) u = (squadOf (unarrive d u ln) u).setLane ln f :=
    (squadOf_congr hsq u).trans (squadOf_setSquad _ (by rw [hg.here]; exact hs))
  refine ⟨?_, fun j hj => ?_, ?_, ?_, fun v hv => ?_, hrest.trans (congrArg (fun d : Dev => { d with clusters := [] }) hg.rest :)⟩
  · obtain ⟨l, hl'⟩ := Option.isSome_iff_exists.1 hl
    simp only [laneOf, hq, Squad.lane, fgetD, lane_setLane, if_true, hg.lanes, hl', Option.map_some, Option.getD_some]
  · rw [hq, lane_setLane, if_neg hj, hg.lanes]
  · rw [hq]
    exact (congrArg (fun s : Squad => { s with lanes := [] }) hg.squad :)
  · rw [hq]
    exact unarrive_arrived d u ln
  · rw [hsq]
    exact (by simp [setLane, hv] : fget (setLane (unarrive d u ln) u ln f).squads v = fget (unarrive d u ln).squads v).trans (hg.others v hv)

theorem frame_setFrame (l : Lane) {i j : Nat} (f : Frame) (hi : i < 3) (hj : j < 3) : (l.setFrame i f).frame j = if j = i then f else l.frame j := by
  interval_cases i <;> interval_cases j <;> rfl

theorem setFrame_eq (l : Lane) (i : Nat) (f : Frame) : ∃ a b c, l.setFrame i f = { l with f0 := a, f1 := b, f2 := c } := by
  unfold Lane.setFrame
  split
  · exact ⟨_, _, _, rfl⟩
  · split <;> exact ⟨_, _, _, rfl⟩

/-- Settles O26. -/
theorem trapEntry : Obligations.TrapEntry := by
  unfold Obligations.TrapEntry
  intro d u ln c tval epc hdr hc imp hs hl hd l k t vec hv d' l'
  have ht : entryMode d u ln c hc = t := by
    refine if_congr ?_ rfl rfl
    simp only [Bool.or_eq_true, Bool.and_eq_true, decide_eq_true_eq, or_assoc]
    rw [and_comm (a := c < 32)]
  have hvec : vectorOf d u (entryMode d u ln c hc) = vec := by rw [ht]; rfl
  have he : d' = entered d u ln c t (entryStep (l.newFrame c tval epc hdr hc imp) t vec) := by
    have := trapTo_shallow c tval epc hdr hc imp hd (by rw [hvec]; exact hv)
    rw [hvec, ht] at this
    exact this
  obtain ⟨hlane, hothers, hbare, harr, hsq, hrest⟩ := entered_spec hs hl c t (entryStep (l.newFrame c tval epc hdr hc imp) t vec)
  have hl' : l' = l.enter t vec (l.newFrame c tval epc hdr hc imp) := by
    show laneOf d' u ln = _
    rw [he, hlane]
    exact if_neg (by omega)
  rw [hl', he]
  have hfr : ∀ j, (l.enter t vec (l.newFrame c tval epc hdr hc imp)).frame j = (l.setFrame l.depth (l.newFrame c tval epc hdr hc imp)).frame j := fun _ => rfl
  refine ⟨⟨rfl, rfl, rfl, rfl, rfl, rfl⟩, ?_, fun j hj => ?_, ?_, hothers, hbare, harr, hsq, hrest⟩
  · rw [hfr, frame_setFrame l _ hd hd, if_pos rfl]
    rfl
  · rw [hfr, frame_setFrame l _ hd (Nat.lt_trans hj hd), if_neg (Nat.ne_of_lt hj)]
  · obtain ⟨a, b, e, hf⟩ := setFrame_eq l l.depth (l.newFrame c tval epc hdr hc imp)
    simp only [Lane.enter, hf]
    exact ⟨rfl, rfl, rfl, rfl, rfl, rfl, rfl, rfl⟩

/-- What a trap can change: squads, the rings of clusters, and what the host is told; nothing else. -/
def TrapKept (d d' : Dev) : Prop := ({ d' with squads := [], clusters := [], host := {} } : Dev) = { d with squads := [], clusters := [], host := {} }

theorem TrapKept.trans {a b c : Dev} (h : TrapKept a b) (k : TrapKept b c) : TrapKept a c := Eq.trans k h

theorem trapKept_climbed (d : Dev) (u ln c : Nat) (t : Mode) (f : Lane → Lane) : TrapKept d (climbed d u ln c t f) := by
  unfold climbed
  split <;> rfl

theorem trapFuel_kept (n : Nat) : ∀ (d : Dev) (u ln c : Nat) (tval : DWord) (epc hdr : Pc) (hc imp : Bool), TrapKept d (trapFuel n d u ln c tval epc hdr hc imp) := by
  induction n with
  | zero => exact fun _ _ _ _ _ _ _ _ _ => rfl
  | succ n ih =>
    intro d u ln c tval epc hdr hc imp
    rw [trapFuel_succ]
    split
    · rfl
    extract_lets t vec d'
    split
    · exact (trapKept_climbed ..).trans (ih ..)
    · exact trapKept_climbed ..

theorem trapTo_kept (d : Dev) (u ln c : Nat) (tval : DWord) (epc hdr : Pc) (hc imp : Bool) : TrapKept d (trapTo d u ln c tval epc hdr hc imp) :=
  TrapKept.trans (congrArg (fun d : Dev => { d with clusters := [], host := {} }) (unarrive_keeps d u ln).rest :) (trapFuel_kept ..)

/-- Settles O27. -/
theorem trapOverflow : Obligations.TrapOverflow := by
  unfold Obligations.TrapOverflow
  intro d u ln c tval epc hdr hc imp hs hl hd l k d' l'
  have hg := unarrive_keeps d u ln
  have hhalt : l.mode = .h ∨ l.ovf = true → d' = haltSquad (unarrive d u ln) u ln c := fun h => trapTo_halt c tval epc hdr hc imp hd h
  refine ⟨fun hm ho hv => ?_, fun h => ?_, ?_⟩
  · have hl' : l' = l.enterOverflow k.hvec (l.newFrame c tval epc hdr hc imp) := by
      show laneOf d' u ln = _
      rw [show d' = _ from trapTo_overflow c tval epc hdr hc imp hd hm ho hv, (entered_spec hs hl c .h _).1]
      exact if_pos (by omega)
    rw [hl']
    exact ⟨rfl, rfl, rfl, rfl, rfl, hd, rfl, fun _ => rfl, rfl, rfl⟩
  · have hq : squadOf d' u = { squadOf (unarrive d u ln) u with stop := .halt, res := .writing } := by
      rw [hhalt h]
      exact squadOf_setSquad _ (by rw [hg.here]; exact hs)
    refine ⟨?_, by rw [hq], by rw [hq], ?_⟩
    · show (squadOf d' u).lane ln = _
      rw [hq]
      exact hg.laneOf ln
    · have hr : (unarrive d u ln).host = d.host := (congrArg Dev.host hg.rest :)
      rw [hhalt h, ← hg.ctx, ← hr]
      rfl
  · exact trapTo_kept d u ln c tval epc hdr hc imp

/-! ### Returns (R238) -/

/-- A device that has looked at memory through translation and fetch: held translations, fetched words and identifiers are new. -/
def Looked (d d' : Dev) : Prop := ({ d' with tlb := [], fetch := [], fresh := 0 } : Dev) = { d with tlb := [], fetch := [], fresh := 0 }

theorem Looked.refl (d : Dev) : Looked d d := rfl
theorem Looked.trans {a b c : Dev} (h : Looked a b) (k : Looked b c) : Looked a c := Eq.trans k h
theorem Looked.squads {d d' : Dev} (h : Looked d d') : d'.squads = d.squads := (congrArg Dev.squads h :)

theorem looked_tlbFill (d : Dev) (buf : Nat) (vmid : BitVec 12) (asid : BitVec 16) (l : Leaf) : Looked d (tlbFill d buf vmid asid l) := by
  unfold tlbFill
  dsimp only
  split <;> rfl

theorem looked_xlatNow (d : Dev) (buf : Nat) (vmid : BitVec 12) (asid : BitVec 16) (va : Nat) (need : Need) (user : Bool) : Looked d (xlatNow d buf vmid asid va need user).1 := by
  unfold xlatNow
  split
  · rfl
  split
  · rfl
  split
  · rfl
  split
  · exact looked_tlbFill ..
  · rfl

theorem looked_fetchWord (d : Dev) (core pa : Nat) : Looked d (fetchWord d core pa).1 := by
  unfold fetchWord
  split <;> rfl

theorem looked_fetchWords (f : Fetcher) (n : Nat) : ∀ (d : Dev) (va : Nat), Looked d (fetchWords d f va n).1 := by
  induction n with
  | zero => exact fun d _ => .refl d
  | succ n ih =>
    intro d va
    have hx := looked_xlatNow d f.core f.vmid f.asid va .x f.user
    unfold fetchWords
    split
    · next h => rwa [h] at hx
    · next d1 pa h =>
      rw [h] at hx
      split
      · exact hx
      · have hw := (hx.trans (looked_fetchWord d1 f.core pa)).trans (ih (fetchWord d1 f.core pa).1 (va + 4))
        dsimp only
        split <;> next h => rwa [h] at hw

theorem looked_fetchInstr (d : Dev) (f : Fetcher) (va : Nat) : Looked d (fetchInstr d f va).1 := by
  have hw := looked_fetchWords f 3 d va
  unfold fetchInstr
  split <;> next h => rwa [h] at hw

theorem looked_bodyClass (f : Fetcher) (n : Nat) : ∀ (d : Dev) (va : Nat), Looked d (bodyClass d f va n).1 := by
  induction n with
  | zero => exact fun d _ => .refl d
  | succ n ih =>
    intro d va
    have hb := (looked_fetchInstr d f va).trans (ih (fetchInstr d f va).1 (va + 12))
    unfold bodyClass
    dsimp only
    split <;> exact hb

theorem looked_headerAt (d : Dev) (f : Fetcher) (va : Nat) : Looked d (headerAt d f va).1 := by
  have hf := looked_fetchInstr d f va
  unfold headerAt
  split
  · rfl
  split
  · next h => rwa [h] at hf
  · next d1 x h =>
    rw [h] at hf
    split
    · next len _ _ _ _ _ _ =>
      have hb := hf.trans (looked_bodyClass f len.toNat d1 (va + 12))
      split
      next h => rwa [h] at hb
    · exact hf

theorem fmod_congr {β : Type} {m : FMap β} {k : Nat} {f g : β → β} (h : ∀ v, fget m k = some v → f v = g v) : fmod m k f = fmod m k g := by
  unfold fmod
  cases hk : fget m k with
  | none => rfl
  | some v => exact congrArg (fput m k) (h v hk)

theorem setLane_congr {d : Dev} {u ln : Nat} {f g : Lane → Lane} (h : f (laneOf d u ln) = g (laneOf d u ln)) : setLane d u ln f = setLane d u ln g := by
  refine congrArg (fun m => { d with squads := m }) (fmod_congr fun s hs => congrArg (fun m => { s with lanes := m }) (fmod_congr fun l hl => ?_))
  rwa [show laneOf d u ln = l by simp [laneOf, Squad.lane, squadOf, fgetD, hs, hl]] at h

theorem modeOf_eq (pm : BitVec 2) : modeOf pm = if pm = 0 then .u else if pm = 1 then .s else .h := by
  simp only [modeOf, beq_iff_eq]

theorem modeOf_user (pm : BitVec 2) : (modeOf pm == .u) = (pm == 0) := by
  revert pm
  decide

/-- A return through the X registers or a popped frame, to a mode that the lane may return to, at a resume address that the clause has. -/
theorem returnFrom_returns {d : Dev} {u ln : Nat} {hret : Bool} {fr : Frame} {pop : Lane → Lane} (hfr : fr = if hret && (laneOf d u ln).ovf then (laneOf d u ln).xf else (laneOf d u ln).top)
    (hdep : (hret && (laneOf d u ln).ovf) = true ∨ (laneOf d u ln).depth ≠ 0) (h3 : fr.pm ≠ 3) (h2 : hret = true ∨ fr.pm ≠ 2)
    (hpop : pop (laneOf d u ln) = if hret && (laneOf d u ln).ovf then { (laneOf d u ln).leave with ovf := false }
      else { (laneOf d u ln).leave with moor := fr.moor, depth := (laneOf d u ln).depth - 1 })
    (hc : canReturn d u ln fr) : returnFrom d u ln hret = returned d u ln fr pop := by
  obtain ⟨len, w, a, b, cls, yp, j, hh, hj, hepc⟩ := hc
  have hlane : laneOf (headerAt d { fetcherOf d u ln with user := fr.pm == 0 } fr.hdr.toNat).1 u ln = laneOf d u ln :=
    congrArg (Squad.lane · ln) (squadOf_congr (looked_headerAt ..).squads u)
  have hdiv : (fr.epc.toNat - fr.hdr.toNat) / 12 = j := by omega
  have hs : ¬ (!hret && fr.pm = 2) = true := fun hp => by
    simp only [Bool.and_eq_true, Bool.not_eq_true', decide_eq_true_eq] at hp
    exact h2.elim (fun h => absurd hp.1 (by simp [h])) (fun h => h hp.2)
  unfold returnFrom
  simp only [← hfr, modeOf_user]
  rw [if_neg (by rcases hdep with h | h <;> simp [h]), if_neg h3, if_neg hs]
  unfold returned
  rcases he : headerAt d { fetcherOf d u ln with user := fr.pm == 0 } fr.hdr.toNat with ⟨d1, r⟩
  rw [he] at hh hlane
  cases (hh : r = _)
  dsimp only at hlane ⊢
  have hlen : (clauseOf (.clauseEntry len w a b cls yp)).len = len := rfl
  rw [hdiv, if_neg (by simp only [hlen, Bool.or_eq_true, decide_eq_true_eq]; omega)]
  refine setLane_congr ?_
  rw [hlane, hpop, modeOf_eq]
  cases hret && (laneOf d u ln).ovf <;> rfl

/-- Settles O28. -/
theorem returnsComplete : Obligations.ReturnsComplete := by
  unfold Obligations.ReturnsComplete
  refine ⟨fun h => runsLanes_issueChk (fun _ => rfl) fun e d ln hk => ?_, fun h => runsLanes_issueChk (fun _ => rfl) fun e d ln hk => ?_,
    fun h => runsLanes_issueChk (fun _ => rfl) fun e d ln hk => ?_, fun h => runsLanes_issueChk (fun _ => rfl) fun e d ln hk => ?_,
    fun h => runsLanes_issueChk (fun _ => rfl) fun e d ln hk => ?_⟩
  · obtain ⟨hc, hd, hp⟩ := hk
    exact returnFrom_returns (hret := false) rfl (.inr hd) (fun e => by rw [e] at hp; exact absurd hp (by decide)) (.inr fun e => by rw [e] at hp; exact absurd hp (by decide)) rfl hc
  · obtain ⟨hc, hd, hp, ho⟩ := hk
    have hx : (true && (laneOf d e.sq ln).ovf) = false := ho
    exact returnFrom_returns (hret := true) (by rw [hx]; rfl) (.inr hd) (fun e => by rw [e] at hp; exact absurd hp (by decide)) (.inl rfl) (by rw [hx]; rfl) hc
  · obtain ⟨hc, hp, ho⟩ := hk
    have hx : (true && (laneOf d e.sq ln).ovf) = true := ho
    exact returnFrom_returns (hret := true) (by rw [hx]; rfl) (.inl hx) (fun e => by rw [e] at hp; exact absurd hp (by decide)) (.inl rfl) (by rw [hx]; rfl) hc
  · unfold returnFrom
    exact if_pos (by simp [hk])
  · obtain ⟨hd, hp⟩ := hk
    simp only [returnFrom]
    rw [if_neg (by simp [hd]), if_neg (by simp [hp]), if_pos (by simp [hp])]

end Sys2Proof.Machine
end

section
/-! SUPPORT. Issues that go no further: guards that fail, registers and flags that are awaited, and forms and registers that a mode may not have (R13, R16, R38, R45). -/
namespace Sys2Proof.Machine

/-! ### The instructions by their common path -/

/-- But for the gathering forms, lanes whose guard fails just go on (R13). -/
theorem exec_issueChk (i : Instr) (h : i.raw.isSome = true) (hp : plainForm (rawOf i).form = true) :
    ∃ chk act, ∀ s, exec i s = onDev (issueChk (rawOf i) chk act) s := by
  cases i
  all_goals first
    | exact (Bool.false_ne_true h).elim
    | exact (Bool.false_ne_true hp).elim
    | exact ⟨_, _, fun s => rfl⟩

/-- The own check of a form that may be illegal for its lane passes where `OwnLegal` says so. -/
theorem exec_issueWith_own (i : Instr) (h : i.raw.isSome = true) : ∃ fails chk act, (∀ s, exec i s = onDev (issueWith (rawOf i) fails chk act) s) ∧
    (ownFirst (rawOf i).form = true → ∀ d u lns ln, OwnLegal i d u lns ln → chk d (envOf d u lns) ln = .ok) := by
  by_cases ho : ownFirst (rawOf i).form = true
  · cases i
    case regn => exact ⟨_, _, _, fun s => rfl, fun _ d u lns ln k => if_pos (k.first _ rfl)⟩
    case tlbinvVa => exact ⟨_, _, _, fun s => rfl, fun _ d u lns ln k => if_pos (k.idVa _ _ _ rfl)⟩
    case tlbinvAsid => exact ⟨_, _, _, fun s => rfl, fun _ d u lns ln k => if_pos (k.idAs _ _ rfl)⟩
    case tlbinvVm => exact ⟨_, _, _, fun s => rfl, fun _ d u lns ln k => if_pos (k.idVm _ _ rfl)⟩
    case tlbinvAll => exact ⟨_, _, _, fun s => rfl, fun _ _ _ _ _ _ => rfl⟩
    case moorWrite => exact ⟨_, _, _, fun s => rfl, fun _ d u lns ln k => k.moor _ _ _ _ rfl⟩
    case privlWrite => exact ⟨_, _, _, fun s => rfl, fun _ d u lns ln k => k.privl _ _ _ rfl⟩
    case regoWrite => exact ⟨_, _, _, fun s => rfl, fun _ _ _ _ _ _ => rfl⟩
    case swr => exact ⟨_, _, _, fun s => rfl, fun _ _ _ _ _ _ => rfl⟩
    all_goals first
      | exact (Bool.false_ne_true h).elim
      | exact (Bool.false_ne_true ho).elim
  · obtain ⟨fails, chk, act, he⟩ := exec_issueWith i h
    exact ⟨fails, chk, act, he, fun k => absurd k ho⟩

/-! ### What a guard, a register and a row hold back -/

theorem startExecute_cur (d : Dev) (u : Nat) (lns : List Nat) (r : Raw) : (startExecute d u lns r).cur = d.cur :=
  (congrArg Dev.cur (near_startExecute d u lns r).kept.rest :)

/-- Where no guard holds and the flag counts 63, all lanes wait. -/
theorem issueWith_fails_full {r : Raw} {fails : List Nat → Dev → Dev} {chk : Dev → Env → Nat → Chk} {act : Env → List Nat → Dev → Dev}
    {d : Dev} {u : Nat} {lns : List Nat} (hc : d.cur = some ⟨u, lns⟩) (hr : (squadOf d u).flagFull lns r.h = true)
    (hg : ∀ ln ∈ lns, guardHolds r.h (laneOf d u ln) = false) : issueWith r fails chk act d = holdLanes d u .hold lns := by
  have e1 : lns.filter (fun ln => (laneOf d u ln).qbit (r.h.grd.toNat % 8) ^^ r.h.grd.getLsbD 3) = [] := filter_none_of_all hg
  have e2 : lns.filter (fun ln => !((laneOf d u ln).qbit (r.h.grd.toNat % 8) ^^ r.h.grd.getLsbD 3)) = lns :=
    List.filter_eq_self.2 fun ln hl => by have := hg ln hl; simp only [guardHolds] at this; rw [this]; rfl
  unfold issueWith
  simp only [hc, e1, e2, hr, List.isEmpty_nil, if_true]

/-- Settles O30. -/
theorem failingGuardsGoOn : Obligations.FailingGuardsGoOn := by
  unfold Obligations.FailingGuardsGoOn
  intro i s u lns hi hp ha hg
  obtain ⟨chk, act, he⟩ := exec_issueChk i hi hp
  refine ⟨fun hr => ?_, fun hf => ?_⟩
  · rw [he, onDev, issueChk, issueWith_fails ha.cur ha.lanes hr hg]
    simp only [plainFails, startExecute_cur, ha.cur]
  · rw [he, onDev, issueChk, issueWith_fails_full ha.cur hf hg]

/-- A lane for which a row must come from memory, its page at hand, waits (R263). -/
theorem laneChk_missing {d : Dev} {e : Env} {r : Raw} {chk : Dev → Env → Nat → Chk} {ln : Nat} (hc : rowCause d e.s ln (rowsRead r) (rowsWritten r) = none)
    (hm : (rowsRead r ++ rowsWritten r).any e.s.missing = true) : laneChk d e r chk ln = .stall := by
  unfold laneChk
  simp only [hc]
  exact if_pos (by rw [hm]; rfl)

/-- Settles O31. -/
theorem interlocksAndMissesWait : Obligations.InterlocksAndMissesWait := by
  unfold Obligations.InterlocksAndMissesWait
  refine ⟨fun i s u lns hi hl hw => ?_, fun i s u lns hi hl hw hr => ?_⟩
  · obtain ⟨fails, chk, act, he⟩ := exec_issueWith i hi
    rw [he, onDev, issueWith_held hl (hw.imp_right fun ⟨h, f, hf, h63⟩ => ⟨h, by simp [Squad.flagFull, hf, h63]⟩)]
  · intro rows hc hm
    obtain ⟨fails, chk, act, he⟩ := exec_issueWith i hi
    rw [he, onDev, issueWith_stall hl hw hr fun ln hln => laneChk_missing (hc ln hln) hm]

/-! ### What a mode may not do -/

theorem opc_of_squadForm : ∀ f, isSquadForm f = true → f.opc.toNat / 64 ≠ 0xE := by
  intro f
  cases f <;> decide

/-- Past its flag and its registers, a form outside the squad forms meets only privilege (R45). -/
theorem dynCheck_slotsLegal {d : Dev} {u ln : Nat} {r : Raw} (h : slotsLegal r d u ln) (hq : isSquadForm r.form = false)
    (hs : (r.form == .sret && (laneOf d u ln).mode == .h) = false) :
    dynCheck d (squadOf d u) (groupOf d (squadOf d u).group) ln r =
      let prv := (slotsOf r).filterMap fun p => if slotPrivileged (laneOf d u ln).mode p.2.1 p.2.2 then some (p.1, p.2.1.desc) else none
      if formPrivileged r.form r.mod (laneOf d u ln).mode then some (0x02, 0) else if !prv.isEmpty then some (0x02, pickSlot d.tick ln prv) else none := by
  obtain ⟨h1, h2, h3⟩ := h
  have hill : ((slotsOf r).filterMap fun p =>
      if slotIllegal (squadOf d u) (groupOf d (squadOf d u).group) p.2.1 p.2.2 || slotReadOnly p.2.1 p.2.2 then some (p.1, p.2.1.desc) else none) = [] :=
    filterMap_none fun p hp => by simp [h3 p hp]
  have hsel : ((r.h.fsel == 1#2 && !(laneOf d u ln).clause.seta.valid) || (r.h.fsel == 2#2 && !(laneOf d u ln).clause.setb.valid)) = false := by
    cases ha : (laneOf d u ln).clause.seta.valid <;> cases hb : (laneOf d u ln).clause.setb.valid <;> simp_all
  unfold dynCheck
  rw [show (squadOf d u).lane ln = laneOf d u ln from rfl]
  simp only [hill, hsel, hq, hs, Bool.false_and, Bool.false_eq_true, if_false, List.isEmpty_nil, Bool.not_true]

/-- A lane that has a cause of privilege takes it, where its form's own check finds nothing illegal (R45). -/
theorem encCheck_privileged {i : Instr} {chk : Dev → Env → Nat → Chk} {d : Dev} {u : Nat} {lns : List Nat} {ln : Nat} {tv : DWord}
    (h : dynCheck d (squadOf d u) (groupOf d (squadOf d u).group) ln (rawOf i) = some (0x02, tv))
    (ho : ownFirst (rawOf i).form = true → OwnLegal i d u lns ln ∧ chk d (envOf d u lns) ln = .ok) :
    encCheck d (envOf d u lns) (rawOf i) chk ln = some (0x02, tv) := by
  unfold encCheck
  rw [show dynCheck d (envOf d u lns).s (envOf d u lns).g ln (rawOf i) = some (0x02, tv) from h]
  cases hf : ownFirst (rawOf i).form with
  | false => rfl
  | true =>
    obtain ⟨own, hk⟩ := ho hf
    have hrows : (rowsRead (rawOf i)).any (fun i => (envOf d u lns).s.missing i && rowPage d (envOf d u lns).s i) = false := by
      rw [List.any_eq_false]
      intro x hx
      have := List.any_eq_false.1 own.rows x hx
      simp [envOf, this]
    simp only [hk, hrows, show interlocked d (envOf d u lns).sq (envOf d u lns).s.group [ln] (rawOf i) = false from own.free, Bool.or_self, ne_eq,
      not_true_eq_false, decide_false, Bool.not_true, Bool.false_eq_true, if_false, ite_self]

/-- The forms that S mode may not execute are of class 0xE (R231). -/
theorem hypervisorForm {i : Instr} (h : (∃ h, i = .hret h) ∨ (∃ h n, i = .tlbinvVm h n) ∨ ∃ h, i = .tlbinvAll h) :
    (rawOf i).form.opc.toNat / 64 = 0xE ∧ ((rawOf i).form == .sret) = false ∧ formPrivileged (rawOf i).form (rawOf i).mod .s = true := by
  rcases h with ⟨h, rfl⟩ | ⟨h, n, rfl⟩ | ⟨h, rfl⟩
  · exact (by decide : Form.hret.opc.toNat / 64 = 0xE ∧ (Form.hret == .sret) = false ∧ formPrivileged .hret 0#9 .s = true)
  · exact (by decide : Form.tlbinv.opc.toNat / 64 = 0xE ∧ (Form.tlbinv == .sret) = false ∧ formPrivileged .tlbinv (modAt 0 (2#2)) .s = true)
  · exact (by decide : Form.tlbinv.opc.toNat / 64 = 0xE ∧ (Form.tlbinv == .sret) = false ∧ formPrivileged .tlbinv (modAt 0 (3#2)) .s = true)

/-- Settles O32. -/
theorem privilegedFormsTrap : Obligations.PrivilegedFormsTrap := by
  unfold Obligations.PrivilegedFormsTrap
  refine ⟨fun i s u lns hi ha hl hm ho => ?_, fun h s u lns ha hl => ?_⟩
  · obtain ⟨fails, chk, act, he, hk⟩ := exec_issueWith_own i hi
    have hE : (rawOf i).form.opc.toNat / 64 = 0xE := hm.elim (fun ⟨_, hE, _⟩ => hE) fun ⟨_, hi⟩ => (hypervisorForm hi).1
    have hp : ∀ ln ∈ lns, ((rawOf i).form == .sret && (laneOf s.dev u ln).mode == .h) = false ∧
        formPrivileged (rawOf i).form (rawOf i).mod (laneOf s.dev u ln).mode = true := fun ln hln => by
      rcases hm with ⟨hu, -, hne⟩ | ⟨hs, hi⟩
      · simp [hu ln hln, formPrivileged, hE, hne]
      · obtain ⟨-, hsret, hform⟩ := hypervisorForm hi
        exact ⟨by rw [hsret, Bool.false_and], by rw [hs ln hln, hform]⟩
    rw [he, onDev, issueWith_illegal (c := fun _ => (0x02, 0)) ha.cur ha.lanes (fun ln hln => (hl ln hln).1) fun ln hln => ?_]
    refine encCheck_privileged ?_ fun hf => ⟨ho hf ln hln, hk hf _ _ _ _ (ho hf ln hln)⟩
    rw [dynCheck_slotsLegal (hl ln hln).2 (Bool.eq_false_iff.2 fun hq => opc_of_squadForm _ hq hE) (hp ln hln).1]
    exact if_pos (hp ln hln).2
  · refine congrArg (fun d => Host.Outcome.next { s with dev := d }) (issueWith_illegal (r := rawOf (.regn h)) (c := fun _ => (0x01, 0)) ha.cur ha.lanes (fun ln hln => (hl ln hln).1) fun ln hln => ?_)
    obtain ⟨-, hslots, hu, hofs, hfree⟩ := hl ln hln
    unfold encCheck
    rw [show dynCheck s.dev (envOf s.dev u lns).s (envOf s.dev u lns).g ln (rawOf (.regn h)) = some (0x02, 0) by
      refine (dynCheck_slotsLegal hslots rfl rfl).trans (if_pos ?_)
      rw [hu]
      exact (by decide : formPrivileged .regn 0#9 .u = true)]
    have hchk : regnChk s.dev (envOf s.dev u lns) ln = .bad 1 0x01 0 := if_neg hofs
    have hrow : rowsRead (rawOf (.regn h)) = [] := rfl
    simp only [hchk, hrow, show interlocked s.dev (envOf s.dev u lns).sq (envOf s.dev u lns).s.group [ln] (rawOf (.regn h)) = false from hfree]
    rfl

/-- Settles O33. -/
theorem privilegedRegistersTrap : Obligations.PrivilegedRegistersTrap := by
  unfold Obligations.PrivilegedRegistersTrap
  intro i s u lns hi ha hq hE hl
  obtain ⟨fails, chk, act, he, hk⟩ := exec_issueWith_own i hi
  let prv := fun ln => (slotsOf (rawOf i)).filterMap fun p => if slotPrivileged (laneOf s.dev u ln).mode p.2.1 p.2.2 then some (p.1, p.2.1.desc) else none
  refine ⟨fun ln => pickSlot s.dev.tick ln (prv ln), ?_⟩
  rw [he, onDev, issueWith_illegal (c := fun ln => (0x02, pickSlot s.dev.tick ln (prv ln))) ha.cur ha.lanes (fun ln hln => (hl ln hln).1) fun ln hln => ?_]
  obtain ⟨-, hslots, ho, p, hp, hpriv⟩ := hl ln hln
  have hsret : ((rawOf i).form == .sret) = false := by
    cases hf : (rawOf i).form == .sret with
    | false => rfl
    | true => rw [eq_of_beq hf] at hE; exact absurd rfl hE
  have hform : formPrivileged (rawOf i).form (rawOf i).mod (laneOf s.dev u ln).mode = false := by simp [formPrivileged, hE]
  refine encCheck_privileged ?_ fun hf => ⟨ho hf, hk hf _ _ _ _ (ho hf)⟩
  rw [dynCheck_slotsLegal hslots hq (by rw [hsret]; rfl)]
  simp only [hform, Bool.false_eq_true, if_false]
  refine if_pos ?_
  rw [Bool.not_eq_true', List.isEmpty_eq_false_iff]
  exact List.ne_nil_of_mem (List.mem_filterMap.2 ⟨p, hp, by rw [hpriv]; rfl⟩)

/-! ### What an issue counts -/

theorem fcnt_setLanes (f : Lane → Lane) (lns : List Nat) (s : Squad) : (lns.foldl (fun s ln => s.setLane ln f) s).fcnt = s.fcnt := by
  induction lns generalizing s with
  | nil => rfl
  | cons ln t ih => exact ih _

theorem fcnt_markIssued (d : Dev) (u : Nat) (lns : List Nat) : (squadOf (markIssued d u lns) u).fcnt = (squadOf d u).fcnt := by
  unfold markIssued
  simp only [squadOf, fgetD, fget_setSquad, if_true]
  cases fget d.squads u with
  | none => rfl
  | some s => exact fcnt_setLanes _ lns s

theorem squads_enterExecute (d : Dev) (core : Nat) (r : Raw) : (enterExecute d core r).squads = d.squads := by
  unfold enterExecute
  dsimp only
  split <;> rfl

theorem fcnt_startExecute (d : Dev) (u : Nat) (lns : List Nat) (r : Raw) : (squadOf (startExecute d u lns r) u).fcnt = (squadOf d u).fcnt := by
  unfold startExecute
  split
  · rfl
  · rw [fcnt_markIssued, squadOf_congr (squads_enterExecute ..)]

theorem flag_takeClaim {d : Dev} {u : Nat} (lns : List Nat) (o : Option Nat) (h : (fget d.squads u).isSome = true) (f : Nat) :
    (squadOf (takeClaim d u lns o) u).flag f = (squadOf d u).flag f + if o = some f then 1 else 0 := by
  cases o with
  | none => simp [takeClaim]
  | some g =>
    have hs : squadOf (takeClaim d u lns (some g)) u = _ := squadOf_setSquad _ h
    rw [hs, Squad.flag, fcnt_setLanes]
    simp only [Squad.flag, fgetD, fget_fput, Option.some.injEq, eq_comm]
    split
    · next e => subst e; rfl
    · rfl

/-- Settles O34. -/
theorem issueKeepsTheRest : Obligations.IssueKeepsTheRest := by
  unfold Obligations.IssueKeepsTheRest
  intro r d d' u lns hs
  have hn := near_startExecute d u lns r
  refine ⟨near_begun r d u lns, near_ended r d d' u, begunEnv_alike r d u lns, fun m => ⟨nearG_gathered r m d u lns, gatheredEnv_alike r m d u lns⟩, fun f => ?_⟩
  rw [begun, flag_takeClaim lns _ (hn.here.trans hs), Squad.flag, fcnt_startExecute]
  rfl

end Sys2Proof.Machine
end

section
/-! SUPPORT. Bundles, enabled flags, what loads and stores leave outstanding, timelines, forks and barriers. -/
namespace Sys2Proof.Machine

/-! ### Which lanes a bundle holds (R269, R277) -/

theorem together_iff {a b : Lane} : together a b = true ↔ a.pc = b.pc ∧ a.mode = b.mode ∧ a.depth = b.depth ∧ a.hofs = b.hofs := by
  simp [together, and_assoc]

/-- The lanes of a sorted map that meet a condition on what they hold are those whose key does. -/
theorem mem_fkeys_filter {β : Type} {m : FMap β} {d : β} {p : Nat → β → Bool} (h : fsorted m = true) (k : Nat) :
    k ∈ fkeys (m.filter fun x => p x.1 x.2) ↔ k ∈ fkeys m ∧ p k (fgetD m k d) = true := by
  induction m with
  | nil => simp [fkeys]
  | cons x t ih =>
    obtain ⟨a, b⟩ := x
    obtain ⟨ha, ht⟩ := (fsorted_cons a b t).1 h
    have hk : k ∈ fkeys t → k ≠ a := fun hk e => by
      obtain ⟨q, hq, rfl⟩ := List.mem_map.1 hk
      exact absurd (ha q hq) (by omega)
    have hcons : ∀ l : FMap β, k ∈ fkeys ((a, b) :: l) ↔ k = a ∨ k ∈ fkeys l := fun l => by simp [fkeys]
    by_cases e : k = a
    · subst e
      have hn : k ∉ fkeys t := fun hk' => hk hk' rfl
      have hn' : k ∉ fkeys (t.filter fun x => p x.1 x.2) := fun hk' => hn ((ih ht).1 hk').1
      rw [List.filter_cons]
      cases hp : p k b <;> simp [hcons, hn, hn', hp, fgetD, fget]
    · have hg : fgetD ((a, b) :: t) k d = fgetD t k d := by simp [fgetD, fget, Ne.symm e]
      rw [List.filter_cons, hg, hcons, or_iff_right e]
      split
      · rw [hcons, or_iff_right e, ih ht]
      · exact ih ht

theorem fget_of_mem {β : Type} {m : FMap β} (h : fsorted m = true) {p : Nat × β} (hp : p ∈ m) : fget m p.1 = some p.2 := by
  induction m with
  | nil => simp at hp
  | cons x t ih =>
    obtain ⟨a, b⟩ := x
    obtain ⟨ha, ht⟩ := (fsorted_cons a b t).1 h
    rcases List.mem_cons.1 hp with rfl | hp
    · simp [fget]
    · have := ha p hp
      rw [← ih ht hp]
      exact if_neg (by omega)

section
variable {d : Dev} {u : Nat} (hs : fsorted (squadOf d u).lanes = true)
include hs

/-- The lanes of a squad that can issue. -/
theorem mem_live (hstop : (squadOf d u).stop = .none) (k : Nat) :
    k ∈ fkeys ((squadOf d u).lanes.filter fun p => laneTries d u p.1 p.2 && (match (squadOf d u).stop with
      | .park _ ln _ => p.1 == ln
      | _ => true)) ↔ k ∈ fkeys (squadOf d u).lanes ∧ laneTries d u k ((squadOf d u).lane k) = true := by
  rw [hstop]
  simp only [Bool.and_true]
  exact mem_fkeys_filter (p := fun k l => laneTries d u k l) hs k

theorem fkeys_ready : fkeys ((squadOf d u).lanes.filter fun p => laneReady d u p.1 p.2) =
    (fkeys (squadOf d u).lanes).filter fun ln => laneReady d u ln ((squadOf d u).lane ln) := by
  unfold fkeys
  rw [List.filter_map]
  refine congrArg _ (List.filter_congr fun p hp => ?_)
  have : (squadOf d u).lane p.1 = p.2 := by
    have hf := fget_of_mem hs hp
    simp [Squad.lane, fgetD, hf]
  simp only [Function.comp_apply, this]

/-- A lane that leads waits on translation or for texels, or one that stands with it does (R277). -/
theorem any_waiting (a : Nat) : ((squadOf d u).lanes.any fun p => together ((squadOf d u).lane a) ((squadOf d u).lane p.1) && laneReady d u p.1 p.2 && !laneTries d u p.1 p.2) = true ↔
    ∃ b ∈ (fkeys (squadOf d u).lanes).filter fun ln => laneReady d u ln ((squadOf d u).lane ln),
      together ((squadOf d u).lane a) ((squadOf d u).lane b) = true ∧ laneTries d u b ((squadOf d u).lane b) = false := by
  have hl : ∀ p ∈ (squadOf d u).lanes, (squadOf d u).lane p.1 = p.2 := fun p hp => by simp [Squad.lane, fgetD, fget_of_mem hs hp]
  simp only [List.any_eq_true, List.mem_filter, fkeys, List.mem_map, Bool.and_eq_true, Bool.not_eq_true']
  constructor
  · rintro ⟨p, hp, ⟨h1, h2⟩, h3⟩
    exact ⟨p.1, ⟨⟨p, hp, rfl⟩, by rwa [hl p hp]⟩, h1, by rwa [hl p hp]⟩
  · rintro ⟨b, ⟨⟨p, hp, rfl⟩, h2⟩, h1, h3⟩
    rw [hl p hp] at h2 h3
    exact ⟨p, hp, ⟨h1, h2⟩, h3⟩

/-- Outside deterministic mode the first lane asked for that can issue leads. -/
theorem mem_formBundle (hdet : (squadOf d u).det = false) (hstop : (squadOf d u).stop = .none) (ask : List Nat) :
    formBundle d u ask = [] ∧ (∀ x ∈ ask, ¬ (x ∈ fkeys (squadOf d u).lanes ∧ laneTries d u x ((squadOf d u).lane x) = true)) ∨
      ∃ a ∈ ask, (a ∈ fkeys (squadOf d u).lanes ∧ laneTries d u a ((squadOf d u).lane a) = true) ∧ ∀ x, x ∈ formBundle d u ask ↔
        (x ∈ fkeys (squadOf d u).lanes ∧ laneTries d u x ((squadOf d u).lane x) = true) ∧ together ((squadOf d u).lane a) ((squadOf d u).lane x) = true := by
  have hm := mem_live hs hstop
  unfold formBundle
  simp only [hdet, Bool.false_eq_true, if_false, Bool.false_and]
  generalize fkeys ((squadOf d u).lanes.filter _) = live at hm ⊢
  cases hf : ask.find? live.contains with
  | none => exact .inl ⟨rfl, fun x hx hl => absurd (List.find?_eq_none.1 hf x hx) (by simp [(hm x).2 hl])⟩
  | some a =>
    refine .inr ⟨a, List.mem_of_find?_eq_some hf, (hm a).1 (by simpa using List.find?_some hf), fun x => ?_⟩
    simp only [List.mem_filter, hm]

/-- In deterministic mode the lowest able lane of the path that runs leads, or the lowest able lane. -/
theorem formBundle_det (hdet : (squadOf d u).det = true) (ask : List Nat) :
    let able := (fkeys (squadOf d u).lanes).filter fun ln => laneReady d u ln ((squadOf d u).lane ln)
    ∀ o, ((able.filter fun ln => (squadOf d u).path.contains ln) ++ able).head? = o → formBundle d u ask = match o with
      | none => []
      | some a => if ((squadOf d u).lanes.any fun p => together ((squadOf d u).lane a) ((squadOf d u).lane p.1) && laneReady d u p.1 p.2 && !laneTries d u p.1 p.2) then []
        else (fkeys ((squadOf d u).lanes.filter fun p => laneTries d u p.1 p.2 && (match (squadOf d u).stop with
          | .park _ ln _ => p.1 == ln
          | _ => true))).filter fun ln => together ((squadOf d u).lane a) ((squadOf d u).lane ln) := by
  rintro able _ rfl
  have hl : detLead d u = ((able.filter fun ln => (squadOf d u).path.contains ln) ++ able).head? := by
    unfold detLead
    dsimp only
    rw [fkeys_ready hs, List.head?_append, Option.orElse_eq_orElse, Option.orElse_eq_or]
  rw [← hl]
  unfold formBundle
  simp only [hdet, if_true, Bool.true_and] <;> rfl

end

/-- Settles O7. -/
theorem bundlesFormed : Obligations.BundlesFormed := by
  unfold Obligations.BundlesFormed
  refine ⟨fun d u ask hdet hstop hs => ?_, fun d u ask hdet hstop hs => ?_⟩
  · rcases mem_formBundle hs hdet hstop ask with ⟨hnil, hno⟩ | ⟨a, ha, hal, hx⟩
    · simp only [hnil]
      exact ⟨nofun, nofun, nofun, fun x hx hk ht => absurd ⟨hk, ht⟩ (hno x hx)⟩
    · have hself : a ∈ formBundle d u ask := (hx a).2 ⟨hal, together_iff.2 ⟨rfl, rfl, rfl, rfl⟩⟩
      refine ⟨fun b hb c hc => ?_, fun b hb => ?_, fun b hb c hc ht htog => ?_, fun _ _ _ _ => List.ne_nil_of_mem hself⟩
      · obtain ⟨h1, h2, h3, h4⟩ := together_iff.1 ((hx b).1 hb).2
        obtain ⟨k1, k2, k3, k4⟩ := together_iff.1 ((hx c).1 hc).2
        exact ⟨h1.symm.trans k1, h2.symm.trans k2, h3.symm.trans k3, h4.symm.trans k4⟩
      · exact ⟨(mem_fkeys _ _).1 ((hx b).1 hb).1.1, ((hx b).1 hb).1.2, a, ha, hself⟩
      · obtain ⟨h1, h2, h3, h4⟩ := together_iff.1 ((hx b).1 hb).2
        obtain ⟨k1, k2, k3, k4⟩ := together_iff.1 htog
        exact (hx c).2 ⟨⟨hc, ht⟩, together_iff.2 ⟨h1.trans k1, h2.trans k2, h3.trans k3, h4.trans k4⟩⟩
  · have hf := formBundle_det hs hdet ask
    refine ⟨fun hnil => hf none (by rw [hnil]; rfl), fun a ha => ⟨fun hw => ?_, fun hn ln => ?_⟩⟩
    · exact (hf _ ha).trans (if_pos ((any_waiting hs a).2 hw))
    · have hany : ¬ _ := fun h => by
        obtain ⟨b, hb, ht, hf⟩ := (any_waiting hs a).1 h
        exact absurd (hn b hb ht) (by simp [hf])
      rw [(hf _ ha).trans (if_neg hany), List.mem_filter, mem_live hs hstop, and_assoc]

/-! ### Enabled flags (R76, R139) -/

/-- A lane that raises an enabled flag traps, with its draws and flags alone (R76). -/
theorem flTraps_applyOut {i : Instr} {n : Nat} {v : Env → Nat → DWord × Fl} {w : Env → Nat → Squad → Squad} {keep : Env → Nat → Squad → Squad}
    (hi : ∀ s, exec i s = onDev (issue (rawOf i) (applyOut (fun e ln s => ⟨w e ln s, (v e ln).2⟩) keep)) s) (hk : ∀ e ln q, keep e ln q = takeDraws n ln q)
    (he : ∀ e e', Env.Alike false e e' → v e = v e') : FlTraps i n v := by
  intro s u ln h hf
  have ha := begunEnv_alike (rawOf i) s.dev u [ln]
  rw [hi s, onDev, issue_clear h]
  dsimp only
  refine congrArg (fun d => Host.Outcome.next { s with dev := ended (rawOf i) (begun (rawOf i) s.dev u [ln]) d u }) ?_
  have hf' : flTraps (begunEnv (rawOf i) s.dev u [ln]).s.fpcr (v (begunEnv (rawOf i) s.dev u [ln]) ln).2 = true := by
    rw [he _ _ ha, ha.s.fpcr]
    exact hf
  simp only [applyOut, List.foldl_cons, List.foldl_nil, hk]
  rw [if_pos hf', he _ _ ha]
  rfl

theorem flTraps_fpForm {i : Instr} {n : Nat} {d : Opnd} {t : Ty} {v : Env → Nat → DWord × Fl} (hi : ∀ s, exec i s = onDev (issue (rawOf i) (fpForm t d n v)) s)
    (he : ∀ e e', Env.Alike false e e' → v e = v e') : FlTraps i n v := flTraps_applyOut hi (fun _ _ _ => rfl) he

/-- Settles O58: in each form the flags are those of its rounded result. -/
theorem enabledFlagsTrap : Obligations.EnabledFlagsTrap := by
  unfold Obligations.EnabledFlagsTrap
  refine ⟨?_, ?_, ?_, ?_, ?_, ?_, ?_, ?_, ?fcmp, ?_⟩
  case fcmp =>
    intro h cc t d a b
    exact flTraps_applyOut (w := fun e ln s => s.writeBool ln d (fcmpHolds cc (opFV e ln t a) (opFV e ln t b))) (keep := keepNone) (fun _ => rfl)
      (fun _ _ _ => rfl) fun e e' k => by simp only [opFV_alike k]
  all_goals
    intros
    exact flTraps_fpForm (fun _ => rfl) fun e e' k => by simp only [opFV_alike k, drawOf_alike k, readOp_alike k]

end Sys2Proof.Machine
end

section
/-! SUPPORT. What loads and stores leave outstanding, timelines, forks and barriers. -/
namespace Sys2Proof.Machine

/-! ### Accesses added one by one (R155, R159) -/

/-- Accesses of which none depends on what is outstanding are added in order under new identifiers. -/
theorem foldl_addAcc {α : Type} {B : Dev → α → Acc} (hB : ∀ d accs fresh p, B { d with accs := accs, fresh := fresh } p = B d p) (ps : List α) (d : Dev) :
    let d' := ps.foldl (fun d p => addAcc d (B d p)) d
    ({ d' with accs := [], fresh := 0 } : Dev) = { d with accs := [], fresh := 0 } ∧ d'.fresh = d.fresh + ps.length ∧
      (∀ k < d.fresh, fget d'.accs k = fget d.accs k) ∧ ∀ j p, ps[j]? = some p → fget d'.accs (d.fresh + j) = some (B d p) := by
  induction ps generalizing d with
  | nil => exact ⟨rfl, rfl, fun _ _ => rfl, fun j p h => by simp at h⟩
  | cons p ps ih =>
    obtain ⟨h1, h2, h3, h4⟩ := ih (addAcc d (B d p))
    have hfresh : (addAcc d (B d p)).fresh = d.fresh + 1 := rfl
    have hacc : ∀ k, fget (addAcc d (B d p)).accs k = if k = d.fresh then some (B d p) else fget d.accs k := fun k => fget_fput ..
    have hsame : ∀ q, B (addAcc d (B d p)) q = B d q := hB d _ _
    simp only [List.foldl_cons, List.length_cons]
    refine ⟨h1, by rw [h2, hfresh]; omega, fun k hk => by rw [h3 k (by omega), hacc, if_neg (by omega)], fun j q hj => ?_⟩
    cases j with
    | zero =>
      cases hj
      rw [Nat.add_zero, h3 _ (by omega), hacc, if_pos rfl]
    | succ j =>
      rw [show d.fresh + (j + 1) = (addAcc d (B d p)).fresh + j by rw [hfresh]; omega, h4 j q hj, hsame]

theorem tagLane_keeps (d : Dev) (e : Env) (ln space pa n : Nat) (writes sync : Bool) :
    ({ tagLane d e ln space pa n writes sync with tags := [] } : Dev) = { d with tags := [] } := by
  unfold tagLane tagAccess
  split
  · exact foldl_keeps (f := tagSet (tidOf e.sq ln) (issueEpoch e ln) writes sync) (fun d : Dev => ({ d with tags := [] } : Dev)) (fun _ _ _ => rfl) d
  · rfl

/-- Settles O36. -/
theorem loadsOutstanding : Obligations.LoadsOutstanding := by
  unfold Obligations.LoadsOutstanding
  intro t x4 pol r va pl e ln j d
  obtain ⟨h1, h2, h3, h4⟩ := foldl_addAcc (B := fun dv (p : Nat × Ty × Dest) => { id (mkAcc dv e ln .load p.2.1 pol (va + p.1) (pl.1, pl.2 + p.1) (p.2.1.wid / 8)) with
    dest := p.2.2, parts := (loadParts t x4 r).length }) (fun _ _ _ _ => rfl) (loadParts t x4 r) d
  have ht := tagLane_keeps ((loadParts t x4 r).foldl (fun dv p => addAcc dv { id (mkAcc dv e ln .load p.2.1 pol (va + p.1) (pl.1, pl.2 + p.1) (p.2.1.wid / 8)) with
    dest := p.2.2, parts := (loadParts t x4 r).length }) d) e ln pl.1 pl.2 (accBytes t x4) false false
  have haccs := (congrArg Dev.accs ht :)
  have hfresh := (congrArg Dev.fresh ht :)
  refine ⟨(congrArg (fun d : Dev => ({ d with accs := [], fresh := 0 } : Dev)) ht :).trans (congrArg (fun d : Dev => ({ d with tags := [] } : Dev)) h1 :), hfresh.trans h2,
    fun k hk => (congrArg (fget · k) haccs :).trans (h3 k hk), fun p hp => ⟨_, (congrArg (fget · (d.fresh + j)) haccs :).trans (h4 j p hp), ?_⟩⟩
  exact ⟨rfl, rfl, rfl, rfl, rfl, rfl, rfl, rfl, rfl, rfl, rfl⟩

/-! ### The bytes that a store's lanes keep (R159) -/

/-- A later request covers a place. -/
def covers (q : StoreReq) (space a : Nat) : Bool := q.pl.1 == space && decide (q.pl.2 ≤ a) && decide (a < q.pl.2 + q.bs.length)

theorem maskStores_get {rs : List StoreReq} {i : Nat} {r : StoreReq} (h : rs[i]? = some r) : (maskStores rs)[i]? =
    some (r, r.bs.zipIdx.map fun p => if (rs.drop (i + 1)).any fun q => covers q r.pl.1 (r.pl.2 + p.2) then none else some p.1) := by
  induction rs generalizing i with
  | nil => simp at h
  | cons q t ih =>
    cases i with
    | zero => cases h; rfl
    | succ i => exact ih h

/-- Settles O37. -/
theorem highestLaneStores : Obligations.HighestLaneStores := by
  unfold Obligations.HighestLaneStores
  intro rs i j r b hr hb later
  have hlater : ((rs.drop (i + 1)).any fun q => covers q r.pl.1 (r.pl.2 + j)) = true ↔ later := by
    simp only [List.any_eq_true, covers, Bool.and_eq_true, beq_iff_eq, decide_eq_true_eq, and_assoc]
    constructor
    · rintro ⟨q, hq, h⟩
      obtain ⟨k, hk⟩ := List.getElem?_of_mem hq
      rw [List.getElem?_drop] at hk
      exact ⟨i + 1 + k, q, by omega, hk, h⟩
    · rintro ⟨k, q, hik, hq, h⟩
      exact ⟨q, List.mem_of_getElem? (i := k - (i + 1)) (by rw [List.getElem?_drop, show i + 1 + (k - (i + 1)) = k by omega, hq]), h⟩
  refine ⟨_, maskStores_get hr, rfl, fun h => ?_, fun h => ?_⟩
  · simp only [List.getElem?_map, List.getElem?_zipIdx, hb, Option.map_some, Nat.zero_add, hlater.2 h, if_true]
  · simp only [List.getElem?_map, List.getElem?_zipIdx, hb, Option.map_some, Nat.zero_add, Bool.eq_false_iff.2 (mt hlater.1 h), Bool.false_eq_true, if_false]

/-! ### Timelines (R173) -/

theorem mem_sadd {s : NSet} {k x : Nat} : x ∈ sadd s k ↔ x = k ∨ x ∈ s := by
  induction s with
  | nil => simp [sadd]
  | cons a t ih =>
    unfold sadd
    split
    · simp
    · split
      · next h => simp [h]
      · rw [List.mem_cons, ih, List.mem_cons]
        exact or_left_comm

theorem shas_sadd (s : NSet) (k x : Nat) : shas (sadd s k) x = (x == k || shas s x) := by
  rw [Bool.eq_iff_iff]
  simp [shas, mem_sadd]

theorem doneFrom_ge (out : NSet) (k n : Nat) : n ≤ doneFrom out k n := by
  induction k generalizing n with
  | zero => exact le_rfl
  | succ k ih =>
    unfold doneFrom
    split
    · exact (Nat.le_succ n).trans (ih _)
    · exact le_rfl

/-- DONE passes only numbers that are done. -/
theorem mem_of_le_doneFrom {out : NSet} {k n m : Nat} (h : n < m) (hm : m ≤ doneFrom out k n) : m ∈ out := by
  induction k generalizing n with
  | zero => exact absurd (h.trans_le hm) (lt_irrefl n)
  | succ k ih =>
    unfold doneFrom at hm
    split at hm
    · next hs =>
      rcases Nat.lt_or_eq_of_le (Nat.succ_le_of_lt h) with hlt | rfl
      · exact ih hlt hm
      · simpa [shas] using hs
    · omega

theorem doneFrom_of_mem {out : NSet} {k n : Nat} (h : doneFrom out k n + 1 ∈ out) : doneFrom out k n = n + k := by
  induction k generalizing n with
  | zero => rfl
  | succ k ih =>
    unfold doneFrom at h ⊢
    split at h
    · next hs => rw [if_pos hs, ih h]; omega
    · next hs => exact absurd (by simpa [shas] using h) hs

/-- It stops before a number that is not: there are no more numbers than members. -/
theorem doneFrom_stops (out : NSet) (n : Nat) : doneFrom out out.length n + 1 ∉ out := fun h => by
  have he := doneFrom_of_mem h
  have hsub : List.range' (n + 1) (out.length + 1) ⊆ out := fun m hm => by
    obtain ⟨h1, h2⟩ := List.mem_range'_1.1 hm
    rcases Nat.lt_or_ge (n + out.length) m with hlt | hle
    · rwa [show m = doneFrom out out.length n + 1 by omega]
    · exact mem_of_le_doneFrom (show n < m by omega) (he ▸ hle)
  have := (List.subperm_of_subset (List.nodup_range' ..) hsub).length_le
  simp at this

theorem has_iff {t : Timeline} {n : Nat} : t.has n = true ↔ n ≤ t.done ∨ n ∈ t.out := by simp [Timeline.has, shas]

theorem has_complete (t : Timeline) (n m : Nat) (bad : Bool) (vc : Clock) : (t.complete n bad vc).has m = true ↔ t.has m = true ∨ m = n := by
  have hge := doneFrom_ge (sadd t.out n) (sadd t.out n).length t.done
  have hout : m ∈ (t.complete n bad vc).out ↔ (m = n ∨ m ∈ t.out) ∧ (t.complete n bad vc).done < m := by
    rw [show (t.complete n bad vc).out = (sadd t.out n).filter fun k => decide ((t.complete n bad vc).done < k) from rfl, List.mem_filter, mem_sadd, decide_eq_true_eq]
  rw [has_iff, has_iff, hout]
  constructor
  · rintro (h | ⟨h | h, -⟩)
    · rcases Nat.lt_or_ge t.done m with hlt | hle
      · exact (mem_sadd.1 (mem_of_le_doneFrom hlt h)).elim .inr fun h => .inl (.inr h)
      · exact .inl (.inl hle)
    · exact .inr h
    · exact .inl (.inr h)
  · intro h
    rcases Nat.lt_or_ge (t.complete n bad vc).done m with hlt | hle
    · rcases h with (h | h) | h
      · exact absurd (h.trans hge) (not_le.2 hlt)
      · exact .inr ⟨.inr h, hlt⟩
      · exact .inr ⟨.inl h, hlt⟩
    · exact .inl hle

theorem timeline_complete (t : Timeline) (n m : Nat) (bad : Bool) (vc : Clock) : let t' := t.complete n bad vc
    t'.has n = true ∧ (t.has m = true → t'.has m = true) ∧ (m ≠ n → t'.has m = true → t.has m = true) ∧ t.done ≤ t'.done ∧
    t'.has (t'.done + 1) = false ∧ t'.issued = t.issued ∧
    (bad = false → t'.fail = t.fail) ∧ (bad = true → t'.fail = if t.fail = 0 ∨ n < t.fail then n else t.fail) := by
  intro t'
  refine ⟨(has_complete ..).2 (.inr rfl), fun h => (has_complete ..).2 (.inl h), fun hne h => ((has_complete ..).1 h).resolve_right hne, doneFrom_ge .., ?_, rfl, ?_, ?_⟩
  · rw [Bool.eq_false_iff, Ne, has_iff, not_or]
    exact ⟨by omega, fun h => doneFrom_stops (sadd t.out n) t.done (List.mem_of_mem_filter h)⟩
  · rintro rfl
    rfl
  · rintro rfl
    simp [t', Timeline.complete]

theorem groupOf_setGroup {d : Dev} {g : Nat} (f : Group → Group) (h : (fget d.groups g).isSome = true) : groupOf (setGroup d g f) g = f (groupOf d g) := by
  obtain ⟨x, hx⟩ := Option.isSome_iff_exists.1 h
  simp [groupOf, setGroup, fgetD, hx]

theorem takeNumber_tl {d : Dev} {g k : Nat} (h : (fget d.groups g).isSome = true) :
    ((groupOf (takeNumber d g k) g).tl k).issued = ((groupOf d g).tl k).issued + 1 ∧ ∀ j, j ≠ k → (groupOf (takeNumber d g k) g).tl j = (groupOf d g).tl j := by
  unfold takeNumber
  rw [groupOf_setGroup _ h]
  constructor
  · simp [Group.tl, Group.setTl, fgetD]
  · intro j hj
    simp [Group.tl, Group.setTl, fgetD, hj]

/-! ### Forks (R186) -/

/-- A write at each key of a list is found again where one key has one value. -/
theorem fget_foldl_fput {α β : Type} (key : α → Nat) (val : α → β) (l : List α) (m : FMap β) (hk : ∀ p ∈ l, ∀ q ∈ l, key p = key q → val p = val q) :
    ∀ p ∈ l, fget (l.foldl (fun m p => fput m (key p) (val p)) m) (key p) = some (val p) := by
  induction l generalizing m with
  | nil => simp
  | cons q t ih =>
    intro p hp
    rw [List.foldl_cons]
    by_cases hmem : ∃ r ∈ t, key r = key p
    · obtain ⟨r, hr, he⟩ := hmem
      rw [← he, ih _ (fun a ha b hb => hk a (List.mem_cons_of_mem _ ha) b (List.mem_cons_of_mem _ hb)) r hr, hk r (List.mem_cons_of_mem _ hr) p hp he]
    · rw [not_exists] at hmem
      have hq : p = q := (List.mem_cons.1 hp).resolve_right fun h => hmem p ⟨h, rfl⟩
      subst hq
      refine List.foldlRecOn (motive := fun m => fget m (key p) = some (val p)) _ _ (fget_fput_self ..) fun m hm r hr => ?_
      exact (fget_fput ..).trans ((if_neg fun e => hmem r ⟨hr, e.symm⟩).trans hm)

theorem forkSet_entry {core set : Nat} {p q : Nat × Nat} (hp : p ∈ forkSet core set) (hq : q ∈ forkSet core set) (h : p.1 = q.1) : p.2 = q.2 := by
  have hmem : ∀ r ∈ forkSet core set, r = (10 + core % 7, 0) ∨ r.1 < 4 ∧ r.2 = r.1 := fun r hr => by
    unfold forkSet at hr
    rcases List.mem_append.1 hr with hr | hr
    · split at hr
      · exact .inl (List.mem_singleton.1 hr)
      · simp at hr
    · obtain ⟨i, hi, rfl⟩ := List.mem_map.1 hr
      have := List.mem_range.1 (List.mem_of_mem_filter hi)
      exact .inr ⟨Nat.succ_lt_succ this, rfl⟩
  rcases hmem p hp with rfl | ⟨h1, h2⟩ <;> rcases hmem q hq with rfl | ⟨h3, h4⟩
  · rfl
  · simp only at h; omega
  · simp only at h; omega
  · rw [h2, h4, h]

theorem afterIssue_outside (dst : Opnd) (n : Nat) (e : Env) (ln : Nat) (d : Dev) : (afterIssue dst n e ln d).groups = d.groups ∧ (afterIssue dst n e ln d).clusters = d.clusters ∧
    (afterIssue dst n e ln d).mem = d.mem ∧ (afterIssue dst n e ln d).accs = d.accs ∧ (afterIssue dst n e ln d).cmds = d.cmds := ⟨rfl, rfl, rfl, rfl, rfl⟩

/-- Settles O44. -/
theorem timelinesAndForksAdvance : Obligations.TimelinesAndForksAdvance := by
  unfold Obligations.TimelinesAndForksAdvance
  refine ⟨timeline_complete, fun d g k j h => ⟨(takeNumber_tl h).1, (takeNumber_tl h).2 j⟩, fun d c k hg hc => ?_, fun dst set ent e d ln hg hf => ?_⟩
  · have hclaim : ∀ d sq i x, claimCmd d sq i { c with tl := x } = d := fun d sq i x => by simp [claimCmd, hc]
    simp only [addCmd, hclaim]
    exact ⟨fget_fput_self .., fun i hi => (fget_fput ..).trans (if_neg hi), rfl, rfl, rfl⟩
  · have hfree : ¬ (forkSet e.core (tlIdx set)).any (fun p => (fget (clusterOf d (e.core / 7)).seqs p.1).isSome) = true := by
      rw [List.any_eq_true]
      rintro ⟨p, hp, h⟩
      rw [hf p hp] at h
      exact Bool.false_ne_true h
    unfold forkLane
    dsimp only
    rw [if_neg hfree]
    generalize hD : setCluster d (e.core / 7) _ = D
    have hDg : (fget D.groups e.s.group).isSome = true := by rw [← hD]; exact hg
    have hgrp : ∀ f, groupOf (afterIssue dst ((groupOf d e.s.group).nfork + 1) e ln (setGroup D e.s.group f)) e.s.group = f (groupOf D e.s.group) := fun f => groupOf_setGroup f hDg
    rw [hgrp]
    refine ⟨rfl, fget_fput_self .., fun p hp => ?_, by rw [← hD]; rfl, by rw [← hD]; rfl, by rw [← hD]; rfl⟩
    have hclu : ∀ f, clusterOf (afterIssue dst ((groupOf d e.s.group).nfork + 1) e ln (setGroup D e.s.group f)) (e.core / 7) = clusterOf D (e.core / 7) := fun _ => rfl
    rw [hclu, ← hD, clusterOf_setCluster_self]
    exact ⟨_, fget_foldl_fput Prod.fst _ _ _ (fun a ha b hb h => by rw [forkSet_entry ha hb h]) p hp, rfl, rfl, rfl, rfl, rfl⟩

/-! ### Barriers (R109, R110) -/

theorem sansMem_flushFor (d : Dev) (vc : Clock) : (flushFor d vc).sansMem = d.sansMem :=
  foldl_keeps Dev.sansMem (fun d p _ => by
    split
    · exact sansMem_l1WriteBack ..
    · rfl) d

theorem sansMem_publish (d : Dev) (vc : Clock) (s : Scope) : (publish d vc s).sansMem = d.sansMem := by
  cases s with
  | sq => rfl
  | gp | dev => exact sansMem_flushFor d vc
  | sys => exact (foldl_keeps Dev.sansMem (fun d p _ => sansMem_l2CleanLine d _) _).trans (sansMem_flushFor d vc)

/-- A write-back of clean lines leaves memory alone (R165). -/
theorem mem_l1WriteBack_clean {d : Dev} (h : ∀ p ∈ d.l1, p.2.dirty = 0) (set ln : Nat) :
    (l1WriteBack d set ln).mem = d.mem ∧ ∀ p ∈ (l1WriteBack d set ln).l1, p.2.dirty = 0 := by
  unfold l1WriteBack
  cases hl : fget d.l1 (l1Key set ln) with
  | none => exact ⟨rfl, h⟩
  | some l =>
    have hd : l.dirty = 0 := h _ (mem_of_fget hl)
    have hfold : (upto 128).foldl (fun d i => if l.dirty.getLsbD i then l2Write d (ln * 128 + i) (l.byte i) else d) d = d :=
      foldl_keeps id (fun d i _ => by simp [hd]) d
    dsimp only
    rw [hfold]
    refine ⟨rfl, fun p hp => ?_⟩
    rcases fput_mem hp with rfl | hp
    · rfl
    · exact h p hp

theorem mem_flushFor_clean {d : Dev} (h : ∀ p ∈ d.l1, p.2.dirty = 0) (vc : Clock) : (flushFor d vc).mem = d.mem := by
  refine (List.foldlRecOn (motive := fun x : Dev => x.mem = d.mem ∧ ∀ p ∈ x.l1, p.2.dirty = 0) _ _ ⟨rfl, h⟩ fun x hx p _ => ?_).1
  split
  · obtain ⟨h1, h2⟩ := mem_l1WriteBack_clean hx.2 (p.1 % 256) (p.1 / 256)
    exact ⟨h1.trans hx.1, h2⟩
  · exact hx

theorem arr_endEpochs (d : Dev) (u : Nat) (lns : List Nat) : (squadOf (endEpochs d u lns) u).arr = (squadOf d u).arr := by
  unfold endEpochs
  simp only [squadOf, fgetD, fget_setSquad, if_true]
  cases fget d.squads u with
  | none => rfl
  | some s => exact foldl_keeps (f := fun (s : Squad) ln => s.setLane ln fun l => l.release (tidOf u ln)) Squad.arr (fun _ _ _ => rfl) s

/-- A phase completes when every expected squad has arrived, the one that arrives among them. -/
theorem phaseDone_arrive {g : Group} {b : Nat} {x : Bar} (sq : Nat) (hx : x.arr = sadd (g.bar b).arr sq) (hl : x.late = (g.bar b).late) :
    (g.setBar b x).phaseDone b = true ↔ ∀ m ∈ g.expected b, m = sq ∨ shas (g.bar b).arr m = true := by
  have hb : (g.setBar b x).bar b = x := by simp [Group.bar, Group.setBar, fgetD_fset]
  have he : (g.setBar b x).expected b = g.expected b := by
    unfold Group.expected
    rw [hb, hl]
    rfl
  have hne : x.arr.isEmpty = false := by
    rw [hx, List.isEmpty_eq_false_iff]
    exact List.ne_nil_of_mem (mem_sadd.2 (.inl rfl))
  unfold Group.phaseDone
  rw [hb, he, hne, hx]
  simp [shas_sadd]

theorem bar_setBar (g : Group) (b c : Nat) (x : Bar) : (g.setBar b x).bar c = if c = b then x else g.bar c := by
  simp [Group.bar, Group.setBar, fgetD_fset]

/-- Settles O47. -/
theorem barriersComplete : Obligations.BarriersComplete := by
  unfold Obligations.BarriersComplete
  intro b e lns d g hg hs all d' g'
  have hpub := sansMem_publish d (squadClock d e.sq) .gp
  have hgr : (fget (publish d (squadClock d e.sq) .gp).groups e.s.group) = some g := (congrArg (fun d : Dev => fget d.groups e.s.group) hpub :).trans hg
  have hsq : (publish d (squadClock d e.sq) .gp).squads = d.squads := (congrArg Dev.squads hpub :)
  have hgo : groupOf d e.s.group = g := by simp [groupOf, fgetD, hg]
  let x : Bar := { g.bar b with arr := sadd (g.bar b).arr e.sq, vc := vcJoin (g.bar b).vc (squadClock d e.sq) }
  have hg' : g' = (g.setBar b x).completePhase b := by
    refine (groupOf_setGroup _ (by rw [hgr]; rfl)).trans ?_
    rw [show groupOf (publish d (squadClock d e.sq) .gp) e.s.group = g by simp [groupOf, fgetD, hgr]]
  have hdone : (g.setBar b x).phaseDone b = true ↔ all := phaseDone_arrive e.sq rfl rfl
  have harr : fget (squadOf d' e.sq).arr b = some (g.bar b).phase := by
    have h0 : ∀ f, (fget (setGroup (publish d (squadClock d e.sq) .gp) e.s.group f).squads e.sq).isSome = true := fun f => by
      change (fget (publish d (squadClock d e.sq) .gp).squads e.sq).isSome = true
      rwa [hsq]
    unfold d' barArrive
    rw [arr_endEpochs, squadOf_setSquad _ (h0 _), hgo]
    exact fget_fput_self ..
  refine ⟨harr, fun ha => ?_, fun ha => ?_, fun c hc => ?_, ?_, ?_, fun hd => mem_flushFor_clean hd _, (congrArg Dev.scratch hpub :)⟩
  all_goals rw [hg', Group.completePhase]
  · rw [if_pos (hdone.2 ha)]
    dsimp only [Group.endEpoch]
    have hb : ∀ y w1 w2 w3, ({ (g.setBar b x).setBar b y with wold := w1, wwriter := w2, stsa := w3 } : Group).bar b = y := fun y _ _ _ =>
      (bar_setBar (g.setBar b x) b b y).trans (if_pos rfl)
    rw [hb, bar_setBar, if_pos rfl]
    exact ⟨rfl, rfl, rfl, rfl⟩
  · rw [if_neg (mt hdone.1 ha), bar_setBar, if_pos rfl]
    exact ⟨rfl, by simp [x, shas_sadd], rfl⟩
  · split
    · exact ((bar_setBar (g.setBar b x) b c { phase := ((g.setBar b x).bar b).phase + 1, done := ((g.setBar b x).bar b).vc }).trans (if_neg hc)).trans ((bar_setBar g b c x).trans (if_neg hc))
    · exact (bar_setBar g b c x).trans (if_neg hc)
  · split <;> rfl
  · split <;> rfl

end Sys2Proof.Machine
end

section
/-! SUPPORT. Misaligned accesses, and FENCE, CCTL, RBRES and WAITV (R157, R165, R170, R229, R105). -/
namespace Sys2Proof.Machine

/-! ### A form's own check, where its rows can be read (R263, R313) -/

theorem rowsRead_of_rowSlots {r : Raw} {p : Nat × List Nat} (hp : p ∈ rowSlots r) {i : Nat} (hi : i ∈ p.2) : i ∈ rowsRead r := by
  simp only [rowSlots, List.mem_cons, List.not_mem_nil, or_false] at hp
  simp only [rowsRead, List.mem_append]
  rcases hp with rfl | rfl | rfl | rfl
  · exact .inl (.inl (.inl hi))
  · exact .inl (.inl (.inr hi))
  · exact .inl (.inr hi)
  · exact .inr hi

/-- A row that is at hand, unpoisoned and no undefined register can be read. -/
theorem unreadable_eq_false {d : Dev} {s : Squad} {ln : Nat} {rd wr : List Nat} (hc : rowCause d s ln rd wr = none) (hm : (rd ++ wr).any s.missing = false)
    (hp : rowPoison s ln rd = none) {i : Nat} (hi : i ∈ rd) : unreadable s ln i = false := by
  have hmiss : s.missing i = false := by simpa using List.any_eq_false.1 hm i (List.mem_append_left _ hi)
  have hpoi := List.find?_eq_none.1 hp i hi
  have hudt : (!s.rwr.getLsbD i && (s.lane ln).udt) = false := by
    rw [Bool.eq_false_iff]
    intro hu
    have := List.findSome?_eq_none_iff.1 (Option.or_eq_none_iff.1 (Option.orElse_eq_or.symm.trans hc)).1 i hi
    rw [if_pos hu] at this
    cases this
  unfold unreadable
  rw [hmiss, Bool.false_or, hudt, Bool.or_false]
  exact Bool.eq_false_iff.2 hpoi

/-- Where its rows are at hand and unpoisoned, a lane's result is what the form's own check finds. -/
theorem laneChk_own {d : Dev} {e : Env} {r : Raw} {chk : Dev → Env → Nat → Chk} {ln : Nat} (hm : (rowsRead r ++ rowsWritten r).any e.s.missing = false)
    (hr : rowRoom d e.sq e.s (rowsWritten r) = true) (hc : rowCause d e.s ln (rowsRead r) (rowsWritten r) = none) (hp : rowPoison e.s ln (rowsRead r) = none)
    (hf : fillPoison e.s ln (rowsWritten r) = none) : laneChk d e r chk ln = chk d e ln := by
  have hany : ((rowSlots r).any fun p => (chkSlots r.form).contains p.1 && p.2.any (unreadable e.s ln)) = false := by
    rw [List.any_eq_false]
    intro p hpr
    have hrow : p.2.any (unreadable e.s ln) = false := List.any_eq_false.2 fun i hi => by simp [unreadable_eq_false hc hm hp (rowsRead_of_rowSlots hpr hi)]
    rw [hrow, Bool.and_false]
    exact Bool.false_ne_true
  have hm' : ((rowsRead r ++ rowsWritten r).any fun i => e.s.missing i) = false := hm
  unfold laneChk
  simp only [hc, hm', hr, hp, hf, hany, Bool.not_true, Bool.or_self, Bool.false_eq_true, if_false]
  rfl

/-! ### Misaligned addresses (R157) -/

theorem afterAcquire_free {d : Dev} {e : Env} {ln : Nat} (h : acqPending d e.sq ln = false) (c : Unit → Chk) : afterAcquire d e ln c = c () := by
  unfold afterAcquire
  rw [h]
  rfl

theorem globalAddr_misaligned {va n : Nat} (h : (va : Int) % n ≠ 0) (d : Dev) (e : Env) (ln : Nat) (need : Need) (pol : Pol) (sync sysScope : Bool) :
    globalAddr d e ln va n need pol sync sysScope = .error (.bad 2 0x03 (BitVec.ofInt 64 va)) :=
  (if_pos (by exact_mod_cast h)).trans (by rw [tvAddr, BitVec.ofInt_natCast])

section
variable {d : Dev} {e : Env} {ln : Nat} (ha : acqPending d e.sq ln = false)
include ha

theorem globalChk_misaligned {n : Nat} {va : Env → Nat → Nat} (h : (va e ln : Int) % n ≠ 0) (need : Need) (pol : Pol) (reads writes sync sysScope : Bool)
    (mid : Dev → Env → Nat → Chk) : globalChk need pol n reads writes sync sysScope va mid d e ln = .bad 2 0x03 (BitVec.ofInt 64 (va e ln)) := by
  rw [globalChk, afterAcquire_free ha, globalAddr_misaligned h]

theorem privChk_misaligned {n : Nat} {a off : Opnd} (h : offsetOf e ln a off % n ≠ 0) (need : Need) :
    privChk need n a off d e ln = .bad 2 0x03 (BitVec.ofInt 64 (offsetOf e ln a off)) := by
  rw [privChk, afterAcquire_free ha]
  exact if_pos h

theorem scratchChk_misaligned {n : Nat} {a off : Opnd} (h : offsetOf e ln a off % n ≠ 0) (reads writes sync : Bool) (mid : Dev → Env → Nat → Chk) :
    scratchChk n reads writes sync a off mid d e ln = .bad 2 0x03 (BitVec.ofInt 64 (offsetOf e ln a off)) := by
  have hs : scChk e.g (offsetOf e ln a off) n = .error (.bad 2 0x03 (BitVec.ofInt 64 (offsetOf e ln a off))) := if_pos h
  rw [scratchChk, afterAcquire_free ha, hs]

theorem binChk_misaligned {va : Opnd} (h : (readN64 e ln va : Int) % (64 : Nat) ≠ 0) (need : Need) (pol : Pol) (s : Scope) (writes : Bool) :
    binChk need pol s writes va d e ln = .bad 2 0x03 (BitVec.ofInt 64 (readN64 e ln va)) := by
  rw [binChk, afterAcquire_free ha]
  dsimp only
  rw [globalAddr_misaligned h]

end

/-- A form whose own check stops a misaligned address with cause 0x03 traps so (R157). -/
theorem misalignedTraps_of {i : Instr} {chk : Dev → Env → Nat → Chk} {act : Env → List Nat → Dev → Dev} {n : Nat} {a : Env → Nat → Int}
    (hi : ∀ s, exec i s = onDev (issueChk (rawOf i) chk act) s)
    (hc : ∀ d e ln, acqPending d e.sq ln = false → a e ln % n ≠ 0 → chk d e ln = .bad 2 0x03 (BitVec.ofInt 64 (a e ln))) : MisalignedTraps i n a := by
  intro s u lns h
  rw [hi, onDev, issueChk, issueWith_bad h.toLegal h.free h.room (lvl := fun _ => 2) (c := fun _ => 0x03)
    (tv := fun ln => BitVec.ofInt 64 (a (envOf s.dev u lns) ln)) fun ln hln => ?_]
  obtain ⟨hcause, hpoison, hfill⟩ := h.read ln hln
  rw [laneChk_own (e := envOf s.dev u lns) h.rows.1 h.rows.2 hcause hpoison hfill]
  exact hc s.dev (envOf s.dev u lns) ln (h.late ln hln) (h.odd ln hln)

/-- Settles O38: each form's address is checked for alignment before all else. -/
theorem misalignedAccessesTrap : Obligations.MisalignedAccessesTrap := by
  unfold Obligations.MisalignedAccessesTrap
  refine ⟨?ld, ?st, ?ldp, ?stp, ?lds, ?sts, ?stsa, ?atom, ?cas, ?red, ?ldacq, ?strel, ?rbexp, ?rbadd, ?rbres, ?waitv⟩
  case ldp | stp =>
    intros
    exact misalignedTraps_of (fun _ => rfl) fun d e ln ha h => privChk_misaligned ha h _
  case lds | sts | stsa =>
    intros
    exact misalignedTraps_of (fun _ => rfl) fun d e ln ha h => scratchChk_misaligned ha h _ _ _ _
  case rbexp | rbadd =>
    intros
    exact misalignedTraps_of (fun _ => rfl) fun d e ln ha h => binChk_misaligned ha h _ _ _ _
  case rbres =>
    intros
    exact misalignedTraps_of (fun _ => rfl) fun d e ln ha h => by rw [rbresChk, binChk_misaligned ha h]; rfl
  case waitv =>
    intros
    exact misalignedTraps_of (fun _ => rfl) fun d e ln ha h => by rw [waitvChk, globalChk_misaligned ha h]; rfl
  all_goals
    intros
    exact misalignedTraps_of (fun _ => rfl) fun d e ln ha h => globalChk_misaligned ha h _ _ _ _ _ _ _

/-! ### FENCE, CCTL, RBRES and WAITV -/

theorem waitvLane_differs {t : Ty} {pol : Pol} {tmo : BitVec 3} {d va x : Opnd} {e : Env} {dv : Dev} {ln : Nat} :
    let a := waitvAddr va e ln
    let pl := placeOr (globalAddr dv e ln a (t.wid / 8) .r pol true (pol == .sys))
    let acc := waitvAcc dv e ln t pol a pl
    let r := readAt (tagLane dv e ln pl.1 pl.2 (t.wid / 8) false true) acc
    let d1 := readSync r.1 acc (relsAt dv pl.1 pl.2 (t.wid / 8))
    (BitVec.ofNat 64 (leNat r.2) ≠ waitvWant t x e ln →
      waitvLane t pol tmo d va x e dv ln = setSquad d1 e.sq fun s => (s.write ln d .none 1).setLane ln Lane.advance) ∧
    (BitVec.ofNat 64 (leNat r.2) = waitvWant t x e ln →
      ∃ w, waitvLane t pol tmo d va x e dv ln = setLane d1 e.sq ln (fun l => { l with wait := .watch, watch := some w }) ∧
        w.va = a ∧ w.want = waitvWant t x e ln ∧ w.line = pl.2) := by
  intro a pl acc r d1
  exact ⟨fun h => if_pos h, fun h => ⟨_, if_neg (not_not.2 h), rfl, rfl, rfl⟩⟩

/-- Settles O39. -/
theorem orderFormsComplete : Obligations.OrderFormsComplete := by
  unfold Obligations.OrderFormsComplete
  refine ⟨fun _ _ _ => runsTo_issueChk fun _ => rfl, fun _ _ _ => runsTo_issueChk fun _ => rfl, fun _ _ _ => runsTo_issueChk fun _ => rfl,
    fun _ _ _ _ => runsTo_issueChk fun _ => rfl, fun _ => runsTo_issueChk fun _ => rfl, fun _ _ _ _ _ _ => runsTo_issueChk fun _ => rfl,
    fun _ _ _ _ _ _ _ => runsTo_issueChk fun _ => rfl, fun t pol tmo d va x e dv ln => waitvLane_differs, fun t va x e ln h => ?_, fun t va x e ln w h => ?_⟩
  · have hw : (e.s.lane ln).watch = none := Option.eq_none_iff_forall_ne_some.2 h
    simp only [waitvAddr, waitvWant, hw, and_self]
  · simp only [waitvAddr, waitvWant, h, and_self]

end Sys2Proof.Machine
end

section
/-! SUPPORT. The engine, timeline, shape and fork forms (R172 to R186). -/
namespace Sys2Proof.Machine

theorem begunEnv_group (r : Raw) (d : Dev) (u : Nat) (lns : List Nat) : groupOf (begun r d u lns) (begunEnv r d u lns).s.group = (begunEnv r d u lns).g := by
  have h : (begunEnv r d u lns).s.group = (squadOf d u).group := (congrArg Squad.group (near_begun r d u lns).alike.bare :)
  rw [h]
  rfl

/-- A form that writes each lane one value, which it reads in its squad or in its group, completes. -/
theorem gives_writeAll {i : Instr} {o : Opnd} {t : Ty} {val : Group → DWord}
    (hi : ∀ s, exec i s = onDev (issue (rawOf i) fun e lns dv => writeAll o t (val (groupOf dv e.s.group)) e lns dv) s) : Gives i o t fun e _ => val e.g := by
  intro s u lns h _
  refine ⟨_, (hi s).trans rfl, rfl, rfl, ?_⟩
  have hb := near_begun (rawOf i) s.dev u lns
  have hE := begunEnv_alike (rawOf i) s.dev u lns
  rw [issue_clear h]
  have hs : (fget (begun (rawOf i) s.dev u lns).squads (begunEnv (rawOf i) s.dev u lns).sq).isSome = true := hb.here.trans h.squad
  obtain ⟨hk, hq⟩ := writeAll_spec (o := o) (t := t) (x := val (begunEnv (rawOf i) s.dev u lns).g) (lns := lns) hs
  rw [begunEnv_group]
  have hn := near_ended (rawOf i) (begun (rawOf i) s.dev u lns) (writeAll o t (val (begunEnv (rawOf i) s.dev u lns).g) (begunEnv (rawOf i) s.dev u lns) lns
    (begun (rawOf i) s.dev u lns)) u
  refine ⟨(hb.kept.trans hk).trans hn.kept, hn.alike.trans ?_⟩
  rw [show squadOf _ u = _ from hq, hE.g]
  exact hb.alike.ranLanes _ (fun ln x y k => k.write ln o t _) lns

theorem cpyLane_sends {fa dst : Opnd} {t : Nat} {e : Env} {d : Dev} {ln : Nat}
    (hw : (copyOf (readBlock e ln fa 8)).fmma = true → (extraRows fa).filter e.s.missing = []) (hr : copyQueue d e.core < 64) :
    cpyLane fa dst t e d ln = let ds := readBlock e ln fa (if (copyOf (readBlock e ln fa 8)).fmma then 16 else 8)
      afterIssue dst (nextNumber d e.s.group t) e ln (addCopy d (cpyCmd d e ln ds) ds t) := by
  have hgone : (if (copyOf (readBlock e ln fa 8)).fmma then (extraRows fa).filter e.s.missing else []) = [] := by
    split
    · next h => exact hw h
    · rfl
  unfold cpyLane
  simp only [hgone, List.isEmpty_nil, Bool.not_true, Bool.false_eq_true, if_false]
  exact if_neg (by omega)

theorem xformLane_sends {fa dst : Opnd} {t : Nat} {e : Env} {d : Dev} {ln : Nat} (hr : transQueue d (e.core / 7) < 64) :
    xformLane fa dst t e d ln = afterIssue dst (nextNumber d e.s.group t) e ln (addXform d (xformCmd d e ln (readBlock e ln fa 8)) (readBlock e ln fa 8) t) :=
  if_neg (by omega)

theorem shdropLane_frees {hd : Opnd} {e : Env} {d : Dev} {ln : Nat} (h : liveHandle d (e.core / 7) (readN32 e ln hd) = true) :
    shdropLane hd e d ln = let h := readN32 e ln hd
      let free := fun (m : FMap ShapeSlot) => fmod m (h % 256) fun s => ({ gen := nextGen s.gen } : ShapeSlot)
      advanceAll (if h < 2147483648 then setCluster d (e.core / 7) fun c => { c with shapes := free c.shapes } else { d with tables := free d.tables }) e.sq [ln] :=
  if_neg (by simp [h])

/-- What a wait reads of its group stays as its lanes leave. -/
theorem groupOf_groups {d d' : Dev} (h : d'.groups = d.groups) (g : Nat) : groupOf d' g = groupOf d g := by simp only [groupOf, h]

/-- Settles O43. -/
theorem engineFormsComplete : Obligations.EngineFormsComplete := by
  unfold Obligations.EngineFormsComplete
  refine ⟨fun _ _ _ _ => runsLanes_issueChk (fun _ => rfl) fun e d ln h => cpyLane_sends h.1 h.2, fun _ _ _ _ => runsLanes_issueChk (fun _ => rfl) fun e d ln h => xformLane_sends h,
    fun _ _ _ _ => runsTo_issueChk fun _ => rfl, fun h sc d tl n => runsWhen_issueChk (fun _ => rfl) fun e lns dv hk => ?_,
    fun h d tl n b => runsWhen_issueChk (fun _ => rfl) fun e lns dv hk => ?_, fun h d fk => runsWhen_issueChk (fun _ => rfl) fun e lns dv hk => ?_,
    fun h ctr d tl => gives_writeAll (val := fun g => BitVec.ofNat 64 (tlCtr (g.tl (tlIdx tl)) ctr)) fun _ => rfl, fun _ _ _ _ => runsLanes_issueChk (fun _ => rfl) fun _ _ _ _ => rfl,
    fun _ _ _ => runsLanes_issueChk (fun _ => rfl) fun _ _ _ _ => rfl, fun _ _ _ => runsLanes_issueChk (fun _ => rfl) fun _ _ _ _ => rfl,
    fun _ _ => runsLanes_issueChk (fun _ => rfl) fun e d ln h => shdropLane_frees h⟩
  · let k := (groupOf dv e.s.group).tl (tlIdx tl)
    refine waitLanes_over (w := fun ln => (k.fail = 0 || decide (readN64 e ln n < k.fail), k.clockTo (readN64 e ln n))) fun d' hg _ ln hln => ?_
    rw [groupOf_groups hg]
    exact if_pos (hk ln hln)
  · let k := (groupOf dv e.s.group).tl (tlIdx tl)
    refine waitLanes_over (w := fun ln => (!shas k.failed (readN64 e ln n), fgetD k.vcs (readN64 e ln n) [])) fun d' hg _ ln hln => ?_
    unfold wpwaitVal
    rw [groupOf_groups hg]
    exact if_pos (hk ln hln)
  · refine waitLanes_over (w := fun ln => let f := fgetD (groupOf dv e.s.group).forks (readN64 e ln fk) {}
      (!f.fault, f.vc)) fun d' hg _ ln hln => ?_
    obtain ⟨f, hf, h0⟩ := hk ln hln
    unfold rdvVal
    rw [groupOf_groups hg]
    simp only [hf, h0, if_true, fgetD, Option.getD_some]

end Sys2Proof.Machine
end

section
/-! SUPPORT. The events of copies, transducer commands and halted commands (R179, R185, R365, R371). -/
namespace Sys2Proof.Machine

theorem cmdOf_eq {d : Dev} {i : Nat} {c : Cmd} (h : fget d.cmds i = some c) : cmdOf d i = c := by simp [cmdOf, fgetD, h]

/-- A copy's turn: it takes in what was released to it and moves on by a chunk (R179). -/
theorem copyEvent_moves {d : Dev} {i : Nat} {c : Cmd} {ds : List Word} {l : List ShapeStep} (h : fget d.cmds i = some c) (hk : c.kind = .cpy ds l)
    (hq : quiet d c.vc = true) (hg : (groupOf d c.grp).killed = false) (hs : cmdStopped d c = false) (since : Option Nat) :
    copyEvent d i .none since = copyChunk (publish d c.vc .dev) i since := by
  unfold copyEvent
  simp only [h, hk, hq, hg, hs, Bool.not_true, Bool.false_and, Bool.false_eq_true, if_false]
  rfl

theorem xformEvent_killed {d : Dev} {i : Nat} {c : Cmd} {ds : List Word} {t : List Byte} (h : fget d.cmds i = some c) (hk : c.kind = .xform ds t)
    (hq : quiet d c.vc = true) (hg : (groupOf d c.grp).killed = true) (since : Option Nat) : xformEvent d i .none since = completeCmd (publish d c.vc .dev) i true := by
  unfold xformEvent
  simp only [h, hk, hq, hg, Bool.not_true, Bool.false_eq_true, if_false, if_true]

/-- A transducer command whose run meets no fault writes its record and completes (R185). -/
theorem xformEvent_completes {d d' : Dev} {i : Nat} {c : Cmd} {ds : List Word} {t : List Byte} (h : fget d.cmds i = some c) (hk : c.kind = .xform ds t)
    (hq : quiet d c.vc = true) (hg : (groupOf d c.grp).killed = false) (hs : cmdStopped d c = false) {r : Dev × XRun}
    (hr : r = xformRun t ds c (cmdTid i c.sq c.lane) (xw ds 4 + 1) (publish d c.vc .dev, xformAt c t ds)) (he : r.2.err = none)
    (hw : engWrite (setCmd r.1 i fun c => { c with aux := [r.2.s, r.2.p, r.2.n] }) c .l2 (xOut ds) (someBytes (xformRecord r.2)) = (d', .ok ())) (since : Option Nat) :
    xformEvent d i .none since = completeCmd d' i false := by
  have hn : noteErr (publish d c.vc .dev) c.core .none = publish d c.vc .dev := rfl
  have hb : errBad .none = false := rfl
  unfold xformEvent
  simp only [h, hk, hq, hg, hs, hn, hb, Bool.not_true, Bool.false_eq_true, if_false, ← hr, he, hw]

theorem retryCmd_copy {d : Dev} {i p since : Nat} {c : Cmd} {ds : List Word} {l : List ShapeStep} (h : fget d.cmds i = some c) (hk : c.kind = .cpy ds l)
    (hst : c.state = .halted p since) (hr : c.kick = true ∨ c.last + 4096 ≤ (clusterOf d (c.core / 7)).etime) (hs : cmdStopped d c = false) :
    retryCmd d i = copyEvent (setCmd d i fun c => { c with state := .running p, kick := false }) i .none (some since) := by
  have hr' : (c.kick || decide (c.last + 4096 ≤ (clusterOf d (c.core / 7)).etime)) = true := by simpa using hr
  unfold retryCmd
  simp only [h, hst, hr', hs, hk, Bool.not_true, Bool.false_and, Bool.false_eq_true, if_false]

theorem haltTimeout_fails {d : Dev} {i p since : Nat} {c : Cmd} (h : fget d.cmds i = some c) (hst : c.state = .halted p since)
    (hg : (groupOf d c.grp).state = .draining) (ht : since + 1048576 ≤ (clusterOf d (c.core / 7)).etime) : haltTimeout d i = failCopy d i 0x04 c.hva := by
  unfold haltTimeout
  simp only [h, hst]
  exact if_pos (by simp [hg, ht])

theorem joinItem_outside (d : Dev) (gid : Nat) (vc : Clock) : (joinItem d gid vc).cmds = d.cmds ∧ (joinItem d gid vc).groups = d.groups ∧ (joinItem d gid vc).mem = d.mem := by
  unfold joinItem
  split <;> exact ⟨rfl, rfl, rfl⟩

/-- A command that no sequencer issued is gone once it completes, its number done (R173). -/
theorem completeCmd_done {d : Dev} {i : Nat} {c : Cmd} {t n : Nat} (bad : Bool) (h : fget d.cmds i = some c) (ht : c.tl = some (t, n)) (hs : c.seqr = none)
    (hg : (fget d.groups c.grp).isSome = true) :
    fget (completeCmd d i bad).cmds i = none ∧ ((groupOf (completeCmd d i bad) c.grp).tl t).has n = true ∧ (completeCmd d i bad).mem = d.mem := by
  obtain ⟨j1, j2, j3⟩ := joinItem_outside { d with cmds := fdel d.cmds i } c.grp (cmdClock i c)
  have hc : completeCmd d i bad = settleClaims (setGroup (joinItem { d with cmds := fdel d.cmds i } c.grp (cmdClock i c)) c.grp fun g =>
      g.setTl t ((g.tl t).complete n bad (cmdClock i c))) c.sq := by
    unfold completeCmd
    simp only [h, ht, hs]
  have hk := (near_settleClaims (setGroup (joinItem { d with cmds := fdel d.cmds i } c.grp (cmdClock i c)) c.grp fun g =>
      g.setTl t ((g.tl t).complete n bad (cmdClock i c))) c.sq).kept
  have hr := hk.rest
  rw [hc]
  refine ⟨?_, ?_, (congrArg Dev.mem hr :).trans j3⟩
  · refine (congrArg (fget · i) ((congrArg Dev.cmds hr :).trans j1) :).trans ?_
    rw [fget_fdel, if_pos rfl]
  · rw [groupOf_kept hk, groupOf_setGroup _ (by rw [j2]; exact hg)]
    have htl : ∀ (g : Group) x, (g.setTl t x).tl t = x := fun g x => by simp [Group.tl, Group.setTl, fgetD]
    rw [htl]
    exact (has_complete ..).2 (.inr rfl)

/-- Settles O45. -/
theorem engineEventsComplete : Obligations.EngineEventsComplete := by
  unfold Obligations.EngineEventsComplete
  have hrun : ∀ (s : State) (i : Nat) (c : Cmd) (f : Dev → Dev) (d : Dev), fget s.dev.cmds i = some c → c.isHalted = false → f s.dev = d →
      onDev (fun dv => if (cmdOf dv i).isHalted then dv else f dv) s = .next { s with dev := d } := fun s i c f d h hh hf => by
    rw [onDev, cmdOf_eq h, hh, ← hf]
    rfl
  refine ⟨fun s i c ds l h hk hh hq hg hs => ?_, fun s i c ds t h hk hh hq hg => ?_, fun s i c ds t d h hk hh hq hg hs => ?_, fun s i p since c ds l h hk hst hr hs => ?_,
    fun s i p since c h hst hg ht => ?_, fun d i c t n bad h ht hs hg => completeCmd_done bad h ht hs hg⟩
  · exact hrun s i c (fun dv => copyEvent dv i .none none) _ h hh (copyEvent_moves h hk hq hg hs none)
  · exact hrun s i c (fun dv => xformEvent dv i .none none) _ h hh (xformEvent_killed h hk hq hg none)
  · intro r he hw
    exact hrun s i c (fun dv => xformEvent dv i .none none) _ h hh (xformEvent_completes h hk hq hg hs rfl he hw none)
  · exact congrArg (fun d => Host.Outcome.next { s with dev := d }) (retryCmd_copy h hk hst hr hs)
  · exact congrArg (fun d => Host.Outcome.next { s with dev := d }) (haltTimeout_fails h hst hg ht)

end Sys2Proof.Machine
end

section
/-! SUPPORT. EXIT, the group, barrier and ticket forms (R97, R107 to R112). -/
namespace Sys2Proof.Machine

/-! ### GJOIN (R107) -/

section
variable {dst cnt key : Opnd} {e : Env} {lns : List Nat} {d : Dev}

/-- A GJOIN that fails writes 0xFFFFFFFF. -/
theorem gjoinDone_fails (h : let n := readN32 e (lns.headD 0) cnt
      e.g.members.any (· != e.sq) = true ∨ n < 1 ∨ 576 < n ∨ ∃ i g, findKey d e.g (readN32 e (lns.headD 0) key) = some (i, g) ∧
        (g.cap ≠ n ∨ (n ≤ g.members.length ∧ (i ≠ e.s.group ∨ n ≤ 1)))) : gjoinDone dst cnt key e lns d = writeAll dst .n32 0xFFFFFFFF e lns d := by
  unfold gjoinDone
  dsimp only
  by_cases hb : (e.g.members.any (· != e.sq) || readN32 e (lns.headD 0) cnt < 1 || 576 < readN32 e (lns.headD 0) cnt) = true
  · exact if_pos hb
  · rw [if_neg hb]
    simp only [Bool.or_eq_true, decide_eq_true_eq, not_or] at hb
    obtain ⟨i, g, hf, hc⟩ := ((h.resolve_left hb.1.1).resolve_left hb.1.2).resolve_left hb.2
    have ht : joinTarget d e (readN32 e (lns.headD 0) cnt) (readN32 e (lns.headD 0) key) = (d, i, g) := by
      unfold joinTarget
      simp only [hf]
      refine if_neg fun hi => ?_
      simp only [Bool.and_eq_true, decide_eq_true_eq] at hi
      rcases hc with hc | ⟨-, hc | hc⟩
      · exact hc hi.1.2
      · exact hc hi.1.1
      · exact absurd hi.2 (by omega)
    rw [ht]
    exact if_pos (by simp only [ne_eq, Bool.or_eq_true, decide_eq_true_eq]; exact hc.imp_right And.left)

/-- A GJOIN whose target has room and its scratchpad joins it. -/
theorem gjoinDone_joins {d' : Dev} {i : Nat} {g : Group} (hm : e.g.members.any (· != e.sq) = false) (h1 : 1 ≤ readN32 e (lns.headD 0) cnt)
    (h2 : readN32 e (lns.headD 0) cnt ≤ 576) (ht : joinTarget d e (readN32 e (lns.headD 0) cnt) (readN32 e (lns.headD 0) key) = (d', i, g))
    (hc : g.cap = readN32 e (lns.headD 0) cnt) (hr : g.members.length < g.cap) (hb : g.base.isSome = true) :
    gjoinDone dst cnt key e lns d = writeAll dst .n32 (BitVec.ofNat 64 g.joined) e lns
      (setSquad (setGroup (leaveGroup d' e.sq) i fun g => memberJoin g e.sq) e.sq fun s => { s with group := i, arr := [], gpidx := BitVec.ofNat 32 g.idx }) := by
  have hbn : g.base.isNone = false := by simpa using hb
  unfold gjoinDone
  dsimp only
  rw [hm, ht, if_neg (by simp only [Bool.false_or, Bool.or_eq_true, decide_eq_true_eq]; omega)]
  dsimp only
  rw [if_neg (by simp only [ne_eq, Bool.or_eq_true, decide_eq_true_eq]; omega), hbn]
  rfl

end

/-! ### Barriers and tickets -/

theorem gwaitDone_returns {b : Nat} {e : Env} {lns : List Nat} {d : Dev} (hb : barBusy b e d = false) (ha : (fget (squadOf d e.sq).arr b).isSome = true) :
    gwaitDone b e lns d = detPass (barReturn b e lns d) e.sq := by
  have hn : (fget (squadOf d e.sq).arr b).isNone = false := by simpa using ha
  simp only [gwaitDone, hb, hn, Bool.false_eq_true, if_false]

theorem gwaitDone_passes {b : Nat} {e : Env} {lns : List Nat} {d : Dev} (ha : fget (squadOf d e.sq).arr b = none) :
    gwaitDone b e lns d = detPass (advanceAll d e.sq lns) e.sq := by
  have hb : barBusy b e d = false := by simp only [barBusy, ha]
  simp only [gwaitDone, hb, ha, Option.isNone_none, Bool.false_eq_true, if_false, if_true]

theorem garvDone_arrives {b : Nat} {e : Env} {lns : List Nat} {d : Dev} (hb : barBusy b e d = false) (hq : quiet d (squadClock d e.sq) = true) :
    garvDone b e lns d = advanceAll (barArrive b e lns d) e.sq lns := by
  simp only [garvDone, hb, hq, Bool.not_true, Bool.false_eq_true, if_false]

theorem gbarDone_arrives {b : Nat} {e : Env} {lns : List Nat} {d : Dev} (hf : (squadOf d e.sq).form = none) (hb : barBusy b e d = false)
    (hq : quiet d (squadClock d e.sq) = true) : gbarDone b e lns d = gwaitDone b e lns (setSquad (barArrive b e lns d) e.sq fun s =>
      { s with form := some (.arrived e.pc b ((groupOf d e.s.group).bar b).phase) }) := by
  simp only [gbarDone, hf, gbarDone.gbarFirst, hb, hq, Bool.not_true, Bool.false_eq_true, if_false]

theorem tkpassDone_again {t : Nat} {e : Env} {lns : List Nat} {d : Dev} (ht : (groupOf d e.s.group).ticketed = true) (hp : shas (groupOf d e.s.group).passed t = true) :
    tkpassDone t e lns d = advanceAll d e.sq lns := by
  simp only [tkpassDone, ht, hp, Bool.and_self, if_true]

theorem tkpassDone_passes {t i : Nat} {e : Env} {lns : List Nat} {d : Dev} (ht : (groupOf d e.s.group).ticketed = true)
    (hp : shas (groupOf d e.s.group).passed t = false) (hi : (groupOf d e.s.group).item = some i) (ho : ticketOpen d (groupOf d e.s.group) t = true)
    (hq : quiet d (squadClock d e.sq) = true) : tkpassDone t e lns d =
      let d2 := ticketTake t e lns (publish d (squadClock d e.sq) .dev)
      endEpochs (setTicket (setGroup d2 e.s.group fun g => { g with passed := sadd g.passed t }) i t fun k =>
        { k with ctr := (groupOf d e.s.group).idx + 1, vc := vcJoin k.vc (squadClock d2 e.sq) }) e.sq lns := by
  simp only [tkpassDone, ht, hp, hi, ho, hq, Bool.and_false, Bool.not_true, Bool.false_eq_true, if_false]

/-- Settles O46. -/
theorem groupFormsComplete : Obligations.GroupFormsComplete := by
  unfold Obligations.GroupFormsComplete
  refine ⟨fun _ => runsTo_issueChk fun _ => rfl, fun h d cnt key i g => runsGathered_issueGather (fun _ => rfl) rfl fun e lns dv hk => ?_,
    fun h d cnt key => runsGathered_issueGather (fun _ => rfl) rfl fun e lns dv hk => gjoinDone_fails hk,
    fun h d cnt key g => runsGathered_issueGather (fun _ => rfl) rfl fun e lns dv hk => ?_, fun h d cnt key => runsGathered_issueGather (fun _ => rfl) rfl fun e lns dv hk => ?_,
    fun _ => runsGathered_issueGather (fun _ => rfl) rfl fun _ _ _ _ => rfl,
    fun _ b => runsGathered_issueGather (fun _ => rfl) rfl fun e lns dv hk => garvDone_arrives hk.1 hk.2,
    fun _ b => runsGathered_issueGather (fun _ => rfl) rfl fun e lns dv hk => gwaitDone_returns hk.1 hk.2,
    fun _ b => runsGathered_issueGather (fun _ => rfl) rfl fun e lns dv hk => gwaitDone_passes hk,
    fun _ b => runsGathered_issueGather (fun _ => rfl) rfl fun e lns dv hk => gbarDone_arrives hk.1 hk.2.1 hk.2.2,
    fun _ tk => runsGathered_issueGather (fun _ => rfl) rfl fun e lns dv hk => if_pos hk,
    fun _ tk => runsGathered_issueGather (fun _ => rfl) rfl fun e lns dv hk => tkpassDone_again hk.1 hk.2,
    fun _ tk i => runsGathered_issueGather (fun _ => rfl) rfl fun e lns dv hk => ?_⟩
  · obtain ⟨hm, hf, hi, hc, hr, h1, h2, hb⟩ := hk
    refine gjoinDone_joins hm (hc ▸ h1) (hc ▸ h2) ?_ hc hr hb
    unfold joinTarget
    simp only [hf]
    exact if_neg (by simp [hi])
  · obtain ⟨hm, hf, hc, h1, h2, hr, hb⟩ := hk
    rw [hc] at h1 h2 hr ⊢
    refine gjoinDone_joins hm (by omega) h2 ?_ rfl (by change 0 < readN32 e (lns.headD 0) cnt; omega) hb
    unfold joinTarget
    simp only [hf]
    exact if_pos (by simp only [hc, h1, decide_true, Bool.and_self])
  · obtain ⟨hm, h1, h2, hf, hb⟩ := hk
    refine gjoinDone_joins hm h1 h2 ?_ rfl (by change 0 < readN32 e (lns.headD 0) cnt; omega) hb
    unfold joinTarget
    simp only [hf]
  · obtain ⟨ht, hp, hi, ho, hq⟩ := hk
    exact tkpassDone_passes ht hp hi ho hq

end Sys2Proof.Machine
end

section
/-! SUPPORT. Berths, the matrix commands, and the events of arrays and dot arrays (R194 to R203, R346, R355, R356). -/
namespace Sys2Proof.Machine

/-! ### Berths (R194 to R196) -/

theorem berthOf_setBerth (d : Dev) (cl i j : Nat) (f : Berth → Berth) : berthOf (setBerth d cl i f) cl j = if j = i then f (berthOf d cl i) else berthOf d cl j := by
  unfold berthOf setBerth
  rw [clusterOf_setCluster_self]
  simp only [fgetD, fget_fput]
  split <;> rfl

theorem berthOf_zeroBerth (d : Dev) (cl i : Nat) (r : List Byte) : berthOf (zeroBerth d cl r) cl i = berthOf d cl i := rfl

/-- What status 0 and status 1 say of the slot that BERTH names (R195). -/
theorem berthStatus_cases (d : Dev) (cl : Nat) (r : List Byte) : 2 ≤ (berthStatus d cl r).1 ∨ (∃ i, berthStatus d cl r = (0, i, true)) ∨
    ∃ i, berthStatus d cl r = (1, i, false) ∧ (berthOf d cl i).state = .live ∧ (berthOf d cl i).record = r := by
  unfold berthStatus
  dsimp only
  split
  · exact .inl (by simp)
  split
  · exact .inl (by simp)
  split
  · exact .inl (by simp)
  split
  · next i hf =>
    split
    · next hr =>
      refine .inr (.inr ⟨i, rfl, ?_, hr⟩)
      split at hf
      · cases hf
      · have := List.find?_some hf
        simp only [Bool.and_eq_true, beq_iff_eq] at this
        exact this.1
    · exact .inl (by simp)
  · split
    · exact .inl (by simp)
    · split
      · exact .inl (by simp)
      · next i _ => exact .inr (.inl ⟨i, rfl⟩)

theorem makeBerth_done (d : Dev) (cl gid : Nat) (r : List Byte) :
    let st := (berthStatus d cl r).1
    let i := (berthStatus d cl r).2.1
    let d' := (makeBerth d cl gid r).1
    (2 ≤ st → makeBerth d cl gid r = (d, st * 2 ^ 32)) ∧
    (st < 2 → (makeBerth d cl gid r).2 = berthHandle (berthOf d cl i) i + st * 2 ^ 32 ∧ (berthOf d' cl i).state = .live ∧ (berthOf d' cl i).record = r ∧
      (berthOf d' cl i).gen = (berthOf d cl i).gen ∧ (∀ j, j ≠ i → berthOf d' cl j = berthOf d cl j) ∧ d'.mem = d.mem) ∧
    (st = 0 → (berthOf d' cl i).holders = [gid]) ∧ (st = 1 → shas (berthOf d' cl i).holders gid = true) := by
  rcases berthStatus_cases d cl r with h | ⟨i, h⟩ | ⟨i, h, hl, hr⟩
  · refine ⟨fun _ => ?_, fun h' => absurd h' (by omega), fun h' => absurd h' (by omega), fun h' => absurd h' (by omega)⟩
    unfold makeBerth
    exact if_pos h
  · have hm : makeBerth d cl gid r = (setBerth (zeroBerth d cl r) cl i fun b => { b with state := .live, record := r, holders := [gid] },
        berthHandle (berthOf (setBerth (zeroBerth d cl r) cl i fun b => { b with state := .live, record := r, holders := [gid] }) cl i) i + 0 * 4294967296) := by
      unfold makeBerth
      simp only [h]
      rfl
    simp only [h, hm, berthOf_setBerth, if_true]
    exact ⟨fun h' => absurd h' (by omega), fun _ => ⟨rfl, trivial, trivial, rfl, fun j hj => if_neg hj, rfl⟩, fun _ => trivial, fun h' => absurd h' (by omega)⟩
  · have hm : makeBerth d cl gid r = (setBerth d cl i fun b => { b with holders := sadd b.holders gid },
        berthHandle (berthOf (setBerth d cl i fun b => { b with holders := sadd b.holders gid }) cl i) i + 1 * 4294967296) := by
      unfold makeBerth
      simp only [h]
      rfl
    simp only [h, hm, berthOf_setBerth, if_true]
    exact ⟨fun h' => absurd h' (by omega), fun _ => ⟨rfl, hl, hr, trivial, fun j hj => if_neg hj, rfl⟩, fun h' => absurd h' (by omega), fun _ => by simp [shas_sadd]⟩

theorem matrixLane_sends {k : Env → Nat → CmdKind} {t : Option Nat} {e : Env} {d : Dev} {ln : Nat} (h : matrixFull d e.core (k e ln) = false) :
    matrixLane k t e d ln = afterIssue .none 0 e ln (addMatrix d (mkCmd d e ln (k e ln)) t) := if_neg (by simp [h])

theorem unberthLane_releases {hd : Opnd} {e : Env} {d : Dev} {ln : Nat} (h : (heldBerth d (e.core / 7) e.s.group (readN32 e ln hd)).isSome = true) :
    unberthLane hd e d ln = advanceAll (endBerth (setBerth d (e.core / 7) (readN32 e ln hd % 256) fun b => b.release e.s.group) (e.core / 7) (readN32 e ln hd % 256)) e.sq [ln] := by
  have hn : (heldBerth d (e.core / 7) e.s.group (readN32 e ln hd)).isNone = false := by simpa using h
  simp only [unberthLane, hn, Bool.false_eq_true, if_false]

/-- Settles O48. -/
theorem matrixFormsComplete : Obligations.MatrixFormsComplete := by
  unfold Obligations.MatrixFormsComplete
  exact ⟨fun _ _ _ => runsLanes_issueChk (fun _ => rfl) fun _ _ _ _ => rfl, fun _ _ => runsLanes_issueChk (fun _ => rfl) fun _ _ _ h => unberthLane_releases h,
    fun _ _ _ _ _ _ => runsLanes_issueChk (fun _ => rfl) fun _ _ _ h => matrixLane_sends h, fun _ _ _ _ _ _ _ => runsLanes_issueChk (fun _ => rfl) fun _ _ _ h => matrixLane_sends h,
    fun _ _ _ _ _ => runsLanes_issueChk (fun _ => rfl) fun _ _ _ h => matrixLane_sends h, fun _ _ _ _ _ => runsLanes_issueChk (fun _ => rfl) fun _ _ _ h => matrixLane_sends h,
    makeBerth_done⟩

/-! ### Arrays and dot arrays -/

/-- An event whose effect on the device is given ends in that device. -/
theorem onDev_to {f : Dev → Dev} {s : State} {d : Dev} (h : f s.dev = d) : onDev f s = .next { s with dev := d } := by rw [onDev, h]

/-- An array takes the first command of its queue whose accesses are performed (R356). -/
theorem arrayStart_takes {d : Dev} {cl arr i : Nat} {c : Cmd} (hu : unitRunning d (arrayQueue d cl arr) = none) (hh : (runnable d (arrayQueue d cl arr)).head? = some (i, c))
    (hg : (groupOf d c.grp).killed = false) (hq : quiet d c.vc = true) : arrayStart d cl arr = match c.kind with
      | .mzero off _ => finishMatrix (scWrite (publish d c.vc .dev) (groupOf d c.grp) off (List.replicate tileLen (some 0))) i false
      | .mma true dO cO _ _ => setCmd (if dO = cO then publish d c.vc .dev else tileCopy (publish d c.vc .dev) (scPlace (groupOf d c.grp) cO) (scPlace (groupOf d c.grp) dO)) i
          fun c => { c with state := .running 0 }
      | _ => setCmd (publish d c.vc .dev) i fun c => { c with state := .running 0 } := by
  unfold arrayStart
  simp only [hu, hh, hg, hq, Option.isSome_none, Bool.not_true, Bool.false_eq_true, if_false] <;> rfl

theorem kblock_adds {d d' : Dev} {cl i dO cO ha hb : Nat} {m : Bool} {c : Cmd} (hk : c.kind = .mma m dO cO ha hb) (hg : (groupOf d c.grp).killed = false) :
    let a := (berthOf d cl (ha % 256)).record
    let b := (berthOf d cl (hb % 256)).record
    let lo := c.pos * kbLen a
    let hi := min (brK a) (lo + kbLen a)
    let ks := (upto (hi - lo)).map (lo + ·)
    berthPoison d cl a (ks.map (mapped b)) = false → berthPoison d cl b (ks.map (mapped a)) = false →
    tileAdd d (scPlace (groupOf d c.grp) (if m then dO else cO)) 65536 (fun w => kbSum d cl a b lo hi (w / 256) (w % 256)) = (d', none) →
    kblock d cl i c .none = if brK a ≤ hi then finishMatrix d' i false else setCmd d' i fun c => { c with state := .running (c.pos + 1) } := by
  intro a b lo hi ks pa pb ht
  have hn : noteErr d c.core .none = d := rfl
  unfold kblock
  simp only [hk, hg, hn, Bool.false_eq_true, if_false]
  rw [if_neg (by rw [show berthPoison d cl a (ks.map (mapped b)) = false from pa]; exact Bool.false_ne_true),
    if_neg (by rw [show berthPoison d cl b (ks.map (mapped a)) = false from pb]; exact Bool.false_ne_true), ht]

theorem dotPass_ends {d : Dev} {core i : Nat} {c : Cmd} (h : lmmHead d core = some (i, c)) (hp : c.inPass = true) :
    dotPass d core .none = lmmEnd (setSampler d core fun x => { x with lmmWait := false }) i c .none := by
  have hs : passStart d core = d := by simp only [passStart, h, hp, Bool.true_or, if_true]
  simp only [dotPass, hs, h, hp, if_true]

/-- A pass that had not begun begins and ends, unless an SMPN pass goes first (R346). -/
theorem dotPass_begins {d : Dev} {core i : Nat} {c c1 : Cmd} (h : lmmHead d core = some (i, c)) (hp : c.inPass = false)
    (hw : smpnReady d core = false ∨ (samplerOf d core).lmmWait = true) (h1 : lmmHead (lmmStart d i c) core = some (i, c1)) (hp1 : c1.inPass = true) :
    dotPass d core .none = lmmEnd (setSampler (lmmStart d i c) core fun x => { x with lmmWait := false }) i c1 .none := by
  have hs : passStart d core = lmmStart d i c := by
    unfold passStart
    simp only [h, hp, Bool.false_or]
    exact if_neg (by rcases hw with hw | hw <;> simp [hw])
  simp only [dotPass, hs, h1, hp1, if_true]

/-- Settles O49. -/
theorem matrixEventsComplete : Obligations.MatrixEventsComplete := by
  unfold Obligations.MatrixEventsComplete
  refine ⟨fun s cl i hs hb => onDev_to (f := fun dv => endBerth dv cl i) ?_, fun s cl arr i off n c hu hh hg hq hk => onDev_to (f := fun dv => arrayStart dv cl arr) ?_,
    fun s cl arr i dO cO ha hb m c hu hh hg hq hk => onDev_to (f := fun dv => arrayStart dv cl arr) ?_, fun s cl arr i dO cO ha hb m c d' hu hk hg => ?_,
    fun s core i c h hp => onDev_to (f := fun dv => dotPass dv core .none) (dotPass_ends h hp),
    fun s core i c c1 h hp hw h1 hp1 => onDev_to (f := fun dv => dotPass dv core .none) (dotPass_begins h hp hw h1 hp1), fun s core h => ?_⟩
  · exact if_pos (by rw [hb, hs]; rfl)
  · rw [arrayStart_takes hu hh hg hq, hk]
  · rw [arrayStart_takes hu hh hg hq, hk]
    cases m with
    | false => rfl
    | true => by_cases he : dO = cO <;> simp [he]
  · intro a b lo hi ks pa pb ht
    refine onDev_to (f := fun dv => match unitRunning dv (arrayQueue dv cl arr) with
      | some (i, c) => kblock dv cl i c .none
      | none => dv) ?_
    simp only [hu]
    exact kblock_adds hk hg pa pb ht
  · refine onDev_to (f := fun dv => if (lmmHead dv core).isNone then dv else setSampler dv core fun s => { s with lmmWait := true }) ?_
    have hn : (lmmHead s.dev core).isNone = false := by simpa using h
    simp only [hn, Bool.false_eq_true, if_false]

end Sys2Proof.Machine
end

section
/-! SUPPORT. The quay and queue forms (R187, R188, R222, R223) and what an offered item does to its queue (R380 to R382). -/
namespace Sys2Proof.Machine

/-! ### What the memory of a queue leaves alone -/

/-- Nothing changed but memory at its levels, the releases there, and the translations and lines the device keeps of them. -/
def Stored (d d' : Dev) : Prop :=
  ({ d' with mem := [], l2 := [], l1 := [], marks := [], rels := [], tlb := [], fetch := [], fresh := 0 } : Dev) =
    { d with mem := [], l2 := [], l1 := [], marks := [], rels := [], tlb := [], fetch := [], fresh := 0 }

theorem Stored.refl (d : Dev) : Stored d d := rfl
theorem Stored.trans {a b c : Dev} (h : Stored a b) (k : Stored b c) : Stored a c := Eq.trans k h
theorem Stored.queues {d d' : Dev} (h : Stored d d') : d'.queues = d.queues := (congrArg Dev.queues h :)
theorem Stored.items {d d' : Dev} (h : Stored d d') : d'.items = d.items := (congrArg Dev.items h :)
theorem Stored.shards {d d' : Dev} (h : Stored d d') : d'.shards = d.shards := (congrArg Dev.shards h :)

theorem Stored.of_sansMem {d d' : Dev} (h : d'.sansMem = d.sansMem) : Stored d d' :=
  (congrArg (fun x : Dev => ({ x with rels := [], tlb := [], fetch := [], fresh := 0 } : Dev)) h :)

theorem Looked.stored {d d' : Dev} (h : Looked d d') : Stored d d' :=
  (congrArg (fun x : Dev => ({ x with mem := [], l2 := [], l1 := [], marks := [], rels := [] } : Dev)) h :)

theorem stored_l2WriteBytes (bs : List Byte) : ∀ (d : Dev) (a : Nat), Stored d (l2WriteBytes d a bs) := by
  induction bs with
  | nil => exact fun d _ => .refl d
  | cons b t ih => exact fun d a => (Stored.of_sansMem (sansMem_l2Write d a b)).trans (ih _ (a + 1))

theorem stored_sysWriteBytes (bs : List Byte) : ∀ (d : Dev) (a : Nat), Stored d (sysWriteBytes d a bs) := by
  induction bs with
  | nil => exact fun d _ => .refl d
  | cons b t ih => exact fun d a => (show Stored d (sysWrite d a b) from rfl).trans (ih _ (a + 1))

theorem stored_relsSet (d : Dev) (space pa n : Nat) (f : List Release → List Release) : Stored d (relsSet d space pa n f) := rfl

theorem stored_storeShard (d : Dev) (k c : Nat) : Stored d (storeShard d k c) := by
  unfold storeShard
  dsimp only
  split
  · exact .refl d
  next e _ =>
  refine List.foldlRecOn (motive := Stored d) _ _ (.refl d) fun b hb p _ => hb.trans ?_
  have hx := (looked_xlatNow b (168 + c) e.vmid e.asid ((queueOf d k).d.ring + (c * (queueOf d k).d.cap + p.2) * 64) .w false).stored
  split
  case h_1 h =>
    rw [h] at hx
    exact hx
  case h_2 h =>
    rw [h] at hx
    refine hx.trans ?_
    split
    · exact .refl _
    · exact stored_l2WriteBytes ..

theorem stored_ctrlWrite (d : Dev) (k : Nat) (vc : Clock) : Stored d (ctrlWrite d k vc) := by
  unfold ctrlWrite
  dsimp only
  split
  · exact .refl d
  next e _ =>
  have hx := (looked_xlatNow d 168 e.vmid e.asid (queueOf d k).d.ctrl .w false).stored
  split
  case h_1 h =>
    rw [h] at hx
    exact hx
  case h_2 h =>
    rw [h] at hx
    refine hx.trans ?_
    split
    · exact .refl _
    · exact ((Stored.of_sansMem (sansMem_publish _ vc .sys)).trans (stored_sysWriteBytes _ _ _)).trans (stored_relsSet ..)

theorem setShard_stored (d : Dev) (k c : Nat) (l : List Shard) : Stored { d with shards := fset [] d.shards (shardKey k c) l } (setShard d k c l) := by
  unfold setShard
  exact stored_storeShard ..

/-- An entry goes to a shard: queues and items stay. -/
theorem shardAdd_keeps (d : Dev) (k c : Nat) (s : Shard) : (shardAdd d k c s).queues = d.queues ∧ (shardAdd d k c s).items = d.items := by
  unfold shardAdd
  exact ⟨(setShard_stored ..).queues, (setShard_stored ..).items⟩

theorem queueOf_queues {d d' : Dev} (h : d'.queues = d.queues) (k : Nat) : queueOf d' k = queueOf d k := by simp only [queueOf, h]

theorem queueOf_setQueue (d : Dev) (k : Nat) (f : Queue → Queue) : queueOf (setQueue d k f) k = f (queueOf d k) := fgetD_fput_self ..

/-- An accepted item is counted and stands among the items under a fresh number. -/
theorem acceptItem_counts (d : Dev) (k : Nat) (src : Option Nat) (bs : List Byte) (vc : Clock) :
    queueOf (acceptItem d k src bs vc) k = { queueOf d k with accepted := (queueOf d k).accepted + 1 } ∧
      ∃ it, fget (acceptItem d k src bs vc).items d.fresh = some it ∧ it.bytes = bs ∧ it.seq = (queueOf d k).accepted + 1 ∧ it.vc = vc := by
  unfold acceptItem
  dsimp only
  generalize hd0 : bump _ = d0
  have hc : ∀ d1 : Dev, d1.queues = d0.queues → d1.items = d0.items → (ctrlWrite d1 k vc).queues = d0.queues ∧ (ctrlWrite d1 k vc).items = d0.items := fun d1 hq hi =>
    ⟨(stored_ctrlWrite d1 k vc).queues.trans hq, (stored_ctrlWrite d1 k vc).items.trans hi⟩
  obtain ⟨hq, hi⟩ := hc _ (foldl_keeps Dev.queues (fun d p _ => (shardAdd_keeps d k _ _).1) d0) (foldl_keeps Dev.items (fun d p _ => (shardAdd_keeps d k _ _).2) d0)
  rw [queueOf_queues hq, hi, ← hd0]
  exact ⟨fgetD_fput_self .., _, fget_fput_self .., rfl, rfl, rfl⟩

/-- A rejected item is counted and leaves items and shards as they were. -/
theorem rejectItem_counts (d : Dev) (k r : Nat) : (queueOf (rejectItem d k r) k).rejected = (queueOf d k).rejected + 1 ∧
    (queueOf (rejectItem d k r) k).accepted = (queueOf d k).accepted ∧ (rejectItem d k r).items = d.items ∧ (rejectItem d k r).shards = d.shards := by
  unfold rejectItem
  generalize hd0 : setQueue d k _ = d0
  have hs := stored_ctrlWrite d0 k []
  rw [queueOf_queues hs.queues, hs.items, hs.shards, ← hd0, queueOf_setQueue]
  exact ⟨rfl, rfl, rfl, rfl⟩

theorem offerItem_accepts {d : Dev} {k : Nat} {src : Option Nat} {whole : Bool} {bs : List Byte} {vc : Clock} (h : offerReason d k src whole bs = 0) :
    offerItem d k src whole bs vc = (acceptItem d k src bs vc, true) := by
  unfold offerItem
  simp only [h]

theorem offerItem_rejects {d : Dev} {k : Nat} {src : Option Nat} {whole : Bool} {bs : List Byte} {vc : Clock} (h : offerReason d k src whole bs ≠ 0) :
    offerItem d k src whole bs vc = (rejectItem d k (offerReason d k src whole bs), false) := by
  unfold offerItem
  split
  · next h0 => exact absurd h0 h
  · rfl

/-! ### The forms -/

theorem qysendDone_sends {x port : Opnd} {e : Env} {lns : List Nat} {dv : Dev} (hl : (quayOf dv (quayOut e.core (immOf port))).entries.length < 64)
    (hs : (quayOf dv (quayOut e.core (immOf port))).spilled = 0)
    (hu : quayUp (quayOut e.core (immOf port)) = true → (clusterOf dv (e.core / 7)).gate = .powered) (hq : quiet dv (squadClock dv e.sq) = true) :
    qysendDone x port e lns dv =
      let k := quayOut e.core (immOf port)
      let d0 := setQuay dv k fun q => { q with detSend := takeSide e q.detSend }
      let opens := (quayOf d0 k).entries.isEmpty && openersGone d0 (quayOf d0 k)
      let c := squadClock d0 e.sq
      let d := setQuay (publish d0 c .dev) k fun q => { q with
        entries := q.entries ++ [{ words := quayEntry x e lns, vc := c }], openers := if opens then [e.sq] else sadd q.openers e.sq
        orphan := !opens && q.orphan }
      advanceAll (endEpochs d e.sq (fkeys (squadOf d e.sq).lanes)) e.sq lns := by
  have hk : quayOf (setQuay dv (quayOut e.core (immOf port)) fun q => { q with detSend := takeSide e q.detSend }) (quayOut e.core (immOf port)) =
      { quayOf dv (quayOut e.core (immOf port)) with detSend := takeSide e (quayOf dv (quayOut e.core (immOf port))).detSend } := fgetD_fput_self ..
  have hg : (quayUp (quayOut e.core (immOf port)) && (clusterOf dv (e.core / 7)).gate != .powered) ≠ true := by
    cases hup : quayUp (quayOut e.core (immOf port)) with
    | false => exact Bool.false_ne_true
    | true => simp [hu hup]
  unfold qysendDone
  dsimp only
  rw [if_neg (by rw [hk]; exact Nat.not_le.2 hl), if_neg (show ¬ (_ && (clusterOf (setQuay dv _ _) _).gate != .powered) = true from hg), if_neg (by rw [hk]; exact fun h => h hs),
    if_neg (by simp only [Bool.not_eq_true', Bool.not_eq_false]; exact hq)]

theorem qyrecvDone_takes {dst port : Opnd} {e : Env} {lns : List Nat} {dv : Dev} {w : QEntry} {t : List QEntry}
    (hs : (quayOf dv (quayIn e.core (immOf port))).spilled = 0) (ht : (quayOf dv (quayIn e.core (immOf port))).entries = w :: t) :
    qyrecvDone dst port e lns dv =
      let k := quayIn e.core (immOf port)
      let d1 := setQuay (setQuay dv k fun q => { q with detRecv := takeSide e q.detRecv }) k fun q => { q with entries := t, recvBy := some e.sq }
      setSquad d1 e.sq fun s => lns.foldl (fun s ln =>
        (s.write ln dst .n32 ((fgetD w.words ln 0).setWidth 64)).setLane ln fun l => (l.acquire w.vc dv.tick true).advance) s := by
  have hk : quayOf (setQuay dv (quayIn e.core (immOf port)) fun q => { q with detRecv := takeSide e q.detRecv }) (quayIn e.core (immOf port)) =
      { quayOf dv (quayIn e.core (immOf port)) with detRecv := takeSide e (quayOf dv (quayIn e.core (immOf port))).detRecv } := fgetD_fput_self ..
  unfold qyrecvDone
  dsimp only
  rw [hk]
  dsimp only
  rw [if_neg (fun h => h hs), ht]
  rfl

/-- One lane's ENQ to a configured queue offers its item. -/
theorem enqLane_offers {dst qn va : Opnd} {e : Env} {dv : Dev} {ln : Nat} (h : (openQueue dv e (readN32 e ln qn)).isSome = true) :
    enqLane dst qn va e dv ln =
      let r := cmdRead dv e ln (readN64 e ln va) 64
      let p := offerItem (publish r.1 (issueClock e ln) .dev) ((openQueue dv e (readN32 e ln qn)).getD 0) (some (e.core / 7)) true r.2 (issueClock e ln)
      endEpochs (setSquad p.1 e.sq fun s => (s.write ln dst .none (if p.2 then 1 else 0)).setLane ln Lane.advance) e.sq [ln] := by
  obtain ⟨k, hk⟩ := Option.isSome_iff_exists.1 h
  unfold enqLane
  rw [hk]
  rfl

section
variable {tmo : BitVec 3} {dst qn : Opnd} {e : Env} {lns : List Nat} {dv : Dev}

/-- A DEQ that completes first begins to wait. -/
theorem deqDone_waits {k : Nat} (hf : (squadOf dv e.sq).form = none) (hk : openQueue (endTask dv e.sq) e (readN32 e (lns.headD 0) qn) = some k)
    (hm : (queueOf (endTask dv e.sq) k).d.mode = 0) (he : (queueOf (endTask dv e.sq) k).d.enable ≠ 3) : deqDone tmo dst qn e lns dv =
      let c := clusterOf (endTask dv e.sq) (e.core / 7)
      let d1 := setCluster (endTask dv e.sq) (e.core / 7) fun c => { c with queueOrder := c.queueOrder + 1 }
      parkLanes (setSquad d1 e.sq fun s => { s with form := some (.deqWait e.pc k c.etime (deqLimit tmo) c.queueOrder (wIdx dst)) }) e.sq (.park .item) lns := by
  unfold deqDone
  rw [hf]
  dsimp only
  unfold deqFirst
  dsimp only
  rw [hk]
  dsimp only
  rw [if_neg (fun h => h hm), if_neg he]

theorem deqDone_returns {got : Bool} {was : List Nat} (hf : (squadOf dv e.sq).form = some (.deqDone e.pc got was)) : deqDone tmo dst qn e lns dv = deqReturn got e lns dv := by
  unfold deqDone
  rw [hf]
  exact if_pos rfl

theorem deqDone_bad {reg : Nat} (hf : (squadOf dv e.sq).form = some (.deqBad e.pc reg)) : deqDone tmo dst qn e lns dv =
    trapAll (setSquad dv e.sq fun s => { s with form := none }) e.sq (lns.map fun ln => (ln, 0x0A, BitVec.ofNat 64 reg)) := by
  unfold deqDone
  rw [hf]
  exact if_pos rfl

theorem deqDone_over {k since lim n w : Nat} (hf : (squadOf dv e.sq).form = some (.deqWait e.pc k since lim n w)) (ho : deqOver dv (e.core / 7) k since lim = true) :
    deqDone tmo dst qn e lns dv = deqReturn false e lns dv := by
  unfold deqDone
  rw [hf]
  dsimp only
  rw [if_neg (fun h => h rfl), if_pos ho]

end

/-- Settles O50. -/
theorem queueFormsComplete : Obligations.QueueFormsComplete := by
  unfold Obligations.QueueFormsComplete
  refine ⟨fun _ _ _ => runsGathered_issueGather (fun _ => rfl) rfl fun e lns dv hk => qysendDone_sends hk.1 hk.2.1 hk.2.2.1 hk.2.2.2,
    fun _ _ _ w t => runsGathered_issueGather (fun _ => rfl) rfl fun e lns dv hk => qyrecvDone_takes hk.1 hk.2, fun _ _ _ => runsTo_issueChk fun _ => rfl,
    fun _ _ _ _ => runsLanes_issueChk (fun _ => rfl) fun e d ln h => enqLane_offers h,
    fun _ _ _ _ k => runsGathered_issueGather (fun _ => rfl) rfl fun e lns dv hk => deqDone_waits hk.1 hk.2.1 hk.2.2.1 hk.2.2.2,
    fun _ _ _ _ got pc was => runsGathered_issueGather (fun _ => rfl) rfl fun e lns dv hk => deqDone_returns (hk.1 ▸ hk.2),
    fun _ _ _ _ reg pc => runsGathered_issueGather (fun _ => rfl) rfl fun e lns dv hk => deqDone_bad (hk.1 ▸ hk.2),
    fun _ _ _ _ k since lim n w pc => runsGathered_issueGather (fun _ => rfl) rfl fun e lns dv hk => deqDone_over (hk.1 ▸ hk.2.1) hk.2.2,
    fun d k src whole bs vc => ?_⟩
  intro p q
  refine ⟨fun h => ?_, fun h => ?_⟩
  · obtain ⟨hq, it, hi, hb, hn, hv⟩ := acceptItem_counts d k src bs vc
    simp only [p, q, offerItem_accepts h, hq]
    exact ⟨trivial, trivial, trivial, it, hi, hb, hn, hv⟩
  · obtain ⟨hr, ha, hi, hs⟩ := rejectItem_counts d k (offerReason d k src whole bs)
    simp only [p, q, offerItem_rejects h]
    exact ⟨trivial, hr, ha, hi, hs⟩

end Sys2Proof.Machine
end

section
/-! SUPPORT. Aperture writes, deliveries, placement, kernel loads, balancing, quanta and collected pre-emptions (R381 to R392, R442). -/
namespace Sys2Proof.Machine

/-! ### What a shard's change leaves alone -/

/-- Nothing changed but shards and what stores in memory change. -/
def Sharded (d d' : Dev) : Prop := Stored { d with shards := [] } { d' with shards := [] }

theorem Sharded.refl (d : Dev) : Sharded d d := Stored.refl _
theorem Sharded.trans {a b c : Dev} (h : Sharded a b) (k : Sharded b c) : Sharded a c := Stored.trans h k
theorem Stored.sharded {d d' : Dev} (h : Stored d d') : Sharded d d' := (congrArg (fun x : Dev => ({ x with shards := [] } : Dev)) h :)

theorem Sharded.items {d d' : Dev} (h : Sharded d d') : d'.items = d.items := (congrArg Dev.items h :)
theorem Sharded.groups {d d' : Dev} (h : Sharded d d') : d'.groups = d.groups := (congrArg Dev.groups h :)
theorem Sharded.squads {d d' : Dev} (h : Sharded d d') : d'.squads = d.squads := (congrArg Dev.squads h :)
theorem Sharded.clusters {d d' : Dev} (h : Sharded d d') : d'.clusters = d.clusters := (congrArg Dev.clusters h :)

theorem setShard_sharded (d : Dev) (k c : Nat) (l : List Shard) : Sharded d (setShard d k c l) :=
  Sharded.trans (show Sharded d { d with shards := fset [] d.shards (shardKey k c) l } from rfl) (setShard_stored d k c l).sharded

theorem unshard_sharded (d : Dev) (i : Nat) : Sharded d (unshard d i) := by
  unfold unshard
  refine List.foldlRecOn (motive := Sharded d) _ _ (.refl d) fun b hb c _ => hb.trans ?_
  dsimp only
  split
  · exact setShard_sharded ..
  · exact .refl b

theorem shardOf_setShard (d : Dev) (k c n : Nat) (l : List Shard) : shardOf (setShard d k c l) k n = if n = c then l else shardOf d k n := by
  unfold shardOf
  rw [(setShard_stored d k c l).shards]
  simp only [fgetD_fset, shardKey, Nat.add_left_cancel_iff]

/-! ### Delivery (R386, R387) -/

theorem Group.mayW_setW {g : Group} {u i j : Nat} {x : Word} (hi : g.mayW u i = true) (hj : g.mayW u j = true) : (g.setW u i x).mayW u j = true := by
  by_cases h : j = i
  · subst h
    rw [(uniformRegisters g u u j j x hi).2.2.2.1]
    exact beq_self_eq_true u
  · have hw : fget (g.setW u i x).wwriter j = fget g.wwriter j := by
      unfold Group.setW
      split
      · rfl
      · exact fget_fput_ne _ _ h
    simpa only [Group.mayW, hw] using hj

/-- A squad that may write registers reads each of the values it has written there. -/
theorem wFor_foldl_setW {u : Nat} (l : List (Nat × Word)) : ∀ {g : Group}, (∀ p ∈ l, g.mayW u p.1 = true) → l.Pairwise (fun a b => a.1 ≠ b.1) →
    (∀ j, (∀ p ∈ l, p.1 ≠ j) → (l.foldl (fun g p => g.setW u p.1 p.2) g).wFor u j = g.wFor u j) ∧
      ∀ p ∈ l, (l.foldl (fun g p => g.setW u p.1 p.2) g).wFor u p.1 = p.2 := by
  induction l with
  | nil => exact fun _ _ => ⟨fun _ _ => rfl, fun _ h => nomatch h⟩
  | cons a t ih =>
    intro g hm hd
    obtain ⟨ha, ht⟩ := List.pairwise_cons.1 hd
    have hma := hm a List.mem_cons_self
    obtain ⟨hk, hv⟩ := ih (g := g.setW u a.1 a.2) (fun p hp => Group.mayW_setW hma (hm p (List.mem_cons_of_mem _ hp))) ht
    refine ⟨fun j hj => (hk j fun p hp => hj p (List.mem_cons_of_mem _ hp)).trans ?_, fun p hp => ?_⟩
    · exact (uniformRegisters g u u a.1 j a.2 hma).2.2.1 (hj a List.mem_cons_self).symm
    · rcases List.mem_cons.1 hp with rfl | hp
      · exact (hk _ fun q hq => (ha q hq).symm).trans (uniformRegisters g u u p.1 p.1 p.2 hma).1
      · exact hv p hp

/-- The words of an item with the registers that take them (R188). -/
def deqWords (dst : Nat) (bs : List Byte) : List (Nat × Word) := (upto 16).map fun j => (dst + j, BitVec.ofNat 32 (fieldAt bs (4 * j) 4))

theorem deqWords_distinct (dst : Nat) (bs : List Byte) : (deqWords dst bs).Pairwise fun a b => a.1 ≠ b.1 := by
  refine List.pairwise_map.2 ((show (upto 16).Pairwise (· ≠ ·) by decide).imp fun h => ?_)
  simpa using h

theorem writeW_n32 (d : Dev) (g u i : Nat) (x : DWord) : writeW d g u i .n32 x = setGroup d g fun g => g.setW u i (x.setWidth 32) := rfl

/-- The words go to the group of the squad that takes them, one by one. -/
theorem deqWrite_words (d : Dev) (u dst : Nat) (bs : List Byte) :
    deqWrite d u dst bs = (deqWords dst bs).foldl (fun d p => setGroup d (squadOf d u).group fun g => g.setW u p.1 p.2) d := by
  have hz : ((upto 16).map (dst + ·)).zipIdx = (upto 16).map fun j => (dst + j, j) := rfl
  rw [deqWrite, hz, deqWords, List.foldl_map, List.foldl_map]
  simp only [writeW_n32, BitVec.setWidth_ofNat_of_le (show 32 ≤ 64 by decide)]

theorem words_keep {u : Nat} (l : List (Nat × Word)) : ∀ (d : Dev),
    ({ l.foldl (fun d p => setGroup d (squadOf d u).group fun g => g.setW u p.1 p.2) d with groups := [] } : Dev) = { d with groups := [] } := by
  induction l with
  | nil => exact fun _ => rfl
  | cons p t ih => exact fun d => ih _

theorem groupOf_words {u : Nat} (l : List (Nat × Word)) : ∀ {d : Dev}, (fget d.groups (squadOf d u).group).isSome = true →
    groupOf (l.foldl (fun d p => setGroup d (squadOf d u).group fun g => g.setW u p.1 p.2) d) (squadOf d u).group =
      l.foldl (fun g p => g.setW u p.1 p.2) (groupOf d (squadOf d u).group) := by
  induction l with
  | nil => exact fun _ => rfl
  | cons p t ih =>
    intro d hs
    have h1 := ih (d := setGroup d (squadOf d u).group fun g => g.setW u p.1 p.2) (by
      change (fget (fmod d.groups _ _) (squadOf d u).group).isSome = true
      simpa using hs)
    rw [show (squadOf (setGroup d (squadOf d u).group fun g => g.setW u p.1 p.2) u) = squadOf d u from rfl, groupOf_setGroup _ hs] at h1
    exact h1

theorem v_setLanes (f : Lane → Lane) (j m : Nat) (lns : List Nat) : ∀ (s : Squad), (lns.foldl (fun s ln => s.setLane ln f) s).v j m = s.v j m := by
  induction lns with
  | nil => exact fun _ => rfl
  | cons a t ih => exact fun s => ih (s.setLane a f)

/-- Writing q7 off chip or on chip leaves the rest of the device and the squad's registers. -/
theorem deqQ7_keeps (d : Dev) (u : Nat) (pc : Pc) :
    Stored { d with squads := [] } { deqQ7 d u pc with squads := [] } ∧ ((fget d.squads u).isSome = true →
      (fget (deqQ7 d u pc).squads u).isSome = true ∧ ∀ j m, (squadOf (deqQ7 d u pc) u).v j m = (squadOf d u).v j m) := by
  unfold deqQ7
  dsimp only
  by_cases h : (squadOf d u).onChip = true
  · rw [if_pos h]
    refine ⟨rfl, fun hs => ⟨by simpa [setSquad] using hs, fun j m => ?_⟩⟩
    rw [squadOf_setSquad _ hs]
    exact v_setLanes (fun l => l.setQ 7 true) j m ((squadOf d u).deqLanes pc) (squadOf d u)
  · rw [if_neg h]
    have hS : ∀ {d' : Dev}, Stored d d' → Stored { d with squads := [] } { d' with squads := [] } ∧ ((fget d.squads u).isSome = true →
        (fget d'.squads u).isSome = true ∧ ∀ j m, (squadOf d' u).v j m = (squadOf d u).v j m) := fun h => by
      have hq := (h.sharded).squads
      refine ⟨(congrArg (fun x : Dev => ({ x with squads := [] } : Dev)) h :), fun hs => ⟨by rw [hq]; exact hs, fun j m => by rw [squadOf_congr hq]⟩⟩
    have hx : Stored d (ctxPage d (squadOf d u)).1 := by
      unfold ctxPage
      have hl := (looked_xlatNow d (squadOf d u).core (squadOf d u).vmid (squadOf d u).asid (squadOf d u).ctx .rw false).stored
      split
      case h_1 hx => rwa [hx] at hl
      case h_2 hx => rwa [hx] at hl
    split
    case h_1 hc =>
      rw [hc] at hx
      exact hS hx
    case h_2 hc =>
      rw [hc] at hx
      exact hS (hx.trans (List.foldlRecOn (motive := Stored _) _ _ (.refl _) fun b hb _ _ => hb.trans (stored_l2WriteBytes ..)))

/-- What a delivery leaves (R387), the upper core's wake event apart. -/
def delivered (d : Dev) (cl k u i dst : Nat) (pc : Pc) : Dev :=
  let it := itemOf d i
  let d := chargeItem (unshard d i) cl it.energy it.peak
  let d := ctrlWrite (setItem d i fun x => { x with runner := some u, firstAt := fput x.firstAt cl (clusterOf d cl).etime }) k []
  let was := deqWas d u pc
  let d := deqQ7 (deqWrite d u dst it.bytes) u pc
  setSquad d u fun q => { q with
    deqTask := some (cl, it.peak), form := some (.deqDone pc true was)
    lanes := q.lanes.map fun l => (l.1, l.2.acquire it.from_ d.tick true) }

/-- An upper core's squad wakes its core. -/
def wakeFor (d : Dev) (u cl : Nat) : Dev := if (squadOf d u).core % 7 = 6 then wakeUpper d cl else d

theorem wChk_ok {g u : Nat} {d : Dev} {l : List Nat} (h : wChk g u d l = .ok) : ∀ i ∈ l, (groupOf d g).mayW u i = true := by
  unfold wChk at h
  split at h
  · exact nomatch h
  · next hf => exact fun i hi => by simpa using List.find?_eq_none.1 hf i hi

section
variable {p : Power} {d : Dev} {cl k u : Nat} {e : Shard} {pc : Pc} {k2 t l o dst : Nat}

theorem deliver_ok (hen : (queueOf d k).d.enable = 1) (hf : (clusterOf d cl).fatal = false) (hu : firstWaiter d cl k = some u)
    (he : firstItem d k cl = some e) (hw : (squadOf d u).form = some (.deqWait pc k2 t l o dst))
    (hc : wChk (squadOf d u).group u d ((upto 16).map (dst + ·)) = .ok)
    (ha : admits p cl (clusterOf d cl) (itemOf d e.item).energy (itemOf d e.item).peak = true) :
    deliver p d cl k = wakeFor (delivered d cl k u e.item dst pc) u cl := by
  unfold deliver
  rw [if_neg (by simp [hen, hf]), hu, he]
  dsimp only
  rw [if_neg (by simp [ha]), hw]
  dsimp only
  rw [hc]
  rfl

theorem core_setForm (d : Dev) (u : Nat) (x : Option FormStage) : (squadOf (setSquad d u fun q => { q with form := x }) u).core = (squadOf d u).core := by
  simp only [squadOf, fgetD, fget_setSquad, if_true]
  cases fget d.squads u <;> rfl

theorem deliver_bad {lv : Nat} {c : Cause} {tv : DWord} (hen : (queueOf d k).d.enable = 1) (hf : (clusterOf d cl).fatal = false)
    (hu : firstWaiter d cl k = some u) (he : firstItem d k cl = some e) (hw : (squadOf d u).form = some (.deqWait pc k2 t l o dst))
    (h6 : (squadOf d u).core % 7 ≠ 6) (hc : wChk (squadOf d u).group u d ((upto 16).map (dst + ·)) = .bad lv c tv)
    (ha : admits p cl (clusterOf d cl) (itemOf d e.item).energy (itemOf d e.item).peak = true) :
    deliver p d cl k = setSquad d u fun q => { q with form := some (.deqBad pc tv.toNat) } := by
  unfold deliver
  rw [if_neg (by simp [hen, hf]), hu, he]
  dsimp only
  rw [if_neg (by simp [ha]), hw]
  dsimp only
  rw [hc]
  dsimp only
  refine if_neg fun h => h6 ?_
  rwa [core_setForm] at h

end

/-- What a delivery changes of the squad that takes the item, of the item, of the cluster and of the group. -/
theorem delivered_spec {d : Dev} {cl k u i dst : Nat} {pc : Pc} (hs : (fget d.squads u).isSome = true) (hi : (fget d.items i).isSome = true)
    (hc : wChk (squadOf d u).group u d ((upto 16).map (dst + ·)) = .ok) :
    let x := delivered d cl k u i dst pc
    (∃ was, (squadOf x u).form = some (.deqDone pc true was)) ∧ (squadOf x u).deqTask = some (cl, (itemOf d i).peak) ∧ (itemOf x i).runner = some u ∧
      (itemOf x i).bytes = (itemOf d i).bytes ∧ (clusterOf x cl).e = (clusterOf d cl).inInterval.e + (itemOf d i).energy ∧
      (∀ j m, (squadOf x u).v j m = (squadOf d u).v j m) ∧
      ((fget d.groups (squadOf d u).group).isSome = true → ∀ j, j < 16 →
        (groupOf x (squadOf d u).group).wFor u (dst + j) = BitVec.ofNat 32 (fieldAt (itemOf d i).bytes (4 * j) 4)) := by
  unfold delivered
  dsimp only
  have h0 := unshard_sharded d i
  generalize unshard d i = d0 at h0
  generalize h1 : chargeItem d0 cl (itemOf d i).energy (itemOf d i).peak = d1
  have hst := stored_ctrlWrite (setItem d1 i fun x => { x with runner := some u, firstAt := fput x.firstAt cl (clusterOf d1 cl).etime }) k []
  generalize ctrlWrite (setItem d1 i _) k [] = d2 at hst
  have hsq2 : d2.squads = d.squads := by rw [(congrArg Dev.squads hst :), ← h1]; exact h0.squads
  have hgr2 : d2.groups = d.groups := by rw [(congrArg Dev.groups hst :), ← h1]; exact h0.groups
  have hu2 : squadOf d2 u = squadOf d u := squadOf_congr hsq2 u
  have hw := words_keep (u := u) (deqWords dst (itemOf d i).bytes) d2
  have hg := groupOf_words (u := u) (deqWords dst (itemOf d i).bytes) (d := d2)
  rw [← deqWrite_words] at hw hg
  generalize deqWrite d2 u dst (itemOf d i).bytes = d3 at hw hg
  obtain ⟨hk, hv⟩ := deqQ7_keeps d3 u pc
  generalize deqQ7 d3 u pc = d4 at hk hv
  have hsq3 : d3.squads = d.squads := (congrArg Dev.squads hw :).trans hsq2
  obtain ⟨hs4, hv4⟩ := hv (by rwa [hsq3])
  have hit : d4.items = fmod d.items i fun x => { x with runner := some u, firstAt := fput x.firstAt cl (clusterOf d1 cl).etime } := by
    rw [(congrArg Dev.items hk :), (congrArg Dev.items hw :), (congrArg Dev.items hst :), ← h0.items, ← h1]
    rfl
  have hcl : d4.clusters = d1.clusters := by
    rw [(congrArg Dev.clusters hk :), (congrArg Dev.clusters hw :), (congrArg Dev.clusters hst :)]
    rfl
  obtain ⟨it, hit0⟩ := Option.isSome_iff_exists.1 hi
  refine ⟨⟨deqWas d2 u pc, ?_⟩, ?_, ?_, ?_, ?_, fun j m => ?_, fun hgs j hj => ?_⟩
  · rw [squadOf_setSquad _ hs4]
  · rw [squadOf_setSquad _ hs4]
  · simp [itemOf, hit, fgetD, hit0]
  · simp [itemOf, hit, fgetD, hit0]
  · have he : clusterOf d4 cl = clusterOf d1 cl := by simp only [clusterOf, hcl]
    refine (congrArg Cluster.e he :).trans ?_
    rw [← h1, chargeItem, clusterOf_setCluster_self]
    simp only [clusterOf, h0.clusters]
  · rw [squadOf_setSquad _ hs4]
    refine (hv4 j m).trans ?_
    rw [squadOf_congr hsq3]
  · rw [hu2, hgr2] at hg
    have hg4 : groupOf d4 (squadOf d u).group = groupOf d3 (squadOf d u).group := groupOf_groups (congrArg Dev.groups hk :) _
    refine (congrArg (fun g : Group => g.wFor u (dst + j)) (hg4.trans (hg hgs)) :).trans ?_
    refine (wFor_foldl_setW _ (fun p hp => ?_) (deqWords_distinct ..)).2 (dst + j, _) (List.mem_map.2 ⟨j, List.mem_range.2 hj, rfl⟩)
    obtain ⟨n, hn, rfl⟩ := List.mem_map.1 hp
    rw [groupOf_groups hgr2]
    exact wChk_ok hc _ (List.mem_map.2 ⟨n, hn, rfl⟩)

/-- A wake event changes no more than the gating of its cluster. -/
theorem wakeFor_keeps (d : Dev) (u cl : Nat) : (∀ v, squadOf (wakeFor d u cl) v = squadOf d v) ∧ (∀ i, itemOf (wakeFor d u cl) i = itemOf d i) ∧
    (∀ g, groupOf (wakeFor d u cl) g = groupOf d g) ∧ (clusterOf (wakeFor d u cl) cl).e = (clusterOf d cl).e := by
  unfold wakeFor
  split
  · refine ⟨fun _ => rfl, fun _ => rfl, fun _ => rfl, ?_⟩
    unfold wakeUpper
    rw [clusterOf_setCluster_self]
    split <;> rfl
  · exact ⟨fun _ => rfl, fun _ => rfl, fun _ => rfl, rfl⟩

theorem deqExpire_ends {d : Dev} {u since lim k n w : Nat} {pc : Pc} (hw : (squadOf d u).form = some (.deqWait pc k since lim n w)) (hl : lim ≠ 0)
    (ht : since + lim ≤ (clusterOf d ((squadOf d u).core / 7)).etime) (h6 : (squadOf d u).core % 7 ≠ 6) :
    deqExpire d u = setSquad d u fun q => { q with form := some (.deqDone pc false []) } := by
  unfold deqExpire
  rw [hw]
  dsimp only
  rw [if_neg (by simp only [Bool.or_eq_true, decide_eq_true_eq]; omega)]
  unfold deqEnd
  rw [hw]
  dsimp only
  refine if_neg fun h => h6 ?_
  rwa [core_setForm] at h

/-! ### Placement (R383, R384) -/

theorem coresFor_length {ext : Bool} {n : Nat} : ∀ {l : List Room} {cores : List Nat}, coresFor ext n l = some cores → cores.length = n := by
  induction n with
  | zero => exact fun h => by cases h; rfl
  | succ n ih =>
    intro l cores h
    unfold coresFor at h
    split at h
    · cases h
    · obtain ⟨t, ht, rfl⟩ := Option.map_eq_some_iff.1 h
      rw [List.length_cons, ih ht]

theorem sadd_length {s : NSet} {k : Nat} (h : k ∉ s) : (sadd s k).length = s.length + 1 := by
  induction s with
  | nil => rfl
  | cons a t ih =>
    unfold sadd
    split
    · rfl
    · rw [if_neg fun e : k = a => h (e ▸ List.mem_cons_self), List.length_cons, ih fun hm => h (List.mem_cons_of_mem _ hm), List.length_cons]

section
variable {ast : AstEntry} {k : Nat} {it : Item} {kern : Kern} {gid n : Nat}

theorem launchSquad_joins (d : Dev) (x : Nat × Nat × Nat) : (launchSquad ast k it kern gid n d x).fresh = d.fresh + 1 ∧
    (launchSquad ast k it kern gid n d x).groups = fmod d.groups gid fun g => { g with members := sadd g.members d.fresh } := by
  unfold launchSquad
  dsimp only
  cases kern.ext <;> exact ⟨rfl, rfl⟩

/-- The squads of a launched group join it one by one, each under a number of its own. -/
theorem launchSquads_join (l : List (Nat × Nat × Nat)) : ∀ {d : Dev} {g : Group}, fget d.groups gid = some g → (∀ u ∈ g.members, u < d.fresh) →
    ∃ m, fget (l.foldl (launchSquad ast k it kern gid n) d).groups gid = some { g with members := m } ∧ m.length = g.members.length + l.length := by
  induction l with
  | nil => exact fun {d g} hg _ => ⟨g.members, hg, rfl⟩
  | cons x t ih =>
    intro d g hg hm
    obtain ⟨hf, hgr⟩ := launchSquad_joins (ast := ast) (k := k) (it := it) (kern := kern) (gid := gid) (n := n) d x
    obtain ⟨m, hgm, hl⟩ := ih (d := launchSquad ast k it kern gid n d x) (g := { g with members := sadd g.members d.fresh }) (by rw [hgr, fget_fmod_self, hg]; rfl)
      (fun u hu => by
        rw [hf]
        rcases mem_sadd.1 hu with rfl | hu
        · exact Nat.lt_succ_self _
        · exact Nat.lt_succ_of_lt (hm u hu))
    refine ⟨m, hgm, ?_⟩
    rw [hl, sadd_length fun h => Nat.lt_irrefl _ (hm _ h), List.length_cons]
    omega

end

theorem placeNext_one {p : Power} {d : Dev} {cl k : Nat} (hf : (clusterOf d cl).fatal = false) (hl : (clusterOf d cl).loading = none)
    (hk : (queuesAt d cl).filter (fun k => ((queueOf d k).d.mode != 0 || (frontOf d k cl).any (·.begun)) && (queueOf d k).d.ok && (queueOf d k).d.enable == 1) = [k]) :
    placeNext p d cl = launchNext p d cl k := by
  unfold placeNext
  rw [if_neg (by simp [hf, hl])]
  dsimp only
  rw [hk]
  simp [Nat.mod_one]

theorem placeNextGroup_places {p : Power} {d : Dev} {cl k base : Nat} {e : Shard} {ast : AstEntry} {kern : Kern} {cores : List Nat}
    (hm : (queueOf d k).d.mode = 1)
    (hc : coresFor kern.ext (itemOf d e.item).gsq ((launchCores cl 1).map fun c => (c, freeSlots d c, (coreOf d c).xpool)) = some cores)
    (hb : scAlloc d cl kern.scr = some base) (hs : (itemOf d e.item).gsq ≤ (freePool (queueOf d k) (itemOf d e.item).gsq).length)
    (ha : admits p cl (clusterOf d cl) (itemOf d e.item).energy (itemOf d e.item).peak = true) (hr : rowsFree d cores = true) :
    ∃ g, fget (placeNextGroup p d cl k e ast kern).groups d.fresh = some g ∧ g.item = some e.item ∧ g.idx = e.next ∧ g.cap = (itemOf d e.item).gsq ∧
      g.base = some base ∧ g.cluster = cl ∧ g.members.length = (itemOf d e.item).gsq := by
  unfold placeNextGroup
  dsimp only
  rw [hm, if_neg (by simp), hc, hb]
  dsimp only
  rw [if_neg (by simp only [ha, hr, Bool.not_true, Bool.or_false, decide_eq_true_eq]; omega), if_neg (by decide)]
  generalize hz : (upto (itemOf d e.item).gsq).zip (cores.zip _) = l
  generalize hd1 : chargeItem _ cl (itemOf d e.item).energy (itemOf d e.item).peak = d1
  have hlen : l.length = (itemOf d e.item).gsq := by
    rw [← hz, List.length_zip, List.length_zip, coresFor_length hc, upto, List.length_range]
    omega
  obtain ⟨m, hg, hml⟩ := launchSquads_join (ast := ast) (k := k) (it := itemOf d e.item) (kern := kern) (gid := d.fresh) (n := e.next) l (d := d1)
    (g := { item := some e.item, idx := e.next, cap := (itemOf d e.item).gsq, joined := (itemOf d e.item).gsq, unif := kern.unif, scr := kern.scr, base := some base,
            cluster := cl, upper := none, ticketed := true, kh := (itemOf d e.item).khandle, asid := ast.asid, vmid := ast.vmid, peak := (itemOf d e.item).peak })
    (by rw [← hd1]; exact fget_fput_self ..) (fun _ h => nomatch h)
  rw [(congrArg Dev.groups (stored_ctrlWrite _ k []) :), (setShard_sharded ..).groups]
  refine ⟨_, hg, rfl, rfl, rfl, rfl, rfl, ?_⟩
  rw [← hlen]
  exact hml.trans (Nat.zero_add _)

/-! ### Balancing (R388) -/

theorem insBefore_length {β : Type} (p : β → Bool) (x : β) (l : List β) : (insBefore p x l).length = l.length + 1 := by
  induction l with
  | nil => rfl
  | cons y t ih =>
    unfold insBefore
    split
    · rfl
    · rw [List.length_cons, ih, List.length_cons]

/-- Entries added to a shard lengthen it, and no other. -/
theorem shardAdds_lengthen (l : List Shard) (k n : Nat) : ∀ (d : Dev), (shardOf (l.foldl (fun d s => shardAdd d k n s) d) k n).length = (shardOf d k n).length + l.length ∧
    ∀ c, c ≠ n → shardOf (l.foldl (fun d s => shardAdd d k n s) d) k c = shardOf d k c := by
  induction l with
  | nil => exact fun _ => ⟨rfl, fun _ _ => rfl⟩
  | cons s t ih =>
    intro d
    obtain ⟨hn, hc⟩ := ih (shardAdd d k n s)
    have hs : ∀ c, shardOf (shardAdd d k n s) k c = if c = n then insBefore _ s (shardOf d k n) else shardOf d k c := fun c => shardOf_setShard ..
    refine ⟨hn.trans ?_, fun c h => (hc c h).trans ((hs c).trans (if_neg h))⟩
    rw [hs, if_pos rfl, insBefore_length, List.length_cons]
    omega

/-- The entries that leave a shard are those of its last movable ones that make half the excess. -/
def leaving (d : Dev) (own : List Shard) (m : Nat) : List Shard := ((own.reverse.filter (movable d)).take m).reverse

theorem leaving_sublist (d : Dev) (own : List Shard) (m : Nat) : (leaving d own m).Sublist own :=
  List.reverse_sublist.1 (by rw [leaving, List.reverse_reverse]; exact (List.take_sublist ..).trans List.filter_sublist)

theorem leaving_length_le (d : Dev) (own : List Shard) (m : Nat) : (leaving d own m).length ≤ m := by
  rw [leaving, List.length_reverse]
  exact List.length_take_le ..

theorem movable_of_leaving {d : Dev} {own : List Shard} {m : Nat} {e : Shard} (h : e ∈ leaving d own m) : movable d e = true :=
  (List.mem_filter.1 (List.mem_of_mem_take (List.mem_reverse.1 h))).2

/-- What stays of a shard and what leaves it are together the shard. -/
theorem staying_length {own go : List Shard} (h : own.Nodup) (hg : go.Sublist own) : (own.filter fun s => !go.contains s).length + go.length = own.length := by
  have hp : (own.filter fun s => go.contains s).Perm go :=
    (List.perm_ext_iff_of_nodup (h.filter _) (h.sublist hg)).2 fun a => by simpa using fun ha => hg.subset ha
  have := List.length_eq_length_filter_add (l := own) fun s => go.contains s
  rw [hp.length_eq] at this
  omega

theorem balanceWith_eq (d : Dev) (c k n : Nat) : balanceWith c d (k, n) =
    if (queueOf d k).d.home < 24 ∨ (heldEntries d k c).length - (heldEntries d k n).length ≤ (clusterOf d c).balthr.toNat then d
    else
      let go := leaving d (shardOf d k c) (((heldEntries d k c).length - (heldEntries d k n).length) / 2)
      go.foldl (fun d s => shardAdd d k n s) (setShard d k c ((shardOf d k c).filter fun s => !go.contains s)) := by
  unfold balanceWith
  simp only [Bool.or_eq_true, decide_eq_true_eq]
  rfl

theorem balanceWith_moves {d : Dev} {c k n : Nat} (hcn : c ≠ n) (hd : (shardOf d k c).Nodup) :
    let d' := balanceWith c d (k, n)
    (shardOf d' k c).length + (shardOf d' k n).length = (shardOf d k c).length + (shardOf d k n).length ∧
      (shardOf d k c).length - (shardOf d' k c).length ≤ ((heldEntries d k c).length - (heldEntries d k n).length) / 2 ∧
      (∀ e ∈ shardOf d k c, movable d e = false → e ∈ shardOf d' k c) ∧
      ((heldEntries d k c).length - (heldEntries d k n).length ≤ (clusterOf d c).balthr.toNat → d' = d) := by
  intro d'
  have hd' : d' = _ := balanceWith_eq d c k n
  by_cases h : (queueOf d k).d.home < 24 ∨ (heldEntries d k c).length - (heldEntries d k n).length ≤ (clusterOf d c).balthr.toNat
  · rw [if_pos h] at hd'
    rw [hd']
    exact ⟨rfl, by omega, fun _ he _ => he, fun _ => rfl⟩
  · rw [if_neg h] at hd'
    generalize hm : ((heldEntries d k c).length - (heldEntries d k n).length) / 2 = m at hd' ⊢
    dsimp only at hd'
    obtain ⟨hn, hc⟩ := shardAdds_lengthen (leaving d (shardOf d k c) m) k n (setShard d k c ((shardOf d k c).filter fun s => !(leaving d (shardOf d k c) m).contains s))
    have hc' := hc c hcn
    rw [← hd'] at hn hc'
    rw [shardOf_setShard, if_neg hcn.symm] at hn
    rw [shardOf_setShard, if_pos rfl] at hc'
    have hst := staying_length hd (leaving_sublist d (shardOf d k c) m)
    have hle := leaving_length_le d (shardOf d k c) m
    rw [hc', hn]
    refine ⟨by omega, by omega, fun e he hmv => List.mem_filter.2 ⟨he, ?_⟩, fun h0 => absurd (Or.inr h0) h⟩
    have : e ∉ leaving d (shardOf d k c) m := fun h => by simp [movable_of_leaving h] at hmv
    simpa using this

/-! ### The events -/

/-- An event that acts on the device alone ends in the device that its effect gives. -/
theorem event_to {i : Instr} {f : Dev → Dev} {s : State} {d : Dev} (hi : exec i s = onDev f s) (h : f s.dev = d) : exec i s = .next { s with dev := d } :=
  hi.trans (onDev_to h)

/-- One that reads the power controller too. -/
theorem event_both {i : Instr} {f : Power → Dev → Dev} {s : State} {d : Dev} (hi : exec i s = onBoth f s) (h : f s.power s.dev = d) : exec i s = .next { s with dev := d } := by
  rw [hi, onBoth, h]

theorem kernelLoaded_ok {d d' : Dev} {cl i : Nat} {it : Item} {ast : AstEntry} {bs : List Byte} {m : FMap (Kern × Nat)} (hl : (clusterOf d cl).loading = some i)
    (hi : fget d.items i = some it) (ha : astAt d it.entry = some ast) (hr : readNow d (168 + cl) ast.vmid ast.asid it.khandle 64 false = (d', .ok bs))
    (hk : kernOk bs = true) (hm : kernRoom d' cl = some m) : kernelLoaded d cl =
      let d2 := setCluster (setCluster d' cl fun c => { c with loading := none }) cl fun c => { c with kernels := fput m it.khandle (kernOf bs, d.tick) }
      settleItem (blackBox d2 cl 0xA 7 (BitVec.ofNat 64 (it.khandle % 2 ^ 54))) i true := by
  have hit : itemOf d i = it := by simp [itemOf, fgetD, hi]
  unfold kernelLoaded
  simp only [hl, hi, hit, ha, hr, hk, hm, if_true]

/-- Settles O51. -/
theorem launchEventsComplete : Obligations.LaunchEventsComplete := by
  unfold Obligations.LaunchEventsComplete
  refine ⟨fun s en q whole bs => ⟨fun ha hq => event_to (f := fun d => aperture d en q whole bs) rfl (if_neg ?_), fun h => event_to (f := fun d => aperture d en q whole bs) rfl (if_pos ?_)⟩, fun s cl k u e pc k2 t l o dst hen hf hu he hw hs hi hc ha => ?_,
    fun s cl k u lv e pc k2 t l o dst c tv hen hf hu he hw h6 hc ha => event_both (f := fun p d => deliver p d cl k) rfl (deliver_bad hen hf hu he hw h6 hc ha),
    fun s u since lim k n w pc hw hl ht h6 => event_to (f := fun d => deqExpire d u) rfl (deqExpire_ends hw hl ht h6),
    fun s cl k hf hl hk => event_both (f := fun p d => placeNext p d cl) rfl (placeNext_one hf hl hk),
    fun p d cl k base e ast kern cores => fun hm hc hb hs ha hr => placeNextGroup_places hm hc hb hs ha hr,
    fun s cl i it ast bs d' m hl hi ha hr hk hm => event_to (f := fun d => kernelLoaded d cl) rfl (kernelLoaded_ok hl hi ha hr hk hm), fun s cl h => event_to (f := fun d => Machine.admissionInterval d cl) rfl (if_neg (Nat.not_lt.2 h)),
    fun s c => rfl, fun d c k n _ _ hcn hd => balanceWith_moves hcn hd, fun s i cl t it hi ht hq hz hh ho hl hs hb => ?_, fun s i hs ha => event_to (f := fun d => collect d i) rfl (if_pos ?_)⟩
  · simp [Option.isSome_iff_ne_none.1 ha, hq]
  · simpa using h
  · obtain ⟨hform, htask, hrun, hbytes, he', hv, hg⟩ := delivered_spec (k := k) (pc := pc) hs hi hc
    obtain ⟨ks, ki, kg, ke⟩ := wakeFor_keeps (delivered s.dev cl k u e.item dst pc) u cl
    refine ⟨{ s with dev := wakeFor (delivered s.dev cl k u e.item dst pc) u cl },
      event_both (f := fun p d => deliver p d cl k) rfl (deliver_ok hen hf hu he hw hc ha), rfl, ?_⟩
    dsimp only
    rw [ks, ki, ke]
    exact ⟨hform, htask, hrun, hbytes, he', hv, fun h j hj => (congrArg (fun g : Group => g.wFor u (dst + j)) (kg _)).trans (hg h j hj)⟩
  · refine event_to (f := fun d => quantumExpire d i cl) rfl ?_
    unfold quantumExpire
    simp only [hi, ht]
    refine if_pos ?_
    simp [hq, hz, hh, ho, hl, hs, hb]
  · simp [hs, ha]

end Sys2Proof.Machine
end

section
/-! SUPPORT. The sampler forms and the ray tests (R207 to R220, R331, R332). -/
namespace Sys2Proof.Machine

/-- The lanes of a bundle that gathers over a quad are that quad's. -/
theorem quad_of_gathered {q : Nat} {d : Dev} {u : Nat} {lns : List Nat} (h : Gathered (some (16 + q)) d u lns) : ∀ ln ∈ lns, ln / 4 = q := by
  intro ln hln
  rw [← h.all, Squad.gatherSet, List.mem_filter] at hln
  dsimp only at hln
  rw [if_neg (by omega)] at hln
  have := eq_of_beq hln.2
  omega

theorem quadsOf_quad {q : Nat} {lns : List Nat} (hl : lns ≠ []) (h : ∀ ln ∈ lns, ln / 4 = q) : quadsOf lns = [q] := by
  have hm : lns.map (· / 4) = List.replicate lns.length q := List.eq_replicate_iff.2 ⟨List.length_map .., fun b hb => by
    obtain ⟨ln, hln, rfl⟩ := List.mem_map.1 hb
    exact h ln hln⟩
  have he : ∀ n, (List.replicate n q).filter (fun b => !b == q) = [] := fun n => List.filter_eq_nil_iff.2 fun b hb => by simp [List.eq_of_mem_replicate hb]
  obtain ⟨n, hn⟩ : ∃ n, lns.length = n + 1 := ⟨lns.length - 1, by have := List.length_pos_iff.2 hl; omega⟩
  rw [quadsOf, hm, hn, List.replicate_succ, List.eraseDups_cons, he]
  rfl

theorem inQuad_quad {q : Nat} {lns : List Nat} (h : ∀ ln ∈ lns, ln / 4 = q) : inQuad q lns = lns :=
  List.filter_eq_self.2 fun ln hln => beq_iff_eq.2 (h ln hln)

/-- The lanes of a quad that arrive together make one request where the queue has room (R211, R332). -/
theorem runsGathered_quad {i : Instr} {q : Nat} {kind : SKind} {dst hdr : Opnd} {input : Env → Nat → List Word} {chk : Dev → Env → Nat → Chk}
    (hi : ∀ s, exec i s = onDev (issueWith (rawOf i) quadFails chk (quadGather kind dst hdr input)) s) :
    RunsGathered i (some (16 + q)) chk (fun e _ dv => queued dv e.core < 256) fun e lns dv => startReq dv e kind dst hdr lns (input e) := by
  intro s u lns h hg hk
  have hq := quad_of_gathered hg
  have hn := near_begun (rawOf i) s.dev u lns
  have hk' : queued (begun (rawOf i) s.dev u lns) (begunEnv (rawOf i) s.dev u lns).core < 256 := by
    have hr : (gathered (rawOf i) (some (16 + q)) s.dev u lns).reqs = (begun (rawOf i) s.dev u lns).reqs :=
      (congrArg Dev.reqs (nearG_gathered (rawOf i) (some (16 + q)) s.dev u lns).kept.rest :).trans (congrArg Dev.reqs hn.kept.rest :).symm
    unfold queued at hk ⊢
    rwa [hr] at hk
  rw [hi s, onDev, issueWith_clear h]
  unfold quadGather acceptQuads
  rw [quadsOf_quad h.lanes hq, if_neg (by simp only [List.length_singleton]; omega)]
  simp only [List.foldl_cons, List.foldl_nil, inQuad_quad hq]
  rw [gatherAct_full (done := fun e ls d => startReq d e kind dst hdr ls (input e)) hg hn h.squad h.lanes
    (e := { begunEnv (rawOf i) s.dev u lns with s := squadOf (begun (rawOf i) s.dev u lns) (begunEnv (rawOf i) s.dev u lns).sq }) rfl rfl rfl]
  rfl

/-- The quads of a bundle make one request each where the queue has room. -/
theorem acceptQuads_room {go : Nat → List Nat → Dev → Dev} {e : Env} {lns : List Nat} {d : Dev} (h : queued d e.core + (quadsOf lns).length ≤ 256) :
    acceptQuads go e lns d = (quadsOf lns).foldl (fun d q => go q (inQuad q lns) d) d := if_neg (Nat.not_lt.2 h)

/-- Lanes held wait for what holds them; the others are as they were. -/
theorem lane_held (w : Wait) (lns : List Nat) (j : Nat) : ∀ (s : Squad), fget (lns.foldl (fun s ln => s.setLane ln fun l => { l with wait := w }) s).lanes j =
    if j ∈ lns then (fget s.lanes j).map fun l => { l with wait := w } else fget s.lanes j := by
  induction lns with
  | nil => exact fun _ => rfl
  | cons a t ih =>
    intro s
    rw [List.foldl_cons, ih, lane_setLane]
    by_cases ha : j = a
    · subst ha
      cases fget s.lanes j <;> simp
    · simp [ha]

theorem squadOf_holdLanes {d : Dev} {u : Nat} (w : Wait) (lns : List Nat) (h : (fget d.squads u).isSome = true) :
    squadOf (holdLanes d u w lns) u = lns.foldl (fun s ln => s.setLane ln fun l => { l with wait := w }) (squadOf d u) := by
  cases lns with
  | nil => rfl
  | cons a t => exact squadOf_setSquad _ h

theorem samplerOf_holdLanes (d : Dev) (u : Nat) (w : Wait) (lns : List Nat) (c : Nat) : samplerOf (holdLanes d u w lns) c = samplerOf d c := by
  cases lns <;> rfl

/-- A request whose header is not held is kept, and its lanes wait for it (R332). -/
theorem startReq_queued {d : Dev} {e : Env} {kind : SKind} {dst hdr : Opnd} {lns : List Nat} {input : Nat → List Word}
    (hh : fget (samplerOf d e.core).hdrs (hdrKey (coreOf d e.core).vmid e.s.asid (readN64 e (lns.headD 0) hdr)) = none) :
    ∃ r : SReq, startReq d e kind dst hdr lns input = holdLanes (bump { d with reqs := fput d.reqs d.fresh r }) e.sq (.sample d.fresh) lns ∧
      r.kind = kind ∧ r.sq = e.sq ∧ r.held = true ∧ fkeys r.lanes = lns := by
  unfold startReq
  dsimp only
  refine ⟨?r, ?eq, ?_, ?_, ?_, ?_⟩
  case eq =>
    split
    · next h =>
      rw [samplerOf_holdLanes] at h
      exact absurd (hh.symm.trans h) nofun
    · rfl
  · rfl
  · rfl
  · rfl
  · simp [fkeys, Function.comp_def]

/-- Settles O52. -/
theorem samplerFormsComplete : Obligations.SamplerFormsComplete := by
  unfold Obligations.SamplerFormsComplete
  refine ⟨fun _ _ _ _ _ => runsGathered_quad (fun _ => rfl), fun _ _ _ _ _ _ => runsGathered_quad (input := fun e ln => readBlock e ln _ 3 ++ readBlock e ln _ 3) (fun _ => rfl),
    fun _ _ _ _ _ => runsWhen_issueChk (fun _ => rfl) fun e lns d hk => acceptQuads_room hk, fun _ _ _ _ _ => runsWhen_issueChk (fun _ => rfl) fun e lns d hk => acceptQuads_room hk,
    fun _ _ _ _ => runsWhen_issueChk (fun _ => rfl) fun e lns d hk => acceptQuads_room hk, fun _ _ _ => runsTo_issueChk fun _ => rfl, fun _ _ => runsTo_issueChk fun _ => rfl,
    fun _ _ => runsLanes_issueChk (fun _ => rfl) fun _ _ _ _ => rfl, fun _ _ _ _ => runsLanes_issueChk (fun _ => rfl) fun _ _ _ _ => rfl,
    fun _ _ _ _ _ => runsLanes_issueChk (fun _ => rfl) fun _ _ _ _ => rfl, fun d e kind dst hdr lns input hh hs hl hd => ?_⟩
  obtain ⟨r, hr, hk, hq, hhd, hf⟩ := startReq_queued (kind := kind) (dst := dst) (input := input) hh
  intro d'
  have hd' : d' = _ := hr
  have hkp := (nearG_holdLanes (bump { d with reqs := fput d.reqs d.fresh r }) e.sq (.sample d.fresh) lns).kept
  rw [← hd'] at hkp
  have hsq : squadOf d' e.sq = lns.foldl (fun s ln => s.setLane ln fun l => { l with wait := .sample d.fresh }) (squadOf d e.sq) := by
    rw [hd']
    exact squadOf_holdLanes _ _ hs
  have hrq : d'.reqs = fput d.reqs d.fresh r := (congrArg Dev.reqs hkp.rest :)
  refine ⟨hkp.mem, hkp.l2, hkp.scratch, fun ln hln => ?_, fun i j => ?_, r, by rw [hrq]; exact fget_fput_self .., hk, hq, hhd, hf⟩
  · obtain ⟨l, hl⟩ := Option.isSome_iff_exists.1 (hl ln hln)
    simp only [laneOf, hsq, Squad.lane, fgetD, lane_held, if_pos hln, hl, Option.map_some, Option.getD_some]
  · rw [hsq]
    exact v_setLanes (fun l => { l with wait := .sample d.fresh }) i j lns (squadOf d e.sq)

end Sys2Proof.Machine
end

section
/-! SUPPORT. Sampler events (R213, R332, R333): the list of squads is compared as data. -/
namespace Sys2Proof.Machine

/-- A weight form's request of lane 0 of squad 3 whose fetches have ended with "no translation". -/
def failedReq : SReq :=
  { kind := .unpin, sq := 3, core := 0, user := false, quad := 0, lanes := [(0, [])], dst := .none, desc := 0, hdr := 0, copy := some [], wbad := some (4, 0) }

/-- Squads listed out of order of their numbers, as `Dev` admits them. -/
def unsortedDev : Dev := { squads := [(5, {}), (3, {})], reqs := [(1, failedReq)] }

theorem failedReq_done : failedReq.done = true ∧ ∀ ln ∈ fkeys failedReq.lanes, (laneCause failedReq [] ln).isSome = true := by decide +kernel

theorem releaseReq_lists : (releaseReq unsortedDev 1).squads.length = 3 := by decide +kernel

theorem settle_lists : (settle ((reqLanes unsortedDev 1 failedReq).foldl (fun d ln => match laneCause failedReq [] ln with
      | some (c, va) => trapAt d failedReq.sq ln c (tvAddr va)
      | none => d) { unsortedDev with reqs := fdel unsortedDev.reqs 1 }) failedReq.sq).squads.length = 2 := by decide +kernel

/-- Refutes O53, in the clause of a request all of whose lanes take a cause. `releaseReq` ends with a change of the squad by no lane, which writes the squad
back to the list: where that list is not in order of its numbers, the squad stands there twice. The clause has the list unchanged and asks no order of it. -/
theorem not_samplerEventsComplete : ¬ Obligations.SamplerEventsComplete := by
  unfold Obligations.SamplerEventsComplete
  rintro ⟨-, -, -, h, -⟩
  obtain ⟨hdone, hcause⟩ := failedReq_done
  have he := (h unsortedDev 1 failedReq [] rfl rfl rfl hdone nofun nofun rfl).2 hcause
  have hl := congrArg (fun d => d.squads.length) he
  exact absurd (releaseReq_lists.symm.trans (hl.trans settle_lists)) (by decide)

end Sys2Proof.Machine
end

section
/-! SUPPORT. Register rows, activation and deactivation, a core's cycles, allocations and drains (R245, R262 to R274, R291, R363). -/
namespace Sys2Proof.Machine

/-! ### Register rows (R262, R263, R266) -/

theorem fillRow_completes {d d' : Dev} {u i t pa : Nat} (hf : fget (squadOf d u).fills i = some t) (ho : (squadOf d u).onChip = true)
    (hm : (squadOf d u).missing i = true)
    (hx : xlatNow d (squadOf d u).core (squadOf d u).vmid (squadOf d u).asid (rowAddr (squadOf d u) i) .rw false = (d', .ok pa)) (hr : rowsHeld d' (squadOf d u).core < 4096) :
    fillRow d u i .none =
      let bad := (upto 128).filter fun ln => poisoned d' (pa + 4 * ln)
      setSquad (setSquad d' u fun q => { q with
        rows := fput q.rows i { words := ctxRow d' pa 0, poison := bad }
        fillBad := (q.fillBad.filter fun p => (q.lane p.2.1).seq == p.2.2) ++ ((fgetD q.fillFor i []).filter bad.contains).map fun ln => (i, ln, (q.lane ln).seq) }) u fun q =>
          { q with fills := fdel q.fills i, fillFor := fdel q.fillFor i } := by
  unfold fillRow
  simp only [hf, ho, hm, hx, Option.isNone_some, Bool.not_true, Bool.or_self, Bool.false_eq_true, if_false, errFatal, Nat.not_le.2 hr]
  rfl

section
variable {d : Dev} {u i : Nat} {r : Row} (hr : fget (squadOf d u).rows i = some r) (ho : (squadOf d u).onChip = true) (hp : rowPending d u i = false)
include hr ho hp

theorem evictRow_clean (hd : r.dirty = false) : evictRow d u i = setSquad d u fun q => { q with rows := fdel q.rows i } := by
  unfold evictRow
  simp only [hr, ho, hp, hd, Bool.not_true, Bool.not_false, Bool.or_self, Bool.false_eq_true, if_false, if_true]

theorem evictRow_dirty {d' : Dev} {pa : Nat} (hd : r.dirty = true) (hc : ctxPage d (squadOf d u) = (d', some pa)) :
    evictRow d u i = setSquad (writeBackRow d' pa i r) u fun q => { q with rows := fdel q.rows i } := by
  unfold evictRow
  simp only [hr, ho, hp, hd, hc, Bool.not_true, Bool.or_self, Bool.false_eq_true, if_false]

end

theorem lanes_setLane (d : Dev) (u ln : Nat) (f : Lane → Lane) : (squadOf (setSquad d u fun s => s.setLane ln f) u).lanes = fmod (squadOf d u).lanes ln f := by
  simp only [squadOf, fgetD, fget_setSquad, if_true]
  cases fget d.squads u <;> rfl

/-- What a stale fill does to a lane that stalls on it. -/
def parkOn (o : Option Nat) (l : Lane) : Lane :=
  match o with
  | some i => { l with wait := .park (.fill i) }
  | none => l

/-- One lane parks on the fill that holds it, where one does. -/
def parkLane (u : Nat) (o : Option Nat) (d : Dev) (ln : Nat) : Dev :=
  match o with
  | some i => holdLanes d u (.park (.fill i)) [ln]
  | none => d

theorem lanes_parkLane (u j a : Nat) (o : Option Nat) (d : Dev) :
    fget (squadOf (parkLane u o d a) u).lanes j = if j = a then (fget (squadOf d u).lanes j).map (parkOn o) else fget (squadOf d u).lanes j := by
  cases o with
  | none =>
    have hid : (parkOn none : Lane → Lane) = id := rfl
    simp [parkLane, hid]
  | some i =>
    have hl : (squadOf (parkLane u (some i) d a) u).lanes = fmod (squadOf d u).lanes a fun l => { l with wait := .park (.fill i) } := lanes_setLane ..
    rw [hl, fget_fmod]
    by_cases h : j = a
    · subst h; rfl
    · rw [if_neg h, if_neg h]

/-- The lanes of a list each park on the fill that the machine as it stood gives them. -/
theorem lanes_parked (g : Nat → Option Nat) (u j : Nat) (ks : List Nat) : ∀ (d : Dev), fget (squadOf (ks.foldl (fun d ln => parkLane u (g ln) d ln) d) u).lanes j =
    if j ∈ ks then (fget (squadOf d u).lanes j).map (parkOn (g j)) else fget (squadOf d u).lanes j := by
  induction ks with
  | nil => exact fun _ => rfl
  | cons a t ih =>
    intro d
    rw [List.foldl_cons, ih, lanes_parkLane]
    by_cases ha : j = a
    · subst ha
      cases fget (squadOf d u).lanes j <;> cases g j <;> simp [parkOn]
    · simp [ha]

theorem v_holdLanes (d : Dev) (u : Nat) (w : Wait) (ln i j : Nat) : (squadOf (holdLanes d u w [ln]) u).v i j = (squadOf d u).v i j := by
  have h : squadOf (holdLanes d u w [ln]) u = squadOf (setSquad d u fun s => s.setLane ln fun l => { l with wait := w }) u := rfl
  rw [h]
  simp only [squadOf, fgetD, fget_setSquad, if_true]
  cases fget d.squads u <;> rfl

theorem fillPark_parks (d : Dev) (u : Nat) : (fillPark d u).mem = d.mem ∧ (∀ ln l, fget (squadOf d u).lanes ln = some l → laneOf (fillPark d u) u ln = parkOn (staleFill d u ln) l) ∧
    ∀ i ln, (squadOf (fillPark d u) u).v i ln = (squadOf d u).v i ln := by
  have hf : fillPark d u = (fkeys (squadOf d u).lanes).foldl (fun d' ln => parkLane u (staleFill d u ln) d' ln) d := rfl
  rw [hf]
  refine ⟨foldl_keeps Dev.mem (fun d' ln _ => ?_) d, fun ln l hl => ?_, fun i ln => foldl_keeps (fun d => (squadOf d u).v i ln) (fun d' ln _ => ?_) d⟩
  · cases staleFill d u ln <;> rfl
  · have hm : ln ∈ fkeys (squadOf d u).lanes := (mem_fkeys ..).2 (by rw [hl]; rfl)
    simp only [laneOf, Squad.lane, fgetD, lanes_parked, if_pos hm, hl, Option.map_some, Option.getD_some]
  · cases staleFill d u ln with
    | none => rfl
    | some k => exact v_holdLanes ..

/-! ### Activation and deactivation (R266 to R268) -/

theorem activateNext_loads {d d' : Dev} {core u : Nat} (hf : (clusterOf d (core / 7)).fatal = false) (hs : freeSlots d core ≠ 0) (hn : nextSquad d core = some u)
    (hg : (clusterOf d (core / 7)).gateOpen (core % 7) = true)
    (hl : loadContext (if (squadOf d u).core = core then d else leaveL1 d u (l1Set (squadOf d u))) u core = (d', .ok)) : activateNext d core =
      let d2 := settleClaims (setSquad (readKern (moveExt d' (squadOf d u) core) u (squadOf d u).kh) u fun q =>
        { q with res := .in_, late := false, awaits := [], unrun := false, fuse := q.fuse && core % 7 != 6, pin := q.pin && !decide (64 < pinned d' core) }) u
      if l1Set (squadOf d2 u) = l1Set (squadOf d u) then d2 else leaveL1 d2 u (l1Set (squadOf d u)) := by
  unfold activateNext
  rw [if_neg (by simp [hf, hs]), hn]
  dsimp only
  rw [if_pos hg]
  unfold activateSquad
  dsimp only
  rw [hl]

theorem deactivateNext_one {d : Dev} {core u : Nat} {q : Squad} (h : d.squads.filter (fun p => p.2.core == core && p.2.state == .ready && p.2.res == .in_ && p.2.stop == .none &&
      !p.2.pin && parkedNow d p.1 && (ctxPage d p.2).2.isSome) = [(u, q)]) : deactivateNext d core = setSquad d u fun q => { q with res := .writing } := by
  unfold deactivateNext
  rw [h]
  rfl

theorem writeOut_saves {d d' : Dev} {u : Nat} (he : (squadOf d u).state ≠ .ended) (hl : loadsDone d u = true) (hs : (squadOf d u).stop = .none)
    (hr : (squadOf d u).res = .writing) (h1 : (squadOf d u).state = .held → l1Out d u = false)
    (hc : saveContext (if (squadOf d u).state = .held then privWriteBack (loseWatches d u) (squadOf d u) else loseWatches d u) u (squadOf d u).state = (d', true)) :
    writeOut d u = setSquad d' u fun q =>
      { q with state := (squadOf d u).state, res := .out, stop := q.stop, since := (clusterOf d' (q.bound.getD q.core / 7)).etime, late := false } := by
  unfold writeOut
  dsimp only
  rw [if_neg he, if_neg (by simp [hl]), hs, hr]
  simp only [reduceCtorEq, if_false, decide_true, Bool.and_true, decide_eq_true_eq]
  rw [if_neg (by simp only [Bool.and_eq_true, decide_eq_true_eq]; exact fun h => by simp [h1 h.1] at h), hc]

/-! ### A core's cycles (R269, R273, R274) -/

theorem ctimeUnit_range (c : Nat) : 4 ≤ ctimeUnit c ∧ ctimeUnit c ≤ 8 := by
  unfold ctimeUnit
  repeat' split
  all_goals decide

theorem coreCycle_time (n : Nat) (k : Core) : ∃ x, 4 ≤ x ∧ x ≤ 8 ∧ (coreCycle n k).ctime = k.ctime + x * n := ⟨_, (ctimeUnit_range _).1, (ctimeUnit_range _).2, rfl⟩

/-- While something keeps a clock going, its cycles pass, each of four to eight units. -/
theorem coreCycles_pass (n m : Nat) : ∀ (k : Core), (coreCycles n true m k).cyc = k.cyc + m ∧ k.ctime + m * 4 * n ≤ (coreCycles n true m k).ctime ∧
    (coreCycles n true m k).ctime ≤ k.ctime + m * 8 * n := by
  induction m with
  | zero => intro k; simp [coreCycles]
  | succ m ih =>
    intro k
    obtain ⟨h1, h2, h3⟩ := ih (coreCycle n k)
    obtain ⟨x, hl, hu, ht⟩ := coreCycle_time n k
    have hl' := Nat.mul_le_mul_right n hl
    have hu' := Nat.mul_le_mul_right n hu
    have hc : (coreCycle n k).cyc = k.cyc + 1 := rfl
    have e : coreCycles n true (m + 1) k = coreCycles n true m (coreCycle n k) := by simp [coreCycles]
    rw [e]
    rw [hc] at h1
    rw [ht] at h2 h3
    simp only [Nat.add_mul, Nat.one_mul]
    omega

theorem coreOf_setCore_ne {d : Dev} {k j : Nat} (f : Core → Core) (h : j ≠ k) : coreOf (setCore d k f) j = coreOf d j := by rw [coreOf_setCore, if_neg h]

/-! ### Allocations (R291) -/

theorem fget_filter {β : Type} (P : Nat → Bool) (m : FMap β) (k : Nat) : fget (m.filter fun p => P p.1) k = if P k then fget m k else none := by
  induction m with
  | nil => simp [fget]
  | cons a t ih =>
    by_cases ha : P a.1 = true
    · by_cases hk : a.1 = k
      · subst hk; simp [ha, fget]
      · simp [ha, fget, hk, ih]
    · by_cases hk : a.1 = k
      · subst hk; simp [ha, ih]
      · simp [ha, fget, hk, ih]

/-- Zeroed bytes read as 0, and the others as they were. -/
theorem scratch_scZero (d : Dev) (c b n x : Nat) : fgetD (scZero d c b n).scratch x 0 =
    if x < scAddr c b ∨ scAddr c b + n ≤ x then fgetD d.scratch x 0 else 0 := by
  have h := fget_filter (fun x => decide (x < scAddr c b) || decide (scAddr c b + n ≤ x)) d.scratch x
  have h' : (scZero d c b n).scratch = d.scratch.filter fun p => decide (p.1 < scAddr c b) || decide (scAddr c b + n ≤ p.1) := by
    simp [scZero]
  rw [fgetD, h', h]
  simp only [Bool.or_eq_true, decide_eq_true_eq]
  split <;> rfl

theorem grantScratch_grants {d : Dev} {gid b : Nat} {g : Group} (hg : fget d.groups gid = some g) (hb : g.base = none) (hs : g.state = .live)
    (hk : (g.key.isSome || g.members.any fun u => (squadOf d u).state != .created) = true) (ha : scAlloc d g.cluster g.scr = some b) :
    grantScratch d gid = scZero (setGroup d gid fun g => { g with base := some b }) g.cluster b g.scr := by
  unfold grantScratch
  rw [hg]
  dsimp only
  rw [hb, ha]
  exact if_pos (by rw [hs, hk]; rfl)

/-- Settles O55. -/
theorem residencyEventsComplete : Obligations.ResidencyEventsComplete := by
  unfold Obligations.ResidencyEventsComplete
  refine ⟨fun s u i t pa d' => ?_, fun s u i r hr ho hp hd => event_to (f := fun d => evictRow d u i) rfl (evictRow_clean hr ho hp hd),
    fun s u i pa r d' hr ho hp hd hc => event_to (f := fun d => evictRow d u i) rfl (evictRow_dirty hr ho hp hd hc), fun s u => ?_,
    fun s core u d' hf hs hn hg hl => event_to (f := fun d => activateNext d core) rfl (activateNext_loads hf hs hn hg hl),
    fun s u hs hr ht => event_to (f := fun d => waitTooLong d u) rfl (if_pos (by simp [hs, hr, ht])),
    fun s u hs hr => event_to (f := fun d => wakeSquad d u) rfl ?_, fun s core u q h => event_to (f := fun d => deactivateNext d core) rfl (deactivateNext_one h),
    fun s u d' he hl hs hr h1 hc => event_to (f := fun d => writeOut d u) rfl (writeOut_saves he hl hs hr h1 hc), fun s core hc hi => ?_,
    fun s core h => event_to (f := fun d => startClock d core) rfl (if_pos (by simpa using h)), fun s gid b g hg hb hs hk ha => ?_,
    fun s gid g hg hs hb => event_to (f := fun d => drainCheck d gid) rfl ?_, fun s core u q hf hx => event_to (f := fun d => extGrant d core) rfl ?_⟩
  · intro q hf ho hm hx hr bad
    exact event_to (f := fun d => fillRow d u i .none) rfl (fillRow_completes hf ho hm hx hr)
  · obtain ⟨hm, hl, hv⟩ := fillPark_parks s.dev u
    refine ⟨_, event_to (f := fun d => fillPark d u) rfl rfl, rfl, hm, fun ln l h => (hl ln l h).trans ?_, hv⟩
    have hw : (squadOf s.dev u).lane ln = l := by simp [Squad.lane, fgetD, h]
    unfold staleFill
    simp only [hw]
    by_cases hh : l.wait = .hold
    · simp only [hh, ne_eq, not_true_eq_false, if_false, if_true]
      cases (squadOf s.dev u).fills.find? fun p => decide (p.2 + 1024 < (coreOf s.dev (squadOf s.dev u).core).cyc) && stallsOn s.dev u ln p.1 with
      | none => simp [parkOn, ← hh]
      | some p => rfl
    · simp [hh, parkOn]
  · unfold wakeSquad
    exact (if_neg (not_not_intro hs)).trans (if_pos hr)
  · obtain ⟨h1, h2, h3⟩ := coreCycles_pass (coreRatio s.power core) 4 (coreOf s.dev core)
    have hf : formBundles s.power s.dev core = setCore s.dev core (coreCycles (coreRatio s.power core) true 4) := by
      rw [formBundles, if_neg (by simp [hc]), hi, Bool.true_or]
    refine ⟨_, event_both (f := fun p d => formBundles p d core) rfl hf, rfl, rfl, rfl, ?_⟩
    dsimp only
    rw [coreOf_setCore_self]
    exact ⟨h1, h2, h3, fun k hk => coreOf_setCore_ne _ hk⟩
  · refine ⟨_, event_to (f := fun d => grantScratch d gid) rfl (grantScratch_grants hg hb hs hk ha), rfl, ?_, rfl, fun x hx => ?_, fun x hx => ?_⟩
    · exact (fget_fmod_self ..).trans (by rw [hg]; rfl)
    · exact (scratch_scZero ..).trans (if_neg (by omega))
    · exact (scratch_scZero ..).trans (if_pos hx)
  · unfold drainCheck
    simp only [hg, hs, hb, Bool.not_false, Bool.and_true, decide_true, if_true]
  · unfold extGrant
    simp only [hf, if_pos hx]

end Sys2Proof.Machine
end

section
/-! SUPPORT. Rails, sensors, weights and gating (R420, R421, R428, R430 to R436). -/
namespace Sys2Proof.Machine

/-! ### Rails (R430 to R432) -/

/-- A limiter changes steps, withheld cycles and its quiet count alone. -/
theorem limit_keeps (x : Rail) (c : Nat) : (limit x c).code = x.code ∧ (limit x c).valid = x.valid ∧ (limit x c).est = x.est ∧ (limit x c).ilim = x.ilim := by
  unfold limit
  split
  · exact ⟨rfl, rfl, rfl, rfl⟩
  · split
    · split <;> exact ⟨rfl, rfl, rfl, rfl⟩
    · exact ⟨rfl, rfl, rfl, rfl⟩

/-- A code above ILIM raises the step, or at the last step the withheld cycles (R431). -/
theorem limit_raises {x : Rail} {c : Nat} (h : x.ilim < c) : (x.step < 8 → (limit x c).step = x.step + 1 ∧ (limit x c).whld = x.whld) ∧
    (8 ≤ x.step → (limit x c).step = 8 ∧ (limit x c).whld = min 7 (x.whld + 1)) := by
  unfold limit
  rw [if_pos h]
  exact ⟨fun hs => by simp [hs], fun hs => by simp [Nat.not_lt.2 hs]⟩

theorem railOf_fput (p : Power) (r k : Nat) (x : Rail) : railOf { p with rails := fput p.rails r x } k = if k = r then x else railOf p k := by
  by_cases h : k = r
  · subst h; simp [railOf]
  · simp [railOf, h]

theorem events_clearCounts (l : List Nat) : ∀ (d : Dev) (k : Nat), (k ∈ l ∨ (coreOf d k).events = []) →
    (coreOf (l.foldl (fun d k => setCore d k fun c => { c with events := [] }) d) k).events = [] := by
  induction l with
  | nil => exact fun d k h => h.resolve_left List.not_mem_nil
  | cons a t ih =>
    intro d k h
    refine ih _ k ?_
    rw [coreOf_setCore]
    by_cases ha : k = a
    · exact .inr (by rw [if_pos ha])
    · rw [if_neg ha]
      exact h.imp_left fun h => (List.mem_cons.1 h).resolve_left ha

theorem clearCounts_keeps (d : Dev) (r : Nat) : (clearCounts d r).mem = d.mem ∧ (clearCounts d r).squads = d.squads :=
  ⟨foldl_keeps (f := fun d k => setCore d k fun c => { c with events := [] }) Dev.mem (fun _ _ _ => rfl) d,
    foldl_keeps (f := fun d k => setCore d k fun c => { c with events := [] }) Dev.squads (fun _ _ _ => rfl) d⟩

/-- What a converter, or the estimate in its place, gives a rail (R430, R432). -/
def railRead (s : State) (r : Nat) (ma : Option Nat) : Rail :=
  let x := railOf s.power r
  match ma with
  | some i => let c := min 1023 (i / railLsb r); { x with code := c, valid := true, est := false, last := c }
  | none =>
    if r < 48 then { x with code := estimate (if r < 24 then s.power.vcl else s.power.vup) (railCounts s.dev r), valid := false, est := true }
    else { x with code := x.last, valid := false, est := false }

theorem ite_keeps {α : Type} {c : Prop} [Decidable c] {a b : Dev} (p : Dev → α) (h : p a = p b) : p (if c then a else b) = p b := by
  split
  · exact h
  · rfl

/-- A sample changes its own rail, as its limiter takes the code, and clears the counts of its cores. -/
theorem sampleRail_spec {s : State} {r : Nat} (h : r < 51) (ma : Option Nat) :
    (sampleRail s r ma).power = { s.power with rails := fput s.power.rails r (limit (railRead s r ma) (railRead s r ma).code) } ∧
      (∀ k ∈ railCores r, (coreOf (sampleRail s r ma).dev k).events = []) ∧ (sampleRail s r ma).dev.mem = s.dev.mem ∧ (sampleRail s r ma).dev.squads = s.dev.squads := by
  unfold sampleRail
  rw [if_neg (Nat.not_le.2 h)]
  refine ⟨rfl, fun k hk => events_clearCounts _ _ k (.inl hk), ?_, ?_⟩
  · exact (clearCounts_keeps _ r).1.trans (ite_keeps Dev.mem rfl)
  · exact (clearCounts_keeps _ r).2.trans (ite_keeps Dev.squads rfl)

/-! ### Weights (R432) -/

theorem getElem?_writeWeight (ws : List Weight) (j : Nat) (v : BitVec 16) (k : Nat) :
    (writeWeight ws j v)[k]? = ws[k]?.map fun w => if k = j then clampWeight w v else w := by
  simp [writeWeight, Function.comp_def, Option.map_map, List.getElem?_zipIdx]

/-- Weights written one after the other. -/
theorem getElem?_writeWeights (vs : List (BitVec 16)) (k : Nat) : ∀ (n : Nat) (ws : List Weight),
    ((vs.zipIdx n).foldl (fun l v => writeWeight l v.2 v.1) ws)[k]? = ws[k]?.map fun w => if n ≤ k then (match vs[k - n]? with
      | some v => clampWeight w v
      | none => w) else w := by
  induction vs with
  | nil =>
    intro n ws
    change ws[k]? = _
    cases ws[k]? <;> simp
  | cons v t ih =>
    intro n ws
    rw [List.zipIdx_cons, List.foldl_cons, ih, getElem?_writeWeight]
    cases ws[k]? with
    | none => rfl
    | some w =>
      rcases Nat.lt_trichotomy k n with h | h | h
      · simp [show ¬ n + 1 ≤ k by omega, show ¬ n ≤ k by omega, show k ≠ n by omega]
      · subst h; simp
      · obtain ⟨m, rfl⟩ : ∃ m, k = n + 1 + m := ⟨k - (n + 1), by omega⟩
        simp [show n ≤ n + 1 + m by omega, show n + 1 + m - n = m + 1 by omega, show n + 1 + m ≠ n by omega]

theorem writeWeights_eq {vs : List (BitVec 16)} {ws : List Weight} (h : ws.length = vs.length) :
    vs.zipIdx.foldl (fun l v => writeWeight l v.2 v.1) ws = (ws.zip vs).map fun p => clampWeight p.1 p.2 := by
  refine List.ext_getElem? fun k => ?_
  rw [getElem?_writeWeights]
  by_cases hk : k < ws.length
  · have hk' : k < vs.length := h ▸ hk
    simp [hk, hk']
  · have hk' : ¬ k < vs.length := h ▸ hk
    simp [hk]

theorem writes_vcl (l : List (BitVec 16 × Nat)) : ∀ (p : Power), l.foldl (fun p v => setWeight p false v.2 v.1) p = { p with vcl := l.foldl (fun l v => writeWeight l v.2 v.1) p.vcl } := by
  induction l with
  | nil => exact fun _ => rfl
  | cons v t ih => exact fun p => ih _

theorem writes_vup (l : List (BitVec 16 × Nat)) : ∀ (p : Power), l.foldl (fun p v => setWeight p true v.2 v.1) p = { p with vup := l.foldl (fun l v => writeWeight l v.2 v.1) p.vup } := by
  induction l with
  | nil => exact fun _ => rfl
  | cons v t ih => exact fun p => ih _

/-- Firmware's eighteen weights go to VCL's nine and then to VUP's (R432). -/
theorem refit_eq {p : Power} {ws : List (BitVec 16)} (h : ws.length = 18) (hc : p.vcl.length = 9) (hu : p.vup.length = 9) : refit p ws = { p with
    vcl := (p.vcl.zip (ws.take 9)).map fun p => clampWeight p.1 p.2, vup := (p.vup.zip (ws.drop 9)).map fun p => clampWeight p.1 p.2 } := by
  have ht : (ws.take 9).length = 9 := by simp [h]
  have hz : ws.zipIdx = (ws.take 9).zipIdx ++ (ws.drop 9).zipIdx.map fun v => (v.1, v.2 + 9) := by
    conv => lhs; rw [← List.take_append_drop 9 ws]
    rw [List.zipIdx_append, ht, List.zipIdx_eq_map_add (i := 0 + 9)]
    simp only [Nat.zero_add, Nat.add_comm 9]
  have h1 : ∀ (p : Power), (ws.take 9).zipIdx.foldl (fun p w => if w.2 < 9 then setWeight p false w.2 w.1 else setWeight p true (w.2 - 9) w.1) p =
      (ws.take 9).zipIdx.foldl (fun p v => setWeight p false v.2 v.1) p := fun p => List.foldl_ext _ _ _ fun p v hv => by
    have := List.snd_lt_of_mem_zipIdx hv
    exact if_pos (by omega)
  have h2 : ∀ (p : Power), ((ws.drop 9).zipIdx.map fun v => (v.1, v.2 + 9)).foldl (fun p w => if w.2 < 9 then setWeight p false w.2 w.1 else setWeight p true (w.2 - 9) w.1) p =
      (ws.drop 9).zipIdx.foldl (fun p v => setWeight p true v.2 v.1) p := fun p => by
    rw [List.foldl_map]
    exact List.foldl_ext _ _ _ fun p v _ => by simp
  rw [refit, hz, List.foldl_append, h1, h2, writes_vcl, writes_vup, writeWeights_eq (by rw [hc, ht]), writeWeights_eq (by rw [hu, List.length_drop, h])]

theorem clampWeight_within {w : Weight} (h : w.lo ≤ w.hi) (v : BitVec 16) : w.lo ≤ (clampWeight w v).w ∧ (clampWeight w v).w ≤ w.hi := by
  have hl := w.lo.isLt
  have hh := w.hi.isLt
  rw [BitVec.le_def] at h ⊢
  rw [BitVec.le_def]
  simp only [clampWeight, BitVec.toNat_ofNat]
  rw [Nat.mod_eq_of_lt (by omega)]
  omega

/-! ### Heat (R434, R435) -/

theorem fget_upto {β : Type} (f : Nat → β) (n k : Nat) : fget ((upto n).map fun k => (k, f k)) k = if k < n then some (f k) else none := by
  have h : ∀ l : List Nat, fget (l.map fun k => (k, f k)) k = if k ∈ l then some (f k) else none := fun l => by
    induction l with
    | nil => rfl
    | cons a t ih =>
      by_cases ha : a = k
      · subst ha; simp [fget]
      · simp [fget, ha, Ne.symm ha, ih]
  rw [h]
  simp [upto]

/-- Events of heat touch no more than the rings of clusters. -/
theorem heatEvents_keeps (p : Power) (d : Dev) (l : List (Heat × Nat)) : ({ heatEvents p d l with clusters := [] } : Dev) = { d with clusters := [] } := by
  unfold heatEvents
  dsimp only
  refine (foldl_keeps (fun d : Dev => ({ d with clusters := [] } : Dev)) (fun d x _ => ?_) _).trans (foldl_keeps (fun d : Dev => ({ d with clusters := [] } : Dev)) (fun d x _ => ?_) _)
  · split
    · rfl
    · split <;> rfl
  · split <;> rfl

/-- The worst level is the largest, and where it is not 0 one of them. -/
theorem worst_max (l : List (Heat × Nat)) : (∀ x ∈ l, x.2 ≤ (worst l).1) ∧ ((worst l).1 = 0 ∨ ∃ x ∈ l, x.2 = (worst l).1) := by
  have h : ∀ (l : List (Heat × Nat)) (b : Nat × Nat × Nat),
      let w := l.foldl (fun b x => if b.1 < x.2 then (x.2, x.1.pair, x.1.qty) else b) b
      b.1 ≤ w.1 ∧ (∀ x ∈ l, x.2 ≤ w.1) ∧ (w.1 = b.1 ∨ ∃ x ∈ l, x.2 = w.1) := fun l => by
    induction l with
    | nil => exact fun b => ⟨Nat.le_refl _, fun _ h => (nomatch h), .inl rfl⟩
    | cons a t ih =>
      intro b
      obtain ⟨h1, h2, h3⟩ := ih (if b.1 < a.2 then (a.2, a.1.pair, a.1.qty) else b)
      have hle : b.1 ≤ (if b.1 < a.2 then (a.2, a.1.pair, a.1.qty) else b).1 ∧ a.2 ≤ (if b.1 < a.2 then (a.2, a.1.pair, a.1.qty) else b).1 := by
        split
        · next h => exact ⟨Nat.le_of_lt h, Nat.le_refl _⟩
        · next h => exact ⟨Nat.le_refl _, Nat.not_lt.1 h⟩
      refine ⟨hle.1.trans h1, fun x hx => ?_, ?_⟩
      · rcases List.mem_cons.1 hx with rfl | hx
        · exact hle.2.trans h1
        · exact h2 x hx
      · rcases h3 with h3 | ⟨x, hx, h3⟩
        · by_cases hb : b.1 < a.2
          · rw [if_pos hb] at h3
            exact .inr ⟨a, List.mem_cons_self, (by rw [List.foldl_cons, if_pos hb]; exact h3.symm)⟩
          · rw [if_neg hb] at h3
            exact .inl (by rw [List.foldl_cons, if_neg hb]; exact h3)
        · exact .inr ⟨x, List.mem_cons_of_mem _ hx, h3⟩
  obtain ⟨-, h2, h3⟩ := h l (0, 0, 0)
  exact ⟨h2, h3⟩

/-- At a limit a cluster runs slowest and its budgets are cut (R435). -/
theorem respond_limits {l : List (Heat × Nat)} {x : Heat × Nat} (hx : x ∈ l) (h : 2 ≤ x.2) (b : PCluster) : (respond l b).thermal = 12 ∧ (respond l b).cut = true := by
  have hm : ∀ (l : List (Heat × Nat)) (m : Nat), m ≤ l.foldl (fun m x => max m x.2) m ∧ ∀ x ∈ l, x.2 ≤ l.foldl (fun m x => max m x.2) m := fun l => by
    induction l with
    | nil => exact fun m => ⟨Nat.le_refl _, fun _ h => (nomatch h)⟩
    | cons a t ih =>
      intro m
      obtain ⟨h1, h2⟩ := ih (max m a.2)
      refine ⟨(Nat.le_max_left ..).trans h1, fun x hx => ?_⟩
      rcases List.mem_cons.1 hx with rfl | hx
      · exact (Nat.le_max_right ..).trans h1
      · exact h2 x hx
  have h2 := h.trans ((hm l 0).2 x hx)
  unfold respond
  dsimp only
  exact ⟨if_pos h2, decide_eq_true h2⟩

/-- Entries of a list of keys each changed in its turn. -/
theorem fgetD_fputs {β : Type} (g : Nat → β → β) (dflt : β) (c : Nat) (l : List Nat) : ∀ (m : FMap β), c ∈ l → l.Nodup →
    fgetD (l.foldl (fun m c => fput m c (g c (fgetD m c dflt))) m) c dflt = g c (fgetD m c dflt) := by
  have hn : ∀ (l : List Nat) (m : FMap β), c ∉ l → fgetD (l.foldl (fun m c => fput m c (g c (fgetD m c dflt))) m) c dflt = fgetD m c dflt := fun l => by
    induction l with
    | nil => exact fun _ _ => rfl
    | cons a t ih =>
      intro m h
      rw [List.mem_cons, not_or] at h
      exact (ih _ h.2).trans (fgetD_fput_ne _ _ _ h.1)
  induction l with
  | nil => exact fun _ h => nomatch h
  | cons a t ih =>
    intro m hc hd
    obtain ⟨ha, ht⟩ := List.nodup_cons.1 hd
    rw [List.foldl_cons]
    by_cases h : c = a
    · subst h
      rw [hn _ _ ha, fgetD_fput_self]
    · rw [ih _ ((List.mem_cons.1 hc).resolve_left h) ht, fgetD_fput_ne _ _ _ h]

theorem heats_congr {p q : Power} (h : p.sens = q.sens) : heats p = heats q := by
  unfold heats lateral dieTemps tempOf
  rw [h]

theorem levelOf_congr {p q : Power} (h1 : p.lower = q.lower) (h2 : p.upper = q.upper) (h3 : p.vert = q.vert) (h4 : p.lat = q.lat) (x : Heat) : levelOf p x = levelOf q x := by
  unfold levelOf
  rw [h1, h2, h3, h4]

/-- The quantities of a sample with their levels. -/
def judged (p : Power) (sens : FMap Sensor) : List (Heat × Nat) := (heats { p with sens := sens }).map fun h => (h, levelOf { p with sens := sens } h)

/-- The machine once its sensors read as said. -/
def heated (s : State) (sens : FMap Sensor) : State :=
  let l := judged s.power sens
  let w := worst l
  { s with
    power := { s.power with
      sens := sens, held := l.foldl (fun m x => fset 0 m x.1.key x.2) ([] : FMap Nat)
      clu := (upto 24).foldl (fun m c => fput m c (respond (l.filter fun x => x.1.clu == c) (fgetD m c {}))) s.power.clu
      level := w.1, pair := w.2.1, qty := w.2.2, tripped := s.power.tripped || w.1 == 3 }
    dev := if w.1 = 3 then tripPower (heatEvents s.power s.dev l) else heatEvents s.power s.dev l }

/-- A sample gives each sensor that answers its value (R434). -/
theorem sampleSensors_heats (s : State) (ts : List (Option Int)) : ∃ sens, sampleSensors s ts = heated s sens ∧
    ∀ k x, k < 144 → ts[k]? = some (some x) → fget sens k = some { temp := BitVec.ofInt 12 x, valid := true } := by
  refine ⟨_, rfl, fun k x hk h => ?_⟩
  have hg : ts.getD k none = some x := by rw [List.getD_eq_getElem?_getD, h]; rfl
  have hf : ∀ {f : Nat → Nat × Sensor} (_ : ∀ j, f j = (j, (f j).2)), fget ((upto 144).map f) k = some (f k).2 := fun {f} hj => by
    rw [show f = fun j => (j, (f j).2) from funext hj, fget_upto, if_pos hk]
  refine (hf fun j => by cases ts.getD j none <;> rfl).trans ?_
  rw [hg]

section
variable (s : State) (sens : FMap Sensor)

theorem heats_heated : heats (heated s sens).power = heats { s.power with sens := sens } := heats_congr rfl

theorem levelOf_heated (x : Heat) : levelOf (heated s sens).power x = levelOf { s.power with sens := sens } x := by
  apply levelOf_congr <;> rfl

theorem mem_judged {x : Heat} (h : x ∈ heats (heated s sens).power) : (x, levelOf (heated s sens).power x) ∈ judged s.power sens := by
  rw [heats_heated] at h
  rw [levelOf_heated]
  exact List.mem_map.2 ⟨x, h, rfl⟩

theorem level_heated : (heated s sens).power.level = (worst (judged s.power sens)).1 := rfl

theorem pclu_heated {c : Nat} (hc : c < 24) : pcluOf (heated s sens).power c = respond ((judged s.power sens).filter fun x => x.1.clu == c) (pcluOf s.power c) := by
  have hm : c ∈ upto 24 := List.mem_range.2 hc
  have hd : (upto 24).Nodup := List.nodup_range
  unfold pcluOf heated
  dsimp only
  generalize judged s.power sens = l
  generalize upto 24 = ks at hm hd
  exact fgetD_fputs (fun c b => respond (l.filter fun x => x.1.clu == c) b) {} c ks s.power.clu hm hd

/-- At Trip what is not in host memory is lost; else no more than rings change (R435). -/
theorem dev_heated : ((heated s sens).power.level ≠ 3 → (heated s sens).dev.mem = s.dev.mem ∧ (heated s sens).dev.squads = s.dev.squads) ∧
    ((heated s sens).power.level = 3 → (heated s sens).dev.mem = s.dev.mem.filter (fun c => decide (hostBase ≤ c.1)) ∧
      (heated s sens).dev.squads = [] ∧ (heated s sens).dev.l2 = [] ∧ (heated s sens).dev.scratch = []) := by
  have hk := heatEvents_keeps s.power s.dev (judged s.power sens)
  rw [level_heated, heated]
  dsimp only
  generalize heatEvents s.power s.dev (judged s.power sens) = d at hk
  refine ⟨fun h => ?_, fun h => ?_⟩
  · rw [if_neg h]
    exact ⟨(congrArg Dev.mem hk :), (congrArg Dev.squads hk :)⟩
  · rw [if_pos h]
    exact ⟨congrArg (List.filter _) (congrArg Dev.mem hk :), rfl, rfl, rfl⟩

/-- The device's level is the worst quantity's (R434). -/
theorem level_worst : (∀ x ∈ heats (heated s sens).power, levelOf (heated s sens).power x ≤ (heated s sens).power.level) ∧
    ((heated s sens).power.level = 0 ∨ ∃ x ∈ heats (heated s sens).power, levelOf (heated s sens).power x = (heated s sens).power.level) := by
  obtain ⟨hmax, hex⟩ := worst_max (judged s.power sens)
  refine ⟨fun x hx => (hmax _ (mem_judged s sens hx)).trans_eq (level_heated s sens).symm, hex.imp (level_heated s sens).trans fun ⟨x, hx, he⟩ => ?_⟩
  obtain ⟨y, hy, rfl⟩ := List.mem_map.1 hx
  refine ⟨y, ?_, ?_⟩
  · rw [heats_heated]
    exact hy
  · rw [levelOf_heated, level_heated]
    exact he

theorem cluster_limited {c : Nat} (hc : c < 24) (h : ∃ x ∈ heats (heated s sens).power, x.clu = c ∧ 2 ≤ levelOf (heated s sens).power x) :
    (pcluOf (heated s sens).power c).thermal = 12 ∧ (pcluOf (heated s sens).power c).cut = true := by
  obtain ⟨x, hx, hcl, h2⟩ := h
  have hm : (x, levelOf (heated s sens).power x) ∈ (judged s.power sens).filter fun x => x.1.clu == c := List.mem_filter.2 ⟨mem_judged s sens hx, beq_iff_eq.2 hcl⟩
  rw [pclu_heated s sens hc]
  exact respond_limits hm h2 _

theorem tripped_heated : (heated s sens).power.tripped = true ↔ s.power.tripped = true ∨ (heated s sens).power.level = 3 := by
  have h : (heated s sens).power.tripped = (s.power.tripped || (worst (judged s.power sens)).1 == 3) := rfl
  rw [h, level_heated, Bool.or_eq_true, beq_iff_eq]

end

/-! ### Gating (R420, R421, R428) -/

section
variable {d : Dev} {cl : Nat}

theorem requestGate_begins (hg : (clusterOf d cl).gate = .powered) (hi : upperIdle d cl = true)
    (hs : d.squads.any (fun p => p.2.core == upperCore cl && p.2.res != .out) = false) : requestGate d cl = setCluster d cl fun c => { c with gate := .deactivating, wake := false } := by
  have hout : ∀ p ∈ d.squads, ¬ (p.2.core = upperCore cl ∧ p.2.res ≠ .out) := fun p hp h =>
    List.any_eq_false.1 hs p hp (by simp [h.1, h.2])
  unfold requestGate
  dsimp only
  rw [if_neg (by simp [hg, hi]), if_neg ?_]
  · refine foldl_keeps id (fun d' p hp => if_neg fun h => ?_) _
    simp only [Bool.and_eq_true, decide_eq_true_eq] at h
    exact hout p hp ⟨h.1, by rw [h.2]; nofun⟩
  · intro h
    obtain ⟨p, hp, h⟩ := List.any_eq_true.1 h
    simp only [Bool.and_eq_true, beq_iff_eq, bne_iff_ne] at h
    exact hout p hp h.1

theorem idleGate_requests {t : Nat} (hi : (clusterOf d cl).idleAt = some t) (ht : t + 1000 ≤ (clusterOf d cl).etime) : idleGate d cl = requestGate d cl := by
  unfold idleGate
  rw [hi]
  exact if_pos ht

theorem gateCheck_checks (hg : (clusterOf d cl).gate = .deactivating) (hs : d.squads.any (fun p => p.2.core == upperCore cl && p.2.res != .out) = false) :
    gateCheck d cl = if spillOk d cl = true then
        setCluster ((toSpill d cl).foldl (fun d k => setQuay d k fun q => { q with area := spillArea d k }) d) cl fun c => { c with gate := .spilling }
      else setCluster d cl fun c => { c with gate := .powered, wake := false, idleAt := none } := by
  unfold gateCheck
  rw [if_neg (by simp [hg, hs])]

theorem spillDone_gates (hg : (clusterOf d cl).gate = .spilling) (ht : toSpill d cl = []) :
    spillDone d cl = setCluster d cl fun c => { c with gate := if c.wake then .waking else .gated, wake := false } := by
  unfold spillDone
  simp [hg, ht]

theorem refillDone_powers {d' : Dev} (hg : (clusterOf d cl).gate = .waking) (hr : refillAll d (upDirs cl) = some d') :
    refillDone d cl = setCluster d' cl fun c => { c with gate := .powered, idleAt := none } := by
  unfold refillDone
  rw [if_pos hg, hr]

end

/-- A weight that is written in a set leaves the others. -/
theorem setWeight_spec (p : Power) (up : Bool) (j : Nat) (v : BitVec 16) (k : Nat) :
    (if up then (setWeight p up j v).vup else (setWeight p up j v).vcl)[k]? = (if up then p.vup else p.vcl)[k]?.map fun w => if k = j then clampWeight w v else w := by
  cases up <;> exact getElem?_writeWeight ..

/-- Settles O56. -/
theorem powerEventsComplete : Obligations.PowerEventsComplete := by
  unfold Obligations.PowerEventsComplete
  refine ⟨fun s r ma hr => ?_, fun s r ma hr => ?_, fun s ts ht => ?_, fun s c hc ht => ?_, fun s ws hw hc hu => ?_, fun s up j v w hw => ?_, fun s cl hg hi hs => ⟨?_, fun t ht he => ?_⟩,
    fun s cl hg hs => ⟨fun hk => ?_, fun hk => ?_⟩, fun s cl hg ht => event_to (f := fun d => spillDone d cl) rfl (spillDone_gates hg ht),
    fun s cl d' hg hr => event_to (f := fun d => refillDone d cl) rfl (refillDone_powers hg hr)⟩
  · obtain ⟨hp, hev, hm, hq⟩ := sampleRail_spec (s := s) hr (some ma)
    refine ⟨sampleRail s r (some ma), rfl, ?_⟩
    intro x y
    have hy : y = limit (railRead s r (some ma)) (railRead s r (some ma)).code := by
      simp only [y, hp, railOf_fput, if_true]
    obtain ⟨k1, k2, k3, k4⟩ := limit_keeps (railRead s r (some ma)) (railRead s r (some ma)).code
    rw [← hy] at k1 k2 k3 k4
    refine ⟨k1, k2, k3, k4, fun k hk => ?_, fun h1 h2 => ?_, fun h1 h2 => ?_, hev, hm, hq⟩
    · rw [hp, railOf_fput, if_neg hk]
    · have hlt : (railRead s r (some ma)).ilim < (railRead s r (some ma)).code := by rw [← k1]; exact h1
      rw [hy]
      exact (limit_raises hlt).1 h2
    · have hlt : (railRead s r (some ma)).ilim < (railRead s r (some ma)).code := by rw [← k1]; exact h1
      rw [hy]
      exact (limit_raises hlt).2 h2
  · obtain ⟨hp, -⟩ := sampleRail_spec (s := s) (show r < 51 by omega) none
    refine ⟨sampleRail s r none, rfl, ?_⟩
    obtain ⟨k1, k2, k3, -⟩ := limit_keeps (railRead s r none) (railRead s r none).code
    have hx : railRead s r none = { railOf s.power r with code := estimate (if r < 24 then s.power.vcl else s.power.vup) (railCounts s.dev r), valid := false, est := true } := if_pos hr
    rw [hp, railOf_fput, if_pos rfl, k1, k2, k3, hx]
    exact ⟨rfl, rfl, rfl⟩
  · obtain ⟨sens, he, hs⟩ := sampleSensors_heats s ts
    obtain ⟨h1, h2⟩ := dev_heated s sens
    obtain ⟨h4, h5⟩ := level_worst s sens
    refine ⟨heated s sens, congrArg Host.Outcome.next he, h1, h2, fun k x h => hs k x ?_ h, h4, h5, tripped_heated s sens, fun c hc h => cluster_limited s sens hc h⟩
    have := (List.getElem?_eq_some_iff.1 h).1
    omega
  · refine congrArg (fun p => Host.Outcome.next { s with power := p }) (show coolDown s.power c = _ from if_neg ?_)
    simp only [Bool.or_eq_true, decide_eq_true_eq]
    omega
  · exact congrArg (fun p => Host.Outcome.next { s with power := p }) (refit_eq hw hc hu)
  · refine ⟨{ s with power := setWeight s.power up j v }, rfl, rfl, ?_, fun k hk => ?_, ?_, fun h => clampWeight_within h v⟩
    · rw [setWeight_spec, hw]
      simp
    · rw [setWeight_spec]
      simp [hk]
    · cases up <;> rfl
  · exact event_to (f := fun d => requestGate d cl) rfl (requestGate_begins hg hi hs)
  · exact event_to (f := fun d => idleGate d cl) rfl ((idleGate_requests ht he).trans (requestGate_begins hg hi hs))
  · exact event_to (f := fun d => gateCheck d cl) rfl ((gateCheck_checks hg hs).trans (if_pos hk))
  · exact event_to (f := fun d => gateCheck d cl) rfl ((gateCheck_checks hg hs).trans (if_neg (by simp [hk])))

end Sys2Proof.Machine
end

section
/-! SUPPORT. What L2 has room for (R2, R286, R292): how lines that leave it and lines that are put in it keep within its tags and sectors. -/
namespace Sys2Proof.Machine

/-! ### Lists of lines -/

/-- A key removed is a key filtered out. -/
theorem fdel_eq_filter {β : Type} (m : FMap β) (k : Nat) : fdel m k = m.filter fun p => p.1 != k := by
  induction m with
  | nil => rfl
  | cons p t ih =>
    obtain ⟨a, b⟩ := p
    unfold fdel
    by_cases h : a = k <;> simp [h, ih]

/-- A part of a sorted list, in its order, is sorted. -/
theorem fsorted_sublist {β : Type} {m m' : FMap β} (h : fsorted m = true) (hs : m'.Sublist m) : fsorted m' = true := by
  induction hs with
  | slnil => exact h
  | cons p _ ih => exact ih ((fsorted_cons p.1 p.2 _).1 h).2
  | cons_cons p hs ih =>
    obtain ⟨ha, ht⟩ := (fsorted_cons p.1 p.2 _).1 h
    exact (fsorted_cons p.1 p.2 _).2 ⟨fun q hq => ha q (hs.subset hq), ih ht⟩

/-- The keys of a sorted list are distinct. -/
theorem nodup_keys {β : Type} {m : FMap β} (h : fsorted m = true) : (m.map Prod.fst).Nodup := by
  induction m with
  | nil => exact List.nodup_nil
  | cons p t ih =>
    obtain ⟨ha, ht⟩ := (fsorted_cons p.1 p.2 _).1 h
    refine List.nodup_cons.2 ⟨fun hp => ?_, ih ht⟩
    obtain ⟨q, hq, he⟩ := List.mem_map.1 hp
    exact absurd (ha q hq) (by omega)

/-- The superblocks that lines stand in. -/
def superblocksOf (m : FMap Line) : Finset Nat := (m.map fun p => p.1 / 4).toFinset

theorem mem_superblocksOf {m : FMap Line} {k : Nat} : k ∈ superblocksOf m ↔ ∃ p ∈ m, p.1 / 4 = k := by
  simp only [superblocksOf, List.mem_toFinset, List.mem_map]

theorem superblocksOf_cons (p : Nat × Line) (m : FMap Line) : superblocksOf (p :: m) = insert (p.1 / 4) (superblocksOf m) := by
  simp only [superblocksOf, List.map_cons, List.toFinset_cons]

theorem superblocksOf_mono {m m' : FMap Line} (h : ∀ p ∈ m', p ∈ m) : superblocksOf m' ⊆ superblocksOf m := by
  intro k hk
  obtain ⟨p, hp, he⟩ := mem_superblocksOf.1 hk
  exact mem_superblocksOf.2 ⟨p, h p hp, he⟩

/-- A step of the count of superblocks. -/
def blockStep (r : Nat × Option Nat) (p : Nat × Line) : Nat × Option Nat := if r.2 = some (p.1 / 4) then r else (r.1 + 1, some (p.1 / 4))

theorem foldl_blockStep {m : FMap Line} (hs : fsorted m = true) (n b : Nat) (hb : ∀ p ∈ m, b ≤ p.1 / 4) :
    (m.foldl blockStep (n, some b)).1 = n + ((superblocksOf m).erase b).card := by
  induction m generalizing n b with
  | nil => simp [superblocksOf]
  | cons p t ih =>
    obtain ⟨ha, ht⟩ := (fsorted_cons p.1 p.2 _).1 hs
    have hpt : ∀ q ∈ t, p.1 / 4 ≤ q.1 / 4 := fun q hq => Nat.div_le_div_right (ha q hq).le
    rw [List.foldl_cons, superblocksOf_cons]
    by_cases he : b = p.1 / 4
    · rw [show blockStep (n, some b) p = (n, some b) from if_pos (congrArg some he), ih ht n b fun q hq => hb q (List.mem_cons_of_mem _ hq), ← he,
        Finset.erase_insert_eq_erase]
    · have hlt : b < p.1 / 4 := lt_of_le_of_ne (hb p (List.mem_cons_self ..)) he
      have hnot : b ∉ insert (p.1 / 4) (superblocksOf t) := by
        rw [Finset.mem_insert, mem_superblocksOf]
        rintro (h | ⟨q, hq, h⟩)
        · exact he h
        · exact absurd (hpt q hq) (by omega)
      rw [show blockStep (n, some b) p = (n + 1, some (p.1 / 4)) from if_neg fun h => he (Option.some.inj h), ih ht _ _ hpt, Finset.erase_eq_of_notMem hnot,
        ← Finset.insert_erase (Finset.mem_insert_self (p.1 / 4) (superblocksOf t)), Finset.card_insert_of_notMem (Finset.notMem_erase _ _),
        Finset.erase_insert_eq_erase]
      omega

/-- The tags that sorted lines take are their superblocks. -/
theorem superblocks_eq {m : FMap Line} (hs : fsorted m = true) : superblocks m = (superblocksOf m).card := by
  cases m with
  | nil => rfl
  | cons p t =>
    obtain ⟨ha, ht⟩ := (fsorted_cons p.1 p.2 _).1 hs
    have h := foldl_blockStep ht 1 (p.1 / 4) fun q hq => Nat.div_le_div_right (ha q hq).le
    rw [superblocksOf_cons, ← Finset.insert_erase (Finset.mem_insert_self (p.1 / 4) (superblocksOf t)), Finset.card_insert_of_notMem (Finset.notMem_erase _ _),
      Finset.erase_insert_eq_erase, Nat.add_comm, ← h]
    rfl

/-- Fewer lines take no more tags. -/
theorem superblocks_mono {m m' : FMap Line} (hs : fsorted m = true) (h : m'.Sublist m) : superblocks m' ≤ superblocks m := by
  rw [superblocks_eq hs, superblocks_eq (fsorted_sublist hs h)]
  exact Finset.card_le_card (superblocksOf_mono fun p hp => h.subset hp)

/-- Lines take no more tags than there are of them. -/
theorem superblocks_le {m : FMap Line} (hs : fsorted m = true) : superblocks m ≤ m.length := by
  rw [superblocks_eq hs]
  exact (List.toFinset_card_le _).trans (List.length_map ..).le

theorem sectorsIn_eq (m : FMap Line) : sectorsIn m = (m.map fun p => p.2.sects).sum := by
  have h : ∀ n, m.foldl (fun n p => n + p.2.sects) n = n + (m.map fun p => p.2.sects).sum := by
    induction m with
    | nil => intro n; rfl
    | cons p t ih => intro n; rw [List.foldl_cons, ih, List.map_cons, List.sum_cons, Nat.add_assoc]
  rw [sectorsIn, h, Nat.zero_add]

theorem sectorsIn_cons (p : Nat × Line) (m : FMap Line) : sectorsIn (p :: m) = p.2.sects + sectorsIn m := by
  simp only [sectorsIn_eq, List.map_cons, List.sum_cons]

/-- Fewer lines take no more sectors. -/
theorem sectorsIn_mono {m m' : FMap Line} (h : m'.Sublist m) : sectorsIn m' ≤ sectorsIn m := by
  rw [sectorsIn_eq, sectorsIn_eq]
  exact (h.map _).sum_le_sum fun _ _ => Nat.zero_le _

/-- No key above a bound is the bound. -/
theorem filter_ne_above {k : Nat} {m : FMap Line} (h : keysAbove k m) : m.filter (fun p => p.1 != k) = m :=
  List.filter_eq_self.2 fun p hp => by
    have := h p hp
    simp
    omega

/-- The sectors of sorted lines after one is put among them. -/
theorem sectorsIn_fput {m : FMap Line} (hs : fsorted m = true) (k : Nat) (v : Line) :
    sectorsIn (fput m k v) = sectorsIn (m.filter fun p => p.1 != k) + v.sects := by
  induction m with
  | nil => simp [fput, sectorsIn]
  | cons p t ih =>
    obtain ⟨a, b⟩ := p
    obtain ⟨ha, ht⟩ := (fsorted_cons a b t).1 hs
    unfold fput
    split
    · next h =>
      rw [filter_ne_above (m := (a, b) :: t) (by
        intro q hq
        rcases List.mem_cons.1 hq with rfl | hq
        · exact h
        · exact h.trans (ha q hq)), sectorsIn_cons, Nat.add_comm]
    · split
      · next h =>
        subst h
        rw [List.filter_cons_of_neg (by simp), filter_ne_above ha, sectorsIn_cons, Nat.add_comm]
      · next h =>
        rw [List.filter_cons_of_pos (by simp; omega), sectorsIn_cons, sectorsIn_cons, ih ht, Nat.add_assoc]

/-- A line's slice is that of its superblock. -/
theorem sliceOf_congr {ln ln' : Nat} (h : ln / 4 = ln' / 4) : sliceOf ln = sliceOf ln' := by unfold sliceOf; rw [h]

/-- The lines of a slice after a line of the slice is put in L2. -/
theorem filter_fput {β : Type} {m : FMap β} (hs : fsorted m = true) (k : Nat) (v : β) {q : Nat → Bool} (hq : q k = true) :
    (fput m k v).filter (fun p => q p.1) = fput (m.filter fun p => q p.1) k v := by
  have above : ∀ {m : FMap β}, keysAbove k m → fput m k v = (k, v) :: m := by
    intro m hm
    cases m with
    | nil => rfl
    | cons p t => rw [fput, if_pos (hm p (List.mem_cons_self ..))]
  have part : ∀ {m : FMap β}, keysAbove k m → keysAbove k (m.filter fun p => q p.1) := fun hm p hp => hm p (List.mem_of_mem_filter hp)
  induction m with
  | nil => simp [fput, hq]
  | cons p t ih =>
    obtain ⟨a, b⟩ := p
    obtain ⟨ha, ht⟩ := (fsorted_cons a b t).1 hs
    rcases Nat.lt_trichotomy k a with h | h | h
    · have hk : keysAbove k ((a, b) :: t) := by
        intro p hp
        rcases List.mem_cons.1 hp with rfl | hp
        · exact h
        · exact h.trans (ha p hp)
      rw [above hk, above (part hk)]
      simp [hq]
    · subst h
      simp [hq, fput]
    · have hp : ∀ m : FMap β, fput ((a, b) :: m) k v = (a, b) :: fput m k v := fun m => by rw [fput, if_neg (by omega), if_neg (by omega)]
      cases hqa : q a
      · simp [hqa, hp, ih ht]
      · simp [hqa, hp, ih ht]

/-- The lines of a slice after a line of another is put in L2. -/
theorem filter_fput_out {β : Type} (m : FMap β) (k : Nat) (v : β) {q : Nat → Bool} (hq : q k = false) :
    (fput m k v).filter (fun p => q p.1) = m.filter fun p => q p.1 := by
  induction m with
  | nil => simp [fput, hq]
  | cons p t ih =>
    obtain ⟨a, b⟩ := p
    unfold fput
    split
    · rw [List.filter_cons_of_neg (by simp [hq])]
    · split
      · next h =>
        subst h
        rw [List.filter_cons_of_neg (by simp [hq]), List.filter_cons_of_neg (by simp [hq])]
      · rw [List.filter_cons, ih, List.filter_cons]

/-! ### L2's capacity -/

/-- L2 keeps within its capacity where lines leave it. -/
theorem Dev.l2Legal.sub {d d' : Dev} (h : d.l2Legal) (hs : d'.l2.Sublist d.l2) : d'.l2Legal := by
  obtain ⟨sorted, sects, tags, sectors⟩ := h
  have hf : ∀ ln, (sliceLines d' ln).Sublist (sliceLines d ln) := fun ln => hs.filter _
  exact ⟨fsorted_sublist sorted hs, fun p hp => sects p (hs.subset hp),
    fun ln => (superblocks_mono (fsorted_sublist sorted List.filter_sublist) (hf ln)).trans (tags ln), fun ln => (sectorsIn_mono (hf ln)).trans (sectors ln)⟩

theorem Dev.l2Legal.of_eq {d d' : Dev} (h : d.l2Legal) (he : d'.l2 = d.l2) : d'.l2Legal := h.sub (by rw [he])

/-- An empty L2 is within its capacity. -/
theorem l2Legal_nil {d : Dev} (h : d.l2 = []) : d.l2Legal := by
  have hs : ∀ ln, sliceLines d ln = [] := fun ln => by rw [sliceLines, h, List.filter_nil]
  refine ⟨by rw [h]; rfl, ?_, fun ln => ?_, fun ln => ?_⟩
  · rw [h]
    exact fun p hp => nomatch hp
  · rw [hs]
    decide
  · rw [hs]
    decide

/-- A line whose superblock or whose tag and whose sectors there is room for keeps L2 within its capacity. -/
theorem Dev.l2Legal.put {d d' : Dev} {ln : Nat} {l : Line} (h : d.l2Legal) (hl : l.sects ≤ 4) (hr : l2Room d ln l.sects = true)
    (he : d'.l2 = fput d.l2 ln l) : d'.l2Legal := by
  obtain ⟨sorted, sects, tags, sectors⟩ := h
  have hsorted : ∀ ln, fsorted (sliceLines d ln) = true := fun ln => fsorted_sublist sorted List.filter_sublist
  have hsorted' : ∀ ln', fsorted (sliceLines d' ln') = true := fun ln' => fsorted_sublist (he ▸ fsorted_fput ln l sorted) List.filter_sublist
  have hlen : ∀ ln', (sliceLines d ln').length ≤ d.l2.length := fun ln' => List.length_filter_le ..
  have hin : ∀ {ln'}, sliceOf ln = sliceOf ln' → sliceLines d' ln' = fput (sliceLines d ln') ln l := fun {ln'} hq => by
    rw [sliceLines, he, sliceLines]
    exact filter_fput sorted ln l (q := fun k => sliceOf k == sliceOf ln') (beq_iff_eq.2 hq)
  have hout : ∀ {ln'}, sliceOf ln ≠ sliceOf ln' → sliceLines d' ln' = sliceLines d ln' := fun {ln'} hq => by
    rw [sliceLines, he, sliceLines]
    exact filter_fput_out d.l2 ln l (q := fun k => sliceOf k == sliceOf ln') (beq_eq_false_iff_ne.2 hq)
  have hsame : ∀ {ln'}, sliceOf ln = sliceOf ln' → sliceLines d ln' = sliceLines d ln := fun {ln'} hq => by simp only [sliceLines, hq]
  have hsects : ∀ p ∈ d'.l2, p.2.sects ≤ 4 := fun p hp => by
    rw [he] at hp
    rcases fput_mem hp with rfl | hp
    · exact hl
    · exact sects p hp
  refine ⟨he ▸ fsorted_fput ln l sorted, hsects, fun ln' => ?_, fun ln' => ?_⟩
  · by_cases hq : sliceOf ln = sliceOf ln'
    · have hsub : superblocksOf (sliceLines d' ln') ⊆ insert (ln / 4) (superblocksOf (sliceLines d ln)) := by
        intro k hk
        obtain ⟨p, hp, hpk⟩ := mem_superblocksOf.1 hk
        rw [hin hq, hsame hq] at hp
        rcases fput_mem hp with rfl | hp
        · exact hpk ▸ Finset.mem_insert_self ..
        · exact Finset.mem_insert_of_mem (mem_superblocksOf.2 ⟨p, hp, hpk⟩)
      rw [superblocks_eq (hsorted' ln')]
      refine (Finset.card_le_card hsub).trans ?_
      have htags := tags ln
      rw [superblocks_eq (hsorted ln)] at htags
      rcases l2Room_iff.1 hr with ⟨hn, -⟩ | ⟨hn | hany, -⟩
      · have hle := superblocks_le (hsorted ln)
        rw [superblocks_eq (hsorted ln)] at hle
        have := hlen ln
        unfold sliceTags at hn
        exact (Finset.card_insert_le _ _).trans (by omega)
      · rw [superblocks_eq (hsorted ln)] at hn
        unfold sliceTags at hn
        exact (Finset.card_insert_le _ _).trans (by omega)
      · obtain ⟨p, hp, hpk⟩ := List.any_eq_true.1 hany
        have hpk : p.1 / 4 = ln / 4 := beq_iff_eq.1 hpk
        have hmem : ln / 4 ∈ superblocksOf (sliceLines d ln) := mem_superblocksOf.2 ⟨p, List.mem_filter.2 ⟨hp, beq_iff_eq.2 (sliceOf_congr hpk)⟩, hpk⟩
        rw [Finset.insert_eq_self.2 hmem]
        exact htags
    · rw [hout hq]
      exact tags ln'
  · by_cases hq : sliceOf ln = sliceOf ln'
    · have hle := sectorsIn_le (m := (sliceLines d ln).filter fun p => p.1 != ln) fun p hp =>
        sects p (List.mem_of_mem_filter (List.mem_of_mem_filter hp))
      have hlf := List.length_filter_le (fun p : Nat × Line => p.1 != ln) (sliceLines d ln)
      have hl' := hlen ln
      rw [hin hq, hsame hq, sectorsIn_fput (hsorted ln)]
      rcases l2Room_iff.1 hr with ⟨hn, -⟩ | ⟨-, hn⟩
      · unfold sliceTags at hn
        omega
      · exact hn
    · rw [hout hq]
      exact sectors ln'

/-- A line that L2 holds has room there. -/
theorem l2Room_held {d : Dev} {ln : Nat} {l : Line} (h : d.l2Legal) (hl : fget d.l2 ln = some l) : l2Room d ln l.sects = true := by
  obtain ⟨sorted, -, -, sectors⟩ := h
  have hmem : (ln, l) ∈ d.l2 := mem_of_fget hl
  refine l2Room_iff.2 (.inr ⟨.inr (List.any_eq_true.2 ⟨(ln, l), hmem, beq_self_eq_true _⟩), ?_⟩)
  have hput : ∀ {m : FMap Line}, fsorted m = true → (ln, l) ∈ m → fput m ln l = m := by
    intro m hm hin
    induction m with
    | nil => exact nomatch hin
    | cons p t ih =>
      obtain ⟨ha, ht⟩ := (fsorted_cons p.1 p.2 _).1 hm
      rcases List.mem_cons.1 hin with rfl | hin
      · rw [fput, if_neg (lt_irrefl _), if_pos rfl]
      · have := ha _ hin
        rw [fput, if_neg (by omega), if_neg (by omega), ih ht hin]
  have hslice : (ln, l) ∈ sliceLines d ln := List.mem_filter.2 ⟨hmem, beq_self_eq_true _⟩
  have hs : fsorted (sliceLines d ln) = true := fsorted_sublist sorted List.filter_sublist
  rw [← sectorsIn_fput hs, hput hs hslice]
  exact sectors ln

/-- A line that leaves makes room for every other. -/
theorem l2Room_sub {d d' : Dev} {ln n k : Nat} (h : d.l2Legal) (hr : l2Room d ln n = true) (he : d'.l2 = d.l2.filter fun p => p.1 != k) :
    l2Room d' ln n = true := by
  obtain ⟨sorted, -, tags, -⟩ := h
  have hs : d'.l2.Sublist d.l2 := he ▸ List.filter_sublist
  have hf : (sliceLines d' ln).Sublist (sliceLines d ln) := hs.filter _
  have hslice : fsorted (sliceLines d ln) = true := fsorted_sublist sorted List.filter_sublist
  rcases l2Room_iff.1 hr with ⟨h1, h2⟩ | ⟨h1, h2⟩
  · exact l2Room_iff.2 (.inl ⟨lt_of_le_of_lt hs.length_le h1, h2⟩)
  · refine l2Room_iff.2 (.inr ⟨?_, (Nat.add_le_add_right (sectorsIn_mono (hf.filter _)) n).trans h2⟩)
    rcases h1 with h1 | h1
    · exact .inl (lt_of_le_of_lt (superblocks_mono hslice hf) h1)
    · by_cases hany : (d'.l2.any fun p => p.1 / 4 == ln / 4) = true
      · exact .inr hany
      · refine .inl (lt_of_lt_of_le ?_ (tags ln))
        obtain ⟨p, hp, hpk⟩ := List.any_eq_true.1 h1
        have hpk : p.1 / 4 = ln / 4 := beq_iff_eq.1 hpk
        rw [superblocks_eq hslice, superblocks_eq (fsorted_sublist hslice hf)]
        refine Finset.card_lt_card ⟨superblocksOf_mono fun q hq => hf.subset hq, fun hsub => hany ?_⟩
        obtain ⟨q, hq, hqk⟩ := mem_superblocksOf.1 (hsub (mem_superblocksOf.2 ⟨p, List.mem_filter.2 ⟨hp, beq_iff_eq.2 (sliceOf_congr hpk)⟩, rfl⟩))
        exact List.any_eq_true.2 ⟨q, List.mem_of_mem_filter hq, beq_iff_eq.2 (hqk.trans hpk)⟩

/-! ### What is done to L2 -/

/-- A line that is cleaned leaves. -/
theorem l2_l2CleanLine (d : Dev) (ln : Nat) : (l2CleanLine d ln).l2 = d.l2.filter fun p => p.1 != ln := by
  unfold l2CleanLine
  split
  · exact fdel_eq_filter ..
  · next h =>
    refine (List.filter_eq_self.2 fun p hp => ?_).symm
    simp only [bne_iff_ne, ne_eq]
    rintro rfl
    exact absurd h (by
      have : (fget d.l2 p.1).isSome = true := (mem_fkeys d.l2 p.1).1 (List.mem_map.2 ⟨p, hp, rfl⟩)
      intro hn
      rw [hn] at this
      cases this)

theorem Dev.l2Legal.l2CleanLine {d : Dev} (h : d.l2Legal) (ln : Nat) : (l2CleanLine d ln).l2Legal := h.sub (by rw [l2_l2CleanLine]; exact List.filter_sublist)

/-- A superblock that leaves takes its lines with it, and none comes. -/
theorem sublist_l2Evict (d : Dev) (k : Nat) : (l2Evict d k).l2.Sublist d.l2 := by
  refine List.foldlRecOn (motive := fun e : Dev => e.l2.Sublist d.l2) _ _ (List.Sublist.refl _) fun e he i _ => ?_
  rw [l2_l2CleanLine]
  exact List.filter_sublist.trans he

/-- A line whose superblock leaves is gone. -/
theorem notMem_l2Evict (d : Dev) (v : Nat) : ∀ p ∈ (l2Evict d (v / 4)).l2, p.1 ≠ v := by
  have h : ∀ (l : List Nat) (e : Dev), v % 4 ∈ l ∨ (∀ p ∈ e.l2, p.1 ≠ v) →
      ∀ p ∈ (l.foldl (fun d i => Machine.l2CleanLine d (v / 4 * 4 + i)) e).l2, p.1 ≠ v := by
    intro l
    induction l with
    | nil => exact fun e he => he.resolve_left List.not_mem_nil
    | cons i l ih =>
      refine fun e he => ih _ ?_
      rw [l2_l2CleanLine]
      rcases he with he | he
      · rcases List.mem_cons.1 he with he | he
        · refine .inr fun p hp hpv => ?_
          have := (List.mem_filter.1 hp).2
          simp only [bne_iff_ne] at this
          omega
        · exact .inl he
      · exact .inr fun p hp => he p (List.mem_of_mem_filter hp)
  exact h (upto 4) d (.inl (List.mem_range.2 (Nat.mod_lt _ (by decide))))

/-- Where a slice holds lines of the line's own superblock alone, it has room. -/
theorem l2Room_alone {d : Dev} {ln n : Nat} (h : d.l2Legal) (hn : n ≤ 4) (ha : ∀ p ∈ sliceLines d ln, p.1 / 4 = ln / 4) : l2Room d ln n = true := by
  obtain ⟨sorted, sects, -, -⟩ := h
  have hs : fsorted (sliceLines d ln) = true := fsorted_sublist sorted List.filter_sublist
  have hlen : (sliceLines d ln).length ≤ 4 := by
    rw [← List.length_map Prod.fst, ← List.toFinset_card_of_nodup (nodup_keys hs)]
    refine (Finset.card_le_card (t := Finset.Ico (ln / 4 * 4) (ln / 4 * 4 + 4)) fun k hk => ?_).trans (by simp)
    obtain ⟨p, hp, rfl⟩ := List.mem_map.1 (List.mem_toFinset.1 hk)
    have := ha p hp
    rw [Finset.mem_Ico]
    omega
  have hsect := sectorsIn_le (m := (sliceLines d ln).filter fun p => p.1 != ln) fun p hp =>
    sects p (List.mem_of_mem_filter (List.mem_of_mem_filter hp))
  have hlf := List.length_filter_le (fun p : Nat × Line => p.1 != ln) (sliceLines d ln)
  have hsb := superblocks_le hs
  refine l2Room_iff.2 (.inr ⟨.inl ?_, ?_⟩)
  · unfold sliceTags
    omega
  · unfold sliceSectors
    omega

/-- L2 has room for a line once it has been made, and keeps within its capacity (R292). -/
theorem l2Make_makes {d : Dev} (h : d.l2Legal) (ln : Nat) {n : Nat} (hn : n ≤ 4) : (l2Make d ln n).l2Legal ∧ l2Room (l2Make d ln n) ln n = true := by
  have hk : ∀ (k : Nat) (d : Dev), d.l2Legal → d.l2.length ≤ k → (l2MakeFuel k d ln n).l2Legal ∧ l2Room (l2MakeFuel k d ln n) ln n = true := by
    intro k
    induction k with
    | zero =>
      refine fun d hd hlen => ⟨hd, l2Room_iff.2 (.inl ⟨?_, hn⟩)⟩
      show d.l2.length < sliceTags
      unfold sliceTags
      omega
    | succ k ih =>
      intro d hd hlen
      unfold l2MakeFuel
      by_cases hr : l2Room d ln n = true
      · rw [if_pos hr]
        exact ⟨hd, hr⟩
      · rw [if_neg hr]
        dsimp only
        cases hv : ((sliceLines d ln).filter fun p => p.1 / 4 != ln / 4)[Config.pick d.tick ln ((sliceLines d ln).filter fun p => p.1 / 4 != ln / 4).length %
            ((sliceLines d ln).filter fun p => p.1 / 4 != ln / 4).length]? with
        | none =>
          refine absurd (l2Room_alone hd hn fun p hp => ?_) hr
          by_contra hne
          have hpos := List.length_pos_of_mem (List.mem_filter (p := fun p : Nat × Line => p.1 / 4 != ln / 4).2 ⟨hp, bne_iff_ne.2 hne⟩)
          exact absurd (List.getElem?_eq_none_iff.1 hv) (not_le.2 (Nat.mod_lt _ hpos))
        | some p =>
          have hp : p ∈ d.l2 := List.mem_of_mem_filter (List.mem_of_mem_filter (List.mem_of_getElem? hv))
          have hsub := sublist_l2Evict d (p.1 / 4)
          refine ih _ (hd.sub hsub) (Nat.le_of_lt_succ (lt_of_lt_of_le (lt_of_le_of_ne hsub.length_le fun he => ?_) hlen))
          have := hsub.eq_of_length he
          exact notMem_l2Evict d p.1 p (this ▸ hp) rfl
  exact hk _ d h le_rfl

theorem Dev.l2Legal.l2Put {d : Dev} (h : d.l2Legal) (a : Nat) (b : Byte) : (l2Put d a b).l2Legal := by
  obtain ⟨hl, hr⟩ := l2Make_makes h (lineOf a) (sectorsOf_le (lineSet (l2LineData d (lineOf a)) (a % 128) b))
  unfold Machine.l2Put
  exact hl.put (sectorsOf_le _) hr rfl

theorem Dev.l2Legal.l2Write {d : Dev} (h : d.l2Legal) (a : Nat) (b : Byte) : (l2Write d a b).l2Legal := (h.l2Put a b).of_eq rfl

theorem Dev.l2Legal.sysWrite {d : Dev} (h : d.l2Legal) (a : Nat) (b : Byte) : (sysWrite d a b).l2Legal := by
  unfold Machine.sysWrite sysPut
  dsimp only
  split
  · next l hl =>
    split
    · exact h.sub (show (fdel d.l2 (lineOf a)).Sublist d.l2 from fdel_eq_filter d.l2 _ ▸ List.filter_sublist)
    · have hr : l2Room d (lineOf a) l.sects = true := l2Room_held h hl
      exact h.put (l := { l with dirty := l.dirty &&& ~~~(bitAt (a % 128)) }) (h.sects _ (mem_of_fget hl)) hr rfl
  · exact h.of_eq rfl

theorem Dev.l2Legal.l1WriteBack {d : Dev} (h : d.l2Legal) (set ln : Nat) : (l1WriteBack d set ln).l2Legal := by
  unfold Machine.l1WriteBack
  split
  · next l _ =>
    refine (List.foldlRecOn (motive := Dev.l2Legal) _ _ h fun e he i _ => ?_ : Dev.l2Legal _).of_eq rfl
    split
    · exact he.l2Write _ _
    · exact he
  · exact h

end Sys2Proof.Machine
end

section
/-! SUPPORT. What register writes, the mailbox, resets, host and peer accesses and found errors do, and O57. -/
namespace Sys2Proof.Machine

/-! ### Registers -/

/-- A rail's own word of the block writes its ILIM and nothing else. -/
theorem writeBlock_rail (p : Power) (r x : Nat) (hr : r < 51) :
    writeBlock p (8 * r) x = { p with rails := fput p.rails r { railOf p r with ilim := nbits x 16 10 } } := by
  unfold writeBlock
  rw [if_neg (by omega), if_pos (by omega), if_pos (by omega), Nat.mul_div_cancel_left r (by decide : 0 < 8)]

/-- The bits 25 to 16 of a value's low word are those of the value. -/
theorem nbits_low_word (x : DWord) : nbits (x.toNat % 4294967296) 16 10 = (x.extractLsb' 16 10).toNat := by
  simp only [nbits, BitVec.extractLsb'_toNat, Nat.shiftRight_eq_div_pow]
  omega

/-- A write of a rail's word takes its ILIM. -/
theorem registerWrite_block (s : State) (r : Nat) (x : DWord) (hr : r < 51) :
    ∃ t, exec (.registerWrite (.block (8 * r)) x) s = .next t ∧ t.dev = s.dev ∧ t.trust = s.trust ∧
      (railOf t.power r).ilim = (x.extractLsb' 16 10).toNat ∧ (railOf t.power r).step = (railOf s.power r).step ∧
      (∀ k, k ≠ r → railOf t.power k = railOf s.power k) ∧ t.power.clu = s.power.clu := by
  refine ⟨{ s with power := writeBlock s.power (8 * r) (x.toNat % 4294967296) }, rfl, rfl, rfl, ?_⟩
  rw [writeBlock_rail _ _ _ hr, nbits_low_word]
  refine ⟨?_, ?_, fun k hk => ?_, rfl⟩
  · rw [railOf_fput, if_pos rfl]
  · rw [railOf_fput, if_pos rfl]
  · rw [railOf_fput, if_neg hk]

/-! ### The mailbox -/

/-- A doorbell of an idle mailbox rings, acts and answers. -/
theorem doorbell_idle {code : Nat} {args : List Nat} {f : Dev → Dev × Nat} {d : Dev} (h : d.host.busy = false) :
    doorbell code args f d = answered (f (rung d code args)).1 (f (rung d code args)).2 := by
  unfold doorbell
  rw [if_neg (by simp [h])]
  rfl

/-- A doorbell of a busy mailbox is ignored. -/
theorem doorbell_busy {code : Nat} {args : List Nat} {f : Dev → Dev × Nat} {d : Dev} (h : d.host.busy = true) :
    doorbell code args f d = answered d 1 := by
  unfold doorbell
  rw [if_pos h]
  rfl

/-- A doorbell's row of an idle mailbox. -/
theorem rings {i : Instr} {s : State} {code : Nat} {args : List Nat} {f : Dev → Dev × Nat} {d : Dev} {r : Nat}
    (he : exec i s = onDev (doorbell code args f) s) (h : s.dev.host.busy = false) (hf : f (rung s.dev code args) = (d, r)) :
    exec i s = .next { s with dev := answered d r } := by
  rw [he, onDev, doorbell_idle h, hf]

/-- A command on a cluster that exists acts. -/
theorem onCluster_in {c : Nat} (f : Dev → Dev) (d : Dev) (h : c ≤ 23) : onCluster c f d = (f d, 0) := if_neg (by omega)

/-- A command on no cluster answers 3. -/
theorem onCluster_out {c : Nat} (f : Dev → Dev) (d : Dev) (h : 23 < c) : onCluster c f d = (d, 3) := if_pos h

/-- A command on an item in range acts. -/
theorem onItem_in {e q : Nat} {seq : BitVec 32} {f : Dev → Nat → Dev} {d : Dev} {i : Nat}
    (ha : e < d.host.astN.toNat) (he : e < 4096) (hq : q < 256) (hi : itemNamed d e q seq = some i) : onItem e q seq f d = (f d i, 0) := by
  have h : ¬ (decide (d.host.astN.toNat ≤ e) || decide (4096 ≤ e) || decide (256 ≤ q)) = true := by simp; omega
  rw [onItem, if_neg h, hi]

/-- A command on no item answers 3 out of range and 2 in it. -/
theorem onItem_none {e q : Nat} {seq : BitVec 32} {f : Dev → Nat → Dev} {d : Dev} {r : Nat}
    (hr : r = if d.host.astN.toNat ≤ e ∨ 4096 ≤ e ∨ 256 ≤ q then 3 else 2) (hi : r = 2 → itemNamed d e q seq = none) :
    onItem e q seq f d = (d, r) := by
  by_cases h : d.host.astN.toNat ≤ e ∨ 4096 ≤ e ∨ 256 ≤ q
  · rw [if_pos h] at hr
    rw [onItem, if_pos (by simpa [or_assoc] using h), hr]
  · rw [if_neg h] at hr
    rw [onItem, if_neg (by simpa [or_assoc] using h), hi hr, hr]

/-- What the mailbox does to a command for a cluster. -/
theorem mailbox_cluster (s : State) (c : Nat) (hb : s.dev.host.busy = false) :
    (c ≤ 23 →
      exec (.mailboxReadRing c) s = .next { s with dev := answered (readRing c (rung s.dev 1 [c])) 0 } ∧
      exec (.mailboxClearFrozen c) s = .next { s with dev := answered (setCluster (rung s.dev 2 [c]) c fun k => { k with frozen := false }) 0 } ∧
      exec (.mailboxClusterReset c) s = .next { s with dev := answered (clusterReset c (rung s.dev 6 [c])) 0 }) ∧
    (23 < c →
      exec (.mailboxReadRing c) s = .next { s with dev := answered (rung s.dev 1 [c]) 3 } ∧ exec (.mailboxClearFrozen c) s = .next { s with dev := answered (rung s.dev 2 [c]) 3 } ∧
      exec (.mailboxClusterReset c) s = .next { s with dev := answered (rung s.dev 6 [c]) 3 }) :=
  ⟨fun h => ⟨rings rfl hb (onCluster_in _ _ h), rings rfl hb (onCluster_in _ _ h), rings rfl hb (onCluster_in _ _ h)⟩,
    fun h => ⟨rings rfl hb (onCluster_out _ _ h), rings rfl hb (onCluster_out _ _ h), rings rfl hb (onCluster_out _ _ h)⟩⟩

/-- A doorbell's row of a busy mailbox. -/
theorem rings_busy {i : Instr} {s : State} {code : Nat} {args : List Nat} {f : Dev → Dev × Nat}
    (he : exec i s = onDev (doorbell code args f) s) (h : s.dev.host.busy = true) : exec i s = .next { s with dev := answered s.dev 1 } := by
  rw [he, onDev, doorbell_busy h]

/-- Every command of a busy mailbox is ignored. -/
theorem mailbox_busy (s : State) (i : Instr) (hb : s.dev.host.busy = true)
    (hi : (∃ c, i = .mailboxReadRing c ∨ i = .mailboxClearFrozen c ∨ i = .mailboxClusterReset c) ∨
      (∃ a q n, i = .mailboxPreempt a q n ∨ i = .mailboxResume a q n ∨ i = .mailboxKill a q n) ∨
      i = .mailboxDeviceReset ∨ i = .mailboxAttestation) : exec i s = .next { s with dev := answered s.dev 1 } := by
  obtain ⟨c, rfl | rfl | rfl⟩ | ⟨a, q, n, rfl | rfl | rfl⟩ | rfl | rfl := hi
  · exact rings_busy rfl hb
  · exact rings_busy rfl hb
  · exact rings_busy rfl hb
  · exact rings_busy rfl hb
  · exact rings_busy rfl hb
  · exact rings_busy rfl hb
  · have h : exec .mailboxDeviceReset s =
        .next (if s.dev.host.busy then { s with dev := doorbell 7 [] (fun dv => (dv, 0)) s.dev } else resetAll s) := rfl
    rw [h, if_pos hb, doorbell_busy hb]
  · have h : exec .mailboxAttestation s = .next (attest s) := rfl
    rw [h, attest, doorbell_busy hb]

/-- The four measurements, one behind the other. -/
theorem measures_eq (t : Trust) : measures t = natLe t.m0.toNat 64 ++ natLe t.m1.toNat 64 ++ natLe t.m2.toNat 64 ++ natLe t.m3.toNat 64 := by
  simp only [measures, List.flatMap_cons, List.flatMap_nil, List.append_nil, List.append_assoc]

/-- What a report fills PAYLOAD with. -/
def reportOf (body : List Byte) : List Byte := body ++ (upto 4627).map (Config.signature body) ++ Config.certificates

theorem reportOf_eq (body : List Byte) : body ++ (upto 4627).map (Config.signature body) ++ Config.certificates = reportOf body := rfl

/-- An attestation fills PAYLOAD with its report. -/
theorem attest_eq (s : State) (hb : s.dev.host.busy = false) :
    attest s = { s with dev := answered { rung s.dev 8 [] with host := { (rung s.dev 8 []).host with
      payload := payloadPut s.dev.host.payload 0 (reportOf (reportBody s)) } } 0 } := by
  rw [attest, doorbell_idle hb]
  rfl

/-! ### Resets and the loss of power -/

/-- The reset sequence, by what the images' check gives. -/
theorem resetAll_eq (s : State) {ok : Bool} (h : firmwareOk s.dev.tick = ok) : resetAll s =
    { dev := setCaps (!ok) (devReset s.dev), power := powerReset, trust := { trustAt s.dev.tick with inReset := !ok, failed := !ok } } := by
  unfold resetAll
  rw [h]

/-- What the reset sequence leaves. -/
theorem resetAll_leaves (s : State) :
    (resetAll s).dev.mem = s.dev.mem ∧ (resetAll s).dev.poison = s.dev.poison ∧ (resetAll s).dev.l2 = [] ∧ (resetAll s).dev.scratch = [] ∧
      (resetAll s).dev.squads = [] ∧ (resetAll s).dev.groups = [] ∧ (resetAll s).dev.queues = [] ∧ (resetAll s).power = powerReset ∧
      (resetAll s).trust.power = true ∧ (resetAll s).trust.inReset = (!firmwareOk s.dev.tick) ∧
      (resetAll s).dev.host.caps = (if firmwareOk s.dev.tick then [1, 2, 3, 4, 5, 6] else [1]) ∧
      (resetAll s).trust.m0 = Sha3.sha3 (Config.image s.dev.tick 0).code ∧
      ∀ c, (fget s.dev.clusters c).isSome = true → (clusterOf (resetAll s).dev c).ring = (clusterOf s.dev c).ring ∧
        (clusterOf (resetAll s).dev c).frozen = (clusterOf s.dev c).frozen := by
  generalize hok : firmwareOk s.dev.tick = ok
  rw [resetAll_eq s hok]
  refine ⟨rfl, rfl, rfl, rfl, rfl, rfl, rfl, rfl, rfl, rfl, ?_, rfl, fun c hc => ?_⟩
  · show (if (!ok) = true then [1] else capIds) = _
    cases ok <;> rfl
  · obtain ⟨k, hk⟩ := Option.isSome_iff_exists.1 hc
    have h : clusterOf (setCaps (!ok) (devReset s.dev)) c = keepRing k := by
      show fgetD (s.dev.clusters.map fun p => (p.1, keepRing p.2)) c {} = _
      rw [fgetD, fget_map, hk]
      rfl
    have h' : clusterOf s.dev c = k := by rw [clusterOf, fgetD, hk]; rfl
    rw [h, h']
    exact ⟨rfl, rfl⟩

/-- A reset runs from either row. -/
theorem exec_reset {s : State} {i : Instr} (hi : i = .deviceReset ∨ i = .mailboxDeviceReset ∧ s.dev.host.busy = false) : exec i s = .next (resetAll s) := by
  rcases hi with rfl | ⟨rfl, hb⟩
  · rfl
  · have h : exec .mailboxDeviceReset s =
        .next (if s.dev.host.busy then { s with dev := doorbell 7 [] (fun dv => (dv, 0)) s.dev } else resetAll s) := rfl
    rw [h, if_neg (by simp [hb])]

theorem memRead_eq (m : List Host.Cell) {a : Nat} (ha : noMemory a = false) : memRead m a = fgetD m a memDefault := if_neg (by simp [ha])

/-- Of memory, the host's part outlasts a loss of power. -/
theorem memRead_host_part (m : List Host.Cell) {a : Nat} (ha : noMemory a = false) :
    memRead (m.filter fun c => decide (hostBase ≤ c.1)) a = if hostBase ≤ a then memRead m a else memDefault := by
  have hf := fget_filter (fun k => decide (hostBase ≤ k)) m a
  rw [memRead_eq _ ha, memRead_eq _ ha, fgetD, hf]
  by_cases h : hostBase ≤ a
  · rw [if_pos (by simpa using h), if_pos h]
    rfl
  · rw [if_neg (by simpa using h), if_neg h]
    rfl

/-! ### Accesses of the host -/

/-- What the host acquires changes the host's record alone. -/
theorem outsideRead_host (d : Dev) (a n : Nat) : ∃ h, outsideRead d a n = { d with host := h } ∧ h.read = d.host.read ∧ h.peerUp = d.host.peerUp := by
  unfold outsideRead outsideTake
  refine List.foldlRecOn (motive := fun e : Dev => ∃ h, e = { d with host := h } ∧ h.read = d.host.read ∧ h.peerUp = d.host.peerUp) _ _
    ⟨_, rfl, rfl, rfl⟩ ?_
  rintro _ ⟨h, rfl, hr, hp⟩ r _
  split
  · exact ⟨_, rfl, hr, hp⟩
  · exact ⟨_, rfl, hr, hp⟩

theorem exec_hostRead (s : State) (a : HostAddr) (n : Nat) : exec (.hostRead a n) s = .next (hostLoad s a n) := rfl

/-- A host read gives the bytes of its range. -/
theorem hostRead_hdm (s : State) (a n : Nat) (h : a + n ≤ 549755813888) : ∃ t, exec (.hostRead (.hdm a) n) s = .next t ∧
    t.dev.host.read = bytesAt (memRead s.dev.mem) a n ∧ t.dev.mem = s.dev.mem ∧ t.dev.l2 = s.dev.l2 ∧ t.dev.squads = s.dev.squads := by
  obtain ⟨w, hw, -, -⟩ := outsideRead_host s.dev a n
  refine ⟨{ s with dev := readByHost s.dev a n }, ?_, ?_, ?_, ?_, ?_⟩
  · rw [exec_hostRead, hostLoad, if_neg (by simp [HostAddr.ok, h])]
  all_goals
    show _ = _
    simp only [readByHost, hw]

/-- An aperture reads as zero. -/
theorem hostRead_bar2 (s : State) (off n : Nat) (h : off + n ≤ 268435456) :
    exec (.hostRead (.bar2 off) n) s = .next { s with dev := { s.dev with host := { s.dev.host with read := List.replicate n 0 } } } := by
  rw [exec_hostRead, hostLoad, if_neg (by simp [HostAddr.ok, h])]
  have hz : ((upto n).map fun _ => (0 : Byte)) = List.replicate n 0 := by rw [List.map_const', upto, List.length_range]
  rw [hz]
  rfl

/-- A write at a queue's place in BAR2 is a write of its aperture. -/
theorem hostWrite_bar2 (s : State) (en q : Nat) (bs : List Byte) (he : en < 16384) (hq : q < 256) (hb : bs.length = 64) :
    exec (.hostWrite (.bar2 (16384 * en + 64 * q)) bs) s = exec (.apertureWrite en q true bs) s := by
  have h : exec (.hostWrite (.bar2 (16384 * en + 64 * q)) bs) s = .next (hostStore s (.bar2 (16384 * en + 64 * q)) bs) := rfl
  rw [h, hostStore, if_neg (by simp [HostAddr.ok, hb]; omega)]
  have h1 : (16384 * en + 64 * q) / 16384 = en := by omega
  have h2 : (16384 * en + 64 * q) % 16384 / 64 = q := by omega
  have h3 : ((16384 * en + 64 * q) % 64 == 0) = true := by simp; omega
  rw [h1, h2, h3]
  rfl

theorem bar0_ok {o n : Nat} (h : o + n ≤ 16777216) : HostAddr.ok n (.bar0 o) = true := decide_eq_true h

/-- The power block stands low in BAR0. -/
theorem blockAt_le : blockAt ≤ 147456 := by
  have h1 : Config.gap 8 % 16 < 16 := Nat.mod_lt _ (by decide)
  have h2 : Config.gap 9 % 16 < 16 := Nat.mod_lt _ (by decide)
  unfold blockAt mailboxAt
  generalize Config.gap 8 % 16 = x at h1 ⊢
  generalize Config.gap 9 % 16 = y at h2 ⊢
  omega

/-- A word of the power block is read where the block stands in BAR0. -/
theorem hostRead_block (s : State) (off x : Nat) (ho : off < 4096) (hx : blockWord s off = some x) :
    exec (.hostRead (.bar0 (blockAt + off)) 4) s = .next { s with dev := { s.dev with host := { s.dev.host with read := natLe x 4 } } } := by
  have hle : blockAt + off + 4 ≤ 16777216 := by
    have := blockAt_le
    omega
  have hin : inBlock (blockAt + off) = some off := by
    unfold inBlock
    rw [if_pos (by simp; omega), Nat.add_sub_cancel_left]
  rw [exec_hostRead, hostLoad, if_neg (by simp [bar0_ok hle])]
  show Host.Outcome.next { s with dev := reply s.dev (barRead s (blockAt + off) 4) } = _
  have hr : barRead s (blockAt + off) 4 = natLe x 4 := by
    unfold barRead
    rw [hin]
    dsimp only
    rw [if_pos rfl, hx]
  rw [hr]
  rfl

/-- The two words of a rail hold its code and its step in their low bits. -/
theorem blockWord_rail (s : State) (r : Nat) (hr : r < 51) : ∃ x y, blockWord s (8 * r) = some x ∧ blockWord s (8 * r + 4) = some y ∧
    (BitVec.ofNat 32 x).extractLsb' 0 10 = BitVec.ofNat 10 (railOf s.power r).code ∧
    (BitVec.ofNat 32 y).extractLsb' 0 4 = BitVec.ofNat 4 (railOf s.power r).step := by
  refine ⟨packBits [(0, (railOf s.power r).code), (10, b2n (railOf s.power r).valid), (11, b2n (railOf s.power r).est), (16, (railOf s.power r).ilim)],
    packBits [(0, (railOf s.power r).step), (4, (railOf s.power r).whld), (7, (railOf s.power r).quiet)], ?_, ?_, ?_, ?_⟩
  · unfold blockWord
    dsimp only
    rw [if_neg (by omega), if_pos (by omega), if_pos (by omega), Nat.mul_div_cancel_left r (by decide)]
  · unfold blockWord
    dsimp only
    rw [if_neg (by omega), if_pos (by omega), if_neg (by omega), show (8 * r + 4) / 8 = r by omega]
  · apply BitVec.eq_of_toNat_eq
    simp only [packBits, List.foldl_cons, List.foldl_nil, BitVec.extractLsb'_toNat, BitVec.toNat_ofNat, Nat.shiftRight_eq_div_pow]
    omega
  · apply BitVec.eq_of_toNat_eq
    simp only [packBits, List.foldl_cons, List.foldl_nil, BitVec.extractLsb'_toNat, BitVec.toNat_ofNat, Nat.shiftRight_eq_div_pow]
    omega

/-! ### A write of the host -/

/-- Bytes written at the coherence point, as the coherence point and L2 then give them. -/
theorem sysWriteBytes_reads (bs : List Byte) (d : Dev) (a : Nat) {x : Nat} (hx : noMemory x = false) :
    memRead (sysWriteBytes d a bs).mem x = (if a ≤ x ∧ x < a + bs.length then bs.getD (x - a) 0 else memRead d.mem x) ∧
      l2Byte (sysWriteBytes d a bs) x = (if a ≤ x ∧ x < a + bs.length then bs.getD (x - a) 0 else l2Byte d x) := by
  induction bs generalizing d a with
  | nil => exact ⟨(if_neg (by simp)).symm, (if_neg (by simp)).symm⟩
  | cons b bs ih =>
    rw [sysWriteBytes, (ih _ _).1, (ih _ _).2, memRead_sysWrite _ _ _ hx, l2Byte_sysWrite _ _ _ hx, List.length_cons]
    by_cases h : x = a
    · subst h
      simp
    · by_cases h1 : a + 1 ≤ x ∧ x < a + 1 + bs.length
      · rw [if_pos h1, if_pos h1, if_pos (by omega), if_pos (by omega), show x - a = (x - (a + 1)) + 1 by omega, List.getD_cons_succ]
        exact ⟨rfl, rfl⟩
      · rw [if_neg h1, if_neg h1, if_neg h, if_neg h, if_neg (by omega), if_neg (by omega)]
        exact ⟨rfl, rfl⟩

theorem sansMem_sysWriteBytes (bs : List Byte) (d : Dev) (a : Nat) : (sysWriteBytes d a bs).sansMem = d.sansMem := by
  induction bs generalizing d a with
  | nil => rfl
  | cons b bs ih => exact (ih _ _).trans rfl

theorem sansMem_invalidateLine (d : Dev) (ln : Nat) : (invalidateLine d ln).sansMem = d.sansMem :=
  (sansMem_l2CleanLine _ ln).trans (foldl_keeps Dev.sansMem (fun e s _ => sansMem_l1Drop e s ln) d)

/-- A line's copies leave with no other byte changed. -/
theorem l2Byte_invalidateLine_ne (d : Dev) (ln : Nat) {x : Nat} (hx : noMemory x = false) (hl : lineOf x ≠ ln) : l2Byte (invalidateLine d ln) x = l2Byte d x :=
  (l2Byte_l2CleanLine _ ln hx).trans (foldl_keeps (f := fun e s => l1Drop e s ln) (fun e => l2Byte e x) (fun e s _ => l2Byte_l1WriteBack_ne e s ln hx hl) d)

/-- A line that leaves L2 changes no byte of another at the coherence point. -/
theorem memRead_l2CleanLine_ne (d : Dev) (ln : Nat) {x : Nat} (hx : noMemory x = false) (hl : lineOf x ≠ ln) :
    memRead (l2CleanLine d ln).mem x = memRead d.mem x := by
  unfold l2CleanLine
  split
  · dsimp only
    rw [memRead_foldl_memWrite _ _ ln 128 le_rfl d.mem hx, if_neg fun h => hl h.1]
  · rfl

/-- A line written back to an L2 that has room for it: its room stays, memory stays, and so do the other lines. -/
theorem Roomy.l1WriteBack {d : Dev} {ln : Nat} (h : Roomy d ln) (set : Nat) : Roomy (l1WriteBack d set ln) ln ∧ (l1WriteBack d set ln).mem = d.mem ∧
    (l1WriteBack d set ln).l2.filter (fun p => p.1 != ln) = d.l2.filter fun p => p.1 != ln := by
  have keep : ∀ {e e' : Dev}, Roomy e ln → e'.l2 = e.l2 → Roomy e' ln := by
    rintro e e' ⟨room, sects⟩ he
    refine ⟨?_, by rwa [he]⟩
    unfold l2Room sliceLines at *
    rwa [he]
  unfold Machine.l1WriteBack
  split
  · next l _ =>
    have hf : ∀ ks : List Nat, (∀ i ∈ ks, i < 128) → ∀ e : Dev, Roomy e ln →
        let e' := ks.foldl (fun d i => if l.dirty.getLsbD i then Machine.l2Write d (ln * 128 + i) (l.byte i) else d) e
        Roomy e' ln ∧ e'.mem = e.mem ∧ e'.l2.filter (fun p => p.1 != ln) = e.l2.filter fun p => p.1 != ln := by
      intro ks hks
      induction ks with
      | nil => exact fun e he => ⟨he, rfl, rfl⟩
      | cons i ks ih =>
        intro e he
        have hli := lineOf_line_add (ln := ln) (hks i (List.mem_cons_self ..))
        rw [List.foldl_cons]
        split
        · obtain ⟨hr, hm⟩ := Roomy.l2Write (hli.symm ▸ he) (l.byte i)
          rw [hli] at hr
          obtain ⟨k, -, hk⟩ := l2Write_of_room (a := ln * 128 + i) (hli.symm ▸ he.room) (l.byte i)
          obtain ⟨h1, h2, h3⟩ := ih (fun j hj => hks j (List.mem_cons_of_mem _ hj)) _ hr
          refine ⟨h1, h2.trans hm, h3.trans ?_⟩
          rw [hk, hli]
          exact filter_fput_out e.l2 ln k (q := fun x => x != ln) (by simp)
        · exact ih (fun j hj => hks j (List.mem_cons_of_mem _ hj)) e he
    obtain ⟨h1, h2, h3⟩ := hf (upto 128) (fun i hi => List.mem_range.1 hi) d h
    exact ⟨keep h1 rfl, h2, h3⟩
  · exact ⟨h, rfl, rfl⟩

/-- A line's copies leave an L2 that has room for it: what else L2 holds stays, and every byte of another line at the coherence point. -/
theorem invalidateLine_of_room {d : Dev} {ln : Nat} (h : Roomy d ln) :
    (invalidateLine d ln).l2 = (d.l2.filter fun p => p.1 != ln) ∧
      ∀ x, noMemory x = false → lineOf x ≠ ln → memRead (invalidateLine d ln).mem x = memRead d.mem x := by
  have hf : ∀ (l : List Nat) (e : Dev), Roomy e ln →
      (l.foldl (fun d s => l1Drop d s ln) e).mem = e.mem ∧
        (l.foldl (fun d s => l1Drop d s ln) e).l2.filter (fun p => p.1 != ln) = e.l2.filter fun p => p.1 != ln := by
    intro l
    induction l with
    | nil => exact fun e _ => ⟨rfl, rfl⟩
    | cons s l ih =>
      intro e he
      obtain ⟨⟨room, sects⟩, h2, h3⟩ := he.l1WriteBack s
      obtain ⟨h4, h5⟩ := ih (l1Drop e s ln) ⟨room, sects⟩
      exact ⟨h4.trans h2, h5.trans h3⟩
  obtain ⟨hm, hl⟩ := hf (l1SetsOf d ln) d h
  refine ⟨(l2_l2CleanLine _ ln).trans hl, fun x hx hne => ?_⟩
  exact (memRead_l2CleanLine_ne _ ln hx hne).trans (congrArg (memRead · x) hm)

/-- Lines' copies leave an L2 that has room for each: no byte of another line changes at the coherence point. -/
theorem memRead_invalidateLines {x : Nat} (hx : noMemory x = false) (ls : List Nat) (d : Dev) (hd : d.l2Legal)
    (hr : ∀ ln ∈ ls, l2Room d ln 4 = true) (hn : lineOf x ∉ ls) : memRead (ls.foldl invalidateLine d).mem x = memRead d.mem x := by
  induction ls generalizing d with
  | nil => rfl
  | cons ln ls ih =>
    obtain ⟨hl2, hmem⟩ := invalidateLine_of_room (ln := ln) ⟨hr ln (List.mem_cons_self ..), hd.sects⟩
    rw [List.foldl_cons, ih _ (hd.sub (by rw [hl2]; exact List.filter_sublist))
      (fun k hk => l2Room_sub hd (hr k (List.mem_cons_of_mem _ hk)) hl2) fun h => hn (List.mem_cons_of_mem _ h)]
    exact hmem x hx fun h => hn (h ▸ List.mem_cons_self ..)

/-- A byte of a range lies in a line of it. -/
theorem mem_linesOf {a n x : Nat} (h : a ≤ x ∧ x < a + n) : lineOf x ∈ linesOf a n := by
  have h1 : lineOf a ≤ lineOf x := Nat.div_le_div_right h.1
  have h2 : lineOf x ≤ lineOf (a + n - 1) := Nat.div_le_div_right (by omega)
  rw [linesOf, if_neg (by omega), List.mem_map]
  exact ⟨lineOf x - lineOf a, List.mem_range.2 (by omega), by omega⟩

/-- The device once its copies of the lines that a host writes are gone. -/
def readied (d : Dev) (a n : Nat) : Dev := (linesOf a n).foldl invalidateLine (forgetLines d (linesOf a n))

/-- A host write puts its bytes at the coherence point of the device that has none of its lines. -/
theorem writeByHost_reads (d : Dev) (a : Nat) (bs : List Byte) {x : Nat} (hx : noMemory x = false) :
    memRead (writeByHost d a bs).mem x = (if a ≤ x ∧ x < a + bs.length then bs.getD (x - a) 0 else memRead (readied d a bs.length).mem x) ∧
      l2Byte (writeByHost d a bs) x = (if a ≤ x ∧ x < a + bs.length then bs.getD (x - a) 0 else l2Byte (readied d a bs.length) x) :=
  sysWriteBytes_reads bs (Machine.tagDrop (cleanWhole (readied d a bs.length) a bs.length) a bs.length) a hx

theorem readied_sansMem (d : Dev) (a n : Nat) : (readied d a n).sansMem = (forgetLines d (linesOf a n)).sansMem :=
  foldl_keeps Dev.sansMem (fun e ln _ => sansMem_invalidateLine e ln) _

theorem l2Byte_readied (d : Dev) (a n : Nat) {x : Nat} (hx : noMemory x = false) (hl : lineOf x ∉ linesOf a n) : l2Byte (readied d a n) x = l2Byte d x :=
  foldl_keeps (fun e => l2Byte e x) (fun e ln h => l2Byte_invalidateLine_ne e ln hx fun he => hl (he ▸ h)) (forgetLines d (linesOf a n))

/-- A host write leaves squads and scratchpads. -/
theorem writeByHost_rest (d : Dev) (a : Nat) (bs : List Byte) : (writeByHost d a bs).squads = d.squads ∧ (writeByHost d a bs).scratch = d.scratch := by
  have h1 := sansMem_sysWriteBytes bs (Machine.tagDrop (cleanWhole (readied d a bs.length) a bs.length) a bs.length) a
  have h2 := readied_sansMem d a bs.length
  exact ⟨((congrArg Dev.squads h1 :)).trans ((congrArg Dev.squads h2 :)), ((congrArg Dev.scratch h1 :)).trans ((congrArg Dev.scratch h2 :))⟩

/-- A host write is read back at the coherence point and through L2, and other lines stay. -/
theorem hostWrite_hdm (s : State) (a : Nat) (bs : List Byte) (h : a + bs.length ≤ 549755813888) : ∃ t, exec (.hostWrite (.hdm a) bs) s = .next t ∧
    t.dev.squads = s.dev.squads ∧ t.dev.scratch = s.dev.scratch ∧
    (∀ k, k < bs.length → noMemory (a + k) = false → memRead t.dev.mem (a + k) = bs.getD k 0 ∧ l2Byte t.dev (a + k) = bs.getD k 0) ∧
    ∀ x, lineOf x ∉ linesOf a bs.length → noMemory x = false → l2Byte t.dev x = l2Byte s.dev x ∧
      (s.dev.l2Legal → (∀ ln ∈ linesOf a bs.length, l2Room s.dev ln 4 = true) → memRead t.dev.mem x = memRead s.dev.mem x) := by
  have he : exec (.hostWrite (.hdm a) bs) s = .next (hostStore s (.hdm a) bs) := rfl
  obtain ⟨hsq, hsc⟩ := writeByHost_rest s.dev a bs
  refine ⟨{ s with dev := writeByHost s.dev a bs }, ?_, hsq, hsc, fun k hk hx => ?_, fun x hl hx => ⟨?_, fun hd hr => ?_⟩⟩
  · rw [he, hostStore, if_neg (by simp [HostAddr.ok, h])]
  · obtain ⟨h1, h2⟩ := writeByHost_reads s.dev a bs hx
    rw [if_pos (by omega), Nat.add_sub_cancel_left] at h1 h2
    exact ⟨h1, h2⟩
  · exact ((writeByHost_reads s.dev a bs hx).2.trans (if_neg fun h => hl (mem_linesOf h))).trans (l2Byte_readied s.dev a bs.length hx hl)
  · exact ((writeByHost_reads s.dev a bs hx).1.trans (if_neg fun h => hl (mem_linesOf h))).trans
      (memRead_invalidateLines hx _ (forgetLines s.dev (linesOf a bs.length)) (hd.of_eq rfl) hr hl)

/-! ### Accesses of peers -/

theorem filterMap_some (l : List Nat) : (l.map some).filterMap id = l := by
  induction l with
  | nil => rfl
  | cons a l ih => rw [List.map_cons, List.filterMap_cons_some (by rfl), ih]

/-- A peer's read of places that are not poisoned is answered with what L2 gives. -/
theorem peerAct_read {d : Dev} {r : PeerReq} {n : Nat} {pas : List Nat} (hp : r.port < 8) (hu : d.host.peerUp.getLsbD r.port = true) (ho : r.op = .read n)
    (hpl : (upto n).map (peerPlace d r .r) = pas.map some) (hok : pas.all (fun a => !poisoned d a) = true) :
    peerAct d r = reply (pas.foldl (fun d a => outsideRead d a 1) d) (pas.map (l2Byte d)) := by
  unfold peerAct
  dsimp only
  rw [if_neg (by simp [hu, hp]), ho]
  dsimp only
  simp only [hpl, filterMap_some]
  refine if_pos ?_
  rw [List.all_map]
  exact hok

/-- A peer's write of places that it may write is done at L2. -/
theorem peerAct_write {d : Dev} {r : PeerReq} {bs : List Byte} {pas : List Nat} (hp : r.port < 8) (hu : d.host.peerUp.getLsbD r.port = true)
    (ho : r.op = .write bs) (hpl : (upto bs.length).map (peerPlace d r .w) = pas.map some) :
    peerAct d r = peerWrite (cleanPlaces d pas) pas bs := by
  unfold peerAct
  dsimp only
  rw [if_neg (by simp [hu, hp]), ho]
  dsimp only
  simp only [hpl, filterMap_some]
  refine if_pos ?_
  rw [List.all_map]
  exact List.all_eq_true.2 fun _ _ => rfl

/-- Bytes written at distinct places of L2 are read there, and every other as before. -/
theorem l2Byte_peerWrite (bs : List Byte) (ps : List Nat) (d : Dev) (hl : ps.length = bs.length) (hn : ps.Nodup) {x : Nat} (hx : noMemory x = false) :
    (∀ k, ps[k]? = some x → l2Byte (peerWrite d ps bs) x = bs.getD k 0) ∧ (x ∉ ps → l2Byte (peerWrite d ps bs) x = l2Byte d x) := by
  induction bs generalizing ps d with
  | nil =>
    rw [List.length_eq_zero_iff.1 hl]
    exact ⟨fun k hk => (by simp at hk), fun _ => rfl⟩
  | cons b bs ih =>
    cases ps with
    | nil => cases hl
    | cons a ps =>
      obtain ⟨ha, hps⟩ := List.nodup_cons.1 hn
      obtain ⟨h1, h2⟩ := ih ps (relsSet (Machine.tagDrop (l2Write d a b) a 1) 0 a 1 fun _ => outsideRel d) (Nat.succ.inj hl) hps
      have hw : l2Byte (relsSet (Machine.tagDrop (l2Write d a b) a 1) 0 a 1 fun _ => outsideRel d) x = if x = a then b else l2Byte d x :=
        l2Byte_l2Write d a b hx
      refine ⟨fun k hk => ?_, fun hne => ?_⟩
      · cases k with
        | zero =>
          obtain rfl : a = x := Option.some.inj hk
          exact (h2 ha).trans (hw.trans (if_pos rfl))
        | succ k => exact h1 k hk
      · obtain ⟨hxa, hxp⟩ := not_or.1 (fun h => hne (List.mem_cons.2 h))
        exact (h2 hxp).trans (hw.trans (if_neg hxa))

/-- A link's bit is set or cleared alone. -/
theorem getLsbD_trainLink (d : Dev) (p : Nat) (up : Bool) (hp : p < 8) (k : Nat) (hk : k < 8) :
    (trainLink d p up).host.peerUp.getLsbD k = if k = p then up else d.host.peerUp.getLsbD k := by
  have hbit : ((1 : BitVec 8) <<< p).getLsbD k = decide (k = p) := by
    rw [show (1 : BitVec 8) = 1#8 from rfl, BitVec.getLsbD_shiftLeft, BitVec.getLsbD_one]
    by_cases h : k < p
    · simp [h, show k ≠ p by omega]
    · simp [hk, h, show (k - p = 0) = (k = p) from propext (by omega)]
  show (if up then d.host.peerUp ||| (1 : BitVec 8) <<< p else d.host.peerUp &&& ~~~((1 : BitVec 8) <<< p)).getLsbD k = _
  cases up
  · rw [if_neg (by simp), BitVec.getLsbD_and, BitVec.getLsbD_not, hbit]
    by_cases h : k = p <;> simp [h, hk, hp]
  · rw [if_pos rfl, BitVec.getLsbD_or, hbit]
    by_cases h : k = p <;> simp [h]

/-- Settles O57. -/
theorem hostEventsComplete : Obligations.HostEventsComplete := by
  unfold Obligations.HostEventsComplete
  refine ⟨fun s n x hn => ?_, registerWrite_block, fun s x => ⟨_, rfl, rfl, rfl, rfl, rfl, rfl⟩, mailbox_cluster, fun s a q n i hb ha he hq hi => ?_,
    fun s a q n hb => ?_, mailbox_busy, fun s hb => ?_, fun s i hi => ⟨_, exec_reset hi, resetAll_leaves s⟩, fun s => ?_, hostRead_hdm, hostWrite_hdm,
    hostRead_bar2, hostWrite_bar2, hostRead_block, blockWord_rail, fun s r n pas hp hu ho hpl hok => ?_, fun s r bs pas hp hu ho hpl hn => ?_,
    fun s src a e => ⟨rfl, rfl, rfl⟩, fun s p up hp => ⟨_, rfl, rfl, getLsbD_trainLink s.dev p up hp⟩⟩
  · have h : exec (.registerWrite (.arg n) x) s = .next (writeRegister s (.arg n) x) := rfl
    rw [h]
    exact congrArg Host.Outcome.next (if_pos hn)
  · exact ⟨rings rfl hb (onItem_in ha he hq hi), rings rfl hb (onItem_in ha he hq hi), rings rfl hb (onItem_in ha he hq hi)⟩
  · intro r hr
    exact ⟨rings rfl hb (onItem_none rfl hr), rings rfl hb (onItem_none rfl hr), rings rfl hb (onItem_none rfl hr)⟩
  · intro body
    have hbody : reportBody s = body := by
      rw [reportBody, measures_eq, ← List.append_assoc, ← List.append_assoc, ← List.append_assoc]
    refine ⟨attest s, rfl, ?_⟩
    rw [attest_eq s hb, hbody, reportOf_eq]
    clear_value body
    exact ⟨rfl, rfl, rfl, rfl, rfl⟩
  · exact ⟨losePower s, rfl, rfl, rfl, rfl, fun a ha => memRead_host_part s.dev.mem ha⟩
  · refine ⟨_, rfl, ?_⟩
    dsimp only
    rw [peerAct_read hp hu ho hpl hok]
    have h : ∀ e : Dev, ∃ w, pas.foldl (fun d a => outsideRead d a 1) e = { e with host := w } := by
      intro e
      refine List.foldlRecOn (motive := fun f : Dev => ∃ w, f = { e with host := w }) _ _ ⟨_, rfl⟩ ?_
      rintro _ ⟨w, rfl⟩ a _
      obtain ⟨v, hv, -, -⟩ := outsideRead_host { e with host := w } a 1
      exact ⟨v, hv⟩
    obtain ⟨w, hw⟩ := h s.dev
    rw [hw]
    exact ⟨rfl, rfl, rfl⟩
  · have hlen : pas.length = bs.length := by
      have := congrArg List.length hpl
      rw [List.length_map, List.length_map, upto, List.length_range] at this
      exact this.symm
    refine ⟨_, rfl, ?_⟩
    dsimp only
    rw [peerAct_write hp hu ho hpl]
    exact ⟨fun k a hk ha => (l2Byte_peerWrite bs pas _ hlen hn ha).1 k hk, fun a hne ha => (l2Byte_peerWrite bs pas _ hlen hn ha).2 hne⟩

end Sys2Proof.Machine
end

section
/-! SUPPORT. Bytes stored are read back at their policy and narrower levels keep them from wider ones, and O40. -/
namespace Sys2Proof.Machine

/-! ### The levels that a store leaves alone -/

theorem l1_l2Write (d : Dev) (a : Nat) (b : Byte) : (l2Write d a b).l1 = d.l1 := l2Put_l1 d a b

theorem l1Key_ne {set set' ln ln' : Nat} (hs : set < 256) (hs' : set' < 256) (h : set' ≠ set) : l1Key set' ln ≠ l1Key set ln' := by
  unfold l1Key
  omega

/-- What holds of a device and is kept by the store of each byte holds once all are stored. -/
theorem storeBytes_rec {motive : Dev → Prop} {set : Nat} {pol : Pol} {by_ : Clock} (bs : List (Option Byte)) (d : Dev) (pa : Nat) (h : motive d)
    (hb : ∀ d k b, k < bs.length → motive d → motive (storeByte d set (pa + k) b pol by_)) : motive (storeBytes d set pa bs pol by_) := by
  induction bs generalizing d pa with
  | nil => exact h
  | cons b bs ih =>
    show motive (storeBytes _ set (pa + 1) bs pol by_)
    refine ih _ (pa + 1) ?_ fun d k c hk hd => ?_
    · cases b with
      | none => exact h
      | some b => exact hb d 0 b (Nat.succ_pos _) h
    · rw [show pa + 1 + k = pa + (k + 1) by omega]
      exact hb d (k + 1) c (Nat.succ_lt_succ hk) hd

/-- A byte stored in L1 reaches neither L2 nor the coherence point. -/
theorem levels_l1Write (d : Dev) (set a : Nat) (b : Byte) (by_ : Clock) : (l1Write d set a b by_).l2 = d.l2 ∧ (l1Write d set a b by_).mem = d.mem := by
  have h : (l1Fill d set (lineOf a)).l2 = d.l2 ∧ (l1Fill d set (lineOf a)).mem = d.mem := by
    unfold l1Fill
    split <;> exact ⟨rfl, rfl⟩
  exact h

/-- A byte stored leaves the lines of other sets' L1. -/
theorem l1_storeByte_ne (d : Dev) (set a : Nat) (b : Byte) (pol : Pol) (by_ : Clock) {set' : Nat} (line : Nat) (hs : set < 256) (hs' : set' < 256)
    (h : set' ≠ set) : fget (storeByte d set a b pol by_).l1 (l1Key set' line) = fget d.l1 (l1Key set' line) := by
  have hu : ∀ e : Dev, e.l1 = d.l1 → fget (l1Update e set a b).l1 (l1Key set' line) = fget d.l1 (l1Key set' line) := fun e he =>
    (fget_fmod_ne _ _ (l1Key_ne hs hs' h)).trans (by rw [he])
  cases pol with
  | l1 =>
    refine (fget_fmod_ne _ _ (l1Key_ne hs hs' h)).trans ?_
    unfold l1Fill
    split
    · rfl
    · exact fget_fput_ne _ _ (l1Key_ne hs hs' h)
  | l2 => exact hu _ (l1_l2Write d a b)
  | sys => exact hu _ rfl
  | str => exact hu _ rfl

/-- Bytes of one line stored at `.l2` reach no further where L2 has room for the line. -/
theorem mem_storeBytes_l2 {d : Dev} {set pa : Nat} {bs : List (Option Byte)} (by_ : Clock) (h : Roomy d (lineOf pa))
    (hl : ∀ k < bs.length, lineOf (pa + k) = lineOf pa) : (storeBytes d set pa bs .l2 by_).mem = d.mem := by
  refine (storeBytes_rec (motive := fun e => Roomy e (lineOf pa) ∧ e.mem = d.mem) bs d pa ⟨h, rfl⟩ fun e k b hk he => ?_).2
  obtain ⟨hr, hm⟩ := he
  obtain ⟨⟨room, sects⟩, hm'⟩ := Roomy.l2Write ((hl k hk).symm ▸ hr) b
  rw [hl k hk] at room
  exact ⟨⟨room, sects⟩, hm'.trans hm⟩

/-! ### Lines that leave L1 -/

/-- A dirty byte that a line's write-back brings to L2 is read there, and every other as before. -/
theorem l2Byte_l1WriteBack (d : Dev) (set line : Nat) {x : Nat} (hx : noMemory x = false) :
    l2Byte (l1WriteBack d set line) x = (match fget d.l1 (l1Key set line) with
      | some l => if x / 128 = line ∧ l.dirty.getLsbD (x % 128) = true then l.byte (x % 128) else l2Byte d x
      | none => l2Byte d x) := by
  unfold l1WriteBack
  cases fget d.l1 (l1Key set line) with
  | none => rfl
  | some l =>
    have hf : ∀ n, n ≤ 128 →
        l2Byte ((List.range n).foldl (fun d i => if l.dirty.getLsbD i then l2Write d (line * 128 + i) (l.byte i) else d) d) x =
          if x / 128 = line ∧ x % 128 < n ∧ l.dirty.getLsbD (x % 128) = true then l.byte (x % 128) else l2Byte d x := by
      intro n
      induction n with
      | zero => intro _; simp
      | succ n ih =>
        intro hn
        rw [List.range_succ, List.foldl_append, List.foldl_cons, List.foldl_nil]
        by_cases he : x = line * 128 + n
        · have h1 : x / 128 = line := by omega
          have h2 : x % 128 = n := by omega
          split
          · next hd => rw [l2Byte_l2Write _ _ _ hx, if_pos he, if_pos ⟨h1, by omega, by rw [h2]; exact hd⟩, h2]
          · next hd => rw [ih (by omega), if_neg (by omega), if_neg (by rw [h2]; exact fun h => hd h.2.2)]
        · have hsame : (x / 128 = line ∧ x % 128 < n + 1 ∧ l.dirty.getLsbD (x % 128) = true) ↔
              (x / 128 = line ∧ x % 128 < n ∧ l.dirty.getLsbD (x % 128) = true) := by
            constructor
            · exact fun h => ⟨h.1, by have := h.1; have := h.2.1; omega, h.2.2⟩
            · exact fun h => ⟨h.1, by have := h.2.1; omega, h.2.2⟩
          rw [if_congr hsame rfl rfl, ← ih (by omega)]
          split
          · rw [l2Byte_l2Write _ _ _ hx, if_neg he]
          · rfl
    refine (hf 128 le_rfl).trans (if_congr ⟨fun h => ⟨h.1, h.2.2⟩, fun h => ⟨h.1, Nat.mod_lt _ (by decide), h.2⟩⟩ rfl rfl)

/-- A line written back still gives its set what it gave. -/
theorem l1Byte_l1WriteBack (d : Dev) (set line : Nat) {x : Nat} (hx : noMemory x = false) : l1Byte (l1WriteBack d set line) set x = l1Byte d set x := by
  by_cases hl : lineOf x = line
  · unfold l1Byte l1WriteBack
    rw [hl]
    cases hg : fget d.l1 (l1Key set line) with
    | none => simp only [hg]
    | some l => simp only [fget_fput_self]; rfl
  · have hk : fget (l1WriteBack d set line).l1 (l1Key set (lineOf x)) = fget d.l1 (l1Key set (lineOf x)) := by
      unfold l1WriteBack
      split
      · refine (fget_fput_ne _ _ fun h => hl (l1Key_inj.1 h)).trans (congrArg (fget · _) ?_)
        refine foldl_keeps (fun e : Dev => e.l1) (fun e i _ => ?_) d
        split
        · exact l1_l2Write e _ _
        · rfl
      · rfl
    unfold l1Byte
    rw [hk, l2Byte_l1WriteBack_ne d set line hx hl]

/-- Settles O40. -/
theorem storesReadBack : Obligations.StoresReadBack := by
  unfold Obligations.StoresReadBack
  refine ⟨fun d set pa bs pol by_ x hs hx => ⟨loadByte_storeBytes d set pa bs pol by_ hx, fun hp => ?_, fun hp hd hr hl => ?_,
    fun set' line hs' hne => ?_, ?_, ?_⟩, fun d set line x hx => ⟨l2Byte_l1WriteBack d set line hx, rfl, l1Byte_l1WriteBack d set line hx⟩⟩
  · subst hp
    obtain ⟨h2, hm⟩ := storeBytes_rec (motive := fun e => e.l2 = d.l2 ∧ e.mem = d.mem) (set := set) (pol := .l1) (by_ := by_) bs d pa ⟨rfl, rfl⟩
      fun e k b _ he => ⟨(levels_l1Write e set _ b by_).1.trans he.1, (levels_l1Write e set _ b by_).2.trans he.2⟩
    exact ⟨l2Byte_congr hm h2 x, hm⟩
  · subst hp
    exact mem_storeBytes_l2 by_ ⟨hr, hd.sects⟩ hl
  · exact storeBytes_rec (motive := fun e => fget e.l1 (l1Key set' line) = fget d.l1 (l1Key set' line)) bs d pa rfl
      fun e k b _ he => (l1_storeByte_ne e set _ b pol by_ line hs hs' hne).trans he
  · exact (congrArg Dev.scratch (sansMem_storeBytes d set pa bs pol by_) :)
  · exact (congrArg Dev.squads (sansMem_storeBytes d set pa bs pol by_) :)

end Sys2Proof.Machine
end

section
/-! SUPPORT. What the issue of accesses leaves alone, and O35. -/
namespace Sys2Proof.Machine

/-! ### Accesses that have been issued -/

/-- A device after accesses of squad u, of group g, have been issued: only what is outstanding, race tags, and in the squad waits and clocks have changed, and what a group's
squads read of their uniform registers has not. -/
structure Issued (u g : Nat) (d d' : Dev) : Prop where
  kept  : Kept u d { d' with groups := d.groups, accs := d.accs, tags := d.tags }
  here  : (fget d'.squads u).isSome = (fget d.squads u).isSome
  alike : Squad.Alike true (squadOf d' u) (squadOf d u)
  fresh : d.fresh ≤ d'.fresh
  accs  : ∀ k < d.fresh, fget d'.accs k = fget d.accs k
  other : ∀ j, j ≠ g → fget d'.groups j = fget d.groups j
  reads : ∀ v j, (groupOf d' g).wFor v j = (groupOf d g).wFor v j

theorem Issued.refl (u g : Nat) (d : Dev) : Issued u g d d :=
  ⟨⟨rfl, fun _ _ => rfl, fun _ => rfl, fun _ => rfl⟩, rfl, .refl _, le_rfl, fun _ _ => rfl, fun _ _ => rfl, fun _ _ => rfl⟩

theorem Issued.trans {u g : Nat} {a b c : Dev} (h : Issued u g a b) (k : Issued u g b c) : Issued u g a c := by
  refine ⟨⟨?_, fun v hv => (k.kept.squads v hv).trans (h.kept.squads v hv), fun n => (k.kept.cores n).trans (h.kept.cores n),
    fun n => (k.kept.clusters n).trans (h.kept.clusters n)⟩, k.here.trans h.here, k.alike.trans h.alike, h.fresh.trans k.fresh,
    fun n hn => (k.accs n (hn.trans_le h.fresh)).trans (h.accs n hn), fun n hn => (k.other n hn).trans (h.other n hn),
    fun v n => (k.reads v n).trans (h.reads v n)⟩
  have hk := congrArg (fun x : Dev => ({ x with groups := a.groups, accs := a.accs, tags := a.tags } : Dev)) k.kept.rest
  exact hk.trans h.kept.rest

/-- What is done by steps each of which issues accesses issues accesses. -/
theorem Issued.foldl {α : Type} {u g : Nat} {f : Dev → α → Dev} (l : List α) (h : ∀ d, ∀ x ∈ l, Issued u g d (f d x)) (d : Dev) :
    Issued u g d (l.foldl f d) := by
  induction l generalizing d with
  | nil => exact .refl u g d
  | cons x l ih => exact (h d x (List.mem_cons_self ..)).trans (ih (fun d y hy => h d y (List.mem_cons_of_mem _ hy)) _)

/-- What changes the waits and clocks of the squad's lanes alone issues nothing. -/
theorem Issued.of_nearG {u g : Nat} {d d' : Dev} (h : NearG u d d') (hf : d.fresh ≤ d'.fresh) : Issued u g d d' := by
  have ha : d'.accs = d.accs := (congrArg Dev.accs h.kept.rest :)
  have hg : d'.groups = d.groups := (congrArg Dev.groups h.kept.rest :)
  refine ⟨⟨?_, h.kept.squads, h.kept.cores, h.kept.clusters⟩, h.here, h.alike, hf, fun k _ => by rw [ha], fun _ _ => by rw [hg],
    fun v j => by simp only [groupOf, hg]⟩
  exact congrArg (fun x : Dev => ({ x with groups := d.groups, accs := d.accs, tags := d.tags } : Dev)) h.kept.rest

theorem issued_addAcc (u g : Nat) (d : Dev) (a : Acc) : Issued u g d (addAcc d a) :=
  ⟨⟨rfl, fun _ _ => rfl, fun _ => rfl, fun _ => rfl⟩, rfl, .refl _, Nat.le_succ _, fun _ hk => fget_fput_ne _ _ (Nat.ne_of_lt hk), fun _ _ => rfl,
    fun _ _ => rfl⟩

theorem issued_tagAccess (u g : Nat) (d : Dev) (t ep space pa n : Nat) (writes sync : Bool) : Issued u g d (tagAccess d t ep space pa n writes sync) := by
  unfold tagAccess
  split
  · exact Issued.foldl (f := tagSet t ep writes sync) _ (fun d x _ => ⟨⟨rfl, fun _ _ => rfl, fun _ => rfl, fun _ => rfl⟩, rfl, .refl _, le_rfl, fun _ _ => rfl, fun _ _ => rfl,
      fun _ _ => rfl⟩) d
  · exact .refl u g d

theorem issued_tagLane (u g : Nat) (d : Dev) (e : Env) (ln space pa n : Nat) (writes sync : Bool) :
    Issued u g d (tagLane d e ln space pa n writes sync) := issued_tagAccess ..

theorem issued_tagQuiet (u g : Nat) (d : Dev) (e : Env) (ln space pa n : Nat) (writes sync : Bool) :
    Issued u g d (tagQuiet d e ln space pa n writes sync) := by
  unfold tagQuiet
  split
  · exact issued_tagAccess ..
  · exact issued_tagAccess ..

theorem issued_claimThread (g : Nat) (d : Dev) (e : Env) (lns : List Nat) (wide : Bool) : Issued e.sq g d (claimThread d e lns wide) := by
  refine Issued.foldl lns (fun d ln _ => ?_) d
  split
  · exact .refl _ g d
  · refine .of_nearG (nearG_setSquad d e.sq _ fun s => ⟨rfl, fun j => ?_⟩) le_rfl
    rw [lane_setLane]
    split
    · rename_i h; subst h
      show ((fget s.lanes j).map _).map _ = (fget s.lanes j).map _
      cases fget s.lanes j <;> rfl
    · rfl

theorem issued_endEpochs (u g : Nat) (d : Dev) (lns : List Nat) : Issued u g d (endEpochs d u lns) :=
  .of_nearG (nearG_setSquad d u _ fun s => alike_meet (fun ln l => l.release (tidOf u ln)) (fun _ _ => rfl) lns s) le_rfl

/-- The same with the epochs of the squad's lanes ended where a release is issued. -/
theorem Issued.endEpochs_if {u g : Nat} {a b : Dev} (h : Issued u g a b) (c : Prop) [Decidable c] (lns : List Nat) :
    Issued u g a (if c then endEpochs b u lns else b) := by
  split
  · exact h.trans (issued_endEpochs u g b lns)
  · exact h

/-- A change of a group that leaves what its squads read of their uniform registers. -/
theorem issued_setGroup (u g : Nat) (d : Dev) (f : Group → Group) (h : ∀ v j, (f (groupOf d g)).wFor v j = (groupOf d g).wFor v j) :
    Issued u g d (setGroup d g f) := by
  refine ⟨⟨rfl, fun _ _ => rfl, fun _ => rfl, fun _ => rfl⟩, rfl, .refl _, le_rfl, fun _ _ => rfl, fun j hj => fget_fmod_ne _ _ hj, fun v j => ?_⟩
  cases hg : fget d.groups g with
  | none => simp [groupOf, setGroup, fgetD, hg]
  | some x => rw [groupOf_setGroup f (by rw [hg]; rfl), h]

theorem watchFor_issued {u g : Nat} {d d' : Dev} (h : Issued u g d d') (s : Squad) (va : Nat) : watchFor d' s va = watchFor d s va := by
  unfold watchFor
  rw [show d'.watches = d.watches from (congrArg Dev.watches h.kept.rest :)]

theorem gates_issued {u g : Nat} {d d' : Dev} (h : Issued u g d d') (s : Squad) (va : Nat) : gates d' s va = gates d s va := by
  unfold gates
  rw [watchFor_issued h]

/-! ### The forms -/

theorem fresh_begun (r : Raw) (d : Dev) (u : Nat) (lns : List Nat) : d.fresh ≤ (begun r d u lns).fresh := by
  have h1 : (startExecute d u lns r).fresh = d.fresh := by
    unfold startExecute enterExecute
    split
    · rfl
    · dsimp only [markIssued]
      split <;> rfl
  have h2 : ∀ d, d.fresh ≤ (takeClaim d u lns ((squadOf d u).newFlag lns r.h)).fresh := by
    intro d
    unfold takeClaim
    split
    · exact le_rfl
    · exact Nat.le_succ _
  unfold begun takeClaim
  split
  · exact h1.ge
  · exact h1.ge.trans (Nat.le_succ _)

/-- An instruction whose effect issues accesses and then takes its lanes on issues them and changes nothing yet. -/
theorem issuesAccess_of {i : Instr} {chk : Dev → Env → Nat → Chk} {act : Env → List Nat → Dev → Dev} {ok : Dev → Env → List Nat → Prop}
    {need : Env → List Nat → Dev → Prop} (hi : ∀ s, exec i s = onDev (issueChk (rawOf i) chk act) s)
    (hn : ∀ (s : State) (u : Nat) (lns : List Nat), Clear (rawOf i) chk s.dev u lns → ok s.dev (envOf s.dev u lns) lns →
      need (begunEnv (rawOf i) s.dev u lns) lns (begun (rawOf i) s.dev u lns))
    (ha : ∀ e lns d, need e lns d → ∃ d', Issued e.sq e.s.group d d' ∧ act e lns d = advanceAll d' e.sq lns) : IssuesAccess i chk ok := by
  intro s u lns h hok
  have hb := near_begun (rawOf i) s.dev u lns
  have hE := begunEnv_alike (rawOf i) s.dev u lns
  have hgrp : (begunEnv (rawOf i) s.dev u lns).s.group = (squadOf s.dev u).group := (congrArg Squad.group hE.s.bare :)
  obtain ⟨d', hd, hact⟩ := ha (begunEnv (rawOf i) s.dev u lns) lns (begun (rawOf i) s.dev u lns) (hn s u lns h hok)
  rw [hgrp] at hd
  have hd : Issued u (squadOf s.dev u).group (begun (rawOf i) s.dev u lns) d' := hd
  have hi1 : Issued u (squadOf s.dev u).group s.dev d' := (Issued.of_nearG hb.weaken (fresh_begun ..)).trans hd
  have hsome : (fget d'.squads u).isSome = true := by rw [hi1.here]; exact h.squad
  obtain ⟨hk, hq⟩ := adv_spec (e := begunEnv (rawOf i) s.dev u lns) (lns := lns) (d := d') hsome
  have hk : Kept u d' (advanceAll d' u lns) := hk
  have hq : squadOf (advanceAll d' u lns) u = ranLanes (fun _ q => q) lns (squadOf d' u) := hq
  have he := near_ended (rawOf i) (begun (rawOf i) s.dev u lns) (advanceAll d' u lns) u
  have hkept := hk.trans he.kept
  have haccs : (ended (rawOf i) (begun (rawOf i) s.dev u lns) (advanceAll d' u lns) u).accs = d'.accs := (congrArg Dev.accs hkept.rest :)
  have hgroups : (ended (rawOf i) (begun (rawOf i) s.dev u lns) (advanceAll d' u lns) u).groups = d'.groups := (congrArg Dev.groups hkept.rest :)
  refine ⟨{ s with dev := ended (rawOf i) (begun (rawOf i) s.dev u lns) (advanceAll d' u lns) u }, ?_, rfl, rfl, ?_, ?_, fun k hk => ?_, fun g hg => ?_,
    fun v j => ?_⟩
  · rw [hi, onDev, issueChk_clear h, hact]
    rfl
  · refine hi1.kept.trans ⟨?_, hkept.squads, hkept.cores, hkept.clusters⟩
    exact congrArg (fun x : Dev => ({ x with groups := s.dev.groups, accs := s.dev.accs, tags := s.dev.tags } : Dev)) hkept.rest
  · refine he.alike.weaken.trans ?_
    rw [hq]
    exact hi1.alike.ranLanes _ (fun _ _ _ k => k) lns
  · rw [haccs]
    exact hi1.accs k hk
  · rw [hgroups]
    exact hi1.other g hg
  · simp only [groupOf, hgroups]
    exact hi1.reads v j

/-- The same where nothing is asked of what the effect finds. -/
theorem issuesAccess_any {i : Instr} {chk : Dev → Env → Nat → Chk} {act : Env → List Nat → Dev → Dev}
    (hi : ∀ s, exec i s = onDev (issueChk (rawOf i) chk act) s)
    (ha : ∀ e lns d, ∃ d', Issued e.sq e.s.group d d' ∧ act e lns d = advanceAll d' e.sq lns) : IssuesAccess i chk anyEnv :=
  issuesAccess_of (need := fun _ _ _ => True) hi (fun _ _ _ _ _ => trivial) fun e lns d _ => ha e lns d

theorem issued_issueLoad (u g : Nat) (t : Ty) (x4 : Bool) (pol : Pol) (r : Opnd) (f : Acc → Acc) (tag sync : Bool) (va : Nat) (pl : Nat × Nat) (e : Env)
    (ln : Nat) (d : Dev) : Issued u g d (issueLoad t x4 pol r f tag sync va pl e ln d) := by
  have h := Issued.foldl (u := u) (g := g) (f := fun dv (p : Nat × Ty × Dest) =>
    addAcc dv { f (mkAcc dv e ln .load p.2.1 pol (va + p.1) (pl.1, pl.2 + p.1) (p.2.1.wid / 8)) with dest := p.2.2, parts := (loadParts t x4 r).length })
    (loadParts t x4 r) (fun d _ _ => issued_addAcc u g d _) d
  unfold issueLoad
  dsimp only
  split
  · exact h.trans (issued_tagLane ..)
  · exact h

theorem issued_issueStores (g : Nat) (t : Ty) (pol : Pol) (part : Nat) (f : Acc → Acc) (tag sync : Bool) (rs : List StoreReq) (e : Env) (d : Dev) :
    Issued e.sq g d (issueStores t pol part f tag sync rs e d) := by
  unfold issueStores
  dsimp only
  refine (issued_claimThread g d e _ _).trans (Issued.foldl _ (fun d p _ => ?_) _)
  split
  · exact (Issued.foldl _ (fun d _ _ => issued_addAcc _ g d _) d).trans (issued_tagQuiet ..)
  · exact Issued.foldl _ (fun d _ _ => issued_addAcc _ g d _) d

theorem stAct_issues (t : Ty) (x4 : Bool) (pol : Pol) (rel : Option Scope) (r va off : Opnd) (e : Env) (lns : List Nat) (d : Dev) :
    ∃ d', Issued e.sq e.s.group d d' ∧ stAct t x4 pol rel r va off e lns d = advanceAll d' e.sq lns := by
  refine ⟨_, ?_, rfl⟩
  exact (issued_issueStores _ t pol _ _ true rel.isSome _ e d).endEpochs_if _ lns

theorem ldpAct_issues (t : Ty) (x4 : Bool) (r a off : Opnd) (e : Env) (lns : List Nat) (d : Dev) :
    ∃ d', Issued e.sq e.s.group d d' ∧ ldpAct t x4 r a off e lns d = advanceAll d' e.sq lns := by
  refine ⟨_, Issued.foldl lns (fun d ln _ => ?_) d, rfl⟩
  dsimp only
  split
  · exact Issued.foldl _ (fun d _ _ => issued_addAcc _ _ d _) d
  · exact .refl _ _ _

theorem wFor_stsaMark (g : Group) (word sq v j : Nat) : (stsaMark g word sq).wFor v j = g.wFor v j := rfl

theorem stsaAct_issues (t : Ty) (r a off : Opnd) (e : Env) (lns : List Nat) (d : Dev) :
    ∃ d', Issued e.sq e.s.group d d' ∧ stsaAct t r a off e lns d = advanceAll d' e.sq lns := by
  refine ⟨_, ?_, rfl⟩
  refine (((issued_claimThread _ d e lns true).trans (Issued.foldl _ (fun d _ _ => issued_addAcc _ _ d _) _)).trans
    (Issued.foldl lns (fun _ _ _ => issued_tagQuiet ..) _)).trans (issued_setGroup _ _ _ _ fun v j => ?_)
  exact foldl_keeps (f := fun g ln => stsaMark g _ e.sq) (fun g : Group => g.wFor v j) (fun g ln _ => rfl) _

theorem binAct_issues (op : FMap DWord → AccOp) (t : Ty) (pol : Pol) (s : Scope) (va x : Opnd) (e : Env) (lns : List Nat) (d : Dev) :
    ∃ d', Issued e.sq e.s.group d d' ∧ binAct op t pol s va x e lns d = advanceAll d' e.sq lns :=
  ⟨_, ((issued_claimThread _ d e lns true).trans (Issued.foldl _ (fun d _ _ => issued_addAcc _ _ d _) _)).trans
    (Issued.foldl lns (fun _ _ _ => issued_tagQuiet ..) _), rfl⟩

/-! ### Atomics -/

theorem ungated_begun {va : Opnd} {r : Raw} {d : Dev} {u : Nat} {lns : List Nat} (h : ungated va d (envOf d u lns) lns) :
    ungated va (begun r d u lns) (begunEnv r d u lns) lns := by
  intro ln hln
  have hE := begunEnv_alike r d u lns
  have hs := h ln hln
  have hb := near_begun r d u lns
  rw [readN64_alike hE]
  unfold gates watchFor at *
  rw [show (begun r d u lns).watches = d.watches from (congrArg Dev.watches hb.kept.rest :),
    show (begunEnv r d u lns).s.asid = (envOf d u lns).s.asid from (congrArg Squad.asid hE.s.bare :),
    show (begunEnv r d u lns).s.vmid = (envOf d u lns).s.vmid from (congrArg Squad.vmid hE.s.bare :),
    show (begunEnv r d u lns).s.kh = (envOf d u lns).s.kh from (congrArg Squad.kh hE.s.bare :)]
  exact hs

theorem issueSteps_issues {β : Type} (op : FMap β → AccOp) (t : Ty) (pol : Pol) (scope : Scope) (acq rel : Bool) (r va : Opnd) (x : Env → Nat → β)
    (e : Env) (lns : List Nat) (d : Dev) (h : ungated va d e lns) :
    ∃ d', Issued e.sq e.s.group d d' ∧ issueSteps op t pol scope acq rel r va x e lns d = advanceAll d' e.sq lns := by
  have main : ∀ d', Issued e.sq e.s.group d d' →
      (let held := lns.filter fun ln => gates d' e.s (readN64 e ln va)
       let dv := holdLanes (advanceAll d' e.sq (lns.filter fun ln => !held.contains ln)) e.sq .gate held
       if held.isEmpty then dv else detPass dv e.sq) = advanceAll d' e.sq lns := by
    intro d' hd
    have hheld : (lns.filter fun ln => gates d' e.s (readN64 e ln va)) = [] :=
      List.filter_eq_nil_iff.2 fun ln hln => by rw [gates_issued hd, h ln hln]; exact Bool.false_ne_true
    have hgo : (lns.filter fun ln => !([] : List Nat).contains ln) = lns := List.filter_eq_self.2 fun ln _ => rfl
    dsimp only
    rw [hheld, hgo]
    rfl
  unfold issueSteps
  dsimp only
  refine ⟨_, ?_, main _ ?_⟩
  all_goals
    have h1 : Issued e.sq e.s.group d (if (r == .none) = true then claimThread d e lns true else d) := by
      split
      · exact issued_claimThread ..
      · exact .refl _ _ _
    refine Issued.endEpochs_if ((h1.trans (Issued.foldl _ (fun d _ _ => issued_addAcc _ _ d _) _)).trans (Issued.foldl lns (fun d ln _ => ?_) _)) _ lns
    split
    · exact issued_tagQuiet ..
    · exact issued_tagLane ..

/-! ### LDW -/

/-- A squad that may write a uniform register and writes what it reads there changes what no squad reads (R123). -/
theorem wFor_setW {g : Group} {sq i : Nat} (h : g.mayW sq i = true) (v j : Nat) : (g.setW sq i (g.wFor sq i)).wFor v j = g.wFor v j := by
  unfold Group.mayW at h
  unfold Group.setW Group.wFor
  cases hw : fget g.wwriter i with
  | none =>
    dsimp only
    by_cases hj : j = i
    · subst hj
      rw [fget_fput_self, hw]
      dsimp only
      rw [fgetD_fset, fgetD_fset, if_pos rfl, if_pos rfl, ite_self]
    · rw [fget_fput_ne _ _ hj, fgetD_fset, fgetD_fset, if_neg hj, if_neg hj]
  | some u =>
    rw [hw] at h
    have hu : u = sq := by simpa using h
    dsimp only
    rw [if_pos hu]
    by_cases hj : j = i
    · subst hj
      rw [fgetD_fset, if_pos rfl]
    · rw [fgetD_fset, if_neg hj]

/-- A squad that may write a uniform register may write no fewer once it has. -/
theorem mayW_setW {g : Group} {sq i : Nat} {x : Word} {j : Nat} (h : g.mayW sq j = true) : (g.setW sq i x).mayW sq j = true := by
  unfold Group.setW
  cases hw : fget g.wwriter i with
  | none =>
    unfold Group.mayW
    dsimp only
    by_cases hj : j = i
    · subst hj
      rw [fget_fput_self]
      exact beq_self_eq_true sq
    · rw [fget_fput_ne _ _ hj]
      exact h
  | some u => exact h

theorem issued_setWs (u g sq : Nat) (ks : List Nat) (d : Dev) (h : ∀ i ∈ ks, (groupOf d g).mayW sq i = true) :
    Issued u g d (ks.foldl (fun dv i => setGroup dv g fun k => k.setW sq i (k.wFor sq i)) d) := by
  induction ks generalizing d with
  | nil => exact .refl u g d
  | cons i ks ih =>
    refine (issued_setGroup u g d _ fun v j => wFor_setW (h i (List.mem_cons_self ..)) v j).trans (ih _ fun k hk => ?_)
    have hm := h k (List.mem_cons_of_mem _ hk)
    cases hg : fget d.groups g with
    | none =>
      have he : groupOf (setGroup d g fun k => k.setW sq i (k.wFor sq i)) g = groupOf d g := by simp [groupOf, setGroup, fgetD, hg]
      rw [he]
      exact hm
    | some x =>
      rw [groupOf_setGroup _ (by rw [hg]; rfl)]
      exact mayW_setW hm

/-- A lane that nothing stops has passed its form's own check. -/
theorem chk_of_laneChk {d : Dev} {e : Env} {r : Raw} {chk : Dev → Env → Nat → Chk} {ln : Nat} (h : laneChk d e r chk ln = .ok) : chk d e ln = .ok := by
  have hrow : ∀ (a b l : Nat) (c : Cause) (tv : DWord) (own : Chk), rowFirst a b (.bad l c tv) own ≠ .ok := by
    intro a b l c tv own
    unfold rowFirst
    split
    · split <;> exact Chk.noConfusion
    · split <;> exact Chk.noConfusion
    · exact Chk.noConfusion
  have hpoi : ∀ (l : Nat) (c : Cause) (tv : DWord) (own : Chk), poisonFirst (.bad l c tv) own ≠ .ok := by
    intro l c tv own
    unfold poisonFirst
    split
    · split <;> exact Chk.noConfusion
    · exact Chk.noConfusion
    · exact Chk.noConfusion
    · exact Chk.noConfusion
  have h0 := h
  unfold laneChk at h
  dsimp only at h
  cases hc : rowCause d e.s ln (rowsRead r) (rowsWritten r) with
  | some p =>
    rw [hc] at h
    exact (hrow _ _ _ _ _ _ h).elim
  | none =>
    rw [hc] at h
    dsimp only at h
    by_cases hm : (((rowsRead r ++ rowsWritten r).any fun i => e.s.missing i) || !rowRoom d e.sq e.s (rowsWritten r)) = true
    · rw [if_pos hm] at h
      exact Chk.noConfusion h
    · rw [if_neg hm] at h
      simp only [Bool.or_eq_true, not_or, Bool.not_eq_true, Bool.not_eq_false'] at hm
      cases hp : rowPoison e.s ln (rowsRead r) with
      | some i =>
        rw [hp] at h
        exact (hpoi _ _ _ _ h).elim
      | none =>
        cases hf : fillPoison e.s ln (rowsWritten r) with
        | some i =>
          rw [hp, hf] at h
          exact (hpoi _ _ _ _ h).elim
        | none =>
          rw [laneChk_own hm.1 hm.2 hc hp hf] at h0
          exact h0

theorem globalAddr_error_ne_ok {d : Dev} {e : Env} {ln va n : Nat} {need : Need} {pol : Pol} {sync sysScope : Bool} {c : Chk}
    (h : globalAddr d e ln va n need pol sync sysScope = .error c) : c ≠ .ok := by
  have key : ∀ {b : Prop} [Decidable b] {x : Chk} {y : Except Chk (Nat × Nat)}, x ≠ .ok → (y = .error c → c ≠ .ok) →
      (if b then .error x else y) = .error c → c ≠ .ok := by
    intro b _ x y hx hy hb
    split at hb
    · exact Except.error.inj hb ▸ hx
    · exact hy hb
  have err : ∀ {x : Chk}, x ≠ .ok → (.error x : Except Chk (Nat × Nat)) = .error c → c ≠ .ok := fun hx hb => Except.error.inj hb ▸ hx
  have good : ∀ {p : Nat × Nat}, (.ok p : Except Chk (Nat × Nat)) = .error c → c ≠ .ok := fun hb => nomatch hb
  unfold globalAddr at h
  dsimp only at h
  refine key Chk.noConfusion (key Chk.noConfusion fun h => ?_) h
  split at h
  · unfold peerAddr at h
    dsimp only at h
    exact key Chk.noConfusion (key Chk.noConfusion (key Chk.noConfusion good)) h
  · split at h
    · exact err Chk.noConfusion h
    · split at h
      · exact err Chk.noConfusion h
      · exact key Chk.noConfusion (key Chk.noConfusion good) h

theorem mid_of_globalChk {need : Need} {pol : Pol} {n : Nat} {reads writes sync sysScope : Bool} {va : Env → Nat → Nat} {mid : Dev → Env → Nat → Chk}
    {d : Dev} {e : Env} {ln : Nat} (h : globalChk need pol n reads writes sync sysScope va mid d e ln = .ok) : mid d e ln = .ok := by
  unfold globalChk afterAcquire at h
  split at h
  · exact Chk.noConfusion h
  · split at h
    · next c hg =>
      subst h
      exact absurd rfl (globalAddr_error_ne_ok hg)
    · cases hm : mid d e ln with
      | ok => rfl
      | _ => rw [hm] at h; exact Chk.noConfusion h

theorem mayW_of_wChk {g sq : Nat} {d : Dev} {ks : List Nat} (h : wChk g sq d ks = .ok) : ∀ i ∈ ks, (groupOf d g).mayW sq i = true := by
  unfold wChk at h
  split at h
  · exact Chk.noConfusion h
  · next hn =>
    intro i hi
    simpa using List.find?_eq_none.1 hn i hi

/-- The single-writer rule holds for an LDW that nothing stops. -/
theorem mayW_of_clear {i : Instr} {r : Raw} {t : Ty} {pol : Pol} {x va off : Opnd} {d : Dev} {u : Nat} {lns : List Nat}
    (h : Clear (rawOf i) (ldwChk r t pol x va off) d u lns) :
    ∀ j ∈ wNamed (wIdx x) t, (groupOf (begun (rawOf i) d u lns) (begunEnv (rawOf i) d u lns).s.group).mayW (begunEnv (rawOf i) d u lns).sq j = true := by
  have hE := begunEnv_alike (rawOf i) d u lns
  have hgrp : (begunEnv (rawOf i) d u lns).s.group = (squadOf d u).group := (congrArg Squad.group hE.s.bare :)
  rw [groupOf_begun, hgrp]
  obtain ⟨ln, hln⟩ := List.exists_mem_of_ne_nil lns h.lanes
  have hc := chk_of_laneChk (h.pass ln hln)
  refine mayW_of_wChk (?_ : wChk (envOf d u lns).s.group (envOf d u lns).sq d (wNamed (wIdx x) t) = .ok)
  unfold ldwChk at hc
  dsimp only at hc
  split at hc
  · exact mid_of_globalChk hc
  · exact hc

theorem ldwAct_issues (r : Raw) (t : Ty) (pol : Pol) (x va off : Opnd) (e : Env) (lns : List Nat) (d : Dev)
    (h : ∀ j ∈ wNamed (wIdx x) t, (groupOf d e.s.group).mayW e.sq j = true) :
    ∃ d', Issued e.sq e.s.group d d' ∧ ldwAct r t pol x va off e lns d = advanceAll d' e.sq lns := by
  unfold ldwAct
  dsimp only
  split
  · exact ⟨d, .refl _ _ _, rfl⟩
  · exact ⟨_, (issued_setWs _ _ _ _ d h).trans (issued_issueLoad ..), rfl⟩

/-- Settles O35. -/
theorem accessFormsComplete : Obligations.AccessFormsComplete := by
  unfold Obligations.AccessFormsComplete
  refine ⟨?ld, ?st, ?ldp, ?stp, ?lds, ?sts, ?stsa, ?ldw, ?pref, ?atom, ?cas, ?red, ?ldacq, ?strel, ?rbexp, ?rbadd⟩
  case ld | lds | ldacq =>
    intros
    exact issuesAccess_any (fun _ => rfl) fun e lns d => ⟨_, Issued.foldl lns (fun _ _ _ => issued_issueLoad ..) d, rfl⟩
  case st =>
    intro h t x4 pol r va off
    exact issuesAccess_any (fun _ => rfl) (stAct_issues t x4 pol none r va off)
  case strel =>
    intro h t pol sc r va off
    exact issuesAccess_any (fun _ => rfl) (stAct_issues t false pol (some sc) r va off)
  case ldp =>
    intro h t x4 r a off
    exact issuesAccess_any (fun _ => rfl) (ldpAct_issues t x4 r a off)
  case stp | sts =>
    intros
    exact issuesAccess_any (fun _ => rfl) fun e lns d => ⟨_, issued_issueStores .., rfl⟩
  case stsa =>
    intro h t r a off
    exact issuesAccess_any (fun _ => rfl) (stsaAct_issues t r a off)
  case ldw =>
    intro h t pol x va off
    exact issuesAccess_of (need := fun e _ d => ∀ j ∈ wNamed (wIdx x) t, (groupOf d e.s.group).mayW e.sq j = true) (fun _ => rfl)
      (fun _ _ _ hc _ => mayW_of_clear hc) (ldwAct_issues _ t pol x va off)
  case pref =>
    intros
    exact issuesAccess_any (fun _ => rfl) fun e lns d => ⟨d, .refl _ _ _, rfl⟩
  case atom | cas | red =>
    intros
    exact issuesAccess_of (need := fun e lns d => ungated _ d e lns) (fun _ => rfl) (fun _ _ _ _ hok => ungated_begun hok)
      (issueSteps_issues _ _ _ _ _ _ _ _ _)
  case rbexp | rbadd =>
    intros
    exact issuesAccess_any (fun _ => rfl) (binAct_issues _ _ _ _ _ _)

end Sys2Proof.Machine
end

section
/-! SUPPORT. Atomic steps, waits that end, walks and refused stores, and O42. -/
namespace Sys2Proof.Machine

/-! ### Steps of several lanes -/

/-- A step in ascending lane order: each lane finds what the lanes before it have left (R168). -/
theorem foldStep_eq (f : DWord → DWord → DWord) (o : DWord) (xs : FMap DWord) : (foldStep f o xs).1 = xs.foldl (fun v p => f v p.2) o ∧
    ∀ j p, xs[j]? = some p → (foldStep f o xs).2[j]? = some (p.1, (xs.take j).foldl (fun v q => f v q.2) o) := by
  induction xs generalizing o with
  | nil => exact ⟨rfl, fun j p h => by simp at h⟩
  | cons x xs ih =>
    obtain ⟨ln, b⟩ := x
    obtain ⟨h1, h2⟩ := ih (f o b)
    refine ⟨h1, fun j p hp => ?_⟩
    cases j with
    | zero => cases hp; rfl
    | succ j => exact h2 j p hp

/-- A CAS in ascending lane order (R168). -/
theorem casStep_eq (o : DWord) (xs : FMap (DWord × DWord)) : (casStep o xs).1 = xs.foldl (fun v p => if v = p.2.1 then p.2.2 else v) o ∧
    ∀ j p, xs[j]? = some p → (casStep o xs).2.1[j]? = some (p.1, (xs.take j).foldl (fun v q => if v = q.2.1 then q.2.2 else v) o) := by
  induction xs generalizing o with
  | nil => exact ⟨rfl, fun j p h => by simp at h⟩
  | cons x xs ih =>
    obtain ⟨ln, c, n⟩ := x
    obtain ⟨h1, h2⟩ := ih (if o = c then n else o)
    refine ⟨h1, fun j p hp => ?_⟩
    cases j with
    | zero => cases hp; rfl
    | succ j => exact h2 j p hp

/-! ### What follows a step -/

/-- A squad's own writes change nothing that is asked of it while its access is performed. -/
structure SquadsOnly (u : Nat) (d d' : Dev) : Prop where
  rest : ({ d' with squads := [] } : Dev) = { d with squads := [] }
  here : (fget d'.squads u).isSome = (fget d.squads u).isSome
  state : (squadOf d' u).state = (squadOf d u).state
  ending : (squadOf d' u).ending = (squadOf d u).ending

theorem SquadsOnly.refl (u : Nat) (d : Dev) : SquadsOnly u d d := ⟨rfl, rfl, rfl, rfl⟩
theorem SquadsOnly.trans {u : Nat} {a b c : Dev} (h : SquadsOnly u a b) (k : SquadsOnly u b c) : SquadsOnly u a c :=
  ⟨k.rest.trans h.rest, k.here.trans h.here, k.state.trans h.state, k.ending.trans h.ending⟩

theorem squadsOnly_setSquad (u : Nat) (d : Dev) (f : Squad → Squad) (hs : ∀ s, (f s).state = s.state) (he : ∀ s, (f s).ending = s.ending) :
    SquadsOnly u d (setSquad d u f) := by
  refine ⟨rfl, by simp, ?_, ?_⟩ <;> simp only [squadOf, fgetD, fget_setSquad, if_true]
  · cases fget d.squads u with
    | none => rfl
    | some s => exact hs s
  · cases fget d.squads u with
    | none => rfl
    | some s => exact he s

theorem squadsOnly_setLane (u ln : Nat) (d : Dev) (f : Lane → Lane) : SquadsOnly u d (setLane d u ln f) :=
  squadsOnly_setSquad u d (fun s => s.setLane ln f) (fun _ => rfl) fun _ => rfl

theorem squadsOnly_readLane {a : Acc} (h : a.acq = none) (rs : List Release) (d : Dev) (ln : Nat) : SquadsOnly a.sq d (readLane a rs d ln) := by
  unfold readLane
  rw [h]
  exact squadsOnly_setSquad a.sq d _ (fun _ => rfl) fun _ => rfl

/-- What a step without an acquire does to releases and to what its lanes have seen. -/
theorem stepSync_leaves {a : Acc} (h : a.acq = none) (d : Dev) (n : Nat) (rs : List Release) (wrote : Nat → Bool) :
    ∃ w r, SquadsOnly a.sq { d with host := w, rels := r } (stepSync d a n rs wrote) := by
  unfold stepSync
  dsimp only
  have hfold : ∀ (l : List (Nat × Clock)) (rels : Nat × Clock → List Release) (e : Dev) (q : List Release),
      SquadsOnly a.sq e (l.foldl (fun q p => (readLane a q.2 q.1 p.1, q.2 ++ rels p)) (e, q)).1 := by
    intro l rels
    induction l with
    | nil => exact fun e q => .refl a.sq e
    | cons p l ih => exact fun e q => (squadsOnly_readLane h q e p.1).trans (ih _ _)
  have hrel : ∀ (c : Prop) [Decidable c] (own : List Release) (f : List Release → List Release),
      ∃ w r, (if c then leaveRels d a.space a.pa n own f else d) = { d with host := w, rels := r } := by
    intro c _ own f
    split
    · exact leaveRels_eq ..
    · exact ⟨_, _, rfl⟩
  obtain ⟨w, r, he⟩ := hrel ((a.lanes.any fun p => wrote p.1) = true) (a.lanes.map fun p => if wrote p.1 then laneRels a p else []).flatten
    fun l => l ++ (a.lanes.map fun p => if wrote p.1 then laneRels a p else []).flatten
  rw [he]
  refine ⟨w, r, ?_⟩
  split
  · exact .refl _ _
  · exact hfold _ _ _ _

/-! ### An atomic step -/

theorem marks_loadPrep {d : Dev} (h : d.marks = []) (set ln : Nat) (p : Pol) (acq : Nat) : (loadPrep d set ln p acq).marks = [] := by
  have hput : ∀ (e : Dev) (a : Nat) (b : Byte), e.marks = [] → (l2Write e a b).marks = [] := fun e a b he => by
    have hm : (l2Put e a b).marks = e.marks := l2Make_keeps (fun d => d.marks) (fun d ln => by unfold l2CleanLine; split <;> rfl) e _ _
    show sdel (l2Put e a b).marks (a / 64) = []
    rw [hm, he]
    rfl
  have hback : ∀ e : Dev, e.marks = [] → (l1Drop e set ln).marks = [] := fun e he => by
    show (l1WriteBack e set ln).marks = []
    unfold l1WriteBack
    split
    · refine List.foldlRecOn (motive := fun f : Dev => f.marks = []) _ _ he fun f hf i _ => ?_
      split
      · exact hput f _ _ hf
      · exact hf
    · exact he
  refine loadPrep_cases (motive := fun e => e.marks = []) h (hback d h) (fun e he => ?_) fun _ e he => ?_
  · unfold l1Fill
    split <;> exact he
  · unfold l2CleanLine
    split <;> exact he

theorem length_natLe (x n : Nat) : (natLe x n).length = n := by
  induction n generalizing x with
  | zero => rfl
  | succ n ih => rw [natLe, List.length_cons, ih]

/-- A byte of a number's little-endian bytes. -/
theorem natLe_get {n j : Nat} (x : Nat) (h : j < n) : (natLe x n)[j]? = some (BitVec.ofNat 8 (x / 256 ^ j)) := by
  induction n generalizing x j with
  | zero => omega
  | succ n ih =>
    rw [natLe]
    cases j with
    | zero => simp
    | succ j => rw [List.getElem?_cons_succ, ih (x / 256) (by omega), Nat.div_div_eq_div_mul, Nat.pow_succ']

/-- A byte of a doubleword, as its bytes give it. -/
theorem byteFor_natLe (v : DWord) {len pa x : Nat} (h1 : pa ≤ x) (h2 : x < pa + len) :
    byteFor ((natLe v.toNat len).map some) pa x = some (v.extractLsb' (8 * (x - pa)) 8) := by
  rw [byteFor, if_pos h1, List.getElem?_map, natLe_get _ (by omega : x - pa < len)]
  refine congrArg some (BitVec.eq_of_toNat_eq ?_)
  rw [BitVec.toNat_ofNat, BitVec.extractLsb'_toNat, Nat.shiftRight_eq_div_pow, show (2 : Nat) ^ (8 * (x - pa)) = 256 ^ (x - pa) by rw [Nat.pow_mul]]

theorem watchFor_nil {d : Dev} (h : d.watches = []) (s : Squad) (va : Nat) : watchFor d s va = none := by
  unfold watchFor
  rw [h]
  rfl

theorem watches_of_sansMem {d d' : Dev} (h : d'.sansMem = d.sansMem) : d'.watches = d.watches := (congrArg Dev.watches h :)

/-- A step at global memory writes the place it read, and a hash. -/
theorem applyStep_eq (d : Dev) (a : Acc) (v : DWord) :
    ∃ g, applyStep d a v true = { writeAt d a ((natLe v.toNat a.len).map some) with groups := g } := by
  unfold applyStep hashWrite setGroup
  simp only [Bool.not_true, Bool.false_eq_true, if_false]
  split <;> exact ⟨_, rfl⟩

/-- What an atomic step comes to: its place is written, and its old values wait for the registers. -/
theorem performAtomic_eq {d : Dev} {k : Nat} {a : Acc} {op : AtomOp} {xs : FMap DWord} (ho : a.op = .atom op true xs) (hr : a.rel = none)
    (hq : a.acq = none) (hs : a.space = 0) (hw : d.watches = []) (hm : d.marks = []) :
    let r := foldStep (atomNew op a.ty) (BitVec.ofNat 64 (leNat (readAt d a).2)) xs
    ∃ g w rl f, SquadsOnly a.sq { writeAt (readAt d a).1 a ((natLe r.1.toNat a.len).map some) with groups := g, host := w, rels := rl } f ∧
      performAtomic d k a = stepDone f k a true r.2 := by
  intro r
  have hmarks : (readAt d a).1.marks = [] := by
    rcases readAt_cases d a with ⟨h, -⟩ | ⟨-, h⟩
    · exact absurd hs h
    · rw [h]
      exact marks_loadPrep hm ..
  have hwatch : (readAt d a).1.watches = [] := (watches_of_sansMem (sansMem_readAt d a)).trans hw
  have hplain : (a.space = 0 && op = .add && a.ty.isFloat && shas (readAt d a).1.marks (a.pa / 64)) = false := by
    rw [hmarks]
    simp [shas]
  obtain ⟨g, hg⟩ := applyStep_eq (readAt d a).1 a r.1
  have hwatch' : (applyStep (readAt d a).1 a r.1 true).watches = [] := by
    rw [hg]
    show (writeAt (readAt d a).1 a ((natLe r.1.toNat a.len).map some)).watches = []
    rcases writeAt_cases (readAt d a).1 a ((natLe r.1.toNat a.len).map some) with ⟨-, p, he⟩ | ⟨-, p, he⟩ | ⟨-, he⟩ <;> rw [he]
    · exact (watches_of_sansMem (sansMem_storeBytes ..)).trans hwatch
    · exact hwatch
    · exact hwatch
  obtain ⟨w, rl, hf⟩ := stepSync_leaves hq (applyStep (readAt d a).1 a r.1 true) a.len (relsAt d a.space a.pa a.len) fun _ => true
  refine ⟨g, w, rl, _, by rw [hg] at hf; exact hf, ?_⟩
  rw [← hg]
  unfold performAtomic
  simp only [hr, ho, hplain, Bool.false_eq_true, if_false]
  rw [watchFor_nil hwatch']

/-- A step whose old values are to be written is settled with its access outstanding. -/
theorem near_stepDone {d : Dev} {a : Acc} (h : Idle d a.sq) (k : Nat) (olds : FMap DWord) :
    Near a.sq { d with accs := fput d.accs k { a with op := .ret olds, len := 0, rel := none, acq := none, sync := false } } (stepDone d k a true olds) := by
  have hi : Idle { d with accs := fput d.accs k { a with op := .ret olds, len := 0, rel := none, acq := none, sync := false } } a.sq := by
    refine ⟨fun p hp => ?_, h.cmds, h.squad, h.live, h.whole⟩
    rcases fput_mem hp with rfl | hp
    · rfl
    · exact h.fences p hp
  unfold stepDone
  rw [if_pos rfl, hi.settle]
  exact near_settleClaims _ _

/-- An atomic step that nothing holds back is performed. -/
theorem atomicStep_performs {d : Dev} {k : Nat} {a : Acc} {op : AtomOp} {xs : FMap DWord} (h : Performable d k a) (ho : a.op = .atom op true xs)
    (hg : a.gated = false) (hw : d.watches = []) (hp : metPoison d a = false) : atomicStep d k .none = performAtomic d k a := by
  obtain ⟨here, ready, -, -, -, -, dbg, -⟩ := h
  have hstep : a.isStep = true := by unfold Acc.isStep; rw [ho]
  have hturn : stepTurn d k a = true := by unfold stepTurn; rw [watchFor_nil hw]
  have hsame : ({ a with gated := false } : Acc) = a := by rw [← hg]
  unfold atomicStep
  rw [here]
  dsimp only
  rw [if_pos hstep]
  unfold sliceStep
  rw [if_neg (by simp [hg, ready, hturn])]
  simp only [errFatal, errBad, hp, Bool.or_self, Bool.false_eq_true, if_false]
  show takeStep d k a = _
  unfold takeStep
  dsimp only
  rw [watchFor_nil hw]
  show passGate d k a = _
  unfold passGate
  simp only [hg, Bool.false_eq_true, if_false]
  rw [hsame]
  unfold undoAcc
  simp [dbg]

/-- The step of an atomic with return (R167, R168). -/
theorem atomicStep_completes (s : State) (k : Nat) (a : Acc) (op : AtomOp) (xs : FMap DWord) (h : Performable s.dev k a) (ho : a.op = .atom op true xs)
    (hr : a.rel = none) (hq : a.acq = none) (hg : a.gated = false) (hs : a.space = 0) (hw : s.dev.watches = []) (hm : s.dev.marks = [])
    (hp : metPoison s.dev a = false) :
    let o := BitVec.ofNat 64 (leNat (readAt s.dev a).2)
    let r := foldStep (atomNew op a.ty) o xs
    ∃ t b, exec (.atomicStepAtSlice k .none) s = .next t ∧ fget t.dev.accs k = some b ∧ b.op = .ret r.2 ∧ b.dest = a.dest ∧
      ∀ x, a.pa ≤ x → x < a.pa + a.len → noMemory x = false → loadByte t.dev a.set x a.pol = r.1.extractLsb' (8 * (x - a.pa)) 8 := by
  intro o r
  obtain ⟨g, w, rl, f, hf, he⟩ := performAtomic_eq (k := k) ho hr hq hs hw hm
  have hidle : Idle f a.sq := by
    obtain ⟨hacc, hcmd, hsq⟩ := writeAt_frame (readAt s.dev a).1 a ((natLe r.1.toNat a.len).map some)
    have hm' := sansMem_readAt s.dev a
    have hacc' : f.accs = s.dev.accs := ((congrArg Dev.accs hf.rest :).trans hacc).trans (accs_of_sansMem hm')
    have hcmd' : f.cmds = s.dev.cmds := ((congrArg Dev.cmds hf.rest :).trans hcmd).trans (cmds_of_sansMem hm')
    have hsq' := hsq.trans (squads_of_sansMem hm')
    refine h.idle.of (fun p hp => hacc' ▸ hp) hcmd' ?_ (hf.state.trans ?_) (hf.ending.trans ?_)
    · rw [hf.here]
      exact hsq' ▸ h.idle.squad
    · exact congrArg Squad.state (squadOf_congr hsq' a.sq)
    · exact congrArg Squad.ending (squadOf_congr hsq' a.sq)
  have hn := (near_stepDone hidle k r.2).kept
  rw [← he] at hn
  refine ⟨{ s with dev := performAtomic s.dev k a }, { a with op := .ret r.2, len := 0, rel := none, acq := none, sync := false }, ?_,
    by rw [hn.accs]; exact fget_fput_self .., rfl, rfl, fun x h1 h2 hx => ?_⟩
  · have hexec : exec (.atomicStepAtSlice k .none) s = .next { s with dev := atomicStep s.dev k .none } := rfl
    rw [hexec, atomicStep_performs h ho hg hw hp]
  · rcases writeAt_cases (readAt s.dev a).1 a ((natLe r.1.toNat a.len).map some) with ⟨-, p, hwr⟩ | ⟨h0, -⟩ | ⟨h0, -⟩
    · rw [hwr] at hf
      have hrest := hf.rest
      rw [loadByte_congr (hn.mem.trans (congrArg Dev.mem hrest :)) (hn.l2.trans (congrArg Dev.l2 hrest :)) (hn.l1.trans (congrArg Dev.l1 hrest :)) a.set x a.pol]
      refine (loadByte_storeBytes (readAt s.dev a).1 a.set a.pa ((natLe r.1.toNat a.len).map some) a.pol a.threads hx).trans ?_
      rw [byteFor_natLe r.1 h1 h2]
      rfl
    · omega
    · omega

/-! ### Old values that arrive -/

/-- The old value of a step arrives in its lane's register. -/
theorem ret_arrives (s : State) (k ln : Nat) (a : Acc) (x : DWord) (i : Nat) (ty : Ty) (hi : Bool) (h : Performable s.dev k a) (ho : a.op = .ret [(ln, x)])
    (hd : a.dest = .v i ty hi) : ∃ t, exec (.loadDataReturn k .none) s = .next t ∧ fget t.dev.accs k = none ∧ ∀ j m, (squadOf t.dev a.sq).v j m =
      ((squadOf s.dev a.sq).write ln (.v (BitVec.ofNat 6 i) false false hi) (loadVal a.ty x.toNat).2 (loadVal a.ty x.toNat).1).v j m := by
  have hw : writeDest s.dev a ln x.toNat =
      setSquad s.dev a.sq fun q => q.write ln (.v (BitVec.ofNat 6 i) false false hi) (loadVal a.ty x.toNat).2 (loadVal a.ty x.toNat).1 := by
    unfold writeDest
    rw [hd]
  have hdone : dataReturn s.dev k .none = dropAcc (writeDest s.dev a ln x.toNat) k a := by
    simp [dataReturn, h.here, ho, errBad, noteErr, noteErrAt, undoAcc, h.dbg, performRet]
  have hidle : Idle (writeDest s.dev a ln x.toNat) a.sq := by
    have hq := squadsOnly_setSquad a.sq s.dev (fun q => q.write ln (.v (BitVec.ofNat 6 i) false false hi) (loadVal a.ty x.toNat).2 (loadVal a.ty x.toNat).1)
      (fun q => (write_v_state q ln _ _ _ _ _ _).1) fun q => (write_v_state q ln _ _ _ _ _ _).2
    rw [hw]
    exact h.idle.of (fun p hp => hp) rfl (hq.here.trans h.squad) hq.state hq.ending
  obtain ⟨hk, -, halike⟩ := hidle.near_dropAcc k
  refine ⟨{ s with dev := dropAcc (writeDest s.dev a ln x.toNat) k a }, by rw [exec_loadDataReturn, hdone], ?_, fun j m => ?_⟩
  · rw [hk.accs, fget_fdel, if_pos rfl]
  · rw [halike.v, hw]
    exact congrArg (fun q => Squad.v q j m) (squadOf_setSquad _ h.squad)

/-! ### WAITV's ends -/

theorem waitvWake_wakes {d : Dev} {u ln : Nat} {w : Watch} (h : watchOf d u ln = some w) (hc : isPeer w.line = true ∨ watchLine d w.pol w.line ≠ w.seen) :
    waitvWake d u ln = setLane d u ln fun l => { l with wait := .run } := by
  unfold waitvWake
  rw [h]
  exact if_pos (by simpa using hc)

/-- A lane that waits in WAITV has its watch. -/
theorem watch_of_watchOf {d : Dev} {u ln : Nat} {w : Watch} (h : watchOf d u ln = some w) : (laneOf d u ln).watch = some w := by
  unfold watchOf at h
  cases hg : fget d.squads u with
  | none => rw [hg] at h; cases h
  | some s =>
    rw [hg] at h
    dsimp only at h
    split at h
    · rw [laneOf, squadOf, fgetD, hg]
      exact h
    · cases h

theorem waitvExpire_expires {d : Dev} {u ln : Nat} {w : Watch} (h : watchOf d u ln = some w) (hl : w.limit ≠ 0)
    (ht : w.since + w.limit ≤ (clusterOf d ((squadOf d u).core / 7)).etime) :
    waitvExpire d u ln = logLanes d (settleClaims (setSquad d u fun q =>
      (q.write ln (.q (BitVec.ofNat 3 w.dest) false) .none 0).setLane ln Lane.advance) u) u [ln] := by
  unfold waitvExpire
  rw [h]
  dsimp only
  rw [if_pos (by simp [hl, ht]), loseWatch, watch_of_watchOf h]

/-! ### Walks -/

/-- What a filter keeps is found where it was. -/
theorem fget_filter_of {β : Type} {m : FMap β} {k : Nat} {v : β} {P : Nat × β → Bool} (h : fget m k = some v) (hp : P (k, v) = true) :
    fget (m.filter P) k = some v := by
  induction m with
  | nil => cases h
  | cons q t ih =>
    obtain ⟨a, b⟩ := q
    by_cases ha : a = k
    · subst ha
      obtain rfl : b = v := by simpa [fget] using h
      simp [hp, fget]
    · have ht : fget t k = some v := by simpa [fget, ha] using h
      cases hq : P (a, b)
      · rw [List.filter_cons_of_neg (by simp [hq])]
        exact ih ht
      · rw [List.filter_cons_of_pos hq]
        simpa [fget, ha] using ih ht

/-- A walk that ends well leaves its translation held and no walk (R297). -/
theorem walkDone_ok {d : Dev} {i : Nat} {k : Walk} {l : Leaf} (h : fget d.walks i = some k) (hr : k.res = none) (hw : walkPage d k.vmid k.asid k.va = .ok l) :
    walkDone d i .none = { tlbFill d (168 + k.cluster) k.vmid k.asid l with walks := fdel d.walks i } := by
  unfold walkDone
  rw [h]
  simp only [hr, Option.isSome_none, errFatal, errBad, Bool.false_eq_true, if_false, noteErrAt]
  rw [hw]

/-- A walk that ends badly leaves its cause for the lanes that wait (R297). -/
theorem walkDone_error {d : Dev} {i : Nat} {k : Walk} {c : Cause} (h : fget d.walks i = some k) (hr : k.res = none)
    (hw : walkPage d k.vmid k.asid k.va = .error c) : walkDone d i .none = sweepWalks { d with walks := fput d.walks i { k with res := some c } } := by
  unfold walkDone
  rw [h]
  simp only [hr, Option.isSome_none, errFatal, errBad, Bool.false_eq_true, if_false, noteErrAt]
  rw [hw]

theorem tlbFill_holds (d : Dev) (c : Nat) (vmid : BitVec 12) (asid : BitVec 16) (l : Leaf) :
    tlbFill d (168 + c) vmid asid l = tlbAdd d (168 + c) vmid asid l := by
  unfold tlbFill clusterBuf
  simp only
  rw [if_neg (by omega), if_neg (by omega)]

/-! ### Stores that are refused -/

/-- What is outstanding once a store of one lane is refused: no part of it, and what is left are accesses of the kinds that were. -/
theorem accs_refused {d : Dev} {k ln : Nat} {vc : Clock} {a : Acc} (h : fget d.accs k = some a) (hl : a.lanes = [(ln, vc)]) :
    fget (dropParts d a).accs k = none ∧ ∀ p ∈ (dropParts d a).accs, ∃ q ∈ d.accs, p.2.isFence = q.2.isFence := by
  have hdel : ∀ (ks : List Nat) (m : FMap Acc), (k ∈ ks ∨ fget m k = none) → fget (ks.foldl fdel m) k = none := by
    intro ks
    induction ks with
    | nil => exact fun m hm => hm.resolve_left List.not_mem_nil
    | cons j ks ih =>
      refine fun m hm => ih _ ?_
      rw [fget_fdel]
      rcases hm with hm | hm
      · rcases List.mem_cons.1 hm with rfl | hm
        · exact .inr (if_pos rfl)
        · exact .inl hm
      · refine .inr ?_
        split
        · rfl
        · exact hm
  have hsub : ∀ (ks : List Nat) (m : FMap Acc), ∀ p ∈ ks.foldl fdel m, p ∈ m := by
    intro ks
    induction ks with
    | nil => exact fun m p hp => hp
    | cons j ks ih => exact fun m p hp => fdel_subset (ih _ p hp)
  have hself : a.sameLane a = true := by simp [Acc.sameLane, hl]
  have hpart : k ∈ partsOfAcc d a := List.mem_map.2 ⟨(k, a), List.mem_filter.2 ⟨mem_of_fget h, by simp [hself]⟩, rfl⟩
  refine ⟨?_, fun p hp => ?_⟩
  · show fget (((partsOfAcc d a).foldl fdel d.accs).map fun p => (p.1, (fun b => if a.sameLine b then { b with full := false } else b) p.2)) k = none
    rw [fget_map _ _ (fun b : Acc => if a.sameLine b then { b with full := false } else b), hdel _ _ (.inl hpart)]
    rfl
  · obtain ⟨q, hq, rfl⟩ := List.mem_map.1 hp
    refine ⟨q, hsub _ _ q hq, ?_⟩
    dsimp only
    split <;> rfl

theorem isFence_without (b : Acc) (lns : List Nat) : (b.without lns).isFence = b.isFence := by
  unfold Acc.isFence Acc.without
  dsimp only
  cases b.op <;> rfl

/-- The accesses that go on where releases are lost are of the kinds that were, at keys that were. -/
theorem loseReleases_accs (d : Dev) (i : Nat) (a : Acc) :
    (∀ k, fget d.accs k = none → fget (loseReleases d i a).accs k = none) ∧ ∀ p ∈ (loseReleases d i a).accs, ∃ q ∈ d.accs, p.2.isFence = q.2.isFence := by
  have hmem : ∀ p ∈ (loseReleases d i a).accs, ∃ q ∈ d.accs, p.1 = q.1 ∧ p.2.isFence = q.2.isFence := by
    intro p hp
    obtain ⟨q, hq, he⟩ := List.mem_filterMap.1 hp
    refine ⟨q, hq, ?_⟩
    dsimp only at he
    split at he
    · obtain rfl := Option.some.inj he
      exact ⟨rfl, rfl⟩
    · have key : ∀ b : Acc, b.isFence = q.2.isFence → (if b.lanes.isEmpty = true then none else some (q.1, b)) = some p →
          p.1 = q.1 ∧ p.2.isFence = q.2.isFence := by
        intro b hb hsome
        split at hsome
        · cases hsome
        · obtain rfl := Option.some.inj hsome
          exact ⟨rfl, hb⟩
      refine key _ ?_ he
      split
      · exact isFence_without ..
      · rfl
  refine ⟨fun k hk => ?_, fun p hp => ?_⟩
  · cases hg : fget (loseReleases d i a).accs k with
    | none => rfl
    | some b =>
      obtain ⟨q, hq, he, -⟩ := hmem _ (mem_of_fget hg)
      have : (fget d.accs k).isSome = true := (mem_fkeys d.accs k).1 (List.mem_map.2 ⟨q, hq, he.symm⟩)
      rw [hk] at this
      cases this
  · obtain ⟨q, hq, -, he⟩ := hmem p hp
    exact ⟨q, hq, he⟩

/-- A store that the host or a peer refuses leaves its cause with the lane (R315). -/
theorem storeFault_holds (s : State) (k ln : Nat) (a : Acc) (vc : Clock) (h : Performable s.dev k a) (hn : a.noReturn = true) (hg : a.gated = false)
    (hl : a.lanes = [(ln, vc)]) (hw : whole s.dev a = true) (hs : a.space = 2 ∨ (a.space = 0 ∧ hostBase ≤ a.pa))
    (hlane : (fget (squadOf s.dev a.sq).lanes ln).isSome = true) :
    ∃ t, exec (.impreciseStoreFault k) s = .next t ∧ fget t.dev.accs k = none ∧ t.dev.mem = s.dev.mem ∧ t.dev.l2 = s.dev.l2 ∧ t.dev.l1 = s.dev.l1 ∧
      (laneOf t.dev a.sq ln).imps = (laneOf s.dev a.sq ln).imps ++ [⟨a.depth, 0x15, tvAddr a.va⟩] := by
  obtain ⟨l, hl1⟩ := Option.isSome_iff_exists.1 hlane
  obtain ⟨hacc0, hacc1⟩ := accs_refused h.here hl
  let d1 := setLane (holdCause (dropParts s.dev a) a ln 0x15) a.sq ln fun l => { l with frel := [] }
  have hd1 : d1 = setLane (holdCause (dropParts s.dev a) a ln 0x15) a.sq ln fun l => { l with frel := [] } := rfl
  have hq1 : SquadsOnly a.sq (dropParts s.dev a) d1 := (squadsOnly_setLane ..).trans (squadsOnly_setLane ..)
  clear_value d1
  obtain ⟨hlost0, hlost1⟩ := loseReleases_accs d1 k a
  have haccs : d1.accs = (dropParts s.dev a).accs := (congrArg Dev.accs hq1.rest :)
  have hidle : Idle (loseReleases d1 k a) a.sq := by
    refine ⟨fun p hp => ?_, (congrArg Dev.cmds hq1.rest :).trans h.cmds, hq1.here.trans h.squad, ?_, hq1.ending.trans h.whole⟩
    · obtain ⟨q, hq, he⟩ := hlost1 p hp
      rw [haccs] at hq
      obtain ⟨r, hr, he'⟩ := hacc1 q hq
      rw [he, he', h.fences r hr]
    · exact hq1.state.symm ▸ h.live
  have hfault : storeFault s.dev k = settle (loseReleases d1 k a) a.sq := by
    have hcmds : ∀ e : Dev, e.cmds = [] → loseSignals e k a = e := fun e he => by unfold loseSignals; rw [he]; rfl
    have hkind : (a.space == 2 || (a.space == 0 && decide (hostBase ≤ a.pa))) = true := by simpa using hs
    unfold storeFault
    rw [h.here]
    dsimp only
    rw [if_pos (by simp [hn, h.ready, hg, hw, hkind])]
    unfold impreciseFault
    rw [hl, List.foldl_cons, List.foldl_nil]
    dsimp only
    rw [show fget (squadOf (dropParts s.dev a) a.sq).lanes ln = some l from hl1]
    dsimp only
    rw [← hd1, hcmds _ hidle.cmds]
  have hnear := near_settleClaims (loseReleases d1 k a) a.sq
  rw [← hidle.settle, ← hfault] at hnear
  obtain ⟨hk, -, halike⟩ := hnear
  refine ⟨{ s with dev := storeFault s.dev k }, rfl, ?_, hk.mem.trans (congrArg Dev.mem hq1.rest :), hk.l2.trans (congrArg Dev.l2 hq1.rest :),
    hk.l1.trans (congrArg Dev.l1 hq1.rest :), ?_⟩
  · rw [hk.accs]
    exact hlost0 k (by rw [haccs]; exact hacc0)
  · have hb := congrArg Lane.imps (halike.lane ln)
    refine (hb :).trans ?_
    show (laneOf d1 a.sq ln).imps = _
    have hlanes : fget (squadOf d1 a.sq).lanes ln = some { l with imps := l.imps ++ [⟨a.depth, 0x15, tvAddr a.va⟩], frel := [] } := by
      have hsq : (fget (dropParts s.dev a).squads a.sq).isSome = true := h.squad
      rw [hd1, setLane, squadOf_setSquad _ (by unfold holdCause setLane; simpa using hsq), lane_setLane, if_pos rfl, holdCause, setLane,
        squadOf_setSquad _ hsq, lane_setLane, if_pos rfl, show fget (squadOf (dropParts s.dev a) a.sq).lanes ln = some l from hl1]
      rfl
    rw [laneOf, Squad.lane, fgetD, hlanes, laneOf, Squad.lane, fgetD, hl1]
    rfl

/-- Settles O42. -/
theorem atomicsAndAccessEventsComplete : Obligations.AtomicsAndAccessEventsComplete := by
  unfold Obligations.AtomicsAndAccessEventsComplete
  refine ⟨foldStep_eq, casStep_eq, fun s k a op xs h ho hr hq hg hs _ hw hm _ _ hp => atomicStep_completes s k a op xs h ho hr hq hg hs hw hm hp,
    fun s k ln a x i ty hi h ho hd _ => ret_arrives s k ln a x i ty hi h ho hd, fun s u ln w h hc => ?_, fun s u ln w h hl ht => ?_,
    fun s i k l h hr hw => ?_, fun s i u ln c k h hr hw hu hwait hlane => ?_, fun s k ln a vc h hn hg hl hw hs hlane => storeFault_holds s k ln a vc h hn hg hl hw hs hlane⟩
  · have he : exec (.waitvLineWriteWake u ln) s = .next { s with dev := waitvWake s.dev u ln } := rfl
    rw [he, waitvWake_wakes h hc]
  · have he : exec (.waitvTimeout u ln) s = .next { s with dev := waitvExpire s.dev u ln } := rfl
    rw [he, waitvExpire_expires h hl ht]
  · refine ⟨_, rfl, ?_⟩
    dsimp only
    rw [walkDone_ok h hr hw, tlbFill_holds]
    refine ⟨?_, rfl, rfl, s.dev.fresh, fget_fput_self ..⟩
    rw [fget_fdel, if_pos rfl]
  · refine ⟨_, rfl, ?_⟩
    dsimp only
    rw [walkDone_error h hr hw]
    refine ⟨fget_filter_of (fget_fput_self ..) ?_, rfl, rfl⟩
    obtain ⟨q, hq⟩ := Option.isSome_iff_exists.1 hu
    obtain ⟨l, hl⟩ := Option.isSome_iff_exists.1 hlane
    have hq' : squadOf s.dev u = q := by rw [squadOf, fgetD, hq]; rfl
    rw [hq'] at hl
    have hl' : l.wait = .walk i := by
      rw [laneOf, hq', Squad.lane, fgetD, hl] at hwait
      exact hwait
    refine Bool.or_eq_true_iff.2 (.inr (List.any_eq_true.2 ⟨(u, q), mem_of_fget hq, List.any_eq_true.2 ⟨(ln, l), mem_of_fget hl, ?_⟩⟩))
    rw [hl']
    exact beq_self_eq_true _

end Sys2Proof.Machine
end

section
/-! SUPPORT. The one rounding, over the rationals (R64 to R75, R78 to R80). -/
namespace Sys2Proof.Machine

/-! ### Powers of two -/

theorem two_zpow_pos (l : Int) : (0 : ℚ) < 2 ^ l := zpow_pos (by norm_num) l

/-- A power of two as a fraction of natural powers. -/
theorem two_zpow_eq (l : Int) : (2 : ℚ) ^ l = 2 ^ l.toNat / 2 ^ (-l).toNat := by
  rw [eq_div_iff (by positivity), ← zpow_natCast, ← zpow_natCast, ← zpow_add₀ (by norm_num)]
  congr 1
  omega

theorem two_zpow_lt {a b : Int} : (2 : ℚ) ^ a < 2 ^ b ↔ a < b := zpow_lt_zpow_iff_right₀ (by norm_num)
theorem two_zpow_le {a b : Int} : (2 : ℚ) ^ a ≤ 2 ^ b ↔ a ≤ b := zpow_le_zpow_iff_right₀ (by norm_num)

/-- The exponents of two powers between which a number lies are one. -/
theorem log_unique {x : ℚ} {l l' : Int} (h1 : (2 : ℚ) ^ l ≤ x) (h2 : x < 2 ^ (l + 1)) (h1' : (2 : ℚ) ^ l' ≤ x) (h2' : x < 2 ^ (l' + 1)) : l = l' := by
  have a := two_zpow_lt.1 (h1.trans_lt h2')
  have b := two_zpow_lt.1 (h1'.trans_lt h2)
  omega

/-! ### The parts of a number in units of a power of two -/

theorem inUnits_lt {n d : Nat} (hd : 0 < d) (q : Int) : (inUnits n d q).2.1 < (inUnits n d q).2.2 := Nat.mod_lt _ (by positivity)

theorem inUnits_pos {n d : Nat} (hd : 0 < d) (q : Int) : 0 < (inUnits n d q).2.2 := by
  show 0 < d * 2 ^ q.toNat
  positivity

/-- A magnitude in units is its whole part and its remainder. -/
theorem inUnits_eq {n d : Nat} (hd : 0 < d) (q : Int) :
    ((inUnits n d q).1 : ℚ) + (inUnits n d q).2.1 / (inUnits n d q).2.2 = (n : ℚ) / d / 2 ^ q := by
  show (((n * 2 ^ (-q).toNat / (d * 2 ^ q.toNat) : Nat) : ℚ)) + ((n * 2 ^ (-q).toNat % (d * 2 ^ q.toNat) : Nat) : ℚ) / ((d * 2 ^ q.toNat : Nat) : ℚ) = _
  have hdd : (0 : ℚ) < ((d * 2 ^ q.toNat : Nat) : ℚ) := by positivity
  have hmod : ((n * 2 ^ (-q).toNat : Nat) : ℚ) = ((d * 2 ^ q.toNat : Nat) : ℚ) * ((n * 2 ^ (-q).toNat / (d * 2 ^ q.toNat) : Nat) : ℚ) +
      ((n * 2 ^ (-q).toNat % (d * 2 ^ q.toNat) : Nat) : ℚ) := by
    exact_mod_cast (Nat.div_add_mod (n * 2 ^ (-q).toNat) (d * 2 ^ q.toNat)).symm
  have hval : (n : ℚ) / d / 2 ^ q = ((n * 2 ^ (-q).toNat : Nat) : ℚ) / ((d * 2 ^ q.toNat : Nat) : ℚ) := by
    rw [two_zpow_eq q]
    push_cast
    field_simp
  rw [hval, hmod]
  field_simp

/-- The whole part of a magnitude in units encloses it from below. -/
theorem inUnits_encloses {n d : Nat} (hd : 0 < d) (q : Int) :
    ((inUnits n d q).1 : ℚ) * 2 ^ q ≤ (n : ℚ) / d ∧ (n : ℚ) / d < ((inUnits n d q).1 + 1) * 2 ^ q := by
  have h := inUnits_eq (n := n) hd q
  have hq := two_zpow_pos q
  have hdd : (0 : ℚ) < ((inUnits n d q).2.2 : ℚ) := by exact_mod_cast inUnits_pos hd q
  have hr : ((inUnits n d q).2.1 : ℚ) < (inUnits n d q).2.2 := by exact_mod_cast inUnits_lt hd q
  have hr1 : ((inUnits n d q).2.1 : ℚ) / (inUnits n d q).2.2 < 1 := (div_lt_one hdd).2 hr
  have hr0 : (0 : ℚ) ≤ ((inUnits n d q).2.1 : ℚ) / (inUnits n d q).2.2 := by positivity
  rw [← le_div_iff₀ hq, ← div_lt_iff₀ hq, ← h]
  constructor <;> linarith

/-- The number below which a magnitude lies within a unit is its whole part in units. -/
theorem inUnits_unique {n d : Nat} (hd : 0 < d) {q : Int} {k : Nat} (h1 : (k : ℚ) * 2 ^ q ≤ (n : ℚ) / d) (h2 : (n : ℚ) / d < (k + 1 : ℚ) * 2 ^ q) :
    (inUnits n d q).1 = k := by
  obtain ⟨h3, h4⟩ := inUnits_encloses (n := n) hd q
  have hq := two_zpow_pos q
  have a : (k : ℚ) < (inUnits n d q).1 + 1 := lt_of_mul_lt_mul_right (h1.trans_lt h4) hq.le
  have b : ((inUnits n d q).1 : ℚ) < k + 1 := lt_of_mul_lt_mul_right (h3.trans_lt h2) hq.le
  have a' : k < (inUnits n d q).1 + 1 := by exact_mod_cast a
  have b' : (inUnits n d q).1 < k + 1 := by exact_mod_cast b
  omega

/-- The part of a unit that lies above the whole part. -/
theorem inUnits_part {n d : Nat} (hd : 0 < d) (q : Int) :
    ((inUnits n d q).2.1 : ℚ) / (inUnits n d q).2.2 = (n : ℚ) / d / 2 ^ q - (inUnits n d q).1 := by
  rw [← inUnits_eq hd q]
  ring

/-- Nothing remains exactly where a magnitude is its whole part. -/
theorem inUnits_exact {n d : Nat} (hd : 0 < d) (q : Int) : (inUnits n d q).2.1 = 0 ↔ ((inUnits n d q).1 : ℚ) * 2 ^ q = (n : ℚ) / d := by
  have h := inUnits_part (n := n) hd q
  have hq := two_zpow_pos q
  have hdd : (0 : ℚ) < ((inUnits n d q).2.2 : ℚ) := by exact_mod_cast inUnits_pos hd q
  rw [← eq_div_iff hq.ne']
  constructor
  · intro h0
    rw [h0, Nat.cast_zero, zero_div] at h
    linarith
  · intro he
    rw [← he, sub_self, div_eq_zero_iff] at h
    exact_mod_cast h.resolve_right hdd.ne'

/-- The exponent of a magnitude. -/
theorem log2r_spec {n d : Nat} (hn : 0 < n) (hd : 0 < d) : (2 : ℚ) ^ log2r n d ≤ (n : ℚ) / d ∧ (n : ℚ) / d < 2 ^ (log2r n d + 1) := by
  have hdq : (0 : ℚ) < d := by exact_mod_cast hd
  have hn1 : ((2 : ℚ) ^ (n.log2 : Int)) ≤ n := by
    rw [zpow_natCast]
    exact_mod_cast Nat.log2_self_le hn.ne'
  have hn2 : (n : ℚ) < 2 ^ ((n.log2 : Int) + 1) := by
    rw [show (n.log2 : Int) + 1 = ((n.log2 + 1 : Nat) : Int) by push_cast; rfl, zpow_natCast]
    exact_mod_cast Nat.lt_log2_self
  have hd1 : ((2 : ℚ) ^ (d.log2 : Int)) ≤ d := by
    rw [zpow_natCast]
    exact_mod_cast Nat.log2_self_le hd.ne'
  have hd2 : (d : ℚ) < 2 ^ ((d.log2 : Int) + 1) := by
    rw [show (d.log2 : Int) + 1 = ((d.log2 + 1 : Nat) : Int) by push_cast; rfl, zpow_natCast]
    exact_mod_cast Nat.lt_log2_self
  have hlow : (2 : ℚ) ^ ((n.log2 : Int) - d.log2 - 1) ≤ (n : ℚ) / d := by
    rw [le_div_iff₀ hdq]
    calc (2 : ℚ) ^ ((n.log2 : Int) - d.log2 - 1) * d ≤ 2 ^ ((n.log2 : Int) - d.log2 - 1) * 2 ^ ((d.log2 : Int) + 1) :=
          mul_le_mul_of_nonneg_left hd2.le (two_zpow_pos _).le
      _ = 2 ^ (n.log2 : Int) := by rw [← zpow_add₀ (by norm_num)]; congr 1; ring
      _ ≤ n := hn1
  have hhigh : (n : ℚ) / d < 2 ^ ((n.log2 : Int) - d.log2 + 1) := by
    rw [div_lt_iff₀ hdq]
    calc (n : ℚ) < 2 ^ ((n.log2 : Int) + 1) := hn2
      _ = 2 ^ ((n.log2 : Int) - d.log2 + 1) * 2 ^ (d.log2 : Int) := by rw [← zpow_add₀ (by norm_num)]; congr 1; ring
      _ ≤ 2 ^ ((n.log2 : Int) - d.log2 + 1) * d := mul_le_mul_of_nonneg_left hd1 (two_zpow_pos _).le
  have hcmp : n * 2 ^ (-((n.log2 : Int) - d.log2)).toNat < d * 2 ^ ((n.log2 : Int) - d.log2).toNat ↔ (n : ℚ) / d < 2 ^ ((n.log2 : Int) - d.log2) := by
    rw [two_zpow_eq, div_lt_div_iff₀ hdq (by positivity), mul_comm ((2 : ℚ) ^ ((n.log2 : Int) - d.log2).toNat)]
    exact_mod_cast Iff.rfl
  unfold log2r
  dsimp only
  split
  · next h =>
    refine ⟨hlow, ?_⟩
    rw [sub_add_cancel]
    exact hcmp.1 h
  · next h => exact ⟨not_lt.1 fun hx => h (hcmp.2 hx), hhigh⟩

/-! ### Which way a mode rounds -/

/-- A mode rounds a remainder up where it takes the larger of the two values (R72, R75). -/
theorem roundsUp_iff (mode : Rnd) (neg even : Bool) {odd : Prop} (ho : even = true ↔ ¬ odd) {r d draw : Nat} (hr : r < d) (hw : draw < 65536) :
    roundsUp mode neg even r d draw = true ↔ takesLarger mode neg odd ((r : ℚ) / d) draw := by
  have hd : (0 : ℚ) < d := by exact_mod_cast Nat.zero_lt_of_lt hr
  unfold roundsUp takesLarger
  by_cases h0 : r = 0
  · subst h0
    rw [if_pos rfl, Nat.cast_zero, zero_div]
    cases mode
    · simp
    · simp
    · simp
    · simp
    · simp
      omega
  · have hr0 : (0 : ℚ) < r := by exact_mod_cast Nat.pos_of_ne_zero h0
    have hne : (r : ℚ) / d ≠ 0 := (div_pos hr0 hd).ne'
    rw [if_neg h0]
    cases mode
    · have h1 : (1 / 2 : ℚ) < r / d ↔ d < 2 * r := by
        rw [div_lt_div_iff₀ (by norm_num) hd, one_mul, mul_comm]
        exact_mod_cast Iff.rfl
      have h2 : ((r : ℚ) / d = 1 / 2) ↔ 2 * r = d := by
        rw [div_eq_div_iff hd.ne' (by norm_num), one_mul, mul_comm]
        exact_mod_cast Iff.rfl
      have h3 : (!even) = true ↔ odd := by
        rw [Bool.not_eq_true', ← Bool.not_eq_true, ho, not_not]
      simp only [Bool.or_eq_true, decide_eq_true_eq, Bool.and_eq_true, beq_iff_eq, h1, h2, h3]
    · simp
    · simp [hne]
    · simp [hne]
    · have hf : ⌊(65536 : ℚ) * (r / d)⌋ = ((r * 65536 / d : Nat) : Int) := by
        rw [show (65536 : ℚ) * (r / d) = ((r * 65536 : Nat) : ℚ) / (d : ℚ) by push_cast; ring, Rat.floor_natCast_div_natCast]
        rfl
      rw [hf, decide_eq_true_eq]
      exact_mod_cast Iff.rfl

/-- One magnitude lies below another (R73, R74). -/
theorem magLt_iff (k n2 : Nat) (q e2 : Int) : magLt k q n2 e2 = true ↔ (k : ℚ) * 2 ^ q < n2 * 2 ^ e2 := by
  have hq := two_zpow_pos q
  have h : (n2 : ℚ) * 2 ^ e2 = n2 * (2 ^ (e2 - q).toNat / 2 ^ (q - e2).toNat) * 2 ^ q := by
    have he := two_zpow_eq (e2 - q)
    rw [neg_sub] at he
    rw [← he, mul_assoc, ← zpow_add₀ (by norm_num), sub_add_cancel]
  rw [h, mul_lt_mul_iff_left₀ hq, magLt, decide_eq_true_eq, ← mul_div_assoc, lt_div_iff₀ (by positivity)]
  exact_mod_cast Iff.rfl

/-! ### The values of codes -/

/-- The value of a code's magnitude bits, in units of the smallest subnormal (R64, R67). -/
def unitsOf (m c : Nat) : Nat := if c / 2 ^ m = 0 then c else (2 ^ m + c % 2 ^ m) * 2 ^ (c / 2 ^ m - 1)

theorem unitsOf_lt_succ (m c : Nat) : unitsOf m c < unitsOf m (c + 1) := by
  have hm : 0 < 2 ^ m := by positivity
  unfold unitsOf
  by_cases hlast : c % 2 ^ m + 1 = 2 ^ m
  · have hdiv : (c + 1) / 2 ^ m = c / 2 ^ m + 1 := by
      rw [show c + 1 = 2 ^ m * (c / 2 ^ m + 1) by have := Nat.div_add_mod c (2 ^ m); rw [Nat.mul_add]; omega, Nat.mul_div_cancel_left _ hm]
    have hmod : (c + 1) % 2 ^ m = 0 := by
      rw [show c + 1 = 2 ^ m * (c / 2 ^ m + 1) by have := Nat.div_add_mod c (2 ^ m); rw [Nat.mul_add]; omega, Nat.mul_mod_right]
    rw [hdiv, hmod, if_neg (Nat.succ_ne_zero _), Nat.add_sub_cancel, Nat.add_zero]
    split
    · next h =>
      rw [h, pow_zero, Nat.mul_one]
      have := Nat.div_add_mod c (2 ^ m)
      rw [h, Nat.mul_zero, Nat.zero_add] at this
      omega
    · next h =>
      obtain ⟨e, he⟩ := Nat.exists_eq_succ_of_ne_zero h
      rw [he, Nat.succ_eq_add_one, Nat.add_sub_cancel, pow_succ, ← Nat.mul_assoc, Nat.mul_right_comm]
      exact Nat.mul_lt_mul_of_pos_right (by have := Nat.mod_lt c hm; omega) (by positivity)
  · have hlt : c % 2 ^ m + 1 < 2 ^ m := lt_of_le_of_ne (Nat.mod_lt c hm) hlast
    have hdiv : (c + 1) / 2 ^ m = c / 2 ^ m := by
      conv_lhs => rw [← Nat.div_add_mod c (2 ^ m), Nat.add_assoc, Nat.mul_add_div hm, Nat.div_eq_of_lt hlt, Nat.add_zero]
    have hmod : (c + 1) % 2 ^ m = c % 2 ^ m + 1 := by
      conv_lhs => rw [← Nat.div_add_mod c (2 ^ m), Nat.add_assoc, Nat.mul_add_mod, Nat.mod_eq_of_lt hlt]
    rw [hdiv, hmod]
    split
    · exact Nat.lt_succ_self _
    · exact Nat.mul_lt_mul_of_pos_right (by omega) (by positivity)

theorem unitsOf_strictMono (m : Nat) : StrictMono (unitsOf m) := strictMono_nat_of_lt_succ (unitsOf_lt_succ m)

/-- What a format's fields stand for. -/
theorem fieldVal_rat {f : FF} (hb : f.emin = 1 - f.bias) (neg : Bool) (c : Nat) :
    (fieldVal f neg (c / 2 ^ f.m) (c % 2 ^ f.m)).rat = some ((if neg then -1 else 1) * ((unitsOf f.m c : ℚ) * 2 ^ (f.emin - f.m))) := by
  unfold fieldVal unitsOf
  split
  · next h =>
    have hc : c % 2 ^ f.m = c := by
      have := Nat.div_add_mod c (2 ^ f.m)
      rw [h, Nat.mul_zero, Nat.zero_add] at this
      exact this
    rw [hc, FV.rat, mul_assoc]
  · next h =>
    obtain ⟨e, he⟩ := Nat.exists_eq_succ_of_ne_zero h
    rw [FV.rat, he, Nat.succ_eq_add_one, Nat.add_sub_cancel, mul_assoc]
    congr 2
    push_cast
    rw [mul_assoc, ← zpow_natCast (2 : ℚ) e, ← zpow_add₀ (by norm_num)]
    congr 2
    rw [hb]
    ring

/-- The code of a magnitude stands for it, where it is a value of the format (R64, R67). -/
theorem unitsOf_magCode {f : FF} (hb : f.emin = 1 - f.bias) {k : Nat} {q : Int} (hk : 0 < k) (hk2 : k ≤ 2 ^ (f.m + 1)) (hq : f.emin - f.m ≤ q) :
    (unitsOf f.m (magCode f k q) : ℚ) * 2 ^ (f.emin - f.m) = k * 2 ^ q := by
  have hm : 0 < 2 ^ f.m := by positivity
  have hl1 := Nat.log2_self_le hk.ne'
  have hl2 : k < 2 ^ (k.log2 + 1) := Nat.lt_log2_self
  have hunit : ∀ {j : Int} {y : Nat}, (y : ℚ) * 2 ^ j = k → (inUnits k 1 j).1 = y := by
    intro j y hy
    have hj := two_zpow_pos j
    refine inUnits_unique Nat.one_pos ?_ ?_
    · rw [Nat.cast_one, div_one, hy]
    · rw [Nat.cast_one, div_one, ← hy]
      nlinarith
  unfold magCode
  rw [if_neg hk.ne']
  dsimp only
  split
  · next h =>
    obtain ⟨t, ht⟩ := Int.eq_ofNat_of_zero_le (sub_nonneg.2 hq)
    have hcode : (inUnits k 1 (f.emin - f.m - q)).1 = k * 2 ^ t := by
      refine hunit ?_
      push_cast
      rw [mul_assoc, ← zpow_natCast (2 : ℚ) t, ← zpow_add₀ (by norm_num), show (t : Int) + (f.emin - f.m - q) = 0 by omega, zpow_zero, mul_one]
    have hlt : k * 2 ^ t < 2 ^ f.m := by
      calc k * 2 ^ t < 2 ^ (k.log2 + 1) * 2 ^ t := Nat.mul_lt_mul_of_pos_right hl2 (by positivity)
        _ = 2 ^ (k.log2 + 1 + t) := (pow_add ..).symm
        _ ≤ 2 ^ f.m := Nat.pow_le_pow_right (by norm_num) (by omega)
    rw [hcode, unitsOf, if_pos (Nat.div_eq_of_lt hlt)]
    push_cast
    rw [mul_assoc, ← zpow_natCast (2 : ℚ) t, ← zpow_add₀ (by norm_num)]
    congr 2
    omega
  · next h =>
    obtain ⟨sig, hsig, hs1, hs2⟩ : ∃ sig : Nat, (sig : ℚ) * 2 ^ ((k.log2 : Int) - f.m) = k ∧ 2 ^ f.m ≤ sig ∧ sig < 2 ^ (f.m + 1) := by
      by_cases hle : k.log2 ≤ f.m
      · refine ⟨k * 2 ^ (f.m - k.log2), ?_, ?_, ?_⟩
        · push_cast
          rw [mul_assoc, ← zpow_natCast (2 : ℚ), ← zpow_add₀ (by norm_num), show ((f.m - k.log2 : Nat) : Int) + ((k.log2 : Int) - f.m) = 0 by omega,
            zpow_zero, mul_one]
        · calc 2 ^ f.m = 2 ^ k.log2 * 2 ^ (f.m - k.log2) := by rw [← pow_add]; congr 1; omega
            _ ≤ k * 2 ^ (f.m - k.log2) := Nat.mul_le_mul_right _ hl1
        · calc k * 2 ^ (f.m - k.log2) < 2 ^ (k.log2 + 1) * 2 ^ (f.m - k.log2) := Nat.mul_lt_mul_of_pos_right hl2 (by positivity)
            _ = 2 ^ (f.m + 1) := by rw [← pow_add]; congr 1; omega
      · have hlog : k.log2 = f.m + 1 := by
          have h1 : 2 ^ k.log2 ≤ 2 ^ (f.m + 1) := hl1.trans hk2
          have := (Nat.pow_le_pow_iff_right (by norm_num : 1 < 2)).1 h1
          omega
        have hkeq : k = 2 ^ (f.m + 1) := le_antisymm hk2 (hlog ▸ hl1)
        refine ⟨2 ^ f.m, ?_, le_rfl, Nat.pow_lt_pow_right (by norm_num) (Nat.lt_succ_self _)⟩
        rw [hlog, hkeq]
        push_cast
        rw [show ((f.m : Int) + 1 - f.m) = 1 by ring, zpow_one, pow_succ]
    rw [hunit hsig]
    obtain ⟨e, he⟩ := Int.eq_ofNat_of_zero_le (by omega : 0 ≤ (k.log2 : Int) + q + f.bias - 1)
    have htop : ((k.log2 : Int) + q + f.bias).toNat = e + 1 := by omega
    have hfrac : sig - 2 ^ f.m < 2 ^ f.m := by rw [pow_succ] at hs2; omega
    have hdiv : ((e + 1) * 2 ^ f.m + (sig - 2 ^ f.m)) / 2 ^ f.m = e + 1 := by
      rw [Nat.mul_comm, Nat.mul_add_div hm, Nat.div_eq_of_lt hfrac, Nat.add_zero]
    have hmod : ((e + 1) * 2 ^ f.m + (sig - 2 ^ f.m)) % 2 ^ f.m = sig - 2 ^ f.m := by
      rw [Nat.mul_comm, Nat.mul_add_mod, Nat.mod_eq_of_lt hfrac]
    rw [htop, unitsOf, hdiv, hmod, if_neg (Nat.succ_ne_zero _), Nat.add_sub_cancel, Nat.add_sub_cancel' hs1, ← hsig]
    push_cast
    rw [mul_assoc, mul_assoc, ← zpow_natCast (2 : ℚ) e, ← zpow_add₀ (by norm_num), ← zpow_add₀ (by norm_num)]
    congr 2
    omega

end Sys2Proof.Machine
end

section
/-! SUPPORT. Rounding to any format whose codes stand in the order of their values (R72 to R74, R78, R79). -/
namespace Sys2Proof.Machine

/-! ### What a format's codes are -/

/-- A decoder reads a format's codes: magnitudes up to `top`, the code of the largest finite value, under a sign, then infinities and NaN. -/
structure Codes (f : FF) (dec : Nat → FV) (top : Nat) : Prop where
  bias  : f.emin = 1 - f.bias
  range : f.emin - f.m ≤ f.maxE
  norm  : 0 < f.maxK ∧ f.maxK ≤ 2 ^ (f.m + 1)
  max   : (unitsOf f.m top : ℚ) * 2 ^ (f.emin - f.m) = f.maxK * 2 ^ f.maxE
  fit   : ∀ neg, (neg = true → f.signed = true) → signBit f neg + top < 2 ^ f.wid
  read  : ∀ neg mag, (neg = true → f.signed = true) → mag ≤ top → mag ≠ 0 ∨ neg = false ∨ f.negZero = true →
    dec (signBit f neg + mag) = fieldVal f neg (mag / 2 ^ f.m) (mag % 2 ^ f.m)
  finite : ∀ c v, c < 2 ^ f.wid → (dec c).rat = some v → ∃ neg mag, (neg = true → f.signed = true) ∧ mag ≤ top ∧ c = signBit f neg + mag ∧
    dec c = fieldVal f neg (mag / 2 ^ f.m) (mag % 2 ^ f.m)
  zero  : f.negZero = true → f.signed = true
  nan   : (f.wid ≠ 4 → dec f.nan = .nan false) ∧ (f.wid = 4 → f.nan = 0)
  inf   : f.hasInf = true → ∀ neg, (neg = true → f.signed = true) → dec (infCode f neg) = .inf neg
  infFit : f.hasInf = true → ∀ neg, (neg = true → f.signed = true) → infCode f neg < 2 ^ f.wid

section
variable {f : FF} {dec : Nat → FV} {top : Nat} (hc : Codes f dec top)
include hc

/-- The code of a magnitude of the format, and what the decoder gives of it under a sign. -/
theorem Codes.dec_magCode {k : Nat} {q : Int} {neg : Bool} (hk : 0 < k) (hk2 : k ≤ 2 ^ (f.m + 1)) (hq : f.emin - f.m ≤ q)
    (hmax : (k : ℚ) * 2 ^ q ≤ f.maxK * 2 ^ f.maxE) (hn : neg = true → f.signed = true) :
    signBit f neg + magCode f k q < 2 ^ f.wid ∧ (dec (signBit f neg + magCode f k q)).rat = some ((if neg then -1 else 1) * ((k : ℚ) * 2 ^ q)) := by
  have hu := unitsOf_magCode hc.bias hk hk2 hq
  have hpos := two_zpow_pos (f.emin - f.m)
  have hle : magCode f k q ≤ top := by
    rw [← (unitsOf_strictMono f.m).le_iff_le, ← Nat.cast_le (α := ℚ), ← mul_le_mul_iff_left₀ hpos, hu, hc.max]
    exact hmax
  have hne : magCode f k q ≠ 0 := by
    intro h0
    rw [h0] at hu
    have hz : unitsOf f.m 0 = 0 := by simp [unitsOf]
    rw [hz, Nat.cast_zero, zero_mul] at hu
    have : (0 : ℚ) < k * 2 ^ q := mul_pos (by exact_mod_cast hk) (two_zpow_pos q)
    linarith
  refine ⟨lt_of_le_of_lt (Nat.add_le_add_left hle _) (hc.fit neg hn), ?_⟩
  rw [hc.read neg _ hn hle (.inl hne), fieldVal_rat hc.bias, hu]

/-- The code of the largest finite value. -/
theorem Codes.dec_maxCode {neg : Bool} (hn : neg = true → f.signed = true) :
    maxCode f neg < 2 ^ f.wid ∧ (dec (maxCode f neg)).rat = some ((if neg then -1 else 1) * ((f.maxK : ℚ) * 2 ^ f.maxE)) :=
  hc.dec_magCode hc.norm.1 hc.norm.2 hc.range le_rfl hn

/-- The code of a zero. -/
theorem Codes.zeroCode_eq (neg : Bool) : zeroCode f neg = if f.negZero && neg then 2 ^ (f.wid - 1) else 0 := by
  unfold zeroCode signBit
  by_cases hz : f.negZero = true
  · simp [hz, hc.zero hz]
  · simp [hz]

theorem Codes.dec_zeroCode {neg : Bool} (hn : neg = true → f.signed = true) : zeroCode f neg < 2 ^ f.wid ∧ (dec (zeroCode f neg)).rat = some 0 := by
  have hu : unitsOf f.m 0 = 0 := by simp [unitsOf]
  have hval : ∀ b, (b = true → f.signed = true) → (0 ≠ 0 ∨ b = false ∨ f.negZero = true) → (dec (signBit f b + 0)).rat = some 0 := by
    intro b hb hz
    rw [hc.read b 0 hb (Nat.zero_le _) hz, fieldVal_rat hc.bias, hu, Nat.cast_zero, zero_mul, mul_zero]
  unfold zeroCode
  by_cases hz : f.negZero = true
  · rw [if_pos hz]
    exact ⟨lt_of_le_of_lt (Nat.le_add_right ..) (hc.fit neg hn), hval neg hn (.inr (.inr hz))⟩
  · rw [if_neg hz]
    refine ⟨by positivity, ?_⟩
    have h := hval false (fun h => Bool.noConfusion h) (.inr (.inl rfl))
    rwa [show signBit f false + 0 = 0 by simp [signBit]] at h

end

/-! ### The rounded magnitude -/

/-- The exponent of the unit to which a magnitude is rounded: of a format's range, or of one without end below. -/
def unitExp (f : FF) (bounded : Bool) (n d : Nat) : Int := (if bounded then max (log2r n d) f.emin else log2r n d) - f.m

/-- The unit that encloses a magnitude is its own (R64, R72). -/
theorem Encloses.unit {f : FF} {bounded : Bool} {n d k : Nat} {q : Int} (hn : 0 < n) (hd : 0 < d) (h : Encloses f bounded ((n : ℚ) / d) k q) :
    q = unitExp f bounded n d ∧ (inUnits n d q).1 = k := by
  obtain ⟨below, above, fits, normal, range⟩ := h
  obtain ⟨h1, h2⟩ := log2r_spec hn hd
  have hq := two_zpow_pos q
  have hup : (n : ℚ) / d < 2 ^ ((f.m : Int) + q + 1) := by
    refine above.trans_le ?_
    calc ((k : ℚ) + 1) * 2 ^ q ≤ 2 ^ (f.m + 1) * 2 ^ q := mul_le_mul_of_nonneg_right (by exact_mod_cast fits) hq.le
      _ = 2 ^ ((f.m : Int) + q + 1) := by rw [← zpow_natCast (2 : ℚ), ← zpow_add₀ (by norm_num)]; congr 1; push_cast; ring
  refine ⟨?_, inUnits_unique hd below above⟩
  unfold unitExp
  by_cases hk : 2 ^ f.m ≤ k
  · have hlow : (2 : ℚ) ^ ((f.m : Int) + q) ≤ (n : ℚ) / d := by
      refine le_trans ?_ below
      rw [zpow_add₀ (by norm_num), zpow_natCast]
      exact mul_le_mul_of_nonneg_right (by exact_mod_cast hk) hq.le
    have hl := log_unique hlow hup h1 h2
    cases bounded
    · rw [if_neg (by simp)]
      omega
    · have := range rfl
      rw [if_pos rfl]
      omega
  · obtain ⟨hb, hqe⟩ := normal.resolve_left hk
    have hsub : (n : ℚ) / d < 2 ^ f.emin := by
      refine above.trans_le ?_
      calc ((k : ℚ) + 1) * 2 ^ q ≤ 2 ^ f.m * 2 ^ q := mul_le_mul_of_nonneg_right (by exact_mod_cast not_le.1 hk) hq.le
        _ = 2 ^ f.emin := by rw [← zpow_natCast (2 : ℚ), ← zpow_add₀ (by norm_num), hqe]; congr 1; ring
    have := two_zpow_lt.1 (h1.trans_lt hsub)
    rw [if_pos hb]
    omega

/-- The lower of two values has an even code (R72). -/
def evenBelow (f : FF) (k : Nat) (q : Int) : Bool := if f.m = 0 then k = 0 || (q + f.bias) % 2 = 0 else k % 2 = 0

theorem roundAt_eq (f : FF) (mode : Rnd) (neg : Bool) (n d : Nat) (q : Int) (draw : Nat) : roundAt f.m f.bias mode neg n d q draw =
    ((inUnits n d q).1 + b2n (roundsUp mode neg (evenBelow f (inUnits n d q).1 q) (inUnits n d q).2.1 (inUnits n d q).2.2 draw),
      decide ((inUnits n d q).2.1 = 0)) := rfl

theorem evenBelow_iff (f : FF) (k : Nat) (q : Int) :
    evenBelow f k q = true ↔ ¬ (if f.m = 0 then k ≠ 0 ∧ (q + f.bias) % 2 = 1 else k % 2 = 1) := by
  unfold evenBelow
  split
  · simp
    omega
  · simp

/-- No mode moves a number that is a value itself (R72, R75). -/
theorem not_takesLarger_zero {mode : Rnd} {neg : Bool} {odd : Prop} {draw : Nat} (hw : draw < 65536) : ¬ takesLarger mode neg odd 0 draw := by
  unfold takesLarger
  cases mode
  · norm_num
  · exact id
  · simp
  · simp
  · rw [mul_zero, Int.floor_zero]
    omega

/-- A number rounded as a mode says is what the model rounds it to (R72). -/
theorem roundAt_of_roundsTo {f : FF} {mode : Rnd} {neg bounded up : Bool} {n d draw : Nat} {y : ℚ} (hn : 0 < n) (hd : 0 < d) (hw : draw < 65536)
    (h : RoundsTo f mode neg draw ((n : ℚ) / d) bounded up y) :
    let q := unitExp f bounded n d
    let r := roundAt f.m f.bias mode neg n d q draw
    y = r.1 * 2 ^ q ∧ (r.2 = true ↔ y = (n : ℚ) / d) ∧ ((inUnits n d q).1 != r.1) = up ∧ r.1 ≤ 2 ^ (f.m + 1) := by
  obtain ⟨k, q, henc, hy, hup⟩ := h
  obtain ⟨hq, hk⟩ := henc.unit hn hd
  obtain ⟨below, above, fits, -, -⟩ := henc
  subst hq
  intro q r
  have hq := two_zpow_pos q
  have hk : (inUnits n d q).1 = k := hk
  have hpart := inUnits_part (n := n) hd q
  have hround := roundsUp_iff mode neg _ (evenBelow_iff f k q) (inUnits_lt (n := n) hd q) hw
  rw [hpart, hk] at hround
  have hr : r = (k + b2n up, decide ((inUnits n d q).2.1 = 0)) := by
    have hupeq : roundsUp mode neg (evenBelow f k q) (inUnits n d q).2.1 (inUnits n d q).2.2 draw = up := by
      rw [Bool.eq_iff_iff, hup]
      exact hround
    rw [← hupeq, ← hk]
    exact roundAt_eq ..
  have hcast : (r.1 : ℚ) = k + if up then 1 else 0 := by
    rw [hr]
    cases up <;> simp [b2n]
  refine ⟨by rw [hcast]; exact hy, ?_, ?_, ?_⟩
  · have hex := inUnits_exact (n := n) hd q
    rw [hr, decide_eq_true_eq, hex, hk, hy]
    constructor
    · intro he
      have hno : up = false := by
        cases hu : up
        · rfl
        · exfalso
          have ht := hup.1 hu
          have hz : (n : ℚ) / d / 2 ^ q - k = 0 := by rw [← he]; field_simp; ring
          rw [hz] at ht
          exact not_takesLarger_zero hw ht
      rw [hno]
      simpa using he
    · intro he
      cases hu : up
      · rw [hu] at he
        simpa using he
      · rw [hu, if_pos rfl] at he
        linarith
  · rw [hr, hk]
    cases up <;> simp [b2n]
  · rw [hr]
    have : b2n up ≤ 1 := by cases up <;> decide
    dsimp only
    omega

/-- What rounding to a format comes to, by the number rounded in the format's range and in one without end below. -/
theorem roundRat_eq (f : FF) (mode : Rnd) (sat neg : Bool) (n d draw : Nat) :
    let q := unitExp f true n d
    let r := roundAt f.m f.bias mode neg n d q draw
    let t := roundAt f.m f.bias mode neg n d (unitExp f false n d) draw
    roundRat f mode sat neg n d draw =
      if neg && !f.signed then (if r.1 = 0 then (0, flUF ||| flNX) else (f.nan, flNV))
      else if magLt f.maxK f.maxE r.1 q then overflow f mode sat neg ((inUnits n d q).1 != r.1)
      else (if r.1 = 0 then zeroCode f neg else signBit f neg + magCode f r.1 q,
        flIf (!r.2) flNX ||| flIf (magLt t.1 (unitExp f false n d) 1 f.emin && !r.2) flUF) := rfl

theorem flIf_false (x : Fl) : flIf false x = 0 := rfl
theorem flIf_true (x : Fl) : flIf true x = x := rfl

section
variable {f : FF} {dec : Nat → FV} {top : Nat} (hc : Codes f dec top)
include hc

/-- A value of the format is its code (R72). -/
theorem Codes.round_exact {mode : Rnd} {sat neg : Bool} {n d draw c : Nat} (hn : 0 < n) (hd : 0 < d) (hw : draw < 65536) (hcw : c < 2 ^ f.wid)
    (hv : (dec c).rat = some ((if neg then -1 else 1) * ((n : ℚ) / d))) : roundRat f mode sat neg n d draw = (c, 0) := by
  obtain ⟨neg', mag, hneg, hmag, rfl, hdec⟩ := hc.finite c _ hcw hv
  have hx : (0 : ℚ) < (n : ℚ) / d := by positivity
  have hval := hdec ▸ fieldVal_rat hc.bias neg' mag
  rw [hv] at hval
  have hpos := two_zpow_pos (f.emin - f.m)
  have hu : (0 : ℚ) ≤ (unitsOf f.m mag : ℚ) * 2 ^ (f.emin - f.m) := by positivity
  have hval := Option.some.inj hval
  obtain ⟨rfl, hxu⟩ : neg = neg' ∧ (n : ℚ) / d = (unitsOf f.m mag : ℚ) * 2 ^ (f.emin - f.m) := by
    cases neg <;> cases neg' <;> simp only [Bool.false_eq_true, if_false, if_true] at hval
    · exact ⟨rfl, by linarith⟩
    · linarith
    · linarith
    · exact ⟨rfl, by linarith⟩
  obtain ⟨k, q, henc, hkq⟩ : ∃ k q, Encloses f true ((n : ℚ) / d) k q ∧ (n : ℚ) / d = k * 2 ^ q := by
    have hm : 0 < 2 ^ f.m := by positivity
    have mk : ∀ (k : Nat) (q : Int), (n : ℚ) / d = k * 2 ^ q → k < 2 ^ (f.m + 1) → 2 ^ f.m ≤ k ∨ true = true ∧ q = f.emin - f.m → f.emin - f.m ≤ q →
        ∃ k q, Encloses f true ((n : ℚ) / d) k q ∧ (n : ℚ) / d = k * 2 ^ q := fun k q he h1 h2 h3 =>
      ⟨k, q, ⟨he.ge, by rw [he]; exact mul_lt_mul_of_pos_right (lt_add_one _) (two_zpow_pos q), h1, h2, fun _ => h3⟩, he⟩
    unfold unitsOf at hxu
    split at hxu
    · next h =>
      refine mk _ _ hxu ?_ (.inr ⟨rfl, rfl⟩) le_rfl
      rw [pow_succ]
      have := (Nat.div_eq_zero_iff_lt hm).1 h
      omega
    · next h =>
      obtain ⟨e, he⟩ := Nat.exists_eq_succ_of_ne_zero h
      have hmod := Nat.mod_lt mag hm
      refine mk (2 ^ f.m + mag % 2 ^ f.m) (e + (f.emin - f.m)) ?_ (by rw [pow_succ]; omega) (.inl (Nat.le_add_right ..)) (by omega)
      rw [hxu, he, Nat.succ_eq_add_one, Nat.add_sub_cancel]
      push_cast
      rw [mul_assoc, ← zpow_natCast (2 : ℚ) e, ← zpow_add₀ (by norm_num)]
  have hrt : RoundsTo f mode neg draw ((n : ℚ) / d) true false (k * 2 ^ q) := by
    refine ⟨k, q, henc, by simp, ?_⟩
    have hz : (n : ℚ) / d / 2 ^ q - k = 0 := by rw [hkq]; field_simp; ring
    rw [hz]
    exact iff_of_false Bool.false_ne_true (not_takesLarger_zero hw)
  obtain ⟨hq, hk⟩ := henc.unit hn hd
  obtain ⟨hy, hex, hup, hle⟩ := roundAt_of_roundsTo hn hd hw hrt
  have hr2 : (roundAt f.m f.bias mode neg n d (unitExp f true n d) draw).2 = true := hex.2 hkq.symm
  have hr1 : (roundAt f.m f.bias mode neg n d (unitExp f true n d) draw).1 = k := by
    rw [← hk, ← hq]
    have h : ((inUnits n d q).1 != (roundAt f.m f.bias mode neg n d q draw).1) = false := by rw [hq]; exact hup
    exact (bne_eq_false_iff_eq.1 h).symm
  have hkpos : 0 < k := by
    rcases Nat.eq_zero_or_pos k with h | h
    · rw [hkq, h, Nat.cast_zero, zero_mul] at hx
      exact absurd hx (lt_irrefl _)
    · exact h
  have hcode := unitsOf_magCode hc.bias hkpos henc.fits.le (henc.range rfl)
  have hmageq : magCode f k q = mag := by
    refine (unitsOf_strictMono f.m).injective ?_
    have : (unitsOf f.m (magCode f k q) : ℚ) = unitsOf f.m mag := by
      refine mul_right_cancel₀ hpos.ne' ?_
      rw [hcode, ← hkq, hxu]
    exact_mod_cast this
  have hnot : magLt f.maxK f.maxE k q = false := by
    rw [Bool.eq_false_iff, ne_eq, magLt_iff, not_lt, ← hkq, hxu, ← hc.max]
    exact mul_le_mul_of_nonneg_right (by exact_mod_cast (unitsOf_strictMono f.m).monotone hmag) hpos.le
  have hsig : (neg && !f.signed) = false := by
    cases hb : neg
    · rfl
    · rw [hneg hb]
      rfl
  have hrr := roundRat_eq f mode sat neg n d draw
  dsimp only at hrr
  rw [hrr, hr1, hr2, ← hq, hnot, hsig, hmageq, if_neg Bool.false_ne_true, if_neg Bool.false_ne_true, if_neg hkpos.ne', Bool.not_true, Bool.and_false,
    flIf_false, flIf_false]
  rfl

/-- A magnitude no larger than the largest value goes where its mode takes it (R72, R74). -/
theorem Codes.round_inside {mode : Rnd} {sat neg up up' : Bool} {n d draw : Nat} {y z : ℚ} (hn : 0 < n) (hd : 0 < d) (hw : draw < 65536)
    (hneg : neg = true → f.signed = true) (hy : RoundsTo f mode neg draw ((n : ℚ) / d) true up y)
    (hz : RoundsTo f mode neg draw ((n : ℚ) / d) false up' z) (hmax : y ≤ (f.maxK : ℚ) * 2 ^ f.maxE) :
    let r := roundRat f mode sat neg n d draw
    r.1 < 2 ^ f.wid ∧ (dec r.1).rat = some ((if neg then -1 else 1) * y) ∧ (y = 0 → r.1 = if f.negZero && neg then 2 ^ (f.wid - 1) else 0) ∧
      r.2 = (if y = (n : ℚ) / d then 0 else flNX) ||| (if y ≠ (n : ℚ) / d ∧ z < 2 ^ f.emin then flUF else 0) := by
  obtain ⟨k, q, henc, -⟩ := id hy
  obtain ⟨hq, -⟩ := henc.unit hn hd
  obtain ⟨hy1, hex, -, hle⟩ := roundAt_of_roundsTo hn hd hw hy
  obtain ⟨hz1, -, -, -⟩ := roundAt_of_roundsTo hn hd hw hz
  have hnot : magLt f.maxK f.maxE (roundAt f.m f.bias mode neg n d (unitExp f true n d) draw).1 (unitExp f true n d) = false := by
    rw [Bool.eq_false_iff, ne_eq, magLt_iff, not_lt, ← hy1]
    exact hmax
  have htiny : magLt (roundAt f.m f.bias mode neg n d (unitExp f false n d) draw).1 (unitExp f false n d) 1 f.emin = decide (z < 2 ^ f.emin) := by
    rw [Bool.eq_iff_iff, magLt_iff, ← hz1, Nat.cast_one, one_mul, decide_eq_true_eq]
  have hex' : (roundAt f.m f.bias mode neg n d (unitExp f true n d) draw).2 = decide (y = (n : ℚ) / d) := by
    rw [Bool.eq_iff_iff, hex, decide_eq_true_eq]
  have hsig : (neg && !f.signed) = false := by
    cases hb : neg
    · rfl
    · rw [hneg hb]
      rfl
  have hrr := roundRat_eq f mode sat neg n d draw
  dsimp only at hrr
  rw [hsig, hnot, htiny, hex', if_neg Bool.false_ne_true, if_neg Bool.false_ne_true] at hrr
  intro r
  have hr : r = _ := hrr
  rw [hr]
  refine ⟨?_, ?_, fun h0 => ?_, ?_⟩
  · dsimp only
    split
    · exact (hc.dec_zeroCode hneg).1
    · next hk0 =>
      exact (hc.dec_magCode (Nat.pos_of_ne_zero hk0) hle (hq ▸ henc.range rfl) (hy1 ▸ hmax) hneg).1
  · dsimp only
    split
    · next hk0 =>
      rw [hk0, Nat.cast_zero, zero_mul] at hy1
      rw [hy1, mul_zero]
      exact (hc.dec_zeroCode hneg).2
    · next hk0 =>
      rw [(hc.dec_magCode (Nat.pos_of_ne_zero hk0) hle (hq ▸ henc.range rfl) (hy1 ▸ hmax) hneg).2, hy1]
  · rw [h0] at hy1
    have hk0 : (roundAt f.m f.bias mode neg n d (unitExp f true n d) draw).1 = 0 := by
      have := (mul_eq_zero.1 hy1.symm).resolve_right (two_zpow_pos _).ne'
      exact_mod_cast this
    dsimp only
    rw [if_pos hk0, hc.zeroCode_eq]
  · by_cases h1 : y = (n : ℚ) / d
    · simp [h1, flIf]
    · by_cases h2 : z < 2 ^ f.emin <;> simp [h1, h2, flIf]

/-- A magnitude beyond the largest value overflows as R73 says. -/
theorem Codes.round_beyond {mode : Rnd} {sat neg up : Bool} {n d draw : Nat} {y : ℚ} (hn : 0 < n) (hd : 0 < d) (hw : draw < 65536)
    (hneg : neg = true → f.signed = true) (hy : RoundsTo f mode neg draw ((n : ℚ) / d) true up y) (hmax : (f.maxK : ℚ) * 2 ^ f.maxE < y) :
    let r := roundRat f mode sat neg n d draw
    let clamp := sat = true ∨ f.hasInf = false
    r.1 < 2 ^ f.wid ∧
      (clamp ∨ mode = .rtz ∨ (mode = .rup ∧ neg = true) ∨ (mode = .rdn ∧ neg = false) ∨ (mode = .rs ∧ up = false) →
        (dec r.1).rat = some ((if neg then -1 else 1) * ((f.maxK : ℚ) * 2 ^ f.maxE))) ∧
      (¬ clamp → mode = .rne ∨ (mode = .rup ∧ neg = false) ∨ (mode = .rdn ∧ neg = true) ∨ (mode = .rs ∧ up = true) → dec r.1 = .inf neg) ∧
      r.2 = flOF ||| flNX ||| (if clamp then flSAT else 0) := by
  obtain ⟨hy1, -, hup, -⟩ := roundAt_of_roundsTo hn hd hw hy
  have hlt : magLt f.maxK f.maxE (roundAt f.m f.bias mode neg n d (unitExp f true n d) draw).1 (unitExp f true n d) = true := by
    rw [magLt_iff, ← hy1]
    exact hmax
  have hsig : (neg && !f.signed) = false := by
    cases hb : neg
    · rfl
    · rw [hneg hb]
      rfl
  have hrr := roundRat_eq f mode sat neg n d draw
  dsimp only at hrr
  rw [hsig, hlt, if_neg Bool.false_ne_true, if_pos rfl, hup] at hrr
  intro r clamp
  have hr : r = _ := hrr
  rw [hr]
  obtain ⟨hmax1, hmax2⟩ := hc.dec_maxCode hneg
  unfold overflow
  by_cases hcl : clamp
  · have hcl' : (sat || !f.hasInf) = true := by simpa [clamp] using hcl
    rw [if_pos hcl', if_pos hcl]
    exact ⟨hmax1, fun _ => hmax2, fun h => absurd hcl h, rfl⟩
  · have hcl' : ¬ (sat || !f.hasInf) = true := by simpa [clamp] using hcl
    have hinf : f.hasInf = true := by
      by_contra hne
      exact hcl (.inr (Bool.eq_false_iff.2 hne))
    rw [if_neg hcl', if_neg hcl]
    have hi1 := hc.infFit hinf neg hneg
    have hi2 := hc.inf hinf neg hneg
    cases mode <;> cases neg <;> cases up <;> simp [hcl, hmax1, hmax2, hi1, hi2]

omit hc in
/-- A negative number goes to an unsigned format's zero or its NaN (R79). -/
theorem roundRat_unsigned {mode : Rnd} {sat up : Bool} {n d draw : Nat} {y : ℚ} (hs : f.signed = false) (hn : 0 < n) (hd : 0 < d) (hw : draw < 65536)
    (hy : RoundsTo f mode true draw ((n : ℚ) / d) true up y) :
    roundRat f mode sat true n d draw = if y = 0 then (0, flUF ||| flNX) else (f.nan, flNV) := by
  obtain ⟨hy1, -, -, -⟩ := roundAt_of_roundsTo hn hd hw hy
  have hrr := roundRat_eq f mode sat true n d draw
  dsimp only at hrr
  rw [hrr, hs, if_pos (show (true && !false) = true from rfl)]
  refine if_congr ?_ rfl rfl
  rw [hy1, mul_eq_zero, or_iff_left (two_zpow_pos _).ne', Nat.cast_eq_zero]

/-- A format whose codes stand in the order of their values is rounded to as the spec says. -/
theorem Codes.rounds : Rounds f dec where
  exact := fun _ _ _ _ _ _ _ hn hd hw hcw hv => hc.round_exact hn hd hw hcw hv
  inside := fun _ _ _ _ _ _ _ _ _ _ hn hd hw hneg hy hz hmax => hc.round_inside hn hd hw hneg hy hz hmax
  beyond := fun _ _ _ _ _ _ _ _ hn hd hw hneg hy hmax => hc.round_beyond hn hd hw hneg hy hmax
  unsigned := fun _ _ _ _ _ _ _ hs hn hd hw hy => roundRat_unsigned hs hn hd hw hy
  number := fun mode sat neg m draw e hm => by
    refine ⟨(dyadic m e).1, (dyadic m e).2, ?_, ?_, ?_, ?_⟩
    · show 0 < m * 2 ^ e.toNat
      positivity
    · show 0 < 2 ^ (-e).toNat
      positivity
    · show ((m * 2 ^ e.toNat : Nat) : ℚ) / ((2 ^ (-e).toNat : Nat) : ℚ) = _
      rw [two_zpow_eq e]
      push_cast
      ring
    · unfold roundFV
      exact if_neg hm.ne'
  zero := fun mode sat neg draw e => by
    rw [← hc.zeroCode_eq]
    unfold roundFV
    exact if_pos rfl
  nan := fun mode sat sig draw => by
    obtain ⟨h1, h2⟩ := hc.nan
    refine ⟨fun hw => ⟨h1 hw, ?_⟩, fun hw => ?_⟩
    · unfold roundFV
      cases sig <;> simp [hw, flIf]
    · unfold roundFV
      simp [hw, h2 hw, flIf]
  inf := fun mode sat neg draw => by
    refine ⟨fun hn hs => ?_, fun hneg hsat hinf => ?_, fun hneg hclamp => ?_⟩
    · unfold roundFV
      simp [hn, hs]
    · have hsig : (neg && !f.signed) = false := by
        cases hb : neg
        · rfl
        · rw [hneg hb]
          rfl
      unfold roundFV
      simp only [hsig, hinf, hsat, Bool.not_false, Bool.and_self, Bool.false_eq_true, if_false, if_true]
      exact ⟨hc.inf hinf neg hneg, trivial⟩
    · have hsig : (neg && !f.signed) = false := by
        cases hb : neg
        · rfl
        · rw [hneg hb]
          rfl
      have hcl : (f.hasInf && !sat) = false := by
        rcases hclamp with h | h <;> simp [h]
      unfold roundFV
      simp only [hsig, hcl, Bool.false_eq_true, if_false]
      exact ⟨(hc.dec_maxCode hneg).2, trivial⟩

end

end Sys2Proof.Machine
end

section
/-! SUPPORT. The codes of each format stand in the order of their values (R64 to R70). -/
namespace Sys2Proof.Machine

/-! ### The largest finite value -/

/-- The largest finite value is that of the code `top`, a normal one. -/
structure TopCode (f : FF) (top : Nat) : Prop where
  normal : top / 2 ^ f.m ≠ 0
  frac   : f.maxK = 2 ^ f.m + top % 2 ^ f.m
  exp    : f.maxE = ((top / 2 ^ f.m : Nat) : Int) - 1 + (f.emin - f.m)

theorem TopCode.range {f : FF} {top : Nat} (h : TopCode f top) : f.emin - f.m ≤ f.maxE := by
  have : 1 ≤ ((top / 2 ^ f.m : Nat) : Int) := by exact_mod_cast Nat.one_le_iff_ne_zero.2 h.normal
  rw [h.exp]
  linarith

theorem TopCode.norm {f : FF} {top : Nat} (h : TopCode f top) : 0 < f.maxK ∧ f.maxK ≤ 2 ^ (f.m + 1) := by
  have hm : 0 < 2 ^ f.m := by positivity
  have := Nat.mod_lt top hm
  rw [h.frac, pow_succ]
  omega

theorem TopCode.max {f : FF} {top : Nat} (h : TopCode f top) : (unitsOf f.m top : ℚ) * 2 ^ (f.emin - f.m) = f.maxK * 2 ^ f.maxE := by
  obtain ⟨e, he⟩ := Nat.exists_eq_succ_of_ne_zero h.normal
  have hexp : f.maxE = (e : Int) + (f.emin - f.m) := by
    rw [h.exp, he]
    push_cast
    ring
  rw [hexp, h.frac, unitsOf, if_neg h.normal, he, Nat.succ_eq_add_one, Nat.add_sub_cancel, zpow_add₀ (by norm_num), zpow_natCast]
  push_cast
  ring

/-! ### The IEEE formats (R64 to R66) -/

/-- The code of the largest finite value of an IEEE format of `w` exponent and `m` fraction bits. -/
def ieeeTop (w m : Nat) : Nat := (2 ^ w - 1) * 2 ^ m - 1

section
variable {w m : Nat}

theorem ieee_wid : (ieee (1 + w + m) m).wid = 1 + w + m := rfl
theorem ieee_m : (ieee (1 + w + m) m).m = m := rfl

theorem ieee_signBit (neg : Bool) : signBit (ieee (1 + w + m) m) neg = if neg then 2 ^ (w + m) else 0 := by
  have h : (ieee (1 + w + m) m).wid - 1 = w + m := by rw [ieee_wid]; omega
  unfold signBit
  rw [h]
  cases neg <;> rfl

/-- The largest finite magnitude has all but the last exponent and a full fraction. -/
theorem ieeeTop_parts (hw : 2 ≤ w) : ieeeTop w m / 2 ^ m = 2 ^ w - 2 ∧ ieeeTop w m % 2 ^ m = 2 ^ m - 1 := by
  have hm : 0 < 2 ^ m := by positivity
  have hE : 2 ^ 2 ≤ 2 ^ w := Nat.pow_le_pow_right (by norm_num) hw
  have heq : ieeeTop w m = 2 ^ m * (2 ^ w - 2) + (2 ^ m - 1) := by
    obtain ⟨E, hE'⟩ := Nat.exists_eq_add_of_le hE
    unfold ieeeTop
    rw [hE', show 2 ^ 2 + E - 1 = (E + 2) + 1 by omega, show 2 ^ 2 + E - 2 = E + 2 by omega, Nat.succ_mul, Nat.mul_comm (2 ^ m)]
    omega
  constructor
  · rw [heq, Nat.mul_add_div hm, Nat.div_eq_of_lt (by omega), Nat.add_zero]
  · rw [heq, Nat.mul_add_mod, Nat.mod_eq_of_lt (by omega)]

theorem ieee_topCode (hw : 2 ≤ w) : TopCode (ieee (1 + w + m) m) (ieeeTop w m) := by
  obtain ⟨hdiv, hmod⟩ := ieeeTop_parts (m := m) hw
  obtain ⟨v, rfl⟩ := Nat.exists_eq_add_of_le hw
  have hm : 0 < 2 ^ m := by positivity
  have hv : 0 < 2 ^ v := by positivity
  have hp : 2 ^ (2 + v) = 4 * 2 ^ v := by rw [pow_add]; norm_num
  have hb : 2 ^ (1 + (2 + v) + m - 2 - m) = 2 * 2 ^ v := by
    rw [show 1 + (2 + v) + m - 2 - m = 1 + v by omega, pow_add, pow_one]
  rw [hp] at hdiv
  constructor
  · show ieeeTop (2 + v) m / 2 ^ m ≠ 0
    omega
  · show 2 ^ (m + 1) - 1 = 2 ^ m + ieeeTop (2 + v) m % 2 ^ m
    rw [hmod, pow_succ]
    omega
  · show ((2 ^ (1 + (2 + v) + m - 2 - m) - 1 : Nat) : Int) - m =
      ((ieeeTop (2 + v) m / 2 ^ m : Nat) : Int) - 1 + (1 - ((2 ^ (1 + (2 + v) + m - 2 - m) - 1 : Nat) : Int) - m)
    rw [hdiv, hb]
    omega

/-- An IEEE code is a sign, an exponent and a fraction (R64). -/
theorem decIeee_eq {neg : Bool} {mag : Nat} (hmag : mag < 2 ^ (w + m)) :
    decIeee (ieee (1 + w + m) m) (signBit (ieee (1 + w + m) m) neg + mag) =
      if mag / 2 ^ m = 2 ^ w - 1 then (if mag % 2 ^ m = 0 then .inf neg else .nan (!(mag % 2 ^ m).testBit (m - 1)))
      else fieldVal (ieee (1 + w + m) m) neg (mag / 2 ^ m) (mag % 2 ^ m) := by
  have hm : 0 < 2 ^ m := by positivity
  have hlt : mag / 2 ^ m < 2 ^ w := by rwa [Nat.div_lt_iff_lt_mul hm, ← pow_add]
  have hwid : (ieee (1 + w + m) m).wid - 1 = w + m := by rw [ieee_wid]; omega
  have hexp : w + m - (ieee (1 + w + m) m).m = w := by rw [ieee_m]; omega
  have hsign : (signBit (ieee (1 + w + m) m) neg + mag).testBit (w + m) = neg := by
    rw [ieee_signBit]
    cases neg
    · rw [if_neg Bool.false_ne_true, Nat.zero_add]
      exact Nat.testBit_lt_two_pow hmag
    · rw [if_pos rfl, Nat.testBit_two_pow_add_eq, Nat.testBit_lt_two_pow hmag]
      rfl
  have hdiv : (signBit (ieee (1 + w + m) m) neg + mag) / 2 ^ m % 2 ^ w = mag / 2 ^ m := by
    rw [ieee_signBit]
    cases neg
    · rw [if_neg Bool.false_ne_true, Nat.zero_add, Nat.mod_eq_of_lt hlt]
    · rw [if_pos rfl, pow_add, Nat.mul_comm (2 ^ w), Nat.mul_add_div hm, Nat.add_mod_left, Nat.mod_eq_of_lt hlt]
  have hmod : (signBit (ieee (1 + w + m) m) neg + mag) % 2 ^ m = mag % 2 ^ m := by
    rw [ieee_signBit]
    cases neg
    · rw [if_neg Bool.false_ne_true, Nat.zero_add]
    · rw [if_pos rfl, pow_add, Nat.mul_comm (2 ^ w), Nat.mul_add_mod]
  unfold decIeee
  dsimp only
  rw [hwid, hexp, ieee_m, hsign, hdiv, hmod]

/-- Every code is a sign and a magnitude. -/
theorem ieee_split {c : Nat} (hc : c < 2 ^ (1 + w + m)) : ∃ neg mag, mag < 2 ^ (w + m) ∧ c = signBit (ieee (1 + w + m) m) neg + mag := by
  have hp : 2 ^ (1 + w + m) = 2 * 2 ^ (w + m) := by rw [Nat.add_assoc, pow_add, pow_one]
  by_cases h : c < 2 ^ (w + m)
  · exact ⟨false, c, h, by rw [ieee_signBit, if_neg Bool.false_ne_true, Nat.zero_add]⟩
  · exact ⟨true, c - 2 ^ (w + m), by omega, by rw [ieee_signBit, if_pos rfl]; omega⟩

theorem ieee_infCode (hwid : 1 + w + m ≠ 8) (neg : Bool) :
    infCode (ieee (1 + w + m) m) neg = signBit (ieee (1 + w + m) m) neg + (2 ^ w - 1) * 2 ^ m := by
  unfold infCode
  rw [ieee_wid, ieee_m, if_neg hwid, show 1 + w + m - 1 - m = w by omega]

theorem ieee_codes (hw : 2 ≤ w) (hm1 : 1 ≤ m) (h8 : 1 + w + m ≠ 8) (h4 : 1 + w + m ≠ 4) :
    Codes (ieee (1 + w + m) m) (decIeee (ieee (1 + w + m) m)) (ieeeTop w m) := by
  have htop := ieee_topCode (m := m) hw
  have hm : 0 < 2 ^ m := by positivity
  have hE : 2 ^ 2 ≤ 2 ^ w := Nat.pow_le_pow_right (by norm_num) hw
  have hall : (2 ^ w - 1) * 2 ^ m < 2 ^ (w + m) := by
    rw [pow_add]
    exact Nat.mul_lt_mul_of_pos_right (by omega) hm
  have hfits : ∀ neg mag, mag < 2 ^ (w + m) → signBit (ieee (1 + w + m) m) neg + mag < 2 ^ (1 + w + m) := fun neg mag hmag => by
    rw [ieee_signBit, Nat.add_assoc 1, pow_add 2 1, pow_one]
    split <;> omega
  have hlow : ∀ {mag}, mag ≤ ieeeTop w m ↔ mag / 2 ^ m < 2 ^ w - 1 := fun {mag} => by
    have : 0 < (2 ^ w - 1) * 2 ^ m := Nat.mul_pos (by omega) hm
    rw [Nat.div_lt_iff_lt_mul hm, ieeeTop]
    omega
  have hnan : (2 ^ w - 1) * 2 ^ m + 2 ^ (m - 1) < 2 ^ (w + m) ∧ ((2 ^ w - 1) * 2 ^ m + 2 ^ (m - 1)) / 2 ^ m = 2 ^ w - 1 ∧
      ((2 ^ w - 1) * 2 ^ m + 2 ^ (m - 1)) % 2 ^ m = 2 ^ (m - 1) := by
    have hh : 2 ^ (m - 1) < 2 ^ m := Nat.pow_lt_pow_right (by norm_num) (by omega)
    have hdiv : ((2 ^ w - 1) * 2 ^ m + 2 ^ (m - 1)) / 2 ^ m = 2 ^ w - 1 := by
      rw [Nat.mul_comm, Nat.mul_add_div hm, Nat.div_eq_of_lt hh, Nat.add_zero]
    refine ⟨?_, hdiv, by rw [Nat.mul_comm, Nat.mul_add_mod, Nat.mod_eq_of_lt hh]⟩
    rw [pow_add, ← Nat.div_lt_iff_lt_mul hm, hdiv]
    omega
  refine ⟨rfl, htop.range, htop.norm, htop.max, fun neg _ => hfits neg _ ?_, fun neg mag _ hle _ => ?_, fun c v hc hv => ?_, fun _ => rfl, ⟨fun _ => ?_, fun h => absurd h h4⟩,
    fun _ neg _ => ?_, fun _ neg _ => ?_⟩
  · unfold ieeeTop
    omega
  · have hlt := hlow.1 hle
    have hmag : mag < 2 ^ (w + m) := by
      unfold ieeeTop at hle
      omega
    rw [decIeee_eq hmag, if_neg hlt.ne]
    rfl
  · obtain ⟨neg, mag, hmag, rfl⟩ := ieee_split hc
    rw [decIeee_eq hmag] at hv ⊢
    have hlt : mag / 2 ^ m < 2 ^ w := by rwa [Nat.div_lt_iff_lt_mul hm, ← pow_add]
    by_cases he : mag / 2 ^ m = 2 ^ w - 1
    · rw [if_pos he] at hv
      split at hv <;> cases hv
    · refine ⟨neg, mag, fun _ => rfl, hlow.2 (by omega), rfl, ?_⟩
      rw [if_neg he]
      rfl
  · obtain ⟨hlt, hdiv, hmod⟩ := hnan
    have hcode : (ieee (1 + w + m) m).nan = signBit (ieee (1 + w + m) m) false + ((2 ^ w - 1) * 2 ^ m + 2 ^ (m - 1)) := by
      rw [ieee_signBit, if_neg Bool.false_ne_true, Nat.zero_add]
      show (2 ^ (1 + w + m - 1 - m) - 1) * 2 ^ m + 2 ^ (m - 1) = _
      rw [show 1 + w + m - 1 - m = w by omega]
    rw [hcode, decIeee_eq hlt, if_pos hdiv, hmod, if_neg (by positivity), Nat.testBit_two_pow_self]
    rfl
  · rw [ieee_infCode h8, decIeee_eq hall, if_pos (Nat.mul_div_cancel _ hm), if_pos (Nat.mul_mod_left ..)]
  · rw [ieee_infCode h8]
    exact hfits neg _ hall

end

/-! ### The binary8 family (R67 to R69) and `.e2m1` (R70) -/

/-- The code of the largest finite value of a binary8 format. -/
def b8Top (signed ext : Bool) : Nat := (if signed then 0x7F else 0xFE) - if ext then 1 else 0

section
variable {signed ext : Bool} {p : Nat}

theorem b8_signBit (neg : Bool) : signBit (b8 signed ext p) neg = if neg && signed then 128 else 0 := rfl

theorem b8_topCode (hp : p ≤ 7) : TopCode (b8 signed ext p) (b8Top signed ext) := by
  have hm : 2 ^ (p - 1) ≤ 2 ^ 6 := Nat.pow_le_pow_right (by norm_num) (by omega)
  have hne : b8Top signed ext / 2 ^ (p - 1) ≠ 0 := by
    rw [Ne, Nat.div_eq_zero_iff_lt (by positivity), not_lt]
    refine hm.trans ?_
    cases signed <;> cases ext <;> decide
  refine ⟨hne, ?_, ?_⟩
  · show (if b8Top signed ext / 2 ^ (p - 1) = 0 then _ else _) = _
    rw [if_neg hne]
    rfl
  · show ((max (b8Top signed ext / 2 ^ (p - 1)) 1 : Nat) : Int) - ((if signed then 2 ^ (7 - p) else 2 ^ (8 - p) : Nat) : Int) - ((p - 1 : Nat) : Int) = _
    rw [max_eq_left (Nat.one_le_iff_ne_zero.2 hne)]
    show _ = ((b8Top signed ext / 2 ^ (p - 1) : Nat) : Int) - 1 + (1 - ((if signed then 2 ^ (7 - p) else 2 ^ (8 - p) : Nat) : Int) - ((p - 1 : Nat) : Int))
    ring

/-- A binary8 code is a sign, where the format has one, and a magnitude (R67). -/
theorem decB8_eq {neg : Bool} {mag : Nat} (hn : neg = true → signed = true) (hmag : mag < if signed then 128 else 256) :
    decB8 (b8 signed ext p) (signBit (b8 signed ext p) neg + mag) =
      if signBit (b8 signed ext p) neg + mag = (if signed then 0x80 else 0xFF) then .nan false
      else if ext = true ∧ mag = (if signed then 0x7F else 0xFE) then .inf neg
      else fieldVal (b8 signed ext p) neg (mag / 2 ^ (p - 1)) (mag % 2 ^ (p - 1)) := by
  have hneg : (signed && (signBit (b8 signed ext p) neg + mag).testBit 7) = neg := by
    rw [b8_signBit, Nat.testBit_eq_decide_div_mod_eq]
    cases signed <;> cases neg <;> simp at hn hmag ⊢ <;> omega
  have hlow : (if signed then (signBit (b8 signed ext p) neg + mag) % 128 else signBit (b8 signed ext p) neg + mag) = mag := by
    rw [b8_signBit]
    cases signed <;> cases neg <;> simp at hn hmag ⊢ <;> omega
  unfold decB8
  dsimp only
  rw [show (b8 signed ext p).signed = signed from rfl, hneg, hlow]
  refine if_congr Iff.rfl rfl (if_congr ?_ rfl rfl)
  rw [Bool.and_eq_true, decide_eq_true_eq]
  exact Iff.rfl

theorem b8_split {c : Nat} (hc : c < 256) :
    ∃ neg mag, (neg = true → signed = true) ∧ (mag < if signed then 128 else 256) ∧ c = signBit (b8 signed ext p) neg + mag := by
  cases signed
  · exact ⟨false, c, fun h => h, hc, (Nat.zero_add c).symm⟩
  · by_cases h : c < 128
    · exact ⟨false, c, fun _ => rfl, h, (Nat.zero_add c).symm⟩
    · refine ⟨true, c - 128, fun _ => rfl, ?_, ?_⟩
      · show c - 128 < 128
        omega
      · show c = 128 + (c - 128)
        omega

theorem b8_codes (hp : p ≤ 7) : Codes (b8 signed ext p) (decB8 (b8 signed ext p)) (b8Top signed ext) := by
  have htop := b8_topCode (signed := signed) (ext := ext) hp
  have hinf : infCode (b8 signed ext p) = fun neg => signBit (b8 signed ext p) neg + if signed then 0x7F else 0xFE := rfl
  refine ⟨rfl, htop.range, htop.norm, htop.max, fun neg hn => ?_, fun neg mag hn hle hz => ?_, fun c v hc hv => ?_, fun h => Bool.noConfusion h, ⟨fun _ => ?_, fun h => ?_⟩,
    fun he neg hn => ?_, fun he neg hn => ?_⟩
  · show signBit (b8 signed ext p) neg + b8Top signed ext < 256
    rw [b8_signBit]
    cases signed <;> cases neg <;> cases ext <;> decide
  · have hn : neg = true → signed = true := hn
    replace hz : mag ≠ 0 ∨ neg = false := hz.imp_right fun h => h.resolve_right Bool.noConfusion
    unfold b8Top at hle
    rw [decB8_eq hn (by cases signed <;> cases ext <;> simp at hle ⊢ <;> omega), if_neg, if_neg]
    · rfl
    · rintro ⟨he, hm⟩
      cases signed <;> simp [he] at hle hm <;> omega
    · intro hm
      rw [b8_signBit] at hm
      cases signed <;> cases neg <;> simp at hn hz hle hm <;> omega
  · obtain ⟨neg, mag, hn, hmag, rfl⟩ := b8_split (signed := signed) (ext := ext) (p := p) hc
    rw [decB8_eq hn hmag] at hv ⊢
    have hnan : signBit (b8 signed ext p) neg + mag ≠ if signed then 0x80 else 0xFF := fun h => by
      rw [if_pos h] at hv
      cases hv
    rw [if_neg hnan] at hv ⊢
    have hni : ¬ (ext = true ∧ mag = if signed then 0x7F else 0xFE) := fun h => by
      rw [if_pos h] at hv
      cases hv
    rw [if_neg hni]
    refine ⟨neg, mag, hn, ?_, rfl, rfl⟩
    rw [b8_signBit] at hnan
    unfold b8Top
    cases signed <;> cases neg <;> cases ext <;> simp at hn hmag hnan hni ⊢ <;> omega
  · unfold decB8
    exact if_pos rfl
  · exact absurd h (by decide : (8 : Nat) ≠ 4)
  · have hn : neg = true → signed = true := hn
    rw [hinf]
    dsimp only
    rw [decB8_eq hn (by cases signed <;> decide), if_neg, if_pos ⟨he, rfl⟩]
    rw [b8_signBit]
    cases signed <;> cases neg <;> simp at hn ⊢
  · rw [hinf]
    show signBit (b8 signed ext p) neg + _ < 256
    rw [b8_signBit]
    cases signed <;> cases neg <;> decide

end

theorem e2m1_codes : Codes e2m1 (decTy .e2m1) 7 := by
  have htop : TopCode e2m1 7 := ⟨by decide, by decide, by decide⟩
  have hread : ∀ neg : Bool, ∀ mag ≤ 7, decTy .e2m1 (signBit e2m1 neg + mag) = fieldVal e2m1 neg (mag / 2 ^ e2m1.m) (mag % 2 ^ e2m1.m) := by decide
  refine ⟨rfl, htop.range, htop.norm, htop.max, by decide, fun neg mag _ hle _ => hread neg mag hle, fun c v hc hv => ?_, fun _ => rfl,
    ⟨fun h => absurd rfl h, fun _ => rfl⟩, fun h => Bool.noConfusion h, fun h => Bool.noConfusion h⟩
  have hc : c < 16 := hc
  obtain ⟨neg, mag, hmag, rfl⟩ : ∃ neg mag, mag ≤ 7 ∧ c = signBit e2m1 neg + mag := by
    by_cases h : c < 8
    · exact ⟨false, c, by omega, (Nat.zero_add c).symm⟩
    · refine ⟨true, c - 8, by omega, ?_⟩
      show c = 8 + (c - 8)
      omega
  exact ⟨neg, mag, fun _ => rfl, hmag, rfl, hread neg mag hmag⟩

end Sys2Proof.Machine
end

section
/-! SUPPORT. `.e8m0`, integers, and the sums and products that are rounded (R71, R72, R78 to R80). -/
namespace Sys2Proof.Machine

/-! ### `.e8m0` and the integers -/

theorem dyadic_pos {m : Nat} (hm : 0 < m) (e : Int) : 0 < (dyadic m e).1 ∧ 0 < (dyadic m e).2 := by
  constructor
  · show 0 < m * 2 ^ e.toNat
    positivity
  · show 0 < 2 ^ (-e).toNat
    positivity

theorem dyadic_rat (m : Nat) (e : Int) : ((dyadic m e).1 : ℚ) / (dyadic m e).2 = m * 2 ^ e := by
  show ((m * 2 ^ e.toNat : Nat) : ℚ) / ((2 ^ (-e).toNat : Nat) : ℚ) = _
  rw [two_zpow_eq e]
  push_cast
  ring

/-- Rounding a magnitude whose whole part in units is known: the part of the unit above it decides (R72, R75). -/
theorem roundsUp_inUnits (mode : Rnd) (neg even : Bool) {odd : Prop} (ho : even = true ↔ ¬ odd) {n d draw k : Nat} {q : Int} (hd : 0 < d) (hw : draw < 65536)
    (hk : (inUnits n d q).1 = k) :
    roundsUp mode neg even (inUnits n d q).2.1 (inUnits n d q).2.2 draw = true ↔ takesLarger mode neg odd ((n : ℚ) / d / 2 ^ q - k) draw := by
  rw [← hk, ← inUnits_part hd q]
  exact roundsUp_iff mode neg even ho (inUnits_lt hd q) hw

/-- Rounding to `.e8m0` (R71, R79). -/
theorem roundE8_fin {mode : Rnd} {draw m : Nat} {e l : Int} (hm : 0 < m) (hw : draw < 65536) (h1 : (2 : ℚ) ^ l ≤ m * 2 ^ e) (h2 : (m : ℚ) * 2 ^ e < 2 ^ (l + 1)) :
    let u : ℚ := m * 2 ^ e / 2 ^ l - 1
    (l < -127 → roundE8 mode draw (.fin false m e) = (0, flUF ||| flNX)) ∧
    ∀ up : Bool, -127 ≤ l → (up = true ↔ takesLarger mode false ((l + 127) % 2 = 1) u draw) → let t := l + if up then 1 else 0
      roundE8 mode draw (.fin false m e) = if 127 < t then (0xFE, flOF ||| flNX ||| flSAT) else ((t + 127).toNat, if u = 0 then 0 else flNX) := by
  obtain ⟨hn, hd⟩ := dyadic_pos hm e
  have hx := dyadic_rat m e
  obtain ⟨hl1, hl2⟩ := log2r_spec hn hd
  rw [hx] at hl1 hl2
  have hl : log2r (dyadic m e).1 (dyadic m e).2 = l := log_unique hl1 hl2 h1 h2
  have hpos := two_zpow_pos l
  have hk : (inUnits (dyadic m e).1 (dyadic m e).2 l).1 = 1 := by
    refine inUnits_unique hd ?_ ?_
    · rw [hx, Nat.cast_one, one_mul]
      exact h1
    · rw [hx, Nat.cast_one, one_add_one_eq_two, ← zpow_one_add₀ (by norm_num), add_comm]
      exact h2
  have hround : roundE8 mode draw (.fin false m e) =
      if l < -127 then (0x00, flUF ||| flNX)
      else
        let r := roundAt 0 127 mode false (dyadic m e).1 (dyadic m e).2 l draw
        let t := l + (if 2 ≤ r.1 then 1 else 0)
        if 127 < t then (0xFE, flOF ||| flNX ||| flSAT) else ((t + 127).toNat, flIf (!r.2) flNX) := by
    unfold roundE8
    dsimp only
    rw [if_neg (by simpa using hm.ne'), hl]
  intro u
  refine ⟨fun hlow => by rw [hround, if_pos hlow], fun up hlow hup => ?_⟩
  intro t
  have heven : (decide ((1 : Nat) = 0) || decide ((l + 127) % 2 = 0)) = true ↔ ¬ (l + 127) % 2 = 1 := by
    rw [Bool.or_eq_true, decide_eq_true_eq, decide_eq_true_eq]
    omega
  have hru := roundsUp_inUnits mode false _ heven hd hw hk
  rw [hx, Nat.cast_one, ← hup, ← Bool.eq_iff_iff] at hru
  have hr : roundAt 0 127 mode false (dyadic m e).1 (dyadic m e).2 l draw =
      (1 + b2n up, decide ((inUnits (dyadic m e).1 (dyadic m e).2 l).2.1 = 0)) := by
    rw [← hru]
    conv_rhs => rw [← hk]
    rfl
  have hexact : (inUnits (dyadic m e).1 (dyadic m e).2 l).2.1 = 0 ↔ u = 0 := by
    rw [inUnits_exact hd l, hk, hx, Nat.cast_one, one_mul]
    show _ ↔ m * 2 ^ e / 2 ^ l - 1 = (0 : ℚ)
    rw [sub_eq_zero, div_eq_one_iff_eq hpos.ne', eq_comm]
  rw [hround, if_neg (not_lt.2 hlow), hr]
  have ht : (l + if 2 ≤ 1 + b2n up then 1 else 0) = t := by cases up <;> rfl
  dsimp only
  have hexact' : decide ((inUnits (dyadic m e).1 (dyadic m e).2 l).2.1 = 0) = decide (u = 0) := decide_eq_decide.2 hexact
  rw [ht, hexact']
  by_cases hu : u = 0 <;> simp [hu, flIf]

/-- Rounding to an integer (R72, R80). -/
theorem roundInt_fin {mode : Rnd} {draw m k : Nat} {e : Int} {neg up : Bool} (hw : draw < 65536) (h1 : (k : ℚ) ≤ m * 2 ^ e) (h2 : (m : ℚ) * 2 ^ e < k + 1)
    (hup : up = true ↔ takesLarger mode neg (k % 2 = 1) (m * 2 ^ e - k) draw) :
    roundInt mode draw neg m e = ((if neg then -1 else 1) * ((k : Int) + if up then 1 else 0), decide ((m : ℚ) * 2 ^ e = k)) := by
  have hd : 0 < (dyadic m e).2 := (dyadic_pos Nat.one_pos e).2
  have hx := dyadic_rat m e
  have hunits : inUnits (dyadic m e).1 (dyadic m e).2 0 = ((dyadic m e).1 / (dyadic m e).2, (dyadic m e).1 % (dyadic m e).2, (dyadic m e).2) := by
    simp [inUnits]
  have hk : (inUnits (dyadic m e).1 (dyadic m e).2 0).1 = k := by
    refine inUnits_unique hd ?_ ?_ <;> rw [hx, zpow_zero, mul_one] <;> assumption
  have heven : decide (k % 2 = 0) = true ↔ ¬ k % 2 = 1 := by
    rw [decide_eq_true_eq]
    omega
  have hru := roundsUp_inUnits mode neg _ heven hd hw hk
  have hexact := inUnits_exact (n := (dyadic m e).1) hd 0
  rw [hk, zpow_zero, mul_one, hx] at hexact
  rw [hx, zpow_zero, div_one, ← hup, ← Bool.eq_iff_iff] at hru
  rw [hunits] at hk hru hexact
  dsimp only at hk hru hexact
  have hround : roundInt mode draw neg m e =
      (if neg then -((k + b2n up : Nat) : Int) else ((k + b2n up : Nat) : Int), decide ((dyadic m e).1 % (dyadic m e).2 = 0)) := by
    unfold roundInt
    dsimp only
    rw [hk, hru]
  have hexact' : decide ((dyadic m e).1 % (dyadic m e).2 = 0) = decide ((m : ℚ) * 2 ^ e = k) := decide_eq_decide.2 (hexact.trans eq_comm)
  rw [hround, hexact']
  cases neg <;> cases up <;> simp [b2n]

/-! ### The exact product and sum -/

theorem mulFV_rat {x y : FV} {a b : ℚ} (hx : x.rat = some a) (hy : y.rat = some b) : (mulFV x y).bind FV.rat = some (a * b) := by
  cases x with
  | nan s => cases hx
  | inf s => cases hx
  | fin s m e =>
    cases y with
    | nan t => cases hy
    | inf t => cases hy
    | fin t n f =>
      rw [FV.rat, Option.some_inj] at hx hy
      show (FV.fin (s ^^ t) (m * n) (e + f)).rat = _
      rw [FV.rat, Option.some_inj, ← hx, ← hy, zpow_add₀ (by norm_num)]
      cases s <;> cases t <;> push_cast <;> simp <;> ring

theorem foldl_add_eq (g : FV → Int) (l : List FV) (a : Int) : l.foldl (fun s x => s + g x) a = a + (l.map g).sum := by
  induction l generalizing a with
  | nil => exact (add_zero a).symm
  | cons x xs ih => rw [List.foldl_cons, ih, List.map_cons, List.sum_cons, add_assoc]

/-- The exponent of a finite value, or 0. -/
def FV.exp : FV → Int
  | .fin _ _ e => e
  | _ => 0

/-- A least exponent is no larger than what it began with, nor than any value's. -/
theorem foldl_minExp_le (l : List FV) (k : Int) :
    let r := l.foldl (fun k x => match x with
      | .fin _ _ e => min k e
      | _ => k) k
    r ≤ k ∧ ∀ n m e, FV.fin n m e ∈ l → r ≤ e := by
  induction l generalizing k with
  | nil => exact ⟨le_rfl, fun _ _ _ h => absurd h List.not_mem_nil⟩
  | cons x xs ih =>
    obtain ⟨h1, h2⟩ := ih (match x with
      | .fin _ _ e => min k e
      | _ => k)
    refine ⟨h1.trans ?_, fun n m e hmem => ?_⟩
    · cases x with
      | fin n m e => exact min_le_left k e
      | nan s => exact le_rfl
      | inf s => exact le_rfl
    · rcases List.mem_cons.1 hmem with rfl | h
      · exact h1.trans (min_le_right k e)
      · exact h2 n m e h

theorem minExp_le {l : List FV} {n : Bool} {m : Nat} {e : Int} (h : FV.fin n m e ∈ l) : minExp l ≤ e := (foldl_minExp_le l 0).2 n m e h

/-- A value in units of an exponent no larger than its own. -/
theorem at_rat {x : FV} {r : ℚ} {e0 : Int} (hx : x.rat = some r) (he : ∀ n m e, x = .fin n m e → e0 ≤ e) : ((x.at e0 : Int) : ℚ) * 2 ^ e0 = r := by
  cases x with
  | nan s => cases hx
  | inf s => cases hx
  | fin n m e =>
    have hle := he n m e rfl
    rw [FV.rat, Option.some_inj] at hx
    have hpow : (2 : ℚ) ^ (e - e0).toNat * 2 ^ e0 = 2 ^ e := by
      rw [← zpow_natCast, ← zpow_add₀ (by norm_num)]
      congr 1
      omega
    rw [← hx, ← hpow]
    unfold FV.at
    push_cast
    cases n <;> simp <;> ring

/-- The terms in units of one exponent add up to the sum. -/
theorem sum_at_rat {e0 : Int} : ∀ {l : List FV} {rs : List ℚ}, l.map FV.rat = rs.map some → (∀ n m e, FV.fin n m e ∈ l → e0 ≤ e) →
    (((l.map fun x => x.at e0).sum : Int) : ℚ) * 2 ^ e0 = rs.sum
  | [], [], _, _ => by simp
  | x :: xs, r :: rs, h, he => by
    rw [List.map_cons, List.map_cons, List.cons.injEq] at h
    obtain ⟨hx, hxs⟩ := h
    rw [List.map_cons, List.sum_cons, List.sum_cons, Int.cast_add, add_mul, at_rat hx fun n m e h => he n m e (h ▸ List.mem_cons_self),
      sum_at_rat hxs fun n m e h => he n m e (List.mem_cons_of_mem _ h)]

/-- A sum of finite values is exact, and an exact zero's sign is that of R65. -/
theorem sumFin_rat (mode : Rnd) {l : List FV} {rs : List ℚ} (h : l.map FV.rat = rs.map some) : (sumFin mode l).rat = some rs.sum ∧
    (rs.sum = 0 → sumFin mode l = .fin (l.all FV.neg || (l.any FV.neg && mode == .rdn)) 0 0) := by
  have hs := sum_at_rat h fun n m e hmem => minExp_le hmem
  have hpos := two_zpow_pos (minExp l)
  have hfold : l.foldl (fun s x => s + x.at (minExp l)) 0 = (l.map fun x : FV => x.at (minExp l)).sum := (foldl_add_eq _ l 0).trans (zero_add _)
  have heq : sumFin mode l =
      if (l.map fun x : FV => x.at (minExp l)).sum = 0 then .fin (if l.all FV.neg then true else if l.any FV.neg then mode = .rdn else false) 0 0
      else .fin (decide ((l.map fun x : FV => x.at (minExp l)).sum < 0)) (l.map fun x : FV => x.at (minExp l)).sum.natAbs (minExp l) := by
    rw [← hfold]
    rfl
  generalize (l.map fun x : FV => x.at (minExp l)).sum = s at hs heq
  rw [heq]
  by_cases h0 : s = 0
  · rw [if_pos h0]
    rw [h0, Int.cast_zero, zero_mul] at hs
    refine ⟨by rw [FV.rat, ← hs]; simp, fun _ => ?_⟩
    congr 1
    cases l.all FV.neg <;> cases l.any FV.neg <;> cases mode <;> rfl
  · rw [if_neg h0]
    constructor
    · rw [FV.rat, Option.some_inj, ← hs]
      congr 1
      by_cases hneg : s < 0
      · have : ((s.natAbs : Int) : ℚ) = ((-s : Int) : ℚ) := by rw [Int.ofNat_natAbs_of_nonpos hneg.le]
        rw [Int.cast_natCast] at this
        rw [this, decide_eq_true hneg, if_pos rfl]
        push_cast
        ring
      · have : ((s.natAbs : Int) : ℚ) = ((s : Int) : ℚ) := by rw [Int.natAbs_of_nonneg (not_lt.1 hneg)]
        rw [Int.cast_natCast] at this
        rw [this, decide_eq_false hneg, if_neg Bool.false_ne_true, one_mul]
    · intro hz
      rw [← hs] at hz
      exact absurd (by exact_mod_cast (mul_eq_zero.1 hz).resolve_right hpos.ne') h0

/-- Settles O59. -/
theorem roundsAsSaid : Obligations.RoundsAsSaid := by
  unfold Obligations.RoundsAsSaid
  refine ⟨?_, ?_, ?_, ?_, e2m1_codes.rounds, fun signed ext p _ hp => (b8_codes hp).rounds, fun mode draw m e l hm hw h1 h2 => roundE8_fin hm hw h1 h2,
    fun mode draw m k e neg up hw h1 h2 hup => roundInt_fin hw h1 h2 hup, fun x y a b hx hy => mulFV_rat hx hy, fun mode l rs h => sumFin_rat mode h⟩
  · exact (ieee_codes (w := 5) (m := 10) (by norm_num) (by norm_num) (by norm_num) (by norm_num)).rounds
  · exact (ieee_codes (w := 8) (m := 7) (by norm_num) (by norm_num) (by norm_num) (by norm_num)).rounds
  · exact (ieee_codes (w := 8) (m := 23) (by norm_num) (by norm_num) (by norm_num) (by norm_num)).rounds
  · exact (ieee_codes (w := 11) (m := 52) (by norm_num) (by norm_num) (by norm_num) (by norm_num)).rounds

end Sys2Proof.Machine
end

section
/-! SUPPORT. The shape of squads and L2 (R2, R97, R232, R233): the list of squads is compared as data. -/
namespace Sys2Proof.Machine

/-- A squad that has ended and whose image is still to be written. -/
def endedSquad : Squad := { group := 2, state := .ended, ending := true }

/-- A squad that is Ready and not in its core. -/
def readySquad : Squad := { group := 2, state := .ready }

/-- A device that lists two squads under one number, as `Dev` admits them, and whose next turn activates a squad of core 0. -/
def twiceListed : Dev :=
  { State.reset.dev with squads := [(1, endedSquad), (1, readySquad)], groups := [(2, { base := some 0 })], turns := [.event (.squadActivation 0)] }

theorem endedSquad_legal : endedSquad.legal := ⟨fun _ hp => absurd hp List.not_mem_nil, fun _ hp => absurd hp List.not_mem_nil, fun _ hp => absurd hp List.not_mem_nil, fun _ => rfl⟩

theorem readySquad_legal : readySquad.legal := ⟨fun _ hp => absurd hp List.not_mem_nil, fun _ hp => absurd hp List.not_mem_nil, fun _ hp => absurd hp List.not_mem_nil, fun h => absurd h Bool.false_ne_true⟩

theorem twiceListed_legal : twiceListed.legal := by
  refine ⟨fun p hp => ?_, l2Legal_nil rfl⟩
  rcases List.mem_cons.1 hp with rfl | hp
  · exact endedSquad_legal
  · rw [List.mem_singleton.1 hp]
    exact readySquad_legal

/-- The squad that a device lists first, after a step. -/
def firstAfter (s : State) : Option (CState × Bool) :=
  match step s with
  | .next t => t.dev.squads.head?.map fun p => (p.2.state, p.2.ending)
  | _ => none

/-- The Ready squad's turn to be activated comes, its context's page is absent, and the squad listed first under its number is Held. -/
theorem firstAfter_twiceListed : firstAfter { State.reset with dev := twiceListed } = some (.held, true) := by decide +kernel

/-- A step after which the squad listed first is Held with its image still to be written does not keep the shape. -/
theorem not_legal_of_firstAfter {s : State} (h : firstAfter s = some (.held, true)) : ∃ t, step s = .next t ∧ ¬ t.dev.legal := by
  unfold firstAfter at h
  split at h
  · next t ht =>
    obtain ⟨p, hp, hpair⟩ := Option.map_eq_some_iff.1 h
    obtain ⟨hheld, hending⟩ := Prod.mk.inj hpair
    refine ⟨t, ht, fun hl => ?_⟩
    have hended := (hl.squads p (List.mem_of_head? hp)).ending hending
    rw [hheld] at hended
    cases hended
  · cases h

/-- Refutes O60. The shape does not ask that a squad's number stands once in the list of squads. Where an ended squad whose image is still to be written and a
Ready one stand under one number, the Ready one makes the number eligible for activation, and the refusal of its context (R261) makes the first one Held. -/
theorem not_shapeStays : ¬ Obligations.ShapeStays := by
  unfold Obligations.ShapeStays
  rintro ⟨-, hkeeps⟩
  obtain ⟨t, hstep, hbad⟩ := not_legal_of_firstAfter firstAfter_twiceListed
  exact hbad (hkeeps _ t twiceListed_legal hstep)

end Sys2Proof.Machine
end
